-- ==== Sys2Proof/Word.lean ====
section
/-! DEFINITION. The words of the machine: a byte, a 64-bit scalar, a 72-bit virtual address, a 4096-bit vector (R12, R124, R144), and their plainest arithmetic. -/
namespace Sys2Proof

/-- One byte (R1). -/
abbrev Byte := BitVec 8
/-- A scalar register's contents (R124). -/
abbrev W64 := BitVec 64
/-- A virtual address or an address register's contents (R124). -/
abbrev W72 := BitVec 72
/-- A vector register's contents (R144). -/
abbrev Vec := BitVec 4096
/-- A predicate register's contents (R145). -/
abbrev Pred := BitVec 512

/-- The smallest number of `u`-sized parts that cover `n`. -/
def ceilDiv (n u : Nat) : Nat := (n + u - 1) / u

end Sys2Proof
end

