-- ==== Sys2Proof/Syntax.lean ====
section
/-! DEFINITION. The instruction set as syntax: slot formats (R61), micro-word formats (R231), what the transitions without an encoding name, and `Instr`, one constructor for each row of the opcode table. -/
namespace Sys2Proof

/-- Format SR (R61). -/
structure SR where
  d : BitVec 6
  a : BitVec 6
  b : BitVec 6
  deriving DecidableEq, Repr
/-- Format SI (R61). -/
structure SI where
  d : BitVec 6
  a : BitVec 6
  imm : BitVec 39
  deriving DecidableEq, Repr
/-- Format SW (R61). -/
structure SW where
  d : BitVec 6
  imm : BitVec 45
  deriving DecidableEq, Repr
/-- Format SB (R61): the target counts bundles. -/
structure SB where
  a : BitVec 6
  lc : BitVec 2
  target : BitVec 39
  deriving DecidableEq, Repr
/-- Format SF (R61). -/
structure SF where
  eng : BitVec 3
  h : BitVec 2
  fld : BitVec 4
  s : BitVec 6
  imm : BitVec 36
  deriving DecidableEq, Repr
/-- Format SY (R61). -/
structure SY where
  d : BitVec 6
  sysreg : BitVec 12
  deriving DecidableEq, Repr
/-- Format VR (R61, R62). -/
structure VR where
  p : BitVec 4
  ty : BitVec 4
  rm : BitVec 2
  sat : BitVec 1
  vd : BitVec 10
  va : BitVec 10
  vb : BitVec 10
  vc : BitVec 10
  deriving DecidableEq, Repr
/-- Format VI (R61): imm20 in place of vb and vc. -/
structure VI where
  p : BitVec 4
  ty : BitVec 4
  rm : BitVec 2
  sat : BitVec 1
  vd : BitVec 10
  va : BitVec 10
  imm : BitVec 20
  deriving DecidableEq, Repr
/-- Format VS (R61): an s register in place of vb. -/
structure VS where
  p : BitVec 4
  ty : BitVec 4
  rm : BitVec 2
  sat : BitVec 1
  vd : BitVec 10
  va : BitVec 10
  s : BitVec 6
  vc : BitVec 10
  deriving DecidableEq, Repr
/-- Format MA (R61, R63). -/
structure MA where
  ord : BitVec 2
  scope : BitVec 3
  ev : BitVec 3
  data : BitVec 10
  a : BitVec 5
  off : BitVec 22
  deriving DecidableEq, Repr
/-- Format MX (R61). -/
structure MX where
  ord : BitVec 2
  scope : BitVec 3
  ev : BitVec 3
  data : BitVec 10
  a : BitVec 5
  s : BitVec 6
  sc : BitVec 3
  deriving DecidableEq, Repr
/-- Format MP (R61). -/
structure MP where
  ord : BitVec 2
  scope : BitVec 3
  ev : BitVec 3
  data : BitVec 10
  b : BitVec 4
  hs : BitVec 2
  off : BitVec 20
  deriving DecidableEq, Repr
/-- Format MG (R61). -/
structure MG where
  ord : BitVec 2
  scope : BitVec 3
  ev : BitVec 3
  data : BitVec 10
  b : BitVec 4
  hs : BitVec 2
  vi : BitVec 10
  off : BitVec 11
  deriving DecidableEq, Repr
/-- Format MT (R61), the atomics. -/
structure MT where
  ord : BitVec 2
  scope : BitVec 3
  ev : BitVec 3
  d : BitVec 6
  x : BitVec 6
  y : BitVec 6
  a : BitVec 5
  off : BitVec 14
  deriving DecidableEq, Repr
/-- Format MS (R61), the matrix step. -/
structure MS where
  acc : BitVec 5
  hs : BitVec 2
  mt : BitVec 3
  ma : BitVec 3
  toff : BitVec 15
  aoff : BitVec 15
  deriving DecidableEq, Repr
/-- Format MD (R61). -/
structure MD where
  acc : BitVec 5
  hs : BitVec 2
  mp : BitVec 3
  v : BitVec 10
  imm : BitVec 23
  deriving DecidableEq, Repr
/-- Format KC (R61): da the destination, oa the origin address register. -/
structure KC where
  ch : BitVec 4
  hs : BitVec 2
  scope : BitVec 3
  da : BitVec 5
  oa : BitVec 5
  s : BitVec 6
  imm : BitVec 20
  deriving DecidableEq, Repr
/-- Format XR (R61). -/
structure XR where
  d : BitVec 4
  a : BitVec 4
  b : BitVec 4
  hs : BitVec 2
  imm : BitVec 15
  deriving DecidableEq, Repr
/-- Format XS (R61): d names the s register. -/
structure XS where
  d : BitVec 6
  x : BitVec 4
  imm : BitVec 19
  deriving DecidableEq, Repr
/-- Format XV (R61). -/
structure XV where
  ix : BitVec 4
  v : BitVec 10
  p : BitVec 4
  imm : BitVec 11
  deriving DecidableEq, Repr
/-- Format YB (R61). -/
structure YB where
  nb : BitVec 6
  s : BitVec 6
  imm : BitVec 17
  deriving DecidableEq, Repr
/-- Format YM (R61): off12 counts 128-byte lines. -/
structure YM where
  scope : BitVec 3
  ev : BitVec 3
  a : BitVec 5
  s : BitVec 6
  off : BitVec 12
  deriving DecidableEq, Repr
/-- Format YW (R61). -/
structure YW where
  s : BitVec 6
  mask : BitVec 16
  imm : BitVec 7
  deriving DecidableEq, Repr
/-- Micro format UA (R231). -/
structure UA where
  d : BitVec 4
  a : BitVec 4
  b : BitVec 4
  imm : BitVec 41
  deriving DecidableEq, Repr
/-- Micro format UO (R231). -/
structure UO where
  d : BitVec 4
  sx : BitVec 1
  lo : BitVec 6
  n : BitVec 6
  deriving DecidableEq, Repr
/-- Micro format UP (R231). -/
structure UP where
  d : BitVec 4
  mp : BitVec 3
  deriving DecidableEq, Repr
/-- Micro format UL (R231). -/
structure UL where
  n : BitVec 2
  a : BitVec 4
  ec : BitVec 4
  r : BitVec 1
  disp : BitVec 10
  deriving DecidableEq, Repr
/-- Micro format UM (R231). -/
structure UM where
  t : BitVec 4
  a : BitVec 4
  h : BitVec 2
  deriving DecidableEq, Repr
/-- Micro format UC of `uring` (R234): the eight ring bits. -/
structure UR where
  ring : BitVec 8
  deriving DecidableEq, Repr
/-- Micro format UC of `uacc` and `uaca` (R238): a 5-bit base or count and the window's 6-bit count. -/
structure UK where
  n : BitVec 5
  cnt : BitVec 6
  deriving DecidableEq, Repr

/-- The scalar global loads that may carry ord acq (R170, R171), in opcode order. -/
inductive LdKind where
  | i8 | i16 | i32 | n8 | n16 | n32 | n64 | a
  deriving DecidableEq, Repr
/-- The scalar global stores that may carry ord rel (R170, R172), in opcode order. -/
inductive StKind where
  | n8 | n16 | n32 | n64 | a
  deriving DecidableEq, Repr
/-- How a remote write, put or get ended (R111, R122, R269). -/
inductive RemoteResult where
  | ok (data : List Byte) | dead | refused | poison
  deriving DecidableEq, Repr
/-- What a host's CXL read of a sector asks to hold (R331). -/
inductive HostWant where
  | none | shared | exclusive
  deriving DecidableEq, Repr
/-- A link's state (R403). -/
inductive LinkState where
  | down | degraded | up
  deriving DecidableEq, Repr
/-- How a link's training ended (R403): it failed, it reached its target, or, for a CXL port, the width and the rate in GT/s that it reached. -/
inductive LinkResult where
  | fail | full | port (width rate : Nat)
  deriving DecidableEq, Repr
/-- The SRAM structures of R374. -/
inductive SramKind where
  | registerFile | scratchpadBank | l1 | l2Slice | stitchStore | tagArray
  deriving DecidableEq, Repr
/-- An error location (R374). -/
inductive ErrLoc where
  | hbmRow (die stack channel bank row : Nat)
  | sramColumn (kind : SramKind) (owner column : Nat)
  | array (core arr : Nat)
  deriving DecidableEq, Repr
/-- One 64-byte entry of a partition's queue table, as the management controller writes it (R336). -/
structure QueueRec where
  base : Nat
  size : Nat
  ep : Nat
  cbase : Nat
  csize : Nat
  chost : Nat
  deriving DecidableEq, Repr
/-- The kinds of a remote window (R329). -/
inductive WindowKind where
  | pool | host | peer
  deriving DecidableEq, Repr
/-- One window of the remote range (R329). -/
structure Window where
  base : Nat
  size : Nat
  port : Nat
  kind : WindowKind
  owner : Nat
  deriving DecidableEq, Repr
/-- A partition record (R358), with the queue table, the supervisor context and the windows that the management controller writes beside it (R329, R336, R358). -/
structure PartRec where
  clusters : BitVec 32
  label : BitVec 64
  ring : List (BitVec 64)
  share : List Nat
  frames : Nat
  capbuf : Nat
  qpFirst : Nat
  qpCount : Nat
  netres : Nat
  ctxmax : Nat
  epi : Nat
  budget : Nat
  slice : Nat
  migthr : Nat
  ctlbase : Nat
  queues : List QueueRec
  supRoot : Nat
  supSave : Nat
  supSlots : Nat
  windows : List Window
  exposed : Option (Nat × Nat)
  deriving DecidableEq, Repr

/-- What the signed configuration of boot stage 3 names (R401): the windows of the remote range, without owners, and the exposed window. -/
structure BootCfg where
  windows : List Window
  exposed : Option (Nat × Nat)
  deriving DecidableEq, Repr

/-- A guard field (R56): the invert bit and the guard register. -/
structure Guard where
  inv : Bool
  n : BitVec 4
  deriving DecidableEq, Repr

/-- Every transition of the machine, one constructor for each row of the opcode table. -/
inductive Instr where
  /-- R23: A slot no-op that does nothing in any slot. -/
  | nop
  /-- R127: Scalar add modulo 2^64. -/
  | add (f : SR)
  /-- R127: Scalar subtract modulo 2^64. -/
  | sub (f : SR)
  /-- R127: Scalar bitwise AND. -/
  | and (f : SR)
  /-- R127: Scalar bitwise OR. -/
  | or (f : SR)
  /-- R127: Scalar bitwise XOR. -/
  | xor (f : SR)
  /-- R127: Scalar AND with the complement of the second operand. -/
  | andn (f : SR)
  /-- R127: Scalar left shift by register count bits 5:0. -/
  | shl (f : SR)
  /-- R127: Scalar logical right shift by register count. -/
  | shr (f : SR)
  /-- R127: Scalar arithmetic right shift by register count. -/
  | sar (f : SR)
  /-- R127: Scalar rotate left by register count. -/
  | rotl (f : SR)
  /-- R127: Signed scalar minimum. -/
  | minI64 (f : SR)
  /-- R127: Signed scalar maximum. -/
  | maxI64 (f : SR)
  /-- R127: Unsigned scalar minimum. -/
  | minN64 (f : SR)
  /-- R127: Unsigned scalar maximum. -/
  | maxN64 (f : SR)
  /-- R127: Scalar multiply modulo 2^64 with latency 3. -/
  | mul (f : SR)
  /-- R127: High 64 bits of the signed 128-bit product. -/
  | mulhI64 (f : SR)
  /-- R127: High 64 bits of the unsigned 128-bit product. -/
  | mulhN64 (f : SR)
  /-- R129: Signed 32-bit division, with divide-by-zero trap under dze. -/
  | divI32 (f : SR)
  /-- R129: Unsigned 32-bit division. -/
  | divN32 (f : SR)
  /-- R129: Signed 64-bit division. -/
  | divI64 (f : SR)
  /-- R129: Unsigned 64-bit division. -/
  | divN64 (f : SR)
  /-- R129: Signed 32-bit remainder. -/
  | remI32 (f : SR)
  /-- R129: Unsigned 32-bit remainder. -/
  | remN32 (f : SR)
  /-- R129: Signed 64-bit remainder. -/
  | remI64 (f : SR)
  /-- R129: Unsigned 64-bit remainder. -/
  | remN64 (f : SR)
  /-- R128: Scalar add of a sign-extended 39-bit immediate. -/
  | addi (f : SI)
  /-- R128: Scalar AND with an immediate. -/
  | andi (f : SI)
  /-- R128: Scalar OR with an immediate. -/
  | ori (f : SI)
  /-- R128: Scalar XOR with an immediate. -/
  | xori (f : SI)
  /-- R128: Scalar left shift by an immediate count. -/
  | shli (f : SI)
  /-- R128: Scalar logical right shift by an immediate count. -/
  | shri (f : SI)
  /-- R128: Scalar arithmetic right shift by an immediate count. -/
  | sari (f : SI)
  /-- R128: Scalar multiply by an immediate. -/
  | muli (f : SI)
  /-- R128: Signed minimum with an immediate. -/
  | miniI64 (f : SI)
  /-- R128: Signed maximum with an immediate. -/
  | maxiI64 (f : SI)
  /-- R128: Sign-extends the low n bits of a scalar. -/
  | sexti (f : SI)
  /-- R128: Zero-extends the low n bits of a scalar. -/
  | zexti (f : SI)
  /-- R131: Loads a sign-extended 45-bit immediate into a scalar. -/
  | li (f : SW)
  /-- R131: Sets scalar bits 63:45 from an immediate and keeps bits 44:0. -/
  | lih (f : SW)
  /-- R131: Loads a sign-extended 45-bit immediate into an address register. -/
  | ali (f : SW)
  /-- R131: Sets address register bits 71:45 from an immediate. -/
  | alih (f : SW)
  /-- R132: Sets a guard to whether two scalars are equal. -/
  | ceq (f : SR)
  /-- R132: Sets a guard to whether two scalars differ. -/
  | cne (f : SR)
  /-- R132: Sets a guard on a signed less-than. -/
  | cltI64 (f : SR)
  /-- R132: Sets a guard on an unsigned less-than. -/
  | cltN64 (f : SR)
  /-- R132: Sets a guard on a signed less-or-equal. -/
  | cleI64 (f : SR)
  /-- R132: Sets a guard on an unsigned less-or-equal. -/
  | cleN64 (f : SR)
  /-- R132: Sets a guard to whether the AND of two scalars is nonzero. -/
  | ctst (f : SR)
  /-- R132: Sets a guard to whether a scalar is nonzero. -/
  | cnz (f : SR)
  /-- R132: Guard compare for equality with an immediate. -/
  | ceqi (f : SI)
  /-- R132: Guard compare for inequality with an immediate. -/
  | cnei (f : SI)
  /-- R132: Signed less-than compare with an immediate. -/
  | cltiI64 (f : SI)
  /-- R132: Unsigned less-than compare with an immediate. -/
  | cltiN64 (f : SI)
  /-- R132: Signed less-or-equal compare with an immediate. -/
  | cleiI64 (f : SI)
  /-- R132: Unsigned less-or-equal compare with an immediate. -/
  | cleiN64 (f : SI)
  /-- R132: Sets a guard to one bit of a scalar. -/
  | ctsb (f : SI)
  /-- R133: Guard AND. -/
  | gand (f : SR)
  /-- R133: Guard OR. -/
  | gor (f : SR)
  /-- R133: Guard XOR. -/
  | gxor (f : SR)
  /-- R133: Guard AND NOT. -/
  | gandn (f : SR)
  /-- R133: Copies all guards into a scalar. -/
  | gtos (f : SR)
  /-- R133: Writes guards g1 to g15 from a scalar. -/
  | stog (f : SR)
  /-- R134: Adds a sign-extended scalar to an address register modulo 2^72. -/
  | aadd (f : SR)
  /-- R134: Adds an immediate to an address register. -/
  | aaddi (f : SI)
  /-- R134: Subtracts a scalar from an address register. -/
  | asub (f : SR)
  /-- R134: Clamped signed difference of two address registers into a scalar. -/
  | adiff (f : SR)
  /-- R134: Zero-extends a scalar into an address register. -/
  | amov (f : SR)
  /-- R134: Copies the low or high part of an address register into a scalar. -/
  | atos (f : SR)
  /-- R135: Sets a scratchpad base register. -/
  | bset (f : SI)
  /-- R135: Reads a scratchpad base register into a scalar. -/
  | bget (f : SI)
  /-- R135: Sets a loop counter. -/
  | lcset (f : SI)
  /-- R135: Reads a loop counter. -/
  | lcget (f : SI)
  /-- R135: Sets a matrix parameter register. -/
  | mpset (f : SI)
  /-- R135: Reads a matrix parameter register into an address register. -/
  | mpget (f : SI)
  /-- R135: Reads a tile status register into a scalar. -/
  | tsrd (f : SR)
  /-- R136: Writes one field of a shadow shape register. -/
  | shset (f : SF)
  /-- R137: Branches relative to the bundle. -/
  | br (f : SB)
  /-- R137: Relative call that writes the return address to a31. -/
  | call (f : SB)
  /-- R137: Branches to an address register. -/
  | ret (f : SB)
  /-- R137: Branches to an address register plus an offset. -/
  | brs (f : SB)
  /-- R137: Register call that writes a31. -/
  | calls (f : SB)
  /-- R140: Loop branch that counts, rotates stage predicates and bases, and honours clamp. -/
  | lbr (f : SB)
  /-- R314: Reads a system register into a scalar. -/
  | sysrd (f : SY)
  /-- R314: Writes a system register, committing its region. -/
  | syswr (f : SY)
  /-- R315: Takes a boundary trap with code 0x05 and the immediate in taddr. -/
  | trap (f : SI)
  /-- R316: Returns from trap level 1 or 2. -/
  | tret (f : SR)
  /-- R317: Ends the core's part of its stage task after draining. -/
  | idle (f : SR)
  /-- R318: Removes the translation of one page from every TLB of the module. -/
  | tlbinvVa (f : SR)
  /-- R318: Removes every translation of a context. -/
  | tlbinvCtx (f : SR)
  /-- R318: Removes every translation of the partition's contexts. -/
  | tlbinvAll (f : SR)
  /-- R333: Flips an exposed-window page to device bias. -/
  | biasDev (f : SI)
  /-- R333: Flips an exposed-window page to host bias. -/
  | biasHost (f : SI)
  /-- R248: Hands a stitch record to the hub validator and places it. -/
  | stitchIns (f : SR)
  /-- R225: Writes a pattern-table entry binding a stitch opcode. -/
  | stitchBind (f : SR)
  /-- R249: Clears the valid bit of a pattern-table entry. -/
  | stitchUnbind (f : SR)
  /-- R249: Frees an unbound stitch's words once no entry uses them. -/
  | stitchDrop (f : SR)
  /-- R318: Ends a context, clearing its stitch state, translations and meters. -/
  | ctxEnd (f : SR)
  /-- R170: Sign-extending 1-byte global load. -/
  | ldI8 (f : MA)
  /-- R170: Sign-extending 2-byte global load. -/
  | ldI16 (f : MA)
  /-- R170: Sign-extending 4-byte global load. -/
  | ldI32 (f : MA)
  /-- R170: Zero-extending 1-byte global load. -/
  | ldN8 (f : MA)
  /-- R170: Zero-extending 2-byte global load. -/
  | ldN16 (f : MA)
  /-- R170: Zero-extending 4-byte global load. -/
  | ldN32 (f : MA)
  /-- R170: 8-byte global load. -/
  | ldN64 (f : MA)
  /-- R170: Loads an address register from 16 bytes. -/
  | lda (f : MA)
  /-- R171: A load with ord acq that acquires on its line and absorbs the wake. -/
  | ldAcq (k : LdKind) (f : MA)
  /-- R170: Loads 512 bytes into a vector register. -/
  | vld (f : MA)
  /-- R170: Vector load with scaled scalar index. -/
  | vldx (f : MX)
  /-- R170: 1-byte global store. -/
  | stN8 (f : MA)
  /-- R170: 2-byte global store. -/
  | stN16 (f : MA)
  /-- R170: 4-byte global store. -/
  | stN32 (f : MA)
  /-- R170: 8-byte global store. -/
  | stN64 (f : MA)
  /-- R170: Stores an address register as 16 bytes. -/
  | sta (f : MA)
  /-- R172: A store with ord rel that releases in or mode on its line. -/
  | stRel (k : StKind) (f : MA)
  /-- R170: Stores 512 bytes of a vector register. -/
  | vst (f : MA)
  /-- R170: Vector store with scaled scalar index. -/
  | vstx (f : MX)
  /-- R169: Scratchpad vector load. -/
  | svld (f : MP)
  /-- R169: Strided scratchpad vector load. -/
  | svlds (f : MP)
  /-- R169: Scratchpad gather. -/
  | svgth (f : MG)
  /-- R169: Scratchpad 8-byte scalar load. -/
  | sld (f : MP)
  /-- R169: Scratchpad vector store. -/
  | svst (f : MP)
  /-- R169: Strided scratchpad vector store. -/
  | svsts (f : MP)
  /-- R169: Scratchpad scatter. -/
  | svsct (f : MG)
  /-- R169: Scratchpad 8-byte scalar store. -/
  | sst (f : MP)
  /-- R175: Reads a block descriptor. -/
  | ldesc (f : MA)
  /-- R175: Writes a block descriptor at its home. -/
  | sdesc (f : MA)
  /-- R178: Prefetches a line without fault. -/
  | pref (f : MA)
  /-- R178: Discards a line's dirty bytes and invalidates it. -/
  | cinv (f : MA)
  /-- R178: Writes back and invalidates a line. -/
  | cflush (f : MA)
  /-- R178: Writes back a line and keeps it clean. -/
  | cwb (f : MA)
  /-- R176: Atomic add. -/
  | atmAdd (f : MT)
  /-- R176: Atomic AND. -/
  | atmAnd (f : MT)
  /-- R176: Atomic OR. -/
  | atmOr (f : MT)
  /-- R176: Atomic XOR. -/
  | atmXor (f : MT)
  /-- R176: Atomic signed minimum. -/
  | atmMinI64 (f : MT)
  /-- R176: Atomic signed maximum. -/
  | atmMaxI64 (f : MT)
  /-- R176: Atomic unsigned minimum. -/
  | atmMinN64 (f : MT)
  /-- R176: Atomic unsigned maximum. -/
  | atmMaxN64 (f : MT)
  /-- R176: Atomic swap. -/
  | atmSwp (f : MT)
  /-- R176: Atomic compare-and-swap. -/
  | atmCas (f : MT)
  /-- R176: Atomic FP32 add. -/
  | atmFaddF32 (f : MT)
  /-- R184: Index register add. -/
  | xadd (f : XR)
  /-- R184: Index register subtract. -/
  | xsub (f : XR)
  /-- R184: Index register AND. -/
  | xand (f : XR)
  /-- R184: Index register left shift. -/
  | xshl (f : XR)
  /-- R184: Index register right shift. -/
  | xshr (f : XR)
  /-- R184: Counts set bits below a position. -/
  | xpopc (f : XR)
  /-- R184: Index register add of an immediate. -/
  | xaddi (f : XR)
  /-- R185: Index compare yielding an all-ones mask. -/
  | xcmp (f : XR)
  /-- R185: Bitwise select between two index registers. -/
  | xsel (f : XR)
  /-- R189: One merge step of two sorted cursors. -/
  | xadv (f : XR)
  /-- R190: Expands 2:4 group metadata into gather indices and a predicate. -/
  | xexp (f : XV)
  /-- R187: Loads one element through an index shape. -/
  | xld (f : XR)
  /-- R186: Moves a scalar into an index register. -/
  | xfroms (f : XS)
  /-- R186: Moves an index register into a scalar. -/
  | xtos (f : XS)
  /-- R186: Writes an index register into a 64-bit vector lane. -/
  | xtov (f : XV)
  /-- R201: Queues a matrix step of 16 activation rows by a weight tile. -/
  | mstep (f : MS)
  /-- R207: Zeroes an accumulator. -/
  | mzero (f : MD)
  /-- R208: Drains an accumulator through the epilogue to memory. -/
  | mdrain (f : MD)
  /-- R208: Drains an accumulator into vector registers. -/
  | mdrainV (f : MD)
  /-- R214: Pins a tile group, filling it first if needed. -/
  | mpin (f : MD)
  /-- R214: Releases a tile pin. -/
  | munpin (f : MD)
  /-- R214: Invalidates a tile group. -/
  | minv (f : MD)
  /-- R214: Fills and replicates a tile to n instances. -/
  | mrepl (f : MD)
  /-- R215: Replaces one tile row in memory and in every valid instance. -/
  | mwrite (f : MD)
  /-- R217: Places an expert prefetch request in the prefetch queue. -/
  | mpref (f : MD)
  /-- R217: Drops prefetch requests of one id. -/
  | mcancelId (f : MD)
  /-- R217: Drops every prefetch request. -/
  | mcancelAll (f : MD)
  /-- R217: Abandons the faulting command and later entries of a frozen engine. -/
  | mcancelFlush (f : MD)
  /-- R212: Sets k and the column base of the top-k unit and empties it. -/
  | mtopkSet (f : MD)
  /-- R212: Writes the top-k results to memory. -/
  | mtopkGet (f : MD)
  /-- R218: Reads a tile's cache state into a scalar. -/
  | mstatTile (f : MD)
  /-- R218: Reads matrix engine state into a scalar. -/
  | mstatEngine (f : MD)
  /-- R219: Runs a built-in stitch from bank 0. -/
  | mcall (f : MD)
  /-- R210: Clears a tile status register in queue order. -/
  | mtsclr (f : MD)
  /-- R226: A stitch-range M opcode captures its binding and operands and queues a stitch entry. -/
  | stitchOpcode (idx : BitVec 6) (opw : BitVec 43)
  /-- R234: Micro no-op. -/
  | unop
  /-- R234: Stops the sequencer. -/
  | uend
  /-- R244: Resets the yield counts and saves the microstate if pre-emption is pending. -/
  | uyield
  /-- R234: Waits for every command the stitch issued. -/
  | uwait
  /-- R234: Forward jump. -/
  | ujmp (f : UL)
  /-- R234: Forward jump if a temporary is zero. -/
  | ubz (f : UL)
  /-- R235: Opens a micro loop. -/
  | uloop (f : UL)
  /-- R235: Closes a micro loop, counting and rotating the predicate ring. -/
  | unext (f : UL)
  /-- R234: Sets the predicate ring. -/
  | uring (f : UR)
  /-- R236: Adds two temporaries. -/
  | uadd (f : UA)
  /-- R236: Adds an immediate to a temporary. -/
  | uaddi (f : UA)
  /-- R236: Multiplies a temporary by an immediate. -/
  | umuli (f : UA)
  /-- R236: Shifts a temporary left. -/
  | ushli (f : UA)
  /-- R236: ANDs a temporary with an immediate. -/
  | uandi (f : UA)
  /-- R237: Loads a field of the operand word into a temporary. -/
  | uldop (f : UO)
  /-- R237: Loads a captured mp register into a temporary. -/
  | uldmp (f : UP)
  /-- R238: Sets the accumulator window. -/
  | uacc (f : UK)
  /-- R238: Advances the accumulator window offset. -/
  | uaca (f : UK)
  /-- R238: Issues an mzero of the current accumulator. -/
  | uzero
  /-- R239: Issues a step from temporaries. -/
  | ustep (f : UM)
  /-- R240: Prefetches an activation block into the L2. -/
  | upref (f : UM)
  /-- R241: Issues a drain of the current accumulator. -/
  | udrain (f : UM)
  /-- R242: Issues an mtopk.set. -/
  | utopk (f : UM)
  /-- R242: Issues an mtopk.get. -/
  | utopkg (f : UM)
  /-- R259: Queues a shaped copy. -/
  | kcopy (f : KC)
  /-- R260: Queues a looping copy into stage buffers. -/
  | kloop (f : KC)
  /-- R261: Releases one stage buffer of a running kloop. -/
  | kstage (f : KC)
  /-- R261: Advances the static copy schedule's stage counter. -/
  | kstageSched (f : KC)
  /-- R263: Arms or disarms a watermark channel. -/
  | kwm (f : KC)
  /-- R267: Arms a scratchpad sync word. -/
  | ksync (f : KC)
  /-- R269: Sends rows to a remote endpoint by RMA write. -/
  | kput (f : KC)
  /-- R269: Reads rows from a remote endpoint. -/
  | kget (f : KC)
  /-- R270: Joins an all-reduce collective. -/
  | kcollAllReduce (f : KC)
  /-- R270: Joins an all-gather collective. -/
  | kcollAllGather (f : KC)
  /-- R270: Joins a reduce-scatter collective. -/
  | kcollReduceScatter (f : KC)
  /-- R272: Joins a broadcast collective over a relay tree. -/
  | kcollBroadcast (f : KC)
  /-- R273: Cancels one copy channel. -/
  | kcancelChannel (f : KC)
  /-- R273: Cancels all copy channels. -/
  | kcancelAll (f : KC)
  /-- R273: Abandons the frozen command of a channel and clears its fault. -/
  | kcancelFlush (f : KC)
  /-- R274: Reads a copy channel's status. -/
  | kstat (f : KC)
  /-- R265: Reads a channel's watermark. -/
  | kwmrd (f : KC)
  /-- R268: Reads a sync word's generation. -/
  | ksyncrd (f : KC)
  /-- R268: Waits until a sync word's generation reaches a threshold. -/
  | ksyncrdWait (f : KC)
  /-- R283: Arrives at a barrier line and waits for it to fire. -/
  | bsync (f : YB)
  /-- R283: Waits for a barrier firing without arriving again. -/
  | bsyncWait (f : YB)
  /-- R282: Writes a barrier line's participant mask. -/
  | barCfg (f : YB)
  /-- R284: Sets the core's arrived flag without waiting. -/
  | barArrive (f : YB)
  /-- R284: Reports whether the core's arrived flag is clear. -/
  | barTest (f : YB)
  /-- R286: Releases on a beacon in replace mode. -/
  | relSt (f : YM)
  /-- R287: Acquires on a beacon line and absorbs its wake. -/
  | acqLd (f : YM)
  /-- R287: Acquires and invalidates the whole L1 and weight cache. -/
  | acqLdAll (f : YM)
  /-- R288: Performs a scope's write-backs and waits without publishing. -/
  | relFence (f : YM)
  /-- R288: Writes back and invalidates the whole L1. -/
  | acqFence (f : YM)
  /-- R290: Parks the core until a line is written. -/
  | waitaddr (f : YM)
  /-- R293: Waits for the matrix queue and prefetch queue to drain. -/
  | waitM (f : YW)
  /-- R294: Waits for named copy channels to go idle. -/
  | waitK (f : YW)
  /-- R295: Waits for remote writes and reports the fence status word. -/
  | drain (f : YM)
  /-- R150: Lane-wise add. -/
  | vadd (f : VR)
  /-- R150: Lane-wise subtract. -/
  | vsub (f : VR)
  /-- R150: Lane-wise multiply. -/
  | vmul (f : VR)
  /-- R150: Lane-wise fused multiply-add. -/
  | vfma (f : VR)
  /-- R150: Lane-wise fused multiply-subtract. -/
  | vfms (f : VR)
  /-- R150: Lane-wise negated fused multiply-add. -/
  | vfnma (f : VR)
  /-- R150: Lane-wise divide. -/
  | vdiv (f : VR)
  /-- R151: Lane-wise minimum. -/
  | vmin (f : VR)
  /-- R151: Lane-wise maximum. -/
  | vmax (f : VR)
  /-- R151: Lane-wise absolute value. -/
  | vabs (f : VR)
  /-- R151: Lane-wise negation. -/
  | vneg (f : VR)
  /-- R151: Lane-wise AND. -/
  | vand (f : VR)
  /-- R151: Lane-wise OR. -/
  | vor (f : VR)
  /-- R151: Lane-wise XOR. -/
  | vxor (f : VR)
  /-- R151: Lane-wise AND NOT. -/
  | vandn (f : VR)
  /-- R151: Lane-wise left shift. -/
  | vshl (f : VR)
  /-- R151: Lane-wise logical right shift. -/
  | vshr (f : VR)
  /-- R151: Lane-wise arithmetic right shift. -/
  | vsar (f : VR)
  /-- R151: Lane-wise high half of the product. -/
  | vmulh (f : VR)
  /-- R147: vadd with the second operand broadcast from a scalar. -/
  | vaddScalar (f : VS)
  /-- R147: vsub with a scalar second operand. -/
  | vsubScalar (f : VS)
  /-- R147: vmul with a scalar second operand. -/
  | vmulScalar (f : VS)
  /-- R147: vfma with a scalar second operand. -/
  | vfmaScalar (f : VS)
  /-- R147: vfms with a scalar second operand. -/
  | vfmsScalar (f : VS)
  /-- R147: vfnma with a scalar second operand. -/
  | vfnmaScalar (f : VS)
  /-- R147: vmin with a scalar second operand. -/
  | vminScalar (f : VS)
  /-- R147: vmax with a scalar second operand. -/
  | vmaxScalar (f : VS)
  /-- R147: vand with a scalar second operand. -/
  | vandScalar (f : VS)
  /-- R147: vor with a scalar second operand. -/
  | vorScalar (f : VS)
  /-- R147: vxor with a scalar second operand. -/
  | vxorScalar (f : VS)
  /-- R147: vandn with a scalar second operand. -/
  | vandnScalar (f : VS)
  /-- R147: vshl by a scalar count. -/
  | vshlScalar (f : VS)
  /-- R147: vshr by a scalar count. -/
  | vshrScalar (f : VS)
  /-- R147: vsar by a scalar count. -/
  | vsarScalar (f : VS)
  /-- R147: vmulh with a scalar second operand. -/
  | vmulhScalar (f : VS)
  /-- R147: vdiv by a scalar second operand. -/
  | vdivScalar (f : VS)
  /-- R152: Lane-wise reciprocal. -/
  | vrecip (f : VR)
  /-- R152: Lane-wise reciprocal square root. -/
  | vrsqrt (f : VR)
  /-- R152: Lane-wise correctly rounded square root. -/
  | vsqrt (f : VR)
  /-- R152: Lane-wise power of two. -/
  | vexp2 (f : VR)
  /-- R152: Lane-wise base-2 logarithm. -/
  | vlog2 (f : VR)
  /-- R152: Lane-wise sine of pi times the argument. -/
  | vsin (f : VR)
  /-- R152: Lane-wise cosine of pi times the argument. -/
  | vcos (f : VR)
  /-- R152: Lane-wise hyperbolic tangent. -/
  | vtanh (f : VR)
  /-- R153: Lane compare for equality into a predicate. -/
  | vceq (f : VR)
  /-- R153: Lane compare for inequality into a predicate. -/
  | vcne (f : VR)
  /-- R153: Lane less-than compare into a predicate. -/
  | vclt (f : VR)
  /-- R153: Lane less-or-equal compare into a predicate. -/
  | vcle (f : VR)
  /-- R153: Lane greater-than compare into a predicate. -/
  | vcgt (f : VR)
  /-- R153: Lane greater-or-equal compare into a predicate. -/
  | vcge (f : VR)
  /-- R153: Lane unordered (NaN) compare into a predicate. -/
  | vcun (f : VR)
  /-- R153: Lane class test against a mask into a predicate. -/
  | vclass (f : VR)
  /-- R154: Predicate AND. -/
  | pand (f : VR)
  /-- R154: Predicate OR. -/
  | por (f : VR)
  /-- R154: Predicate XOR. -/
  | pxor (f : VR)
  /-- R154: Predicate NOT. -/
  | pnot (f : VR)
  /-- R154: Counts active lanes of a predicate into a scalar. -/
  | pcnt (f : VR)
  /-- R155: Selects lanes from two sources by predicate. -/
  | vsel (f : VR)
  /-- R155: Permutes lanes from two sources by an index vector. -/
  | vperm (f : VR)
  /-- R155: Rotates lanes by an immediate. -/
  | vrot (f : VI)
  /-- R155: Broadcasts a scalar to every lane. -/
  | vbcast (f : VS)
  /-- R155: Extracts one lane into a scalar. -/
  | vext (f : VS)
  /-- R155: Inserts a scalar into one lane. -/
  | vins (f : VS)
  /-- R155: Copies lanes. -/
  | vmov (f : VR)
  /-- R155: Fills lanes with an immediate constant. -/
  | vconst (f : VI)
  /-- R156: Pairwise-tree add reduction. -/
  | vradd (f : VR)
  /-- R156: Maximum reduction. -/
  | vrmax (f : VR)
  /-- R156: Minimum reduction. -/
  | vrmin (f : VR)
  /-- R156: AND reduction. -/
  | vrand (f : VR)
  /-- R156: OR reduction. -/
  | vror (f : VR)
  /-- R156: XOR reduction. -/
  | vrxor (f : VR)
  /-- R157: Converts lanes between types of equal width. -/
  | vcvt (f : VR)
  /-- R157: Widens half of the source lanes exactly. -/
  | vwiden (f : VR)
  /-- R157: Narrows two sources into one destination. -/
  | vnarrow (f : VR)
  /-- R158: Quantises groups of 128 lanes into E2M1 blocks with descriptors. -/
  | vqblk (f : VR)
  /-- R130: The divider finishes after 2 to 34 cycles and writes the interlocked destination. -/
  | divisionComplete (c : Nat)
  /-- R142: On resume the core restores the loop counter and guards from lsave and clears it. -/
  | forcedStopResume (c : Nat)
  /-- R318: The hub finishes a hub command and its status is written to the destination. -/
  | hubCommandComplete (c : Nat)
  /-- R78: A variable-latency load arrives and writes its destination, or raises data poison. -/
  | loadComplete (c : Nat) (id : Nat)
  /-- R198: A queued matrix command becomes ready once earlier conflicting entries complete. -/
  | matrixEntryReady (c : Nat) (id : Nat)
  /-- R199: A Fill completes and its instance becomes valid. -/
  | tileFillEnd (c : Nat) (iid : Nat)
  /-- R200: The core fills a tile early for a queued step. -/
  | earlyFill (c : Nat) (id : Nat)
  /-- R196: The core copies a replica of a tile group to another array. -/
  | replicaCopy (c : Nat) (iid : Nat)
  /-- R199: A bound step starts on an idle array holding its group. -/
  | stepDispatch (c : Nat) (id : Nat)
  /-- R201: A step adds one accumulator row when its cycle arrives. -/
  | stepRowWrite (c : Nat) (arr : Nat)
  /-- R198: A matrix queue entry completes and leaves the queue. -/
  | matrixCommandComplete (c : Nat) (id : Nat)
  /-- R203: An engine fault freezes the matrix engine and records mrp. -/
  | matrixDeferredFault (c : Nat) (id : Nat)
  /-- R204: A parity error stops a step, refills the tile and resumes. -/
  | arrayParityError (c : Nat) (arr : Nat)
  /-- R217: The engine serves a prefetch request, reading its table entry and filling tiles. -/
  | prefetchService (c : Nat)
  /-- R227: The micro-sequencer starts when the stitch entry is oldest and its bank loaded. -/
  | stitchStart (c : Nat)
  /-- R224: The core reloads a stitch bank from the context image in about 1 µs. -/
  | stitchBankReload (c : Nat)
  /-- R224: A stitch bank reload completes and waiting stitch entries may start. -/
  | stitchBankReloadEnd (c : Nat)
  /-- R247: An uncorrectable ECC error in a micro-word raises a deferred fault and invalidates the bank. -/
  | stitchStoreError (c : Nat)
  /-- R256: A channel writes one destination piece at its home or in the banks. -/
  | copyPieceWrite (c : Nat) (ch : Nat)
  /-- R256: A copy command completes, writes back, and enters its wake bits. -/
  | copyComplete (c : Nat) (ch : Nat)
  /-- R260: A kloop iteration starts once its buffer is released. -/
  | kloopIterationStart (c : Nat) (ch : Nat)
  /-- R255: A running copy meets a fault and its channel freezes. -/
  | copyDeferredFault (c : Nat) (ch : Nat)
  /-- R264: A bundle held by a watermark issues once wm covers its bytes. -/
  | watermarkWaitRelease (c : Nat)
  /-- R264: A watermark-held access whose channel has no command raises a fault. -/
  | copyUnderrun (c : Nat)
  /-- R257: A remote endpoint acknowledges or fails a put or get. -/
  | remoteAcknowledge (id : Nat) (r : RemoteResult)
  /-- R123: A collective completes and each participant absorbs its buffers' wake. -/
  | collectiveComplete (c : Nat) (id : Nat) (contribs : List (List Byte)) (bits : BitVec 3)
  /-- R272: A broadcast member forwards a 4 KiB chunk to its children. -/
  | relayChunkForward (c : Nat) (id : Nat) (chunk : Nat) (data : List Byte) (bits : BitVec 3)
  /-- R281: A barrier line fires once every named core has arrived, releasing waiters. -/
  | barrierFire (task : Nat) (nb : Nat)
  /-- R290: At the head of RQ, compares at the home and allocates a monitor or completes. -/
  | waitaddrRegister (c : Nat)
  /-- R291: A wake message reaches its core and completes its waitaddr. -/
  | wakeMessage (c : Nat)
  /-- R292: The wtmo limit runs out and the waitaddr completes with status 2. -/
  | waitaddrTimeout (c : Nat)
  /-- R121: A drain's waits end and it writes and resets the failure counts. -/
  | drainComplete (c : Nat)
  /-- R102: A checkpoint appends withheld effects to the release queue and updates the shadow. -/
  | commit (c : Nat)
  /-- R102: The effect at the head of the release queue performs. -/
  | effectPerform (c : Nat)
  /-- R108: An L1 merges a sector's dirty bytes into the home and raises the version. -/
  | writeBack (c : Nat) (line : Nat) (sec : Nat)
  /-- R108: An L1 invalidates a clean unowned line. -/
  | evict (c : Nat) (line : Nat)
  /-- R108: An L1 copies a missing sector from the authoritative copy. -/
  | fill (c : Nat) (line : Nat) (sec : Nat)
  /-- R177: A full ownership directory recalls its oldest entry. -/
  | directoryRecall (cl : Nat)
  /-- R179: A write that makes a line uncompressible evicts its entry partner. -/
  | l2CompressionEvict (line : Nat)
  /-- R111: The pool agent performs an in-flight remote write, or records its failure. -/
  | poolWritePerform (id : Nat) (r : RemoteResult)
  /-- R311: Enters the next trap level, writing cause, return and address registers. -/
  | trapEntry (c : Nat)
  /-- R203: A pending engine fault is delivered as a trap at a waiting instruction or checkpoint. -/
  | deferredFaultDelivery (c : Nat)
  /-- R322: A walker reads the page table and returns a leaf or a fault. -/
  | tlbWalk (c : Nat) (va : BitVec 72)
  /-- R325: A walk ends and writes the shared and requesting TLBs. -/
  | tlbWalkComplete (die : Nat) (ctx : Nat) (vpn : Nat)
  /-- R326: An access to a remote page is forwarded a line at a time and its counter rises. -/
  | remoteForward (ctx : Nat) (va : BitVec 72)
  /-- R326: Every 1 ms the hub halves every migration counter. -/
  | migrationCounterHalve
  /-- R327: The migrator moves a hot remote page into a local frame. -/
  | pageMigration (ctx : Nat) (vpn : Nat)
  /-- R328: A freed frame is purged from TLBs and caches, zeroed and returned. -/
  | frameReuseScrub (frame : Nat)
  /-- R331: A fabric host reads a sector of the exposed window. -/
  | cxlHostRead (host : Nat) (pa : Nat) (want : HostWant)
  /-- R331: A fabric host writes a sector of the exposed window. -/
  | cxlHostWrite (host : Nat) (pa : Nat) (data : List Byte)
  /-- R330: The fabric lowers a port's cache budget and the module evicts down to it. -/
  | cxlBudgetChange (port : Nat) (budget : Nat)
  /-- R14: A CXL.io write aimed at a command queue is refused. -/
  | cxlIoQueueWrite (port : Nat) (p : Nat) (q : Nat)
  /-- R111: A host write to pool memory invalidates the home copy. -/
  | cxlHostPoolWrite (pa : Nat) (data : List Byte)
  /-- R334: An Ultra Ethernet RMA write performs at line homes as a write-back. -/
  | rmaWrite (qp : Nat) (pa : Nat) (data : List Byte)
  /-- R334: An Ultra Ethernet RMA read reads the authoritative copy. -/
  | rmaRead (qp : Nat) (pa : Nat) (n : Nat)
  /-- R338: A doorbell write is checked and advances a queue's write index. -/
  | doorbell (p : Nat) (q : Nat) (qp : Nat) (w : BitVec 32)
  /-- R337: The hub fetches a launch record from a running queue. -/
  | recordFetch (p : Nat) (q : Nat)
  /-- R356: A cut completes once saves finish and posts status 1. -/
  | cutComplete (launch : Nat)
  /-- R347: The distributor places a ready task on a gang of cores. -/
  | placement
  /-- R349: A gated cluster finishes its 2 µs wake. -/
  | clusterWake (cl : Nat)
  /-- R349: A cluster idle for 50 µs is power-gated. -/
  | clusterGate (cl : Nat)
  /-- R344: A core starts a stage task with its initial registers and absorbs the input wake. -/
  | coreStart (c : Nat)
  /-- R346: A stage task ends, its cores release onto the output slot and the entry publishes. -/
  | taskEnd (task : Nat)
  /-- R346: A launch ends and its completion posts. -/
  | launchEnd (launch : Nat)
  /-- R347: A task ready for 100 ms rises one priority level. -/
  | priorityAging (task : Nat)
  /-- R351: A gang's slice expires and it may be pre-empted. -/
  | sliceEnd (task : Nat)
  /-- R352: The distributor sets clamp in a gang to force an epilogue. -/
  | preemptGang (task : Nat)
  /-- R352: The epilogue bound runs out and the core rolls back and stops. -/
  | hardStop (c : Nat)
  /-- R352: A core still above level 0 8,192 cycles after its hard stop kills the context. -/
  | stuckHandlerKill (c : Nat)
  /-- R352: Once a gang's cores stop, the cluster saves their state. -/
  | gangStateSave (task : Nat)
  /-- R358: The management controller creates a partition from a record. -/
  | partitionCreate (p : Nat) (r : PartRec)
  /-- R361: Control ring op creating a context. -/
  | createContext (p : Nat)
  /-- R361: Control ring op setting a context's page-table root. -/
  | setRoot (p : Nat)
  /-- R361: Control ring op binding a remote endpoint. -/
  | bindEndpoint (p : Nat)
  /-- R361: Control ring op making a collective group. -/
  | makeGroup (p : Nat)
  /-- R361: Control ring op taking zeroed frames from the pool. -/
  | takeFrames (p : Nat)
  /-- R361: Control ring op freeing frames. -/
  | freeFrames (p : Nat)
  /-- R366: Every 10 µs the hub adds counts into the metering store. -/
  | meterUpdate
  /-- R367: Every second the hub scales energy estimates to the package sensors. -/
  | energyScale (num : Nat) (den : Nat)
  /-- R368: An authenticated operator reads one meter record. -/
  | meterReading (r : Nat)
  /-- R370: A queue watchdog expires and the partition is captured and reset. -/
  | watchdogExpiry (p : Nat) (q : Nat)
  /-- R371: The operator requests capture and reset of a partition. -/
  | operatorCaptureRequest (p : Nat)
  /-- R372: The capture engine finishes writing the dump. -/
  | captureDumpComplete (p : Nat)
  /-- R372: After 10 ms unanswered remote commands count as failed. -/
  | captureDrainTimeout (p : Nat)
  /-- R372: The partition's cores are cleared, launches post status 6, and it halts. -/
  | partitionReset (p : Nat)
  /-- R371: The management controller enables a halted partition. -/
  | partitionEnable (p : Nat)
  /-- R338: The management controller takes a queue out of the error state. -/
  | queueRecover (p : Nat) (q : Nat) (idx : BitVec 32)
  /-- R374: A corrected error is counted against its location. -/
  | correctedError (loc : ErrLoc)
  /-- R374: An uncorrectable error poisons data and retires its location. -/
  | uncorrectableError (loc : ErrLoc) (blocks : List Nat)
  /-- R401: The root of trust verifies and measures a boot stage. -/
  | bootStageVerify (digest : BitVec 384) (sig : Option BootCfg)
  /-- R402: SPDM version request. -/
  | getVersion
  /-- R402: SPDM capabilities request. -/
  | getCapabilities
  /-- R402: SPDM certificate request. -/
  | getCertificate
  /-- R402: SPDM measurements request, signed by the device key. -/
  | getMeasurements
  /-- R402: SPDM key exchange setting up the operator session. -/
  | keyExchange
  /-- R403: A group of links trains and reports its result. -/
  | linkTraining (results : List LinkResult)
  /-- R403: A port that trains later on retry comes into service. -/
  | linkRetryUp (link : Nat) (st : LinkResult)
  /-- R404: Compute-die core supplies come up one die at a time, 100 µs apart. -/
  | stagedPowerUp
  /-- R405: Every 1 µs the power manager estimates each cluster's draw and sets its throttle level. -/
  | powerManagerTick (cl : Nat)
  /-- R407: A die at 95 °C drops its cluster budgets to 50 W. -/
  | thermalCap (die : Nat) (hot : Bool)
  /-- R407: Overtemperature or low flow captures partitions and removes compute power. -/
  | shutdown
  /-- R76: A fixed-latency producer writes its destination at the end of cycle t + L - 1. -/
  | fixedLatencyWrite (c : Nat)
  /-- R345: The module's reset puts slot tables unowned, window pages in device bias and cores in their reset state, and starts boot. -/
  | moduleReset
  /-- R122: A trained link or port goes down in operation, so later remote writes, puts and gets fail with the dead cause. -/
  | linkDown (link : Nat)
  /-- R334: An Ultra Ethernet Send arrives: it feeds a collective, or it is refused when it targets a command queue. -/
  | send (p : Nat) (q : Nat) (toQueue : Bool)
  deriving DecidableEq, Repr

/-- A slot operation of a bundle: its slot number (R51), its guard and the operation. -/
structure SlotOp where
  slot : Nat
  guard : Guard
  op : Instr
  deriving DecidableEq, Repr

/-- The header of a bundle (R53): the stall count, the checkpoint bit and the swap bits of M, L, W, K and X. -/
structure Header where
  stall : Nat
  ckpt : Bool
  swm : Bool
  swl : Bool
  sww : Bool
  swk : Bool
  swx : Bool
  deriving DecidableEq, Repr

/-- A decoded bundle: its header and its slot operations that are not `nop`, in slot order (R51). -/
structure Bundle where
  hdr : Header
  ops : List SlotOp
  deriving DecidableEq, Repr

/-- A decoded micro-word (R230): the invert bit and code of its predicate, and the micro-operation. -/
structure Micro where
  inv : Bool
  pc : BitVec 4
  op : Instr
  deriving DecidableEq, Repr

end Sys2Proof
end

