-- ==== Sys2Proof/WellFormed.lean ====
section
/-! DEFINITION. Which encodings are instructions: the registers an instruction names (R58), the fields that must be zero (reason 2), the register classes (reason 3) and the field limits (reason 4) of R72, in the form the class chapters give them. -/
namespace Sys2Proof

/-- The register classes that operand fields name (R20, R58). -/
inductive RC where
  | s | a | g | b | lc | mp | ix | p | v | acc | ts
  deriving DecidableEq, Repr

/-- How many registers a class has (R20). -/
def RC.size : RC → Nat
  | .s => 64 | .a => 32 | .g => 16 | .b => 16 | .lc => 4 | .mp => 8
  | .ix => 16 | .p => 16 | .v => 1024 | .acc => 32 | .ts => 32

/-- A register that an instruction names: its class, its number, and whether it is a destination. -/
structure Opnd where
  rc : RC
  n : Nat
  w : Bool
  deriving DecidableEq, Repr

/-- A source register. -/
def rd {k : Nat} (rc : RC) (x : BitVec k) : Opnd := ⟨rc, x.toNat, false⟩
/-- A destination register. -/
def wr {k : Nat} (rc : RC) (x : BitVec k) : Opnd := ⟨rc, x.toNat, true⟩

/-- The classes of the scalar load kinds' destinations (R170). -/
def LdKind.rc : LdKind → RC
  | .a => .a | _ => .s
/-- The classes of the scalar store kinds' sources (R170). -/
def StKind.rc : StKind → RC
  | .a => .a | _ => .s

/-- Three scalar registers of an SR operation. -/
def opSR (f : SR) : List Opnd := [wr .s f.d, rd .s f.a, rd .s f.b]
/-- The governing predicate and the vector registers of a two-source VR operation. -/
def opVR2 (f : VR) : List Opnd := [rd .p f.p, wr .v f.vd, rd .v f.va, rd .v f.vb]
/-- A one-source VR operation. -/
def opVR1 (f : VR) : List Opnd := [rd .p f.p, wr .v f.vd, rd .v f.va]
/-- A two-source VS operation: the second source is a scalar. -/
def opVS2 (f : VS) : List Opnd := [rd .p f.p, wr .v f.vd, rd .v f.va, rd .s f.s]

/-- The register fields of an instruction, with the class each names (R58, the class chapters). -/
def explicitOps : Instr → List Opnd
  | .add f | .sub f | .and f | .or f | .xor f | .andn f | .shl f | .shr f | .sar f | .rotl f
  | .minI64 f | .maxI64 f | .minN64 f | .maxN64 f | .mul f | .mulhI64 f | .mulhN64 f
  | .divI32 f | .divN32 f | .divI64 f | .divN64 f | .remI32 f | .remN32 f | .remI64 f | .remN64 f => opSR f
  | .addi f | .andi f | .ori f | .xori f | .shli f | .shri f | .sari f | .muli f | .miniI64 f | .maxiI64 f
  | .sexti f | .zexti f => [wr .s f.d, rd .s f.a]
  | .li f => [wr .s f.d]
  | .lih f => [wr .s f.d, rd .s f.d]
  | .ali f => [wr .a f.d]
  | .alih f => [wr .a f.d, rd .a f.d]
  | .ceq f | .cne f | .cltI64 f | .cltN64 f | .cleI64 f | .cleN64 f | .ctst f => [wr .g f.d, rd .s f.a, rd .s f.b]
  | .cnz f => [wr .g f.d, rd .s f.a]
  | .ceqi f | .cnei f | .cltiI64 f | .cltiN64 f | .cleiI64 f | .cleiN64 f | .ctsb f => [wr .g f.d, rd .s f.a]
  | .gand f | .gor f | .gxor f | .gandn f => [wr .g f.d, rd .g f.a, rd .g f.b]
  | .gtos f => [wr .s f.d]
  | .stog f => [rd .s f.a]
  | .aadd f | .asub f => [wr .a f.d, rd .a f.a, rd .s f.b]
  | .aaddi f => [wr .a f.d, rd .a f.a]
  | .adiff f => [wr .s f.d, rd .a f.a, rd .a f.b]
  | .amov f => [wr .a f.d, rd .s f.b]
  | .atos f => [wr .s f.d, rd .a f.a]
  | .bset f => [wr .b f.d, rd .s f.a]
  | .bget f => [wr .s f.d, rd .b f.a]
  | .lcset f => [wr .lc f.d, rd .s f.a]
  | .lcget f => [wr .s f.d, rd .lc f.a]
  | .mpset f => [wr .mp f.d, rd .a f.a]
  | .mpget f => [wr .a f.d, rd .mp f.a]
  | .tsrd f => [wr .s f.d, rd .ts f.a]
  | .shset f => [rd .s f.s]
  | .ret f | .brs f | .calls f => [rd .a f.a]
  | .sysrd f => [wr .s f.d]
  | .syswr f => [rd .s f.d]
  | .tlbinvVa f => [wr .s f.d, rd .a f.a, rd .s f.b]
  | .tlbinvCtx f => [wr .s f.d, rd .s f.b]
  | .tlbinvAll f => [wr .s f.d]
  | .biasDev f | .biasHost f => [wr .s f.d, rd .s f.a]
  | .stitchIns f | .stitchBind f | .stitchDrop f => [wr .s f.d, rd .s f.a, rd .s f.b]
  | .stitchUnbind f | .ctxEnd f => [wr .s f.d, rd .s f.a]
  | .vadd f | .vsub f | .vmul f | .vdiv f | .vmin f | .vmax f | .vand f | .vor f | .vxor f | .vandn f
  | .vshl f | .vshr f | .vsar f | .vmulh f | .vsel f => opVR2 f
  | .vfma f | .vfms f | .vfnma f | .vperm f => rd .v f.vc :: opVR2 f
  | .vabs f | .vneg f | .vrecip f | .vrsqrt f | .vsqrt f | .vexp2 f | .vlog2 f | .vsin f | .vcos f | .vtanh f
  | .vmov f | .vradd f | .vrmax f | .vrmin f | .vrand f | .vror f | .vrxor f | .vcvt f | .vwiden f | .vqblk f => opVR1 f
  | .vnarrow f => opVR2 f
  | .vaddScalar f | .vsubScalar f | .vmulScalar f | .vminScalar f | .vmaxScalar f | .vandScalar f | .vorScalar f
  | .vxorScalar f | .vandnScalar f | .vshlScalar f | .vshrScalar f | .vsarScalar f | .vmulhScalar f
  | .vdivScalar f | .vins f => opVS2 f
  | .vfmaScalar f | .vfmsScalar f | .vfnmaScalar f => rd .v f.vc :: opVS2 f
  | .vceq f | .vcne f | .vclt f | .vcle f | .vcgt f | .vcge f | .vcun f => [rd .p f.p, wr .p f.vd, rd .v f.va, rd .v f.vb]
  | .vclass f => [rd .p f.p, wr .p f.vd, rd .v f.va]
  | .pand f | .por f | .pxor f => [wr .p f.vd, rd .p f.va, rd .p f.vb]
  | .pnot f => [wr .p f.vd, rd .p f.va]
  | .pcnt f => [wr .s f.vd, rd .p f.va]
  | .vrot f => [rd .p f.p, wr .v f.vd, rd .v f.va]
  | .vconst f => [rd .p f.p, wr .v f.vd]
  | .vbcast f => [rd .p f.p, wr .v f.vd, rd .s f.s]
  | .vext f => [wr .s f.s, rd .v f.va]
  | .ldI8 f | .ldI16 f | .ldI32 f | .ldN8 f | .ldN16 f | .ldN32 f | .ldN64 f | .ldesc f => [wr .s f.data, rd .a f.a]
  | .lda f => [wr .a f.data, rd .a f.a]
  | .ldAcq k f => [wr k.rc f.data, rd .a f.a]
  | .vld f => [wr .v f.data, rd .a f.a]
  | .vldx f => [wr .v f.data, rd .a f.a, rd .s f.s]
  | .svld f | .svlds f => [wr .v f.data, rd .b f.b]
  | .svgth f => [wr .v f.data, rd .b f.b, rd .v f.vi]
  | .sld f => [wr .s f.data, rd .b f.b]
  | .stN8 f | .stN16 f | .stN32 f | .stN64 f | .sdesc f => [rd .s f.data, rd .a f.a]
  | .sta f => [rd .a f.data, rd .a f.a]
  | .stRel k f => [rd k.rc f.data, rd .a f.a]
  | .vst f => [rd .v f.data, rd .a f.a]
  | .vstx f => [rd .v f.data, rd .a f.a, rd .s f.s]
  | .svst f | .svsts f => [rd .v f.data, rd .b f.b]
  | .svsct f => [rd .v f.data, rd .b f.b, rd .v f.vi]
  | .sst f => [rd .s f.data, rd .b f.b]
  | .pref f | .cinv f | .cflush f | .cwb f => [rd .a f.a]
  | .atmAdd f | .atmAnd f | .atmOr f | .atmXor f | .atmMinI64 f | .atmMaxI64 f | .atmMinN64 f | .atmMaxN64 f
  | .atmSwp f | .atmFaddF32 f => [wr .s f.d, rd .s f.x, rd .a f.a]
  | .atmCas f => [wr .s f.d, rd .s f.x, rd .s f.y, rd .a f.a]
  | .xadd f | .xsub f | .xand f | .xcmp f => [wr .ix f.d, rd .ix f.a, rd .ix f.b]
  | .xsel f => [wr .ix f.d, rd .ix f.d, rd .ix f.a, rd .ix f.b]
  | .xshl f | .xshr f | .xpopc f | .xaddi f | .xld f => [wr .ix f.d, rd .ix f.a]
  | .xadv f => [wr .ix f.d, wr .ix f.a, wr .ix f.b, rd .ix f.a, rd .ix f.b]
  | .xfroms f => [wr .ix f.x, rd .s f.d]
  | .xtos f => [wr .s f.d, rd .ix f.x]
  | .xtov f => [wr .v f.v, rd .ix f.ix]
  | .xexp f => [wr .v f.v, wr .p f.p, rd .ix f.ix]
  | .mstep f => [rd .acc f.acc, rd .mp f.mt, rd .mp f.ma]
  | .mzero f | .mtsclr f => [rd .acc f.acc]
  | .mdrain f => [rd .acc f.acc, rd .v f.v, rd .v (f.imm.extractLsb' 13 10), rd .mp f.mp]
  | .mdrainV f => [rd .acc f.acc, rd .v f.v, rd .v (f.imm.extractLsb' 13 10)]
  | .mpin f | .munpin f | .minv f | .mrepl f | .mpref f | .mtopkGet f => [rd .mp f.mp]
  | .mwrite f => [rd .mp f.mp, rd .v f.v]
  | .mstatTile f => [wr .s (f.v.extractLsb' 0 6), rd .mp f.mp]
  | .mstatEngine f => [wr .s (f.v.extractLsb' 0 6)]
  | .mcall f => [rd .acc f.acc]
  | .kcopy f | .kloop f | .kput f | .kget f | .kcollAllReduce f | .kcollAllGather f | .kcollReduceScatter f
  | .kcollBroadcast f => [rd .a f.da, rd .a f.oa, rd .s f.s]
  | .kwm f | .ksync f => [rd .a f.da, rd .s f.s]
  | .kstat f | .kwmrd f => [wr .s f.s]
  | .ksyncrd f => [wr .s f.s, rd .a f.da]
  | .ksyncrdWait f => [wr .s f.s, rd .s f.s, rd .a f.da]
  | .barTest f => [wr .s f.s]
  | .relSt f => [rd .s f.s, rd .a f.a]
  | .acqLd f | .acqLdAll f => [wr .s f.s, rd .a f.a]
  | .waitaddr f => [wr .s f.s, rd .s f.s, rd .a f.a]
  | .drain f => [wr .s f.s]
  | _ => []

/-- The registers an instruction reads or writes without naming them in a field (R74, R133, R137, R140, R226). -/
def implicitOps : Instr → List Opnd
  | .stog _ => (List.range 15).map fun i => ⟨.g, i + 1, true⟩
  | .gtos _ => (List.range 15).map fun i => ⟨.g, i + 1, false⟩
  | .call _ | .calls _ => [⟨.a, 31, true⟩]
  | .lbr f => ⟨.lc, f.lc.toNat, true⟩ :: ⟨.lc, f.lc.toNat, false⟩ ::
      (List.range 8).flatMap fun i => [⟨.g, i + 8, true⟩, ⟨.b, i + 8, true⟩, ⟨.g, i + 8, false⟩, ⟨.b, i + 8, false⟩]
  | .stitchOpcode _ _ | .mcall _ => (List.range 8).map fun i => ⟨.mp, i, false⟩
  | .tret _ => [⟨.a, 30, true⟩]
  | _ => []

/-- Every register an instruction reads or writes, but for the destination range of `mdrain.v`, which its shape decides (R208). -/
def operands (i : Instr) : List Opnd := explicitOps i ++ implicitOps i

/-- The fields that must be zero for this operation, R58 and the class chapters (reason 2). -/
def zeroFields : Instr → List Nat
  | .cnz f => [f.b.toNat]
  | .gtos f => [f.a.toNat, f.b.toNat]
  | .stog f => [f.d.toNat, f.b.toNat]
  | .amov f => [f.a.toNat]
  | .tsrd f => [f.b.toNat]
  | .lih f => [(f.imm.extractLsb' 19 26).toNat]
  | .alih f => [(f.imm.extractLsb' 27 18).toNat]
  | .bget f | .lcget f | .mpget f => [f.imm.toNat]
  | .br f | .call f => [f.a.toNat, f.lc.toNat]
  | .ret f => [f.lc.toNat, f.target.toNat]
  | .brs f | .calls f => [f.lc.toNat]
  | .lbr f => [f.a.toNat]
  | .trap f => [f.d.toNat, f.a.toNat]
  | .tret f | .idle f => [f.d.toNat, f.a.toNat, f.b.toNat]
  | .tlbinvCtx f => [f.a.toNat]
  | .tlbinvAll f => [f.a.toNat, f.b.toNat]
  | .stitchUnbind f | .ctxEnd f => [f.b.toNat]
  | .vadd f | .vsub f | .vmul f | .vdiv f | .vmin f | .vmax f | .vand f | .vor f | .vxor f | .vandn f
  | .vshl f | .vshr f | .vsar f | .vmulh f | .vsel f | .vceq f | .vcne f | .vclt f | .vcle f | .vcgt f | .vcge f
  | .vcun f => [f.vc.toNat]
  | .vabs f | .vneg f | .vrecip f | .vrsqrt f | .vsqrt f | .vexp2 f | .vlog2 f | .vsin f | .vcos f | .vtanh f
  | .vmov f | .vradd f | .vrmax f | .vrmin f | .vrand f | .vror f | .vrxor f | .vqblk f => [f.vb.toNat, f.vc.toNat]
  | .vclass f => [f.vb.toNat, (f.vc.extractLsb' 9 1).toNat]
  | .vcvt f => [f.vb.toNat, (f.vc.extractLsb' 4 6).toNat]
  | .vwiden f => [f.vb.toNat, (f.vc.extractLsb' 5 5).toNat]
  | .vnarrow f => [(f.vc.extractLsb' 4 6).toNat]
  | .pand f | .por f | .pxor f => [f.p.toNat, f.vc.toNat]
  | .pnot f => [f.p.toNat, f.vb.toNat, f.vc.toNat]
  | .pcnt f => [f.p.toNat, f.vb.toNat]
  | .vconst f => [f.va.toNat]
  | .vaddScalar f | .vsubScalar f | .vmulScalar f | .vminScalar f | .vmaxScalar f | .vandScalar f | .vorScalar f
  | .vxorScalar f | .vandnScalar f | .vshlScalar f | .vshrScalar f | .vsarScalar f | .vmulhScalar f
  | .vdivScalar f => [f.vc.toNat]
  | .vbcast f => [f.va.toNat, f.vc.toNat]
  | .vext f => [f.p.toNat, f.vd.toNat]
  | .pref f | .cinv f | .cflush f | .cwb f => [f.data.toNat]
  | .atmAdd f | .atmAnd f | .atmOr f | .atmXor f | .atmMinI64 f | .atmMaxI64 f | .atmMinN64 f | .atmMaxN64 f
  | .atmSwp f | .atmFaddF32 f => [f.y.toNat]
  | .xadd f | .xsub f | .xand f | .xsel f | .xadv f => [f.hs.toNat, f.imm.toNat]
  | .xshl f | .xshr f | .xpopc f | .xaddi f => [f.hs.toNat, f.b.toNat]
  | .xcmp f => [f.hs.toNat, (f.imm.extractLsb' 3 12).toNat]
  | .xld f => [f.b.toNat]
  | .xtov f => [f.p.toNat]
  | .xexp f => [(f.imm.extractLsb' 2 9).toNat]
  | .mzero f | .mtsclr f => [f.hs.toNat, f.mp.toNat, f.v.toNat, f.imm.toNat]
  | .mdrainV f => [f.mp.toNat, (f.imm.extractLsb' 10 3).toNat]
  | .mpin f | .munpin f | .minv f | .mrepl f => [f.acc.toNat, f.v.toNat]
  | .mwrite f => [f.acc.toNat]
  | .mpref f => [f.acc.toNat, f.hs.toNat, f.v.toNat]
  | .mcancelId f => [f.acc.toNat, f.hs.toNat, f.mp.toNat, f.v.toNat, (f.imm.extractLsb' 14 9).toNat]
  | .mcancelAll f | .mcancelFlush f =>
      [f.acc.toNat, f.hs.toNat, f.mp.toNat, f.v.toNat, (f.imm.extractLsb' 14 9).toNat] ++
      (if f.imm.extractLsb' 12 2 = 3#2 then [] else [(f.imm.extractLsb' 0 12).toNat])
  | .mtopkSet f => [f.acc.toNat, f.hs.toNat, f.mp.toNat, f.v.toNat]
  | .mtopkGet f => [f.acc.toNat, f.hs.toNat, f.v.toNat, (f.imm.extractLsb' 13 10).toNat]
  | .mstatTile f => [f.acc.toNat, (f.v.extractLsb' 6 4).toNat, (f.imm.extractLsb' 15 5).toNat]
  | .mstatEngine f => [f.acc.toNat, (f.v.extractLsb' 6 4).toNat] ++
      (if f.imm.extractLsb' 20 3 = 1#3 then [f.mp.toNat, f.hs.toNat, (f.imm.extractLsb' 0 20).toNat] else [])
  | .mcall f => f.v.toNat :: (if f.imm.extractLsb' 0 10 = 0#10 then [(f.imm.extractLsb' 20 3).toNat] else [])
  | .kstage f => [f.hs.toNat, f.scope.toNat, f.da.toNat, f.oa.toNat, f.s.toNat]
  | .kstageSched f => [f.ch.toNat, f.hs.toNat, f.scope.toNat, f.da.toNat, f.oa.toNat, f.s.toNat]
  | .kwm f | .ksync f => [f.hs.toNat, f.oa.toNat, f.scope.toNat]
  | .kcancelChannel f | .kcancelAll f | .kcancelFlush f =>
      [f.hs.toNat, f.scope.toNat, f.da.toNat, f.oa.toNat, f.s.toNat, (f.imm.extractLsb' 2 18).toNat]
  | .kstat f | .kwmrd f => [f.hs.toNat, f.scope.toNat, f.da.toNat, f.oa.toNat, f.imm.toNat]
  | .ksyncrd f | .ksyncrdWait f => [f.hs.toNat, f.scope.toNat, f.oa.toNat]
  | .bsync f | .bsyncWait f => [f.s.toNat, (f.imm.extractLsb' 1 16).toNat]
  | .barCfg f => [f.s.toNat, (f.imm.extractLsb' 8 9).toNat]
  | .barArrive f => [f.s.toNat, f.imm.toNat]
  | .barTest f => [f.imm.toNat]
  | .relFence f | .acqFence f => [f.a.toNat, f.s.toNat, f.off.toNat]
  | .waitM f => [f.s.toNat, (f.mask.extractLsb' 2 14).toNat] ++ (if f.mask.getLsbD 0 then [] else [f.imm.toNat])
  | .waitK f => [f.s.toNat, f.imm.toNat]
  | .drain f => [f.ev.toNat, f.a.toNat, f.off.toNat]
  | .ujmp f => [f.n.toNat, f.a.toNat, f.ec.toNat, f.r.toNat]
  | .ubz f => [f.n.toNat, f.ec.toNat, f.r.toNat]
  | .uloop f => [f.r.toNat]
  | .unext f => [f.a.toNat, f.ec.toNat]
  | .uadd f => [f.imm.toNat]
  | .uaddi f | .umuli f | .ushli f | .uandi f => [f.b.toNat]
  | .uaca f => [f.cnt.toNat]
  | .upref f => [f.t.toNat]
  | .utopk f => [f.h.toNat]
  | .utopkg f => [f.t.toNat, f.h.toNat]
  | _ => []

/-- Integer types of R62. -/
def tyInt (t : BitVec 4) : Bool := t.toNat < 8
/-- The signed integer types. -/
def tySigned (t : BitVec 4) : Bool := t.toNat < 4
/-- The types F of R150: f32, bf16, f16. -/
def tyF (t : BitVec 4) : Bool := t.toNat == 8 || t.toNat == 9 || t.toNat == 10
/-- The 8-bit floating types. -/
def tyF8 (t : BitVec 4) : Bool := t.toNat == 11 || t.toNat == 12
/-- Element width of a type code (R62, R144). -/
def tyWidth (t : Nat) : Nat :=
  match t with
  | 0 | 4 | 11 | 12 => 8 | 1 | 5 | 9 | 10 => 16 | 2 | 6 | 8 => 32 | 3 | 7 => 64 | _ => 4

/-- Limits of R150: types F and I, rm on floating types only, sat on integer types only. -/
def limArith (ty : BitVec 4) (rm : BitVec 2) (sat : BitVec 1) : Bool :=
  (tyF ty && sat == 0) || (tyInt ty && rm == 0)
/-- As `limArith`, without sat (`vdiv`). -/
def limDiv (ty : BitVec 4) (rm : BitVec 2) (sat : BitVec 1) : Bool :=
  sat == 0 && (tyF ty || (tyInt ty && rm == 0))
/-- Types F and I without rm or sat (`vmin`, `vmax`, R151). -/
def limFI (ty : BitVec 4) (rm : BitVec 2) (sat : BitVec 1) : Bool := rm == 0 && sat == 0 && (tyF ty || tyInt ty)
/-- Types F and i8 to i64; sat on integers only (`vabs`, `vneg`, R151). -/
def limAbs (ty : BitVec 4) (rm : BitVec 2) (sat : BitVec 1) : Bool := rm == 0 && ((tyF ty && sat == 0) || tySigned ty)
/-- Integer types without rm or sat. -/
def limI (ty : BitVec 4) (rm : BitVec 2) (sat : BitVec 1) : Bool := rm == 0 && sat == 0 && tyInt ty
/-- Types F without rm or sat (R152). -/
def limF (ty : BitVec 4) (rm : BitVec 2) (sat : BitVec 1) : Bool := rm == 0 && sat == 0 && tyF ty
/-- Compare types (R153). -/
def limCmp (ty : BitVec 4) (rm : BitVec 2) (sat : BitVec 1) : Bool := rm == 0 && sat == 0 && (tyF ty || tyInt ty || tyF8 ty)
/-- Floating compare types (R153). -/
def limCmpF (ty : BitVec 4) (rm : BitVec 2) (sat : BitVec 1) : Bool := rm == 0 && sat == 0 && (tyF ty || tyF8 ty)
/-- Every type except e2m1, no rm or sat (R155). -/
def limMove (ty : BitVec 4) (rm : BitVec 2) (sat : BitVec 1) : Bool := rm == 0 && sat == 0 && ty.toNat < 13
/-- Type i8 only (R154). -/
def limPred (ty : BitVec 4) (rm : BitVec 2) (sat : BitVec 1) : Bool := rm == 0 && sat == 0 && ty == 0

/-- The type pairs of `vwiden`, source first (R157). -/
def widenPairs : List (Nat × Nat) :=
  [(0, 1), (4, 5), (1, 2), (5, 6), (2, 3), (6, 7), (9, 8), (10, 8), (11, 10), (12, 10), (13, 11)]
/-- The further type pairs of `vnarrow`, source first (R157). -/
def narrowMore : List (Nat × Nat) :=
  [(1, 4), (5, 0), (2, 5), (6, 1), (3, 6), (7, 2), (8, 9), (8, 10), (10, 11), (10, 12), (9, 11), (9, 12), (12, 13)]
/-- The pairs of `vcvt`: two types of one width (R157). -/
def cvtPair (src dst : Nat) : Bool := src < 13 && dst < 13 && tyWidth src == tyWidth dst
/-- The pairs of `vnarrow`. -/
def narrowPair (src dst : Nat) : Bool := widenPairs.contains (dst, src) || narrowMore.contains (src, dst)

/-- A `vconst` immediate in its type's limits (R155). -/
def limConst (ty : BitVec 4) (imm : BitVec 20) : Bool :=
  match ty.toNat with
  | 0 => -128 ≤ imm.toInt && imm.toInt ≤ 127
  | 1 => -32768 ≤ imm.toInt && imm.toInt ≤ 32767
  | 4 => 0 ≤ imm.toInt && imm.toInt ≤ 255
  | 5 => 0 ≤ imm.toInt && imm.toInt ≤ 65535
  | 6 | 7 => 0 ≤ imm.toInt
  | 2 | 3 | 8 => true
  | 9 | 10 => imm.toNat < 65536
  | 11 | 12 => imm.toNat < 256
  | _ => false

/-- Limits of a load's ord, scope and ev (R63, R64). -/
def limLoad (ord : BitVec 2) (scope ev : BitVec 3) : Bool := ord == 0 && scope.toNat ≤ 4 && ev != 7
/-- Limits of an acquire load (R171). -/
def limLoadAcq (ord : BitVec 2) (scope ev : BitVec 3) : Bool := ord == 1 && scope.toNat ≤ 4 && ev != 7
/-- Limits of a store (R64). -/
def limStore (ord : BitVec 2) (scope ev : BitVec 3) : Bool := ord == 0 && scope.toNat ≤ 4 && ev.toNat < 6
/-- Limits of a release store (R172). -/
def limStoreRel (ord : BitVec 2) (scope ev : BitVec 3) : Bool := ord == 2 && scope.toNat ≤ 4 && ev.toNat < 6
/-- Limits of an atomic (R64, R176). -/
def limAtomic (f : MT) : Bool := f.scope.toNat ≤ 4 && f.ev.toNat < 6
/-- MP and MG carry no ord, scope or ev (R64). -/
def limScr (ord : BitVec 2) (scope ev : BitVec 3) : Bool := ord == 0 && scope == 0 && ev == 0
/-- The system registers of R300, by number. -/
def sysregListed (n : Nat) : Bool :=
  [0x000, 0x001, 0x002, 0x003, 0x004, 0x008, 0x009, 0x00A, 0x010, 0x011, 0x012, 0x013, 0x014, 0x015,
   0x018, 0x019, 0x01A, 0x01B, 0x01C, 0x01D, 0x020, 0x021, 0x022, 0x023].contains n
/-- The system registers with a writable column (R300). -/
def sysregWritable (n : Nat) : Bool := sysregListed n && !([0x001, 0x002, 0x003, 0x004].contains n)
/-- Highest field number of each shape register (R166, R183, R197, R253). -/
def shapeFlds (eng : Nat) : Nat :=
  match eng with
  | 0 => 15 | 1 | 2 => 6 | 3 => 10 | 4 => 7 | _ => 0
/-- A K scope that is not reserved (R257). -/
def limK (f : KC) : Bool := f.scope.toNat ≤ 5
/-- The fields of `kcoll` that its encoding fixes (R270). -/
def limColl (kind : Nat) (f : KC) : Bool :=
  (f.scope == 3 || f.scope == 5) && (f.imm.extractLsb' 0 4).toNat == kind && (f.imm.extractLsb' 12 8) == 0 &&
  (if kind == 1 || kind == 3 then (f.imm.extractLsb' 4 4) == 0 else (f.imm.extractLsb' 4 4).toNat ≤ 2) &&
  [2, 3, 6, 7, 8, 9, 10].contains (f.imm.extractLsb' 8 4).toNat
/-- A YM scope other than net and the reserved codes. -/
def limY (scope : BitVec 3) : Bool := scope.toNat ≤ 4

/-- The limits on field values that the encoding alone decides (reason 4 of R72). A row that shares its opcode with another also requires the field that selects it. -/
def limits : Instr → Bool
  | .shli f | .shri f | .sari f | .ctsb f => f.imm.toNat ≤ 63
  | .sexti f | .zexti f => 1 ≤ f.imm.toNat && f.imm.toNat ≤ 64
  | .atos f => f.b.toNat ≤ 1
  | .shset f => f.eng.toNat ≤ 4 && f.fld.toNat < shapeFlds f.eng.toNat
  | .sysrd f => sysregListed f.sysreg.toNat
  | .syswr f => sysregWritable f.sysreg.toNat
  | .vadd f | .vsub f | .vmul f | .vfma f | .vfms f | .vfnma f | .vradd f => limArith f.ty f.rm f.sat
  | .vdiv f => limDiv f.ty f.rm f.sat
  | .vmin f | .vmax f | .vrmax f | .vrmin f => limFI f.ty f.rm f.sat
  | .vabs f | .vneg f => limAbs f.ty f.rm f.sat
  | .vand f | .vor f | .vxor f | .vandn f | .vshl f | .vshr f | .vsar f | .vmulh f | .vrand f | .vror f
  | .vrxor f => limI f.ty f.rm f.sat
  | .vrecip f | .vrsqrt f | .vexp2 f | .vlog2 f | .vsin f | .vcos f | .vtanh f => limF f.ty f.rm f.sat
  | .vsqrt f | .vqblk f => f.sat == 0 && tyF f.ty
  | .vceq f | .vcne f | .vclt f | .vcle f | .vcgt f | .vcge f => limCmp f.ty f.rm f.sat
  | .vcun f | .vclass f => limCmpF f.ty f.rm f.sat
  | .pand f | .por f | .pxor f | .pnot f => limPred f.ty f.rm f.sat
  | .pcnt f => limPred f.ty f.rm f.sat && f.vc.toNat ≤ 3
  | .vsel f | .vmov f => limMove f.ty f.rm f.sat
  | .vperm f => f.rm == 0 && f.sat == 0 && f.ty.toNat < 11 && tyWidth f.ty.toNat ≥ 16
  | .vrot f => limMove f.ty f.rm f.sat && f.imm.toNat < 4096 / tyWidth f.ty.toNat
  | .vbcast f => limMove f.ty f.rm f.sat
  | .vext f | .vins f => limMove f.ty f.rm f.sat && f.vc.toNat < 4096 / tyWidth f.ty.toNat
  | .vconst f => limMove f.ty f.rm f.sat && limConst f.ty f.imm
  | .vcvt f => cvtPair (f.vc.extractLsb' 0 4).toNat f.ty.toNat
  | .vwiden f => f.rm == 0 && f.sat == 0 && widenPairs.contains ((f.vc.extractLsb' 0 4).toNat, f.ty.toNat)
  | .vnarrow f => narrowPair (f.vc.extractLsb' 0 4).toNat f.ty.toNat
  | .vaddScalar f | .vsubScalar f | .vmulScalar f | .vfmaScalar f | .vfmsScalar f | .vfnmaScalar f =>
      limArith f.ty f.rm f.sat
  | .vdivScalar f => limDiv f.ty f.rm f.sat
  | .vminScalar f | .vmaxScalar f => limFI f.ty f.rm f.sat
  | .vandScalar f | .vorScalar f | .vxorScalar f | .vandnScalar f | .vshlScalar f | .vshrScalar f
  | .vsarScalar f | .vmulhScalar f => limI f.ty f.rm f.sat
  | .ldI8 f | .ldI16 f | .ldI32 f | .ldN8 f | .ldN16 f | .ldN32 f | .ldN64 f | .lda f | .vld f | .ldesc f
  | .pref f | .cinv f | .cflush f => limLoad f.ord f.scope f.ev
  | .ldAcq _ f => limLoadAcq f.ord f.scope f.ev
  | .vldx f => limLoad f.ord f.scope f.ev && f.sc.toNat ≤ 6
  | .stN8 f | .stN16 f | .stN32 f | .stN64 f | .sta f | .vst f | .sdesc f => limStore f.ord f.scope f.ev
  | .stRel _ f => limStoreRel f.ord f.scope f.ev
  | .vstx f => limStore f.ord f.scope f.ev && f.sc.toNat ≤ 6
  | .cwb f => limLoad f.ord f.scope f.ev
  | .svld f | .svlds f | .sld f | .svst f | .svsts f | .sst f => limScr f.ord f.scope f.ev
  | .svgth f | .svsct f => limScr f.ord f.scope f.ev
  | .atmAdd f | .atmAnd f | .atmOr f | .atmXor f | .atmMinI64 f | .atmMaxI64 f | .atmMinN64 f | .atmMaxN64 f
  | .atmSwp f | .atmCas f | .atmFaddF32 f => limAtomic f
  | .xshl f | .xshr f => f.imm.toNat ≤ 63
  | .xpopc f => f.imm.toNat ≤ 64
  | .xcmp f => (f.imm.extractLsb' 0 3).toNat ≤ 5
  | .xadv f => f.d != f.a && f.d != f.b && f.a != f.b
  | .xtov f => f.imm.toNat ≤ 63
  | .mrepl f => 1 ≤ (f.imm.extractLsb' 0 4).toNat && (f.imm.extractLsb' 0 4).toNat ≤ 8
  | .mcancelId f => f.imm.extractLsb' 12 2 == 0
  | .mcancelAll f => f.imm.extractLsb' 12 2 == 1
  | .mcancelFlush f => f.imm.extractLsb' 12 2 == 2
  | .mtopkSet f => (f.imm.extractLsb' 0 4).toNat ≤ 8
  | .mstatTile f => f.imm.extractLsb' 20 3 == 0
  | .mstatEngine f => f.imm.extractLsb' 20 3 == 1
  | .mcall f => f.imm.extractLsb' 0 10 == 0 || f.imm.extractLsb' 0 10 == 0x40
  | .kcopy f | .kput f | .kget f => limK f
  | .kloop f => limK f && f.imm != 0
  | .kcollAllReduce f => limColl 0 f
  | .kcollAllGather f => limColl 1 f
  | .kcollReduceScatter f => limColl 2 f
  | .kcollBroadcast f => limColl 3 f
  | .kstage f => f.imm == 0
  | .kstageSched f => f.imm == 1
  | .kcancelChannel f => f.imm.extractLsb' 0 2 == 0
  | .kcancelAll f => f.imm.extractLsb' 0 2 == 1
  | .kcancelFlush f => f.imm.extractLsb' 0 2 == 2
  | .ksyncrd f => f.ch == 0
  | .ksyncrdWait f => f.ch == 1
  | .bsync f => f.imm.getLsbD 0 == false
  | .bsyncWait f => f.imm.getLsbD 0
  | .relSt f => limY f.scope && f.ev.toNat < 6
  | .acqLd f | .acqLdAll f => limY f.scope && f.ev != 7
  | .relFence f | .acqFence f => limY f.scope && f.ev == 0
  | .waitaddr f => f.scope.toNat ≥ 2 && limY f.scope && f.ev == 0
  | .waitM f => f.imm.toNat < 32
  | .drain f => f.scope.toNat ≤ 5
  | .ujmp f | .ubz f => 1 ≤ f.disp.toNat && f.disp.toNat ≤ 511
  | .uloop f => 1 ≤ f.ec.toNat && f.ec.toNat ≤ 8
  | .ushli f => f.imm.toNat ≤ 71
  | .uldop f => 1 ≤ f.n.toNat && f.n.toNat ≤ 43 && f.lo.toNat ≤ 42 && f.lo.toNat + f.n.toNat ≤ 43
  | .uacc f => 1 ≤ f.cnt.toNat && f.cnt.toNat ≤ 32
  | .utopk f => f.t.toNat ≤ 8
  | _ => true

/-- A register field in its class, narrowed by the task's declared vector registers and accumulators (R58, R59). -/
def opndOk (vregs accs : Nat) (o : Opnd) : Bool :=
  o.n < (match o.rc with
    | .v => min vregs 1024 | .acc => min accs 32 | rc => rc.size) &&
  !(o.w && o.n == 0 && (o.rc == .g || o.rc == .p))

/-- The reason of R72 for which this operation's own fields make it no instruction: 2, 3 or 4, the lowest that holds, or none. -/
def fieldReason (vregs accs : Nat) (i : Instr) : Option Nat :=
  if (zeroFields i).any (· != 0) then some 2
  else if !(explicitOps i).all (opndOk vregs accs) then some 3
  else if !limits i then some 4
  else none

/-- An operation that the encoding rules allow, with every register of the machine declared. -/
def wf (i : Instr) : Bool := fieldReason 1024 32 i == none

/-- Opcodes legal in VA only (R66). -/
def vaOnly : Instr → Bool
  | .vperm _ | .vradd _ | .vrmax _ | .vrmin _ | .vrand _ | .vror _ | .vrxor _ | .vqblk _ => true
  | _ => false

/-- The shape register that a swap bit exchanges with this operation: the formats with an hs field (R55, R61). -/
def hsField : Instr → Option Nat
  | .svld f | .svlds f | .sld f | .svst f | .svsts f | .sst f => some f.hs.toNat
  | .svgth f | .svsct f => some f.hs.toNat
  | .mstep f => some f.hs.toNat
  | .mzero f | .mdrain f | .mdrainV f | .mpin f | .munpin f | .minv f | .mrepl f | .mwrite f | .mpref f
  | .mcancelId f | .mcancelAll f | .mcancelFlush f | .mtopkSet f | .mtopkGet f | .mstatTile f | .mstatEngine f
  | .mcall f | .mtsclr f => some f.hs.toNat
  | .kcopy f | .kloop f | .kstage f | .kstageSched f | .kwm f | .ksync f | .kput f | .kget f | .kcollAllReduce f
  | .kcollAllGather f | .kcollReduceScatter f | .kcollBroadcast f | .kcancelChannel f | .kcancelAll f
  | .kcancelFlush f | .kstat f | .kwmrd f | .ksyncrd f | .ksyncrdWait f => some f.hs.toNat
  | .xadd f | .xsub f | .xand f | .xshl f | .xshr f | .xpopc f | .xaddi f | .xcmp f | .xsel f | .xadv f
  | .xld f => some f.hs.toNat
  | _ => none

end Sys2Proof
end

