-- ==== Sys2Proof/Decode.lean ====
section
/-! DEFINITION. The decoder: slot words, micro-words and bundles to instructions, rejecting every other encoding with its reason (R51 to R74, R230 to R232), and after it the encoder, from the same tables.
`noncomputable` stands where the vector operations are built: Lean's compiler gives no object code for a constructor beyond the 245th of a type, and `Instr` has one for each of the 414 rows; the kernel evaluates these definitions as any other. -/
namespace Sys2Proof

/-- The fields of format SR (R61). -/
def unpackSR (x : BitVec 51) : SR := ⟨x.extractLsb' 45 6, x.extractLsb' 39 6, x.extractLsb' 33 6⟩
/-- The bits that format SR marks zero are zero. -/
def zeroSR (x : BitVec 51) : Bool := x.extractLsb' 0 33 == 0
/-- The operand bits of format SR. -/
def packSR (f : SR) : BitVec 51 := f.d ++ f.a ++ f.b ++ 0#33
/-- The fields of format SI (R61). -/
def unpackSI (x : BitVec 51) : SI := ⟨x.extractLsb' 45 6, x.extractLsb' 39 6, x.extractLsb' 0 39⟩
/-- The bits that format SI marks zero are zero. -/
def zeroSI (_x : BitVec 51) : Bool := true
/-- The operand bits of format SI. -/
def packSI (f : SI) : BitVec 51 := f.d ++ f.a ++ f.imm
/-- The fields of format SW (R61). -/
def unpackSW (x : BitVec 51) : SW := ⟨x.extractLsb' 45 6, x.extractLsb' 0 45⟩
/-- The bits that format SW marks zero are zero. -/
def zeroSW (_x : BitVec 51) : Bool := true
/-- The operand bits of format SW. -/
def packSW (f : SW) : BitVec 51 := f.d ++ f.imm
/-- The fields of format SB (R61). -/
def unpackSB (x : BitVec 51) : SB := ⟨x.extractLsb' 45 6, x.extractLsb' 43 2, x.extractLsb' 0 39⟩
/-- The bits that format SB marks zero are zero. -/
def zeroSB (x : BitVec 51) : Bool := x.extractLsb' 39 4 == 0
/-- The operand bits of format SB. -/
def packSB (f : SB) : BitVec 51 := f.a ++ f.lc ++ 0#4 ++ f.target
/-- The fields of format SF (R61). -/
def unpackSF (x : BitVec 51) : SF := ⟨x.extractLsb' 48 3, x.extractLsb' 46 2, x.extractLsb' 42 4, x.extractLsb' 36 6, x.extractLsb' 0 36⟩
/-- The bits that format SF marks zero are zero. -/
def zeroSF (_x : BitVec 51) : Bool := true
/-- The operand bits of format SF. -/
def packSF (f : SF) : BitVec 51 := f.eng ++ f.h ++ f.fld ++ f.s ++ f.imm
/-- The fields of format SY (R61). -/
def unpackSY (x : BitVec 51) : SY := ⟨x.extractLsb' 45 6, x.extractLsb' 33 12⟩
/-- The bits that format SY marks zero are zero. -/
def zeroSY (x : BitVec 51) : Bool := x.extractLsb' 0 33 == 0
/-- The operand bits of format SY. -/
def packSY (f : SY) : BitVec 51 := f.d ++ f.sysreg ++ 0#33
/-- The fields of format VR (R61). -/
def unpackVR (x : BitVec 51) : VR := ⟨x.extractLsb' 47 4, x.extractLsb' 43 4, x.extractLsb' 41 2, x.extractLsb' 40 1, x.extractLsb' 30 10, x.extractLsb' 20 10, x.extractLsb' 10 10, x.extractLsb' 0 10⟩
/-- The bits that format VR marks zero are zero. -/
def zeroVR (_x : BitVec 51) : Bool := true
/-- The operand bits of format VR. -/
def packVR (f : VR) : BitVec 51 := f.p ++ f.ty ++ f.rm ++ f.sat ++ f.vd ++ f.va ++ f.vb ++ f.vc
/-- The fields of format VI (R61). -/
def unpackVI (x : BitVec 51) : VI := ⟨x.extractLsb' 47 4, x.extractLsb' 43 4, x.extractLsb' 41 2, x.extractLsb' 40 1, x.extractLsb' 30 10, x.extractLsb' 20 10, x.extractLsb' 0 20⟩
/-- The bits that format VI marks zero are zero. -/
def zeroVI (_x : BitVec 51) : Bool := true
/-- The operand bits of format VI. -/
def packVI (f : VI) : BitVec 51 := f.p ++ f.ty ++ f.rm ++ f.sat ++ f.vd ++ f.va ++ f.imm
/-- The fields of format VS (R61). -/
def unpackVS (x : BitVec 51) : VS := ⟨x.extractLsb' 47 4, x.extractLsb' 43 4, x.extractLsb' 41 2, x.extractLsb' 40 1, x.extractLsb' 30 10, x.extractLsb' 20 10, x.extractLsb' 10 6, x.extractLsb' 0 10⟩
/-- The bits that format VS marks zero are zero. -/
def zeroVS (x : BitVec 51) : Bool := x.extractLsb' 16 4 == 0
/-- The operand bits of format VS. -/
def packVS (f : VS) : BitVec 51 := f.p ++ f.ty ++ f.rm ++ f.sat ++ f.vd ++ f.va ++ 0#4 ++ f.s ++ f.vc
/-- The fields of format MA (R61). -/
def unpackMA (x : BitVec 45) : MA := ⟨x.extractLsb' 43 2, x.extractLsb' 40 3, x.extractLsb' 37 3, x.extractLsb' 27 10, x.extractLsb' 22 5, x.extractLsb' 0 22⟩
/-- The bits that format MA marks zero are zero. -/
def zeroMA (_x : BitVec 45) : Bool := true
/-- The operand bits of format MA. -/
def packMA (f : MA) : BitVec 45 := f.ord ++ f.scope ++ f.ev ++ f.data ++ f.a ++ f.off
/-- The fields of format MX (R61). -/
def unpackMX (x : BitVec 45) : MX := ⟨x.extractLsb' 43 2, x.extractLsb' 40 3, x.extractLsb' 37 3, x.extractLsb' 27 10, x.extractLsb' 22 5, x.extractLsb' 16 6, x.extractLsb' 13 3⟩
/-- The bits that format MX marks zero are zero. -/
def zeroMX (x : BitVec 45) : Bool := x.extractLsb' 0 13 == 0
/-- The operand bits of format MX. -/
def packMX (f : MX) : BitVec 45 := f.ord ++ f.scope ++ f.ev ++ f.data ++ f.a ++ f.s ++ f.sc ++ 0#13
/-- The fields of format MP (R61). -/
def unpackMP (x : BitVec 45) : MP := ⟨x.extractLsb' 43 2, x.extractLsb' 40 3, x.extractLsb' 37 3, x.extractLsb' 27 10, x.extractLsb' 23 4, x.extractLsb' 21 2, x.extractLsb' 0 20⟩
/-- The bits that format MP marks zero are zero. -/
def zeroMP (x : BitVec 45) : Bool := x.extractLsb' 20 1 == 0
/-- The operand bits of format MP. -/
def packMP (f : MP) : BitVec 45 := f.ord ++ f.scope ++ f.ev ++ f.data ++ f.b ++ f.hs ++ 0#1 ++ f.off
/-- The fields of format MG (R61). -/
def unpackMG (x : BitVec 45) : MG := ⟨x.extractLsb' 43 2, x.extractLsb' 40 3, x.extractLsb' 37 3, x.extractLsb' 27 10, x.extractLsb' 23 4, x.extractLsb' 21 2, x.extractLsb' 11 10, x.extractLsb' 0 11⟩
/-- The bits that format MG marks zero are zero. -/
def zeroMG (_x : BitVec 45) : Bool := true
/-- The operand bits of format MG. -/
def packMG (f : MG) : BitVec 45 := f.ord ++ f.scope ++ f.ev ++ f.data ++ f.b ++ f.hs ++ f.vi ++ f.off
/-- The fields of format MT (R61). -/
def unpackMT (x : BitVec 45) : MT := ⟨x.extractLsb' 43 2, x.extractLsb' 40 3, x.extractLsb' 37 3, x.extractLsb' 31 6, x.extractLsb' 25 6, x.extractLsb' 19 6, x.extractLsb' 14 5, x.extractLsb' 0 14⟩
/-- The bits that format MT marks zero are zero. -/
def zeroMT (_x : BitVec 45) : Bool := true
/-- The operand bits of format MT. -/
def packMT (f : MT) : BitVec 45 := f.ord ++ f.scope ++ f.ev ++ f.d ++ f.x ++ f.y ++ f.a ++ f.off
/-- The fields of format MS (R61). -/
def unpackMS (x : BitVec 43) : MS := ⟨x.extractLsb' 38 5, x.extractLsb' 36 2, x.extractLsb' 33 3, x.extractLsb' 30 3, x.extractLsb' 15 15, x.extractLsb' 0 15⟩
/-- The bits that format MS marks zero are zero. -/
def zeroMS (_x : BitVec 43) : Bool := true
/-- The operand bits of format MS. -/
def packMS (f : MS) : BitVec 43 := f.acc ++ f.hs ++ f.mt ++ f.ma ++ f.toff ++ f.aoff
/-- The fields of format MD (R61). -/
def unpackMD (x : BitVec 43) : MD := ⟨x.extractLsb' 38 5, x.extractLsb' 36 2, x.extractLsb' 33 3, x.extractLsb' 23 10, x.extractLsb' 0 23⟩
/-- The bits that format MD marks zero are zero. -/
def zeroMD (_x : BitVec 43) : Bool := true
/-- The operand bits of format MD. -/
def packMD (f : MD) : BitVec 43 := f.acc ++ f.hs ++ f.mp ++ f.v ++ f.imm
/-- The fields of format KC (R61). -/
def unpackKC (x : BitVec 45) : KC := ⟨x.extractLsb' 41 4, x.extractLsb' 39 2, x.extractLsb' 36 3, x.extractLsb' 31 5, x.extractLsb' 26 5, x.extractLsb' 20 6, x.extractLsb' 0 20⟩
/-- The bits that format KC marks zero are zero. -/
def zeroKC (_x : BitVec 45) : Bool := true
/-- The operand bits of format KC. -/
def packKC (f : KC) : BitVec 45 := f.ch ++ f.hs ++ f.scope ++ f.da ++ f.oa ++ f.s ++ f.imm
/-- The fields of format XR (R61). -/
def unpackXR (x : BitVec 29) : XR := ⟨x.extractLsb' 25 4, x.extractLsb' 21 4, x.extractLsb' 17 4, x.extractLsb' 15 2, x.extractLsb' 0 15⟩
/-- The bits that format XR marks zero are zero. -/
def zeroXR (_x : BitVec 29) : Bool := true
/-- The operand bits of format XR. -/
def packXR (f : XR) : BitVec 29 := f.d ++ f.a ++ f.b ++ f.hs ++ f.imm
/-- The fields of format XS (R61). -/
def unpackXS (x : BitVec 29) : XS := ⟨x.extractLsb' 23 6, x.extractLsb' 19 4, x.extractLsb' 0 19⟩
/-- The bits that format XS marks zero are zero. -/
def zeroXS (_x : BitVec 29) : Bool := true
/-- The operand bits of format XS. -/
def packXS (f : XS) : BitVec 29 := f.d ++ f.x ++ f.imm
/-- The fields of format XV (R61). -/
def unpackXV (x : BitVec 29) : XV := ⟨x.extractLsb' 25 4, x.extractLsb' 15 10, x.extractLsb' 11 4, x.extractLsb' 0 11⟩
/-- The bits that format XV marks zero are zero. -/
def zeroXV (_x : BitVec 29) : Bool := true
/-- The operand bits of format XV. -/
def packXV (f : XV) : BitVec 29 := f.ix ++ f.v ++ f.p ++ f.imm
/-- The fields of format YB (R61). -/
def unpackYB (x : BitVec 29) : YB := ⟨x.extractLsb' 23 6, x.extractLsb' 17 6, x.extractLsb' 0 17⟩
/-- The bits that format YB marks zero are zero. -/
def zeroYB (_x : BitVec 29) : Bool := true
/-- The operand bits of format YB. -/
def packYB (f : YB) : BitVec 29 := f.nb ++ f.s ++ f.imm
/-- The fields of format YM (R61). -/
def unpackYM (x : BitVec 29) : YM := ⟨x.extractLsb' 26 3, x.extractLsb' 23 3, x.extractLsb' 18 5, x.extractLsb' 12 6, x.extractLsb' 0 12⟩
/-- The bits that format YM marks zero are zero. -/
def zeroYM (_x : BitVec 29) : Bool := true
/-- The operand bits of format YM. -/
def packYM (f : YM) : BitVec 29 := f.scope ++ f.ev ++ f.a ++ f.s ++ f.off
/-- The fields of format YW (R61). -/
def unpackYW (x : BitVec 29) : YW := ⟨x.extractLsb' 23 6, x.extractLsb' 7 16, x.extractLsb' 0 7⟩
/-- The bits that format YW marks zero are zero. -/
def zeroYW (_x : BitVec 29) : Bool := true
/-- The operand bits of format YW. -/
def packYW (f : YW) : BitVec 29 := f.s ++ f.mask ++ f.imm
/-- The fields of format UA (R231). -/
def unpackUA (x : BitVec 53) : UA := ⟨x.extractLsb' 49 4, x.extractLsb' 45 4, x.extractLsb' 41 4, x.extractLsb' 0 41⟩
/-- The bits that format UA marks zero are zero. -/
def zeroUA (_x : BitVec 53) : Bool := true
/-- The operand bits of format UA. -/
def packUA (f : UA) : BitVec 53 := f.d ++ f.a ++ f.b ++ f.imm
/-- The fields of format UO (R231). -/
def unpackUO (x : BitVec 53) : UO := ⟨x.extractLsb' 49 4, x.extractLsb' 48 1, x.extractLsb' 6 6, x.extractLsb' 0 6⟩
/-- The bits that format UO marks zero are zero. -/
def zeroUO (x : BitVec 53) : Bool := x.extractLsb' 12 36 == 0
/-- The operand bits of format UO. -/
def packUO (f : UO) : BitVec 53 := f.d ++ f.sx ++ 0#36 ++ f.lo ++ f.n
/-- The fields of format UP (R231). -/
def unpackUP (x : BitVec 53) : UP := ⟨x.extractLsb' 49 4, x.extractLsb' 46 3⟩
/-- The bits that format UP marks zero are zero. -/
def zeroUP (x : BitVec 53) : Bool := x.extractLsb' 0 46 == 0
/-- The operand bits of format UP. -/
def packUP (f : UP) : BitVec 53 := f.d ++ f.mp ++ 0#46
/-- The fields of format UL (R231). -/
def unpackUL (x : BitVec 53) : UL := ⟨x.extractLsb' 51 2, x.extractLsb' 47 4, x.extractLsb' 43 4, x.extractLsb' 42 1, x.extractLsb' 0 10⟩
/-- The bits that format UL marks zero are zero. -/
def zeroUL (x : BitVec 53) : Bool := x.extractLsb' 10 32 == 0
/-- The operand bits of format UL. -/
def packUL (f : UL) : BitVec 53 := f.n ++ f.a ++ f.ec ++ f.r ++ 0#32 ++ f.disp
/-- The fields of format UM (R231). -/
def unpackUM (x : BitVec 53) : UM := ⟨x.extractLsb' 49 4, x.extractLsb' 45 4, x.extractLsb' 43 2⟩
/-- The bits that format UM marks zero are zero. -/
def zeroUM (x : BitVec 53) : Bool := x.extractLsb' 0 43 == 0
/-- The operand bits of format UM. -/
def packUM (f : UM) : BitVec 53 := f.t ++ f.a ++ f.h ++ 0#43
/-- The fields of format UR (R231). -/
def unpackUR (x : BitVec 53) : UR := ⟨x.extractLsb' 45 8⟩
/-- The bits that format UR marks zero are zero. -/
def zeroUR (x : BitVec 53) : Bool := x.extractLsb' 0 45 == 0
/-- The operand bits of format UR. -/
def packUR (f : UR) : BitVec 53 := f.ring ++ 0#45
/-- The fields of format UK (R231). -/
def unpackUK (x : BitVec 53) : UK := ⟨x.extractLsb' 48 5, x.extractLsb' 42 6⟩
/-- The bits that format UK marks zero are zero. -/
def zeroUK (x : BitVec 53) : Bool := x.extractLsb' 0 42 == 0
/-- The operand bits of format UK. -/
def packUK (f : UK) : BitVec 53 := f.n ++ f.cnt ++ 0#42
/-- The S slot's opcode map (R65): the operation, and whether the bits its format marks zero are zero; none for an unassigned opcode. -/
def decodeOpS (op : Nat) (x : BitVec 51) : Option (Instr × Bool) :=
  match op with
  | 0x00 => some (.nop, x == 0)
  | 0x01 => some (.add (unpackSR x), zeroSR x)
  | 0x02 => some (.sub (unpackSR x), zeroSR x)
  | 0x03 => some (.and (unpackSR x), zeroSR x)
  | 0x04 => some (.or (unpackSR x), zeroSR x)
  | 0x05 => some (.xor (unpackSR x), zeroSR x)
  | 0x06 => some (.andn (unpackSR x), zeroSR x)
  | 0x07 => some (.shl (unpackSR x), zeroSR x)
  | 0x08 => some (.shr (unpackSR x), zeroSR x)
  | 0x09 => some (.sar (unpackSR x), zeroSR x)
  | 0x0A => some (.rotl (unpackSR x), zeroSR x)
  | 0x0B => some (.minI64 (unpackSR x), zeroSR x)
  | 0x0C => some (.maxI64 (unpackSR x), zeroSR x)
  | 0x0D => some (.minN64 (unpackSR x), zeroSR x)
  | 0x0E => some (.maxN64 (unpackSR x), zeroSR x)
  | 0x0F => some (.mul (unpackSR x), zeroSR x)
  | 0x10 => some (.mulhI64 (unpackSR x), zeroSR x)
  | 0x11 => some (.mulhN64 (unpackSR x), zeroSR x)
  | 0x12 => some (.divI32 (unpackSR x), zeroSR x)
  | 0x13 => some (.divN32 (unpackSR x), zeroSR x)
  | 0x14 => some (.divI64 (unpackSR x), zeroSR x)
  | 0x15 => some (.divN64 (unpackSR x), zeroSR x)
  | 0x16 => some (.remI32 (unpackSR x), zeroSR x)
  | 0x17 => some (.remN32 (unpackSR x), zeroSR x)
  | 0x18 => some (.remI64 (unpackSR x), zeroSR x)
  | 0x19 => some (.remN64 (unpackSR x), zeroSR x)
  | 0x20 => some (.addi (unpackSI x), zeroSI x)
  | 0x21 => some (.andi (unpackSI x), zeroSI x)
  | 0x22 => some (.ori (unpackSI x), zeroSI x)
  | 0x23 => some (.xori (unpackSI x), zeroSI x)
  | 0x24 => some (.shli (unpackSI x), zeroSI x)
  | 0x25 => some (.shri (unpackSI x), zeroSI x)
  | 0x26 => some (.sari (unpackSI x), zeroSI x)
  | 0x27 => some (.muli (unpackSI x), zeroSI x)
  | 0x28 => some (.miniI64 (unpackSI x), zeroSI x)
  | 0x29 => some (.maxiI64 (unpackSI x), zeroSI x)
  | 0x2A => some (.sexti (unpackSI x), zeroSI x)
  | 0x2B => some (.zexti (unpackSI x), zeroSI x)
  | 0x2C => some (.li (unpackSW x), zeroSW x)
  | 0x2D => some (.lih (unpackSW x), zeroSW x)
  | 0x30 => some (.ceq (unpackSR x), zeroSR x)
  | 0x31 => some (.cne (unpackSR x), zeroSR x)
  | 0x32 => some (.cltI64 (unpackSR x), zeroSR x)
  | 0x33 => some (.cltN64 (unpackSR x), zeroSR x)
  | 0x34 => some (.cleI64 (unpackSR x), zeroSR x)
  | 0x35 => some (.cleN64 (unpackSR x), zeroSR x)
  | 0x36 => some (.ctst (unpackSR x), zeroSR x)
  | 0x37 => some (.cnz (unpackSR x), zeroSR x)
  | 0x38 => some (.ceqi (unpackSI x), zeroSI x)
  | 0x39 => some (.cnei (unpackSI x), zeroSI x)
  | 0x3A => some (.cltiI64 (unpackSI x), zeroSI x)
  | 0x3B => some (.cltiN64 (unpackSI x), zeroSI x)
  | 0x3C => some (.cleiI64 (unpackSI x), zeroSI x)
  | 0x3D => some (.cleiN64 (unpackSI x), zeroSI x)
  | 0x3E => some (.ctsb (unpackSI x), zeroSI x)
  | 0x40 => some (.gand (unpackSR x), zeroSR x)
  | 0x41 => some (.gor (unpackSR x), zeroSR x)
  | 0x42 => some (.gxor (unpackSR x), zeroSR x)
  | 0x43 => some (.gandn (unpackSR x), zeroSR x)
  | 0x44 => some (.gtos (unpackSR x), zeroSR x)
  | 0x45 => some (.stog (unpackSR x), zeroSR x)
  | 0x48 => some (.aadd (unpackSR x), zeroSR x)
  | 0x49 => some (.aaddi (unpackSI x), zeroSI x)
  | 0x4A => some (.asub (unpackSR x), zeroSR x)
  | 0x4B => some (.adiff (unpackSR x), zeroSR x)
  | 0x4C => some (.amov (unpackSR x), zeroSR x)
  | 0x4D => some (.ali (unpackSW x), zeroSW x)
  | 0x4E => some (.alih (unpackSW x), zeroSW x)
  | 0x4F => some (.atos (unpackSR x), zeroSR x)
  | 0x50 => some (.bset (unpackSI x), zeroSI x)
  | 0x51 => some (.bget (unpackSI x), zeroSI x)
  | 0x52 => some (.lcset (unpackSI x), zeroSI x)
  | 0x53 => some (.lcget (unpackSI x), zeroSI x)
  | 0x54 => some (.mpset (unpackSI x), zeroSI x)
  | 0x55 => some (.mpget (unpackSI x), zeroSI x)
  | 0x56 => some (.shset (unpackSF x), zeroSF x)
  | 0x57 => some (.tsrd (unpackSR x), zeroSR x)
  | 0x58 => some (.br (unpackSB x), zeroSB x)
  | 0x59 => some (.call (unpackSB x), zeroSB x)
  | 0x5A => some (.ret (unpackSB x), zeroSB x)
  | 0x5B => some (.brs (unpackSB x), zeroSB x)
  | 0x5C => some (.calls (unpackSB x), zeroSB x)
  | 0x5D => some (.lbr (unpackSB x), zeroSB x)
  | 0xE0 => some (.sysrd (unpackSY x), zeroSY x)
  | 0xE1 => some (.syswr (unpackSY x), zeroSY x)
  | 0xE2 => some (.trap (unpackSI x), zeroSI x)
  | 0xE3 => some (.tret (unpackSR x), zeroSR x)
  | 0xE4 => some (.idle (unpackSR x), zeroSR x)
  | 0xE5 => some (.tlbinvVa (unpackSR x), zeroSR x)
  | 0xE6 => some (.tlbinvCtx (unpackSR x), zeroSR x)
  | 0xE7 => some (.tlbinvAll (unpackSR x), zeroSR x)
  | 0xE8 => some (.biasDev (unpackSI x), zeroSI x)
  | 0xE9 => some (.biasHost (unpackSI x), zeroSI x)
  | 0xEA => some (.stitchIns (unpackSR x), zeroSR x)
  | 0xEB => some (.stitchBind (unpackSR x), zeroSR x)
  | 0xEC => some (.stitchUnbind (unpackSR x), zeroSR x)
  | 0xED => some (.stitchDrop (unpackSR x), zeroSR x)
  | 0xEE => some (.ctxEnd (unpackSR x), zeroSR x)
  | _ => none
/-- The opcode and operand bits of a S-slot operation (R65); none for another slot's. -/
def encodeOpS : Instr → Option (Nat × BitVec 51)
  | .nop => some (0x00, 0)
  | .add f => some (0x01, packSR f)
  | .sub f => some (0x02, packSR f)
  | .and f => some (0x03, packSR f)
  | .or f => some (0x04, packSR f)
  | .xor f => some (0x05, packSR f)
  | .andn f => some (0x06, packSR f)
  | .shl f => some (0x07, packSR f)
  | .shr f => some (0x08, packSR f)
  | .sar f => some (0x09, packSR f)
  | .rotl f => some (0x0A, packSR f)
  | .minI64 f => some (0x0B, packSR f)
  | .maxI64 f => some (0x0C, packSR f)
  | .minN64 f => some (0x0D, packSR f)
  | .maxN64 f => some (0x0E, packSR f)
  | .mul f => some (0x0F, packSR f)
  | .mulhI64 f => some (0x10, packSR f)
  | .mulhN64 f => some (0x11, packSR f)
  | .divI32 f => some (0x12, packSR f)
  | .divN32 f => some (0x13, packSR f)
  | .divI64 f => some (0x14, packSR f)
  | .divN64 f => some (0x15, packSR f)
  | .remI32 f => some (0x16, packSR f)
  | .remN32 f => some (0x17, packSR f)
  | .remI64 f => some (0x18, packSR f)
  | .remN64 f => some (0x19, packSR f)
  | .addi f => some (0x20, packSI f)
  | .andi f => some (0x21, packSI f)
  | .ori f => some (0x22, packSI f)
  | .xori f => some (0x23, packSI f)
  | .shli f => some (0x24, packSI f)
  | .shri f => some (0x25, packSI f)
  | .sari f => some (0x26, packSI f)
  | .muli f => some (0x27, packSI f)
  | .miniI64 f => some (0x28, packSI f)
  | .maxiI64 f => some (0x29, packSI f)
  | .sexti f => some (0x2A, packSI f)
  | .zexti f => some (0x2B, packSI f)
  | .li f => some (0x2C, packSW f)
  | .lih f => some (0x2D, packSW f)
  | .ceq f => some (0x30, packSR f)
  | .cne f => some (0x31, packSR f)
  | .cltI64 f => some (0x32, packSR f)
  | .cltN64 f => some (0x33, packSR f)
  | .cleI64 f => some (0x34, packSR f)
  | .cleN64 f => some (0x35, packSR f)
  | .ctst f => some (0x36, packSR f)
  | .cnz f => some (0x37, packSR f)
  | .ceqi f => some (0x38, packSI f)
  | .cnei f => some (0x39, packSI f)
  | .cltiI64 f => some (0x3A, packSI f)
  | .cltiN64 f => some (0x3B, packSI f)
  | .cleiI64 f => some (0x3C, packSI f)
  | .cleiN64 f => some (0x3D, packSI f)
  | .ctsb f => some (0x3E, packSI f)
  | .gand f => some (0x40, packSR f)
  | .gor f => some (0x41, packSR f)
  | .gxor f => some (0x42, packSR f)
  | .gandn f => some (0x43, packSR f)
  | .gtos f => some (0x44, packSR f)
  | .stog f => some (0x45, packSR f)
  | .aadd f => some (0x48, packSR f)
  | .aaddi f => some (0x49, packSI f)
  | .asub f => some (0x4A, packSR f)
  | .adiff f => some (0x4B, packSR f)
  | .amov f => some (0x4C, packSR f)
  | .ali f => some (0x4D, packSW f)
  | .alih f => some (0x4E, packSW f)
  | .atos f => some (0x4F, packSR f)
  | .bset f => some (0x50, packSI f)
  | .bget f => some (0x51, packSI f)
  | .lcset f => some (0x52, packSI f)
  | .lcget f => some (0x53, packSI f)
  | .mpset f => some (0x54, packSI f)
  | .mpget f => some (0x55, packSI f)
  | .shset f => some (0x56, packSF f)
  | .tsrd f => some (0x57, packSR f)
  | .br f => some (0x58, packSB f)
  | .call f => some (0x59, packSB f)
  | .ret f => some (0x5A, packSB f)
  | .brs f => some (0x5B, packSB f)
  | .calls f => some (0x5C, packSB f)
  | .lbr f => some (0x5D, packSB f)
  | .sysrd f => some (0xE0, packSY f)
  | .syswr f => some (0xE1, packSY f)
  | .trap f => some (0xE2, packSI f)
  | .tret f => some (0xE3, packSR f)
  | .idle f => some (0xE4, packSR f)
  | .tlbinvVa f => some (0xE5, packSR f)
  | .tlbinvCtx f => some (0xE6, packSR f)
  | .tlbinvAll f => some (0xE7, packSR f)
  | .biasDev f => some (0xE8, packSI f)
  | .biasHost f => some (0xE9, packSI f)
  | .stitchIns f => some (0xEA, packSR f)
  | .stitchBind f => some (0xEB, packSR f)
  | .stitchUnbind f => some (0xEC, packSR f)
  | .stitchDrop f => some (0xED, packSR f)
  | .ctxEnd f => some (0xEE, packSR f)
  | _ => none
/-- The V slot's opcode map (R66): the operation, and whether the bits its format marks zero are zero; none for an unassigned opcode. -/
noncomputable def decodeOpV (op : Nat) (x : BitVec 51) : Option (Instr × Bool) :=
  match op with
  | 0x00 => some (.nop, x == 0)
  | 0x01 => some (.vadd (unpackVR x), zeroVR x)
  | 0x02 => some (.vsub (unpackVR x), zeroVR x)
  | 0x03 => some (.vmul (unpackVR x), zeroVR x)
  | 0x04 => some (.vfma (unpackVR x), zeroVR x)
  | 0x05 => some (.vfms (unpackVR x), zeroVR x)
  | 0x06 => some (.vfnma (unpackVR x), zeroVR x)
  | 0x07 => some (.vmin (unpackVR x), zeroVR x)
  | 0x08 => some (.vmax (unpackVR x), zeroVR x)
  | 0x09 => some (.vabs (unpackVR x), zeroVR x)
  | 0x0A => some (.vneg (unpackVR x), zeroVR x)
  | 0x0B => some (.vand (unpackVR x), zeroVR x)
  | 0x0C => some (.vor (unpackVR x), zeroVR x)
  | 0x0D => some (.vxor (unpackVR x), zeroVR x)
  | 0x0E => some (.vandn (unpackVR x), zeroVR x)
  | 0x0F => some (.vshl (unpackVR x), zeroVR x)
  | 0x10 => some (.vshr (unpackVR x), zeroVR x)
  | 0x11 => some (.vsar (unpackVR x), zeroVR x)
  | 0x12 => some (.vmulh (unpackVR x), zeroVR x)
  | 0x13 => some (.vdiv (unpackVR x), zeroVR x)
  | 0x18 => some (.vrecip (unpackVR x), zeroVR x)
  | 0x19 => some (.vrsqrt (unpackVR x), zeroVR x)
  | 0x1A => some (.vsqrt (unpackVR x), zeroVR x)
  | 0x1B => some (.vexp2 (unpackVR x), zeroVR x)
  | 0x1C => some (.vlog2 (unpackVR x), zeroVR x)
  | 0x1D => some (.vsin (unpackVR x), zeroVR x)
  | 0x1E => some (.vcos (unpackVR x), zeroVR x)
  | 0x1F => some (.vtanh (unpackVR x), zeroVR x)
  | 0x20 => some (.vceq (unpackVR x), zeroVR x)
  | 0x21 => some (.vcne (unpackVR x), zeroVR x)
  | 0x22 => some (.vclt (unpackVR x), zeroVR x)
  | 0x23 => some (.vcle (unpackVR x), zeroVR x)
  | 0x24 => some (.vcgt (unpackVR x), zeroVR x)
  | 0x25 => some (.vcge (unpackVR x), zeroVR x)
  | 0x26 => some (.vcun (unpackVR x), zeroVR x)
  | 0x27 => some (.vclass (unpackVR x), zeroVR x)
  | 0x28 => some (.vsel (unpackVR x), zeroVR x)
  | 0x29 => some (.vperm (unpackVR x), zeroVR x)
  | 0x2A => some (.vrot (unpackVI x), zeroVI x)
  | 0x2B => some (.vbcast (unpackVS x), zeroVS x)
  | 0x2C => some (.vext (unpackVS x), zeroVS x)
  | 0x2D => some (.vins (unpackVS x), zeroVS x)
  | 0x2E => some (.vmov (unpackVR x), zeroVR x)
  | 0x2F => some (.vconst (unpackVI x), zeroVI x)
  | 0x30 => some (.vradd (unpackVR x), zeroVR x)
  | 0x31 => some (.vrmax (unpackVR x), zeroVR x)
  | 0x32 => some (.vrmin (unpackVR x), zeroVR x)
  | 0x33 => some (.vrand (unpackVR x), zeroVR x)
  | 0x34 => some (.vror (unpackVR x), zeroVR x)
  | 0x35 => some (.vrxor (unpackVR x), zeroVR x)
  | 0x38 => some (.vcvt (unpackVR x), zeroVR x)
  | 0x39 => some (.vqblk (unpackVR x), zeroVR x)
  | 0x3A => some (.vwiden (unpackVR x), zeroVR x)
  | 0x3B => some (.vnarrow (unpackVR x), zeroVR x)
  | 0x40 => some (.pand (unpackVR x), zeroVR x)
  | 0x41 => some (.por (unpackVR x), zeroVR x)
  | 0x42 => some (.pxor (unpackVR x), zeroVR x)
  | 0x43 => some (.pnot (unpackVR x), zeroVR x)
  | 0x44 => some (.pcnt (unpackVR x), zeroVR x)
  | 0x81 => some (.vaddScalar (unpackVS x), zeroVS x)
  | 0x82 => some (.vsubScalar (unpackVS x), zeroVS x)
  | 0x83 => some (.vmulScalar (unpackVS x), zeroVS x)
  | 0x84 => some (.vfmaScalar (unpackVS x), zeroVS x)
  | 0x85 => some (.vfmsScalar (unpackVS x), zeroVS x)
  | 0x86 => some (.vfnmaScalar (unpackVS x), zeroVS x)
  | 0x87 => some (.vminScalar (unpackVS x), zeroVS x)
  | 0x88 => some (.vmaxScalar (unpackVS x), zeroVS x)
  | 0x8B => some (.vandScalar (unpackVS x), zeroVS x)
  | 0x8C => some (.vorScalar (unpackVS x), zeroVS x)
  | 0x8D => some (.vxorScalar (unpackVS x), zeroVS x)
  | 0x8E => some (.vandnScalar (unpackVS x), zeroVS x)
  | 0x8F => some (.vshlScalar (unpackVS x), zeroVS x)
  | 0x90 => some (.vshrScalar (unpackVS x), zeroVS x)
  | 0x91 => some (.vsarScalar (unpackVS x), zeroVS x)
  | 0x92 => some (.vmulhScalar (unpackVS x), zeroVS x)
  | 0x93 => some (.vdivScalar (unpackVS x), zeroVS x)
  | _ => none
/-- The opcode and operand bits of a V-slot operation (R66); none for another slot's. -/
def encodeOpV : Instr → Option (Nat × BitVec 51)
  | .nop => some (0x00, 0)
  | .vadd f => some (0x01, packVR f)
  | .vsub f => some (0x02, packVR f)
  | .vmul f => some (0x03, packVR f)
  | .vfma f => some (0x04, packVR f)
  | .vfms f => some (0x05, packVR f)
  | .vfnma f => some (0x06, packVR f)
  | .vmin f => some (0x07, packVR f)
  | .vmax f => some (0x08, packVR f)
  | .vabs f => some (0x09, packVR f)
  | .vneg f => some (0x0A, packVR f)
  | .vand f => some (0x0B, packVR f)
  | .vor f => some (0x0C, packVR f)
  | .vxor f => some (0x0D, packVR f)
  | .vandn f => some (0x0E, packVR f)
  | .vshl f => some (0x0F, packVR f)
  | .vshr f => some (0x10, packVR f)
  | .vsar f => some (0x11, packVR f)
  | .vmulh f => some (0x12, packVR f)
  | .vdiv f => some (0x13, packVR f)
  | .vrecip f => some (0x18, packVR f)
  | .vrsqrt f => some (0x19, packVR f)
  | .vsqrt f => some (0x1A, packVR f)
  | .vexp2 f => some (0x1B, packVR f)
  | .vlog2 f => some (0x1C, packVR f)
  | .vsin f => some (0x1D, packVR f)
  | .vcos f => some (0x1E, packVR f)
  | .vtanh f => some (0x1F, packVR f)
  | .vceq f => some (0x20, packVR f)
  | .vcne f => some (0x21, packVR f)
  | .vclt f => some (0x22, packVR f)
  | .vcle f => some (0x23, packVR f)
  | .vcgt f => some (0x24, packVR f)
  | .vcge f => some (0x25, packVR f)
  | .vcun f => some (0x26, packVR f)
  | .vclass f => some (0x27, packVR f)
  | .vsel f => some (0x28, packVR f)
  | .vperm f => some (0x29, packVR f)
  | .vrot f => some (0x2A, packVI f)
  | .vbcast f => some (0x2B, packVS f)
  | .vext f => some (0x2C, packVS f)
  | .vins f => some (0x2D, packVS f)
  | .vmov f => some (0x2E, packVR f)
  | .vconst f => some (0x2F, packVI f)
  | .vradd f => some (0x30, packVR f)
  | .vrmax f => some (0x31, packVR f)
  | .vrmin f => some (0x32, packVR f)
  | .vrand f => some (0x33, packVR f)
  | .vror f => some (0x34, packVR f)
  | .vrxor f => some (0x35, packVR f)
  | .vcvt f => some (0x38, packVR f)
  | .vqblk f => some (0x39, packVR f)
  | .vwiden f => some (0x3A, packVR f)
  | .vnarrow f => some (0x3B, packVR f)
  | .pand f => some (0x40, packVR f)
  | .por f => some (0x41, packVR f)
  | .pxor f => some (0x42, packVR f)
  | .pnot f => some (0x43, packVR f)
  | .pcnt f => some (0x44, packVR f)
  | .vaddScalar f => some (0x81, packVS f)
  | .vsubScalar f => some (0x82, packVS f)
  | .vmulScalar f => some (0x83, packVS f)
  | .vfmaScalar f => some (0x84, packVS f)
  | .vfmsScalar f => some (0x85, packVS f)
  | .vfnmaScalar f => some (0x86, packVS f)
  | .vminScalar f => some (0x87, packVS f)
  | .vmaxScalar f => some (0x88, packVS f)
  | .vandScalar f => some (0x8B, packVS f)
  | .vorScalar f => some (0x8C, packVS f)
  | .vxorScalar f => some (0x8D, packVS f)
  | .vandnScalar f => some (0x8E, packVS f)
  | .vshlScalar f => some (0x8F, packVS f)
  | .vshrScalar f => some (0x90, packVS f)
  | .vsarScalar f => some (0x91, packVS f)
  | .vmulhScalar f => some (0x92, packVS f)
  | .vdivScalar f => some (0x93, packVS f)
  | _ => none
/-- The L slot's opcode map (R67): the operation, and whether the bits its format marks zero are zero; none for an unassigned opcode. -/
def decodeOpL (op : Nat) (x : BitVec 45) : Option (Instr × Bool) :=
  match op with
  | 0x00 => some (.nop, x == 0)
  | 0x01 => let f := unpackMA x; some ((if f.ord == 1 then .ldAcq .i8 f else .ldI8 f), zeroMA x)
  | 0x02 => let f := unpackMA x; some ((if f.ord == 1 then .ldAcq .i16 f else .ldI16 f), zeroMA x)
  | 0x03 => let f := unpackMA x; some ((if f.ord == 1 then .ldAcq .i32 f else .ldI32 f), zeroMA x)
  | 0x04 => let f := unpackMA x; some ((if f.ord == 1 then .ldAcq .n8 f else .ldN8 f), zeroMA x)
  | 0x05 => let f := unpackMA x; some ((if f.ord == 1 then .ldAcq .n16 f else .ldN16 f), zeroMA x)
  | 0x06 => let f := unpackMA x; some ((if f.ord == 1 then .ldAcq .n32 f else .ldN32 f), zeroMA x)
  | 0x07 => let f := unpackMA x; some ((if f.ord == 1 then .ldAcq .n64 f else .ldN64 f), zeroMA x)
  | 0x08 => let f := unpackMA x; some ((if f.ord == 1 then .ldAcq .a f else .lda f), zeroMA x)
  | 0x09 => some (.vld (unpackMA x), zeroMA x)
  | 0x0A => some (.vldx (unpackMX x), zeroMX x)
  | 0x10 => some (.svld (unpackMP x), zeroMP x)
  | 0x11 => some (.svlds (unpackMP x), zeroMP x)
  | 0x12 => some (.svgth (unpackMG x), zeroMG x)
  | 0x13 => some (.sld (unpackMP x), zeroMP x)
  | 0x18 => some (.ldesc (unpackMA x), zeroMA x)
  | 0x19 => some (.pref (unpackMA x), zeroMA x)
  | 0x1A => some (.cinv (unpackMA x), zeroMA x)
  | 0x1B => some (.cflush (unpackMA x), zeroMA x)
  | _ => none
/-- The opcode and operand bits of a L-slot operation (R67); none for another slot's. -/
def encodeOpL : Instr → Option (Nat × BitVec 45)
  | .nop => some (0x00, 0)
  | .ldI8 f => some (0x01, packMA f)
  | .ldI16 f => some (0x02, packMA f)
  | .ldI32 f => some (0x03, packMA f)
  | .ldN8 f => some (0x04, packMA f)
  | .ldN16 f => some (0x05, packMA f)
  | .ldN32 f => some (0x06, packMA f)
  | .ldN64 f => some (0x07, packMA f)
  | .lda f => some (0x08, packMA f)
  | .vld f => some (0x09, packMA f)
  | .vldx f => some (0x0A, packMX f)
  | .svld f => some (0x10, packMP f)
  | .svlds f => some (0x11, packMP f)
  | .svgth f => some (0x12, packMG f)
  | .sld f => some (0x13, packMP f)
  | .ldesc f => some (0x18, packMA f)
  | .pref f => some (0x19, packMA f)
  | .cinv f => some (0x1A, packMA f)
  | .cflush f => some (0x1B, packMA f)
  | .ldAcq k f => some (match k with | .i8 => 0x01 | .i16 => 0x02 | .i32 => 0x03 | .n8 => 0x04 | .n16 => 0x05 | .n32 => 0x06 | .n64 => 0x07 | .a => 0x08, packMA f)
  | _ => none
/-- The W slot's opcode map (R68): the operation, and whether the bits its format marks zero are zero; none for an unassigned opcode. -/
def decodeOpW (op : Nat) (x : BitVec 45) : Option (Instr × Bool) :=
  match op with
  | 0x00 => some (.nop, x == 0)
  | 0x01 => let f := unpackMA x; some ((if f.ord == 2 then .stRel .n8 f else .stN8 f), zeroMA x)
  | 0x02 => let f := unpackMA x; some ((if f.ord == 2 then .stRel .n16 f else .stN16 f), zeroMA x)
  | 0x03 => let f := unpackMA x; some ((if f.ord == 2 then .stRel .n32 f else .stN32 f), zeroMA x)
  | 0x04 => let f := unpackMA x; some ((if f.ord == 2 then .stRel .n64 f else .stN64 f), zeroMA x)
  | 0x05 => let f := unpackMA x; some ((if f.ord == 2 then .stRel .a f else .sta f), zeroMA x)
  | 0x06 => some (.vst (unpackMA x), zeroMA x)
  | 0x07 => some (.vstx (unpackMX x), zeroMX x)
  | 0x10 => some (.svst (unpackMP x), zeroMP x)
  | 0x11 => some (.svsts (unpackMP x), zeroMP x)
  | 0x12 => some (.svsct (unpackMG x), zeroMG x)
  | 0x13 => some (.sst (unpackMP x), zeroMP x)
  | 0x18 => some (.sdesc (unpackMA x), zeroMA x)
  | 0x19 => some (.cwb (unpackMA x), zeroMA x)
  | 0x20 => some (.atmAdd (unpackMT x), zeroMT x)
  | 0x21 => some (.atmAnd (unpackMT x), zeroMT x)
  | 0x22 => some (.atmOr (unpackMT x), zeroMT x)
  | 0x23 => some (.atmXor (unpackMT x), zeroMT x)
  | 0x24 => some (.atmMinI64 (unpackMT x), zeroMT x)
  | 0x25 => some (.atmMaxI64 (unpackMT x), zeroMT x)
  | 0x26 => some (.atmMinN64 (unpackMT x), zeroMT x)
  | 0x27 => some (.atmMaxN64 (unpackMT x), zeroMT x)
  | 0x28 => some (.atmSwp (unpackMT x), zeroMT x)
  | 0x29 => some (.atmCas (unpackMT x), zeroMT x)
  | 0x2A => some (.atmFaddF32 (unpackMT x), zeroMT x)
  | _ => none
/-- The opcode and operand bits of a W-slot operation (R68); none for another slot's. -/
def encodeOpW : Instr → Option (Nat × BitVec 45)
  | .nop => some (0x00, 0)
  | .stN8 f => some (0x01, packMA f)
  | .stN16 f => some (0x02, packMA f)
  | .stN32 f => some (0x03, packMA f)
  | .stN64 f => some (0x04, packMA f)
  | .sta f => some (0x05, packMA f)
  | .vst f => some (0x06, packMA f)
  | .vstx f => some (0x07, packMX f)
  | .svst f => some (0x10, packMP f)
  | .svsts f => some (0x11, packMP f)
  | .svsct f => some (0x12, packMG f)
  | .sst f => some (0x13, packMP f)
  | .sdesc f => some (0x18, packMA f)
  | .cwb f => some (0x19, packMA f)
  | .atmAdd f => some (0x20, packMT f)
  | .atmAnd f => some (0x21, packMT f)
  | .atmOr f => some (0x22, packMT f)
  | .atmXor f => some (0x23, packMT f)
  | .atmMinI64 f => some (0x24, packMT f)
  | .atmMaxI64 f => some (0x25, packMT f)
  | .atmMinN64 f => some (0x26, packMT f)
  | .atmMaxN64 f => some (0x27, packMT f)
  | .atmSwp f => some (0x28, packMT f)
  | .atmCas f => some (0x29, packMT f)
  | .atmFaddF32 f => some (0x2A, packMT f)
  | .stRel k f => some (match k with | .n8 => 0x01 | .n16 => 0x02 | .n32 => 0x03 | .n64 => 0x04 | .a => 0x05, packMA f)
  | _ => none
/-- The M slot's opcode map (R69): the operation, and whether the bits its format marks zero are zero; none for an unassigned opcode. -/
def decodeOpM (op : Nat) (x : BitVec 43) : Option (Instr × Bool) :=
  match op with
  | 0x00 => some (.nop, x == 0)
  | 0x01 => some (.mstep (unpackMS x), zeroMS x)
  | 0x02 => some (.mzero (unpackMD x), zeroMD x)
  | 0x03 => some (.mdrain (unpackMD x), zeroMD x)
  | 0x04 => some (.mdrainV (unpackMD x), zeroMD x)
  | 0x05 => some (.mpin (unpackMD x), zeroMD x)
  | 0x06 => some (.munpin (unpackMD x), zeroMD x)
  | 0x07 => some (.minv (unpackMD x), zeroMD x)
  | 0x08 => some (.mrepl (unpackMD x), zeroMD x)
  | 0x09 => some (.mwrite (unpackMD x), zeroMD x)
  | 0x0A => some (.mpref (unpackMD x), zeroMD x)
  | 0x0B => let f := unpackMD x; some ((match (f.imm.extractLsb' 12 2).toNat with | 0 => .mcancelId f | 1 => .mcancelAll f | _ => .mcancelFlush f), zeroMD x)
  | 0x0C => some (.mtopkSet (unpackMD x), zeroMD x)
  | 0x0D => some (.mtopkGet (unpackMD x), zeroMD x)
  | 0x0E => let f := unpackMD x; some ((if f.imm.extractLsb' 20 3 == 0 then .mstatTile f else .mstatEngine f), zeroMD x)
  | 0x0F => some (.mcall (unpackMD x), zeroMD x)
  | 0x10 => some (.mtsclr (unpackMD x), zeroMD x)
  | n => if 0xC0 ≤ n ∧ n ≤ 0xFF then some (.stitchOpcode (BitVec.ofNat 6 (n - 0xC0)) x, true) else none
/-- The opcode and operand bits of a M-slot operation (R69); none for another slot's. -/
def encodeOpM : Instr → Option (Nat × BitVec 43)
  | .nop => some (0x00, 0)
  | .mstep f => some (0x01, packMS f)
  | .mzero f => some (0x02, packMD f)
  | .mdrain f => some (0x03, packMD f)
  | .mdrainV f => some (0x04, packMD f)
  | .mpin f => some (0x05, packMD f)
  | .munpin f => some (0x06, packMD f)
  | .minv f => some (0x07, packMD f)
  | .mrepl f => some (0x08, packMD f)
  | .mwrite f => some (0x09, packMD f)
  | .mpref f => some (0x0A, packMD f)
  | .mcancelId f => some (0x0B, packMD f)
  | .mcancelAll f => some (0x0B, packMD f)
  | .mcancelFlush f => some (0x0B, packMD f)
  | .mtopkSet f => some (0x0C, packMD f)
  | .mtopkGet f => some (0x0D, packMD f)
  | .mstatTile f => some (0x0E, packMD f)
  | .mstatEngine f => some (0x0E, packMD f)
  | .mcall f => some (0x0F, packMD f)
  | .mtsclr f => some (0x10, packMD f)
  | .stitchOpcode idx opw => some (0xC0 + idx.toNat, opw)
  | _ => none
/-- The K slot's opcode map (R71): the operation, and whether the bits its format marks zero are zero; none for an unassigned opcode. -/
def decodeOpK (op : Nat) (x : BitVec 45) : Option (Instr × Bool) :=
  match op with
  | 0x00 => some (.nop, x == 0)
  | 0x01 => some (.kcopy (unpackKC x), zeroKC x)
  | 0x02 => some (.kloop (unpackKC x), zeroKC x)
  | 0x03 => let f := unpackKC x; some ((if f.imm == 1 then .kstageSched f else .kstage f), zeroKC x)
  | 0x04 => some (.kwm (unpackKC x), zeroKC x)
  | 0x05 => some (.ksync (unpackKC x), zeroKC x)
  | 0x06 => some (.kput (unpackKC x), zeroKC x)
  | 0x07 => some (.kget (unpackKC x), zeroKC x)
  | 0x08 => let f := unpackKC x; some ((match (f.imm.extractLsb' 0 4).toNat with | 1 => .kcollAllGather f | 2 => .kcollReduceScatter f | 3 => .kcollBroadcast f | _ => .kcollAllReduce f), zeroKC x)
  | 0x09 => let f := unpackKC x; some ((match (f.imm.extractLsb' 0 2).toNat with | 0 => .kcancelChannel f | 1 => .kcancelAll f | _ => .kcancelFlush f), zeroKC x)
  | 0x0A => some (.kstat (unpackKC x), zeroKC x)
  | 0x0B => some (.kwmrd (unpackKC x), zeroKC x)
  | 0x0C => let f := unpackKC x; some ((if f.ch == 0 then .ksyncrd f else .ksyncrdWait f), zeroKC x)
  | _ => none
/-- The opcode and operand bits of a K-slot operation (R71); none for another slot's. -/
def encodeOpK : Instr → Option (Nat × BitVec 45)
  | .nop => some (0x00, 0)
  | .kcopy f => some (0x01, packKC f)
  | .kloop f => some (0x02, packKC f)
  | .kstage f => some (0x03, packKC f)
  | .kstageSched f => some (0x03, packKC f)
  | .kwm f => some (0x04, packKC f)
  | .ksync f => some (0x05, packKC f)
  | .kput f => some (0x06, packKC f)
  | .kget f => some (0x07, packKC f)
  | .kcollAllReduce f => some (0x08, packKC f)
  | .kcollAllGather f => some (0x08, packKC f)
  | .kcollReduceScatter f => some (0x08, packKC f)
  | .kcollBroadcast f => some (0x08, packKC f)
  | .kcancelChannel f => some (0x09, packKC f)
  | .kcancelAll f => some (0x09, packKC f)
  | .kcancelFlush f => some (0x09, packKC f)
  | .kstat f => some (0x0A, packKC f)
  | .kwmrd f => some (0x0B, packKC f)
  | .ksyncrd f => some (0x0C, packKC f)
  | .ksyncrdWait f => some (0x0C, packKC f)
  | _ => none
/-- The X slot's opcode map (R71): the operation, and whether the bits its format marks zero are zero; none for an unassigned opcode. -/
def decodeOpX (op : Nat) (x : BitVec 29) : Option (Instr × Bool) :=
  match op with
  | 0x00 => some (.nop, x == 0)
  | 0x01 => some (.xadd (unpackXR x), zeroXR x)
  | 0x02 => some (.xsub (unpackXR x), zeroXR x)
  | 0x03 => some (.xand (unpackXR x), zeroXR x)
  | 0x04 => some (.xshl (unpackXR x), zeroXR x)
  | 0x05 => some (.xshr (unpackXR x), zeroXR x)
  | 0x06 => some (.xpopc (unpackXR x), zeroXR x)
  | 0x07 => some (.xaddi (unpackXR x), zeroXR x)
  | 0x08 => some (.xcmp (unpackXR x), zeroXR x)
  | 0x09 => some (.xsel (unpackXR x), zeroXR x)
  | 0x10 => some (.xadv (unpackXR x), zeroXR x)
  | 0x11 => some (.xexp (unpackXV x), zeroXV x)
  | 0x12 => some (.xld (unpackXR x), zeroXR x)
  | 0x13 => some (.xfroms (unpackXS x), zeroXS x)
  | 0x14 => some (.xtos (unpackXS x), zeroXS x)
  | 0x15 => some (.xtov (unpackXV x), zeroXV x)
  | _ => none
/-- The opcode and operand bits of a X-slot operation (R71); none for another slot's. -/
def encodeOpX : Instr → Option (Nat × BitVec 29)
  | .nop => some (0x00, 0)
  | .xadd f => some (0x01, packXR f)
  | .xsub f => some (0x02, packXR f)
  | .xand f => some (0x03, packXR f)
  | .xshl f => some (0x04, packXR f)
  | .xshr f => some (0x05, packXR f)
  | .xpopc f => some (0x06, packXR f)
  | .xaddi f => some (0x07, packXR f)
  | .xcmp f => some (0x08, packXR f)
  | .xsel f => some (0x09, packXR f)
  | .xadv f => some (0x10, packXR f)
  | .xexp f => some (0x11, packXV f)
  | .xld f => some (0x12, packXR f)
  | .xfroms f => some (0x13, packXS f)
  | .xtos f => some (0x14, packXS f)
  | .xtov f => some (0x15, packXV f)
  | _ => none
/-- The Y slot's opcode map (R71): the operation, and whether the bits its format marks zero are zero; none for an unassigned opcode. -/
def decodeOpY (op : Nat) (x : BitVec 29) : Option (Instr × Bool) :=
  match op with
  | 0x00 => some (.nop, x == 0)
  | 0x01 => let f := unpackYB x; some ((if f.imm.getLsbD 0 then .bsyncWait f else .bsync f), zeroYB x)
  | 0x02 => some (.barCfg (unpackYB x), zeroYB x)
  | 0x03 => some (.barArrive (unpackYB x), zeroYB x)
  | 0x04 => some (.barTest (unpackYB x), zeroYB x)
  | 0x05 => some (.relSt (unpackYM x), zeroYM x)
  | 0x06 => some (.acqLd (unpackYM x), zeroYM x)
  | 0x07 => some (.acqLdAll (unpackYM x), zeroYM x)
  | 0x08 => some (.relFence (unpackYM x), zeroYM x)
  | 0x09 => some (.acqFence (unpackYM x), zeroYM x)
  | 0x0A => some (.waitaddr (unpackYM x), zeroYM x)
  | 0x0B => some (.waitM (unpackYW x), zeroYW x)
  | 0x0C => some (.waitK (unpackYW x), zeroYW x)
  | 0x0D => some (.drain (unpackYM x), zeroYM x)
  | _ => none
/-- The opcode and operand bits of a Y-slot operation (R71); none for another slot's. -/
def encodeOpY : Instr → Option (Nat × BitVec 29)
  | .nop => some (0x00, 0)
  | .bsync f => some (0x01, packYB f)
  | .bsyncWait f => some (0x01, packYB f)
  | .barCfg f => some (0x02, packYB f)
  | .barArrive f => some (0x03, packYB f)
  | .barTest f => some (0x04, packYB f)
  | .relSt f => some (0x05, packYM f)
  | .acqLd f => some (0x06, packYM f)
  | .acqLdAll f => some (0x07, packYM f)
  | .relFence f => some (0x08, packYM f)
  | .acqFence f => some (0x09, packYM f)
  | .waitaddr f => some (0x0A, packYM f)
  | .waitM f => some (0x0B, packYW f)
  | .waitK f => some (0x0C, packYW f)
  | .drain f => some (0x0D, packYM f)
  | _ => none
/-- The micro-operation opcode map (R232): the operation, and whether the bits its format marks zero are zero; none for an unassigned opcode. -/
def decodeOpU (op : Nat) (x : BitVec 53) : Option (Instr × Bool) :=
  match op with
  | 0x00 => some (.unop, x == 0)
  | 0x01 => some (.uend, x == 0)
  | 0x02 => some (.uyield, x == 0)
  | 0x03 => some (.uwait, x == 0)
  | 0x04 => some (.ujmp (unpackUL x), zeroUL x)
  | 0x05 => some (.ubz (unpackUL x), zeroUL x)
  | 0x06 => some (.uloop (unpackUL x), zeroUL x)
  | 0x07 => some (.unext (unpackUL x), zeroUL x)
  | 0x08 => some (.uring (unpackUR x), zeroUR x)
  | 0x10 => some (.uadd (unpackUA x), zeroUA x)
  | 0x11 => some (.uaddi (unpackUA x), zeroUA x)
  | 0x12 => some (.umuli (unpackUA x), zeroUA x)
  | 0x13 => some (.ushli (unpackUA x), zeroUA x)
  | 0x14 => some (.uandi (unpackUA x), zeroUA x)
  | 0x15 => some (.uldop (unpackUO x), zeroUO x)
  | 0x16 => some (.uldmp (unpackUP x), zeroUP x)
  | 0x18 => some (.uacc (unpackUK x), zeroUK x)
  | 0x19 => some (.uaca (unpackUK x), zeroUK x)
  | 0x1A => some (.uzero, x == 0)
  | 0x20 => some (.ustep (unpackUM x), zeroUM x)
  | 0x21 => some (.upref (unpackUM x), zeroUM x)
  | 0x22 => some (.udrain (unpackUM x), zeroUM x)
  | 0x23 => some (.utopk (unpackUM x), zeroUM x)
  | 0x24 => some (.utopkg (unpackUM x), zeroUM x)
  | _ => none
/-- The opcode and operand bits of a micro operation (R232); none for another slot's. -/
def encodeOpU : Instr → Option (Nat × BitVec 53)
  | .unop => some (0x00, 0)
  | .uend => some (0x01, 0)
  | .uyield => some (0x02, 0)
  | .uwait => some (0x03, 0)
  | .ujmp f => some (0x04, packUL f)
  | .ubz f => some (0x05, packUL f)
  | .uloop f => some (0x06, packUL f)
  | .unext f => some (0x07, packUL f)
  | .uring f => some (0x08, packUR f)
  | .uadd f => some (0x10, packUA f)
  | .uaddi f => some (0x11, packUA f)
  | .umuli f => some (0x12, packUA f)
  | .ushli f => some (0x13, packUA f)
  | .uandi f => some (0x14, packUA f)
  | .uldop f => some (0x15, packUO f)
  | .uldmp f => some (0x16, packUP f)
  | .uacc f => some (0x18, packUK f)
  | .uaca f => some (0x19, packUK f)
  | .uzero => some (0x1A, 0)
  | .ustep f => some (0x20, packUM f)
  | .upref f => some (0x21, packUM f)
  | .udrain f => some (0x22, packUM f)
  | .utopk f => some (0x23, packUM f)
  | .utopkg f => some (0x24, packUM f)
  | _ => none

/-- The lowest bundle bit of a slot (R51). -/
def slotLow : Nat → Nat
  | 1 => 432 | 2 => 368 | 3 => 304 | 4 => 248 | 5 => 192 | 6 => 136 | 7 => 80 | 8 => 40 | _ => 0
/-- The width of a slot (R51). -/
def slotWidth : Nat → Nat
  | 1 | 2 | 3 => 64 | 4 | 5 | 6 | 7 => 56 | _ => 40
/-- The lowest bit of a slot's guard field (R56), which is also how many operand bits it has. -/
def guardLow : Nat → Nat
  | 1 | 2 | 3 => 51 | 6 => 43 | 4 | 5 | 7 => 45 | _ => 29

/-- The word of a slot, zero-extended to 64 bits (R51). -/
def slotWord (slot : Nat) (w : BitVec 512) : BitVec 64 :=
  ((w >>> slotLow slot).setWidth (slotWidth slot)).setWidth 64

/-- The opcode of a slot word (R56). -/
def slotOpcode (slot : Nat) (w : BitVec 64) : Nat := w.toNat / 2 ^ (guardLow slot + 5)
/-- The guard of a slot word (R56). -/
def slotGuard (slot : Nat) (w : BitVec 64) : Guard :=
  let g := w.extractLsb' (guardLow slot) 5
  ⟨g.getLsbD 4, g.extractLsb' 0 4⟩

/-- The operation of a slot word, and whether its format's zero bits are zero (R65 to R71). -/
noncomputable def rawDecode (slot : Nat) (w : BitVec 64) : Option (Instr × Bool) :=
  let op := slotOpcode slot w
  match slot with
  | 1 => decodeOpS op (w.extractLsb' 0 51)
  | 2 | 3 => decodeOpV op (w.extractLsb' 0 51)
  | 4 => decodeOpL op (w.extractLsb' 0 45)
  | 5 => decodeOpW op (w.extractLsb' 0 45)
  | 6 => decodeOpM op (w.extractLsb' 0 43)
  | 7 => decodeOpK op (w.extractLsb' 0 45)
  | 8 => decodeOpX op (w.extractLsb' 0 29)
  | _ => decodeOpY op (w.extractLsb' 0 29)

/-- What the decoder needs of the core that runs the bundle: the task's declared resources (R59), which stitch opcodes are bound (R70), and the reasons 3 and 4 that a captured shape or register decides (R187, R197, R208, R254). -/
structure DecEnv where
  vregs : Nat
  accs : Nat
  bound : BitVec 6 → Bool
  dyn : SlotOp → Option Nat
  range : SlotOp → List (RC × Nat)

/-- The environment in which the encoding alone decides. -/
def DecEnv.free : DecEnv := ⟨1024, 32, fun _ => true, fun _ => none, fun _ => []⟩

/-- The swap bit of a slot (R53); the S, VA, VB and Y slots have none. -/
def Header.swap (h : Header) : Nat → Bool
  | 4 => h.swl | 5 => h.sww | 6 => h.swm | 7 => h.swk | 8 => h.swx | _ => false

/-- Reasons 2 to 8 of R72 for one decoded operation, in ascending order (R73). -/
def opReason (env : DecEnv) (h : Header) (o : SlotOp) : Option Nat :=
  match fieldReason env.vregs env.accs o.op with
  | some 2 => some 2
  | r =>
    let d := env.dyn o
    if r == some 3 || d == some 3 then some 3
    else if r == some 4 || d == some 4 then some 4
    else if h.swap o.slot && (hsField o.op).isNone then some 5
    else match o.op with
      | .stitchOpcode idx _ => if env.bound idx then none else some 6
      | _ => if o.slot == 3 && vaOnly o.op then some 8 else none

/-- One slot of a bundle: its operation, or the first reason of R72 that refuses it. A no-op slot gives no operation. -/
noncomputable def decodeSlot (env : DecEnv) (h : Header) (slot : Nat) (w : BitVec 64) : Except Nat (Option SlotOp) :=
  match rawDecode slot w with
  | none => .error 1
  | some (i, z) =>
    if !z then .error 2
    else if i == .nop then
      if w != 0 then .error 2 else if h.swap slot then .error 5 else .ok none
    else
      let o : SlotOp := ⟨slot, slotGuard slot w, i⟩
      match opReason env h o with
      | some r => .error r
      | none => .ok (some o)

/-- The header of a bundle (R53). -/
def decodeHeader (w : BitVec 512) : Header :=
  ⟨(w.extractLsb' 508 4).toNat, w.getLsbD 507, w.getLsbD 506, w.getLsbD 505, w.getLsbD 504, w.getLsbD 503, w.getLsbD 502⟩

/-- The slots in slot-number order, up to the first refusal, reported as (reason, slot) (R73). -/
noncomputable def decodeSlots (env : DecEnv) (h : Header) (w : BitVec 512) : List Nat → Except (Nat × Nat) (List SlotOp)
  | [] => .ok []
  | n :: t =>
    match decodeSlot env h n (slotWord n w) with
    | .error r => .error (r, n)
    | .ok o =>
      match decodeSlots env h w t with
      | .error e => .error e
      | .ok os => .ok (match o with | some x => x :: os | none => os)

/-- The registers an operation writes for reason 7; s0 is none (R74). The rule names no system register: vfm, which `svgth`, `svsct` and a `syswr` write, is none of them by the model's choice (log entry 106). -/
def writeSet (env : DecEnv) (o : SlotOp) : List (RC × Nat) :=
  ((operands o.op).filter fun x => x.w && !(x.rc == .s && x.n == 0)).map (fun x => (x.rc, x.n)) ++ env.range o

/-- The lowest slot that writes a register which a lower-numbered slot also writes (reason 7, R73, R74). -/
def clash (env : DecEnv) : List (RC × Nat) → List SlotOp → Option Nat
  | _, [] => none
  | seen, o :: t =>
    let ws := writeSet env o
    if ws.any seen.contains then some o.slot else clash env (seen ++ ws) t

/-- A bundle decoded for a core, or (reason, slot) of the first failure (R72, R73). -/
noncomputable def decodeBundleIn (env : DecEnv) (w : BitVec 512) : Except (Nat × Nat) Bundle :=
  if w.extractLsb' 496 6 != 0 then .error (2, 0)
  else
    let h := decodeHeader w
    match decodeSlots env h w [1, 2, 3, 4, 5, 6, 7, 8, 9] with
    | .error e => .error e
    | .ok os =>
      match clash env [] os with
      | some n => .error (7, n)
      | none => .ok ⟨h, os⟩

/-- A bundle decoded by its bits alone. -/
noncomputable def decodeBundle (w : BitVec 512) : Except (Nat × Nat) Bundle := decodeBundleIn DecEnv.free w

/-- A micro-word (R230): an unassigned opcode or a predicate code above 8 is validator code 3, a nonzero zero field or a value outside its entry's limits code 4 (R248). -/
def decodeMicro (w : BitVec 64) : Except Nat Micro :=
  match decodeOpU (w.extractLsb' 58 6).toNat (w.extractLsb' 0 53) with
  | none => .error 3
  | some (i, z) =>
    let pc := w.extractLsb' 53 4
    if pc.toNat > 8 then .error 3
    else if !z || !wf i then .error 4
    else match i with
      | .unext _ => if pc != 0 || w.getLsbD 57 then .error 4 else .ok ⟨w.getLsbD 57, pc, i⟩
      | _ => .ok ⟨w.getLsbD 57, pc, i⟩

/-- The number of 64 bits that a byte list holds, first byte lowest (R1). -/
def leNat : List Byte → Nat
  | [] => 0
  | b :: t => b.toNat + 256 * leNat t

/-- A bundle decoded from its 64 bytes as memory holds them (R51). -/
noncomputable def decodeBytes (bs : List Byte) : Except (Nat × Nat) Bundle := decodeBundle (BitVec.ofNat 512 (leNat bs))

/-- The operand and opcode bits of a slot operation below its guard (R56), for the slot that holds it. -/
def encodeOp (slot : Nat) (i : Instr) : Option (Nat × Nat) :=
  match slot with
  | 1 => (encodeOpS i).map fun (o, x) => (o, x.toNat)
  | 2 | 3 => (encodeOpV i).map fun (o, x) => (o, x.toNat)
  | 4 => (encodeOpL i).map fun (o, x) => (o, x.toNat)
  | 5 => (encodeOpW i).map fun (o, x) => (o, x.toNat)
  | 6 => (encodeOpM i).map fun (o, x) => (o, x.toNat)
  | 7 => (encodeOpK i).map fun (o, x) => (o, x.toNat)
  | 8 => (encodeOpX i).map fun (o, x) => (o, x.toNat)
  | _ => (encodeOpY i).map fun (o, x) => (o, x.toNat)

/-- The slot word of an operation under a guard; none when the slot has no such operation (R56, R61). -/
def encode (o : SlotOp) : Option (BitVec 64) :=
  (encodeOp o.slot o.op).map fun (op, x) =>
    BitVec.ofNat 64 (op * 2 ^ (guardLow o.slot + 5) + (cond o.guard.inv 16 0 + o.guard.n.toNat) * 2 ^ guardLow o.slot + x)

/-- The micro-word of a micro-operation under a predicate (R230). -/
def encodeMicro (m : Micro) : Option (BitVec 64) :=
  (encodeOpU m.op).map fun (op, x) =>
    BitVec.ofNat 6 op ++ BitVec.ofBool m.inv ++ m.pc ++ x

/-- The header's bits (R53). -/
def encodeHeader (h : Header) : Nat :=
  h.stall * 2 ^ 508 + cond h.ckpt (2 ^ 507) 0 + cond h.swm (2 ^ 506) 0 + cond h.swl (2 ^ 505) 0 +
  cond h.sww (2 ^ 504) 0 + cond h.swk (2 ^ 503) 0 + cond h.swx (2 ^ 502) 0

/-- The 512 bits of a bundle (R51); none when an operation does not belong to its slot. -/
def encodeBundle (b : Bundle) : Option (BitVec 512) :=
  b.ops.foldl (fun acc o => match acc, encode o with
    | some n, some w => some (n + BitVec.ofNat 512 (w.toNat * 2 ^ slotLow o.slot))
    | _, _ => none) (some (BitVec.ofNat 512 (encodeHeader b.hdr)))

/-- The bytes of `n`, lowest first (R1). -/
def leBytes : Nat → Nat → List Byte
  | 0, _ => []
  | k + 1, n => BitVec.ofNat 8 n :: leBytes k (n / 256)

/-- What the decoder reads from an instruction whose bits are `w`: a 64-bit word is a micro-word, a longer one a bundle, whose one operation is answered (`nop` for a bundle without any, none for a bundle that is refused or holds several). -/
noncomputable def decodeTableWord (nbits w : Nat) : Option Instr :=
  if nbits = 64 then
    match decodeMicro (BitVec.ofNat 64 w) with
    | .ok m => some m.op
    | .error _ => none
  else
    match decodeBytes (leBytes 64 w) with
    | .ok ⟨_, []⟩ => some .nop
    | .ok ⟨_, [o]⟩ => some o.op
    | _ => none

end Sys2Proof
end

