-- ==== Sys2Proof/Config.lean ====
section
/-! DEFINITION. What an implementation fixes and the spec leaves open: opaque constants, of which nothing can be proved, and the bounds the spec sets on them. -/
namespace Sys2Proof.Config

/-- A free 64-bit value, the n-th that a run needs (log entry 8): a read the spec calls undefined, such as a save slot that software changed (R364). -/
opaque freeWord : Nat → BitVec 64
/-- Which entry of a contig group that disagrees translates an access (R323): a number below 16, by the n-th free choice. -/
opaque contigPick : Nat → BitVec 4
/-- The frozen state of a core that a capture dump reports as it stood (R373), where the spec gives no value. -/
opaque dumpFill : Nat → BitVec 8
/-- Which of the two FP32 neighbours of the exact 1/a and 1/√a the device gives (R152: faithful): true the one of larger magnitude, by the FP32 bits of a (log entry 9). -/
opaque recipUp : BitVec 32 → Bool
opaque rsqrtUp : BitVec 32 → Bool
/-- The FP32 results of 2^a, log2 a, sin πa, cos πa and tanh a where R152 leaves the bits open within its bounds, by the FP32 bits of a (log entry 9). -/
opaque exp2 : BitVec 32 → BitVec 32
opaque log2 : BitVec 32 → BitVec 32
opaque sinpi : BitVec 32 → BitVec 32
opaque cospi : BitVec 32 → BitVec 32
opaque tanh : BitVec 32 → BitVec 32
/-- Byte i of a save-area slot's private part, whose layout R364 leaves to the device, by the free choice of the save. -/
opaque saveByte : Nat → Nat → BitVec 8
/-- Bytes 4 to 7 of a save-area slot's header, which hold the declared vregs, accs and scratch pages: R364 does not say which bits hold which. -/
opaque saveSizes : Nat → Nat → Nat → BitVec 32
/-- The order in which a collective combines the members' elements depends on placement and link timing (R271): which of the values left is taken next, by the n-th choice. -/
opaque combinePick : Nat → Nat
/-- The set of an L2 slice that holds a line (R179 gives 2048 sets and no index), by line number. -/
opaque l2Set : Nat → Nat
/-- The set of a die's shared TLB that holds a page (R324 gives 8 ways and no index), by context and page number. -/
opaque tlbSet : Nat → Nat → Nat
/-- A spare row or column is left when a location retires (R375 gives no number of spares), by the location's numbers. -/
opaque spareLeft : List Nat → Bool
/-- An HBM row holds a byte of a frame (R374 and R375 give no mapping), by the row's numbers and the frame. -/
opaque rowFrame : List Nat → Nat → Bool
/-- The cycles after which a dirty sector or a host's modified sector goes home by itself (R98 bounds them, and gives no number). -/
opaque writeBackDelay : Nat
/-- Which line shares the entry of a compressed line in the L2 (R179 leaves the placement open), by the n-th choice. -/
opaque l2Partner : Nat → Nat
/-- Byte i of the 16-byte location code of a retirement notice (R373), whose coding the spec does not give, by the location's numbers. -/
opaque locationByte : List Nat → Nat → BitVec 8
/-- The estimated energy of one counted event, by meter index, in mJ per 2^20 events (R367). -/
opaque energyCoeff : Nat → Nat
/-- The estimated energy of a cycle of a cluster that is idle or gated (R365), in the same unit. -/
opaque idleCoeff : Nat
/-- The package sensors' energy of the second that ends in a cycle (R367), in mJ. -/
opaque packageEnergy : Nat → Nat
/-- The flow sensor shows less than 2.0 L/min for a second that ends in a cycle (R407): with it a shutdown's cause is the flow, else a die's temperature. -/
opaque flowLow : Nat → Bool
/-- The instruction cache serves a bundle that has changed in memory since it was cached (R16 gives the cache, and no rule says when a store reaches it), by the n-th choice. -/
opaque staleFetch : Nat → Bool
/-- The cycles that a placement takes until its first core may start (R354 bounds them by 256; the spec's own runs show 0 in R350 and 256 in R399), by the n-th choice (log entry 125). -/
opaque startDelay : Nat → Nat
/-- The device's SPDM capabilities, certificate and the signature of its measurements (R402), as the root of trust gives them. -/
opaque capabilities : List (BitVec 8)
opaque certificate : List (BitVec 8)
opaque measurementSignature : List (BitVec 8) → List (BitVec 8)

end Sys2Proof.Config
end

