-- ==== Sys2Proof/Machine/Float.lean ====
section
/-! DEFINITION. Element formats, block descriptors, exact values, Decode, Encode and RoundF32 (R80 to R94), exact arithmetic on them, and the sum of a matrix step (R95). -/
namespace Sys2Proof.Machine

/-- The element formats (R80, R82). -/
inductive Fmt where
  | f32 | bf16 | f16 | e4m3 | e5m2 | e2m1
  | int (sgn : Bool) (w : Nat)
  deriving DecidableEq, Repr

/-- The type codes of R62. -/
def Fmt.ofType : Nat → Fmt
  | 0 => .int true 8 | 1 => .int true 16 | 2 => .int true 32 | 3 => .int true 64
  | 4 => .int false 8 | 5 => .int false 16 | 6 => .int false 32 | 7 => .int false 64
  | 8 => .f32 | 9 => .bf16 | 10 => .f16 | 11 => .e4m3 | 12 => .e5m2 | _ => .e2m1

/-- The format codes of R85; none for inherit and the reserved codes. -/
def Fmt.ofCode : Nat → Option Fmt
  | 1 => some .f32 | 2 => some .bf16 | 3 => some .f16 | 4 => some .e4m3 | 5 => some .e5m2 | 6 => some .e2m1
  | 7 => some (.int true 8) | 8 => some (.int true 4) | _ => none

/-- Element bits. -/
def Fmt.width : Fmt → Nat
  | .f32 => 32 | .bf16 => 16 | .f16 => 16 | .e4m3 => 8 | .e5m2 => 8 | .e2m1 => 4 | .int _ w => w

/-- Mantissa bits M of R80. -/
def Fmt.man : Fmt → Nat
  | .f32 => 23 | .bf16 => 7 | .f16 => 10 | .e4m3 => 3 | .e5m2 => 2 | .e2m1 => 1 | .int _ _ => 0
/-- Exponent bias of R80. -/
def Fmt.bias : Fmt → Nat
  | .f32 => 127 | .bf16 => 127 | .f16 => 15 | .e4m3 => 7 | .e5m2 => 15 | .e2m1 => 1 | .int _ _ => 0
/-- The magnitude code of the largest finite value (R80). -/
def Fmt.maxMag : Fmt → Nat
  | .f32 => 0x7F7FFFFF | .bf16 => 0x7F7F | .f16 => 0x7BFF | .e4m3 => 0x7E | .e5m2 => 0x7B | .e2m1 => 7 | .int _ _ => 0
/-- The format has infinities (R80). -/
def Fmt.hasInf : Fmt → Bool
  | .f32 | .bf16 | .f16 | .e5m2 => true | _ => false
/-- The canonical NaN (R81); 0 for integers (R93). -/
def Fmt.nan : Fmt → Nat
  | .f32 => 0x7FC00000 | .bf16 => 0x7FC0 | .f16 => 0x7E00 | .e4m3 => 0x7F | .e5m2 => 0x7E | .e2m1 => 8 | .int _ _ => 0

/-- An exact value: (−1)^neg × m × 2^e, an infinity, or NaN. m = 0 is a zero with its sign. -/
inductive Val where
  | nan
  | inf (neg : Bool)
  | fin (neg : Bool) (m : Nat) (e : Int)
  deriving DecidableEq, Repr

/-- Zero with a sign. -/
def Val.zero (neg : Bool) : Val := .fin neg 0 0
/-- The value is ±0. -/
def Val.isZero : Val → Bool
  | .fin _ 0 _ => true | _ => false
/-- The sign of a value that is no NaN. -/
def Val.neg? : Val → Bool
  | .nan => false | .inf s => s | .fin s _ _ => s
/-- Negation; NaN stays. -/
def Val.negate : Val → Val
  | .nan => .nan | .inf s => .inf !s | .fin s m e => .fin (!s) m e
/-- Magnitude; NaN stays. -/
def Val.abs : Val → Val
  | .nan => .nan | .inf _ => .inf false | .fin _ m e => .fin false m e
/-- Times 2^k. -/
def Val.scale (k : Int) : Val → Val
  | .fin s m e => .fin s m (e + k) | v => v
/-- An integer as a value. -/
def Val.ofInt (i : Int) : Val := .fin (i < 0) i.natAbs 0

/-- The signed integer in units of 2^u; u is at most the value's exponent. -/
def finUnits (s : Bool) (m : Nat) (e u : Int) : Int :=
  let n : Int := m * 2 ^ (e - u).toNat
  if s then -n else n

/-- Exact sum; an exact zero sum is +0, −0 under round-down, and two zeros of one sign keep it (R150). -/
def Val.add (rm : Nat) : Val → Val → Val
  | .nan, _ => .nan
  | _, .nan => .nan
  | .inf s, .inf t => if s = t then .inf s else .nan
  | .inf s, _ => .inf s
  | _, .inf t => .inf t
  | .fin s m e, .fin t n f =>
    let u := min e f
    let x := finUnits s m e u + finUnits t n f u
    if x = 0 then .fin (if m = 0 && n = 0 && s = t then s else rm == 3) 0 0
    else .fin (x < 0) x.natAbs u

/-- Exact product; 0 × ∞ is NaN (R150). -/
def Val.mul : Val → Val → Val
  | .nan, _ => .nan
  | _, .nan => .nan
  | .inf s, .inf t => .inf (s != t)
  | .inf s, .fin t n _ => if n = 0 then .nan else .inf (s != t)
  | .fin s m _, .inf t => if m = 0 then .nan else .inf (s != t)
  | .fin s m e, .fin t n f => .fin (s != t) (m * n) (e + f)

/-- Quotient, exact or, where it is no dyadic number, truncated with a last bit that keeps every rounding as that of the exact quotient (R150). -/
def Val.div : Val → Val → Val
  | .nan, _ => .nan
  | _, .nan => .nan
  | .inf _, .inf _ => .nan
  | .inf s, .fin t _ _ => .inf (s != t)
  | .fin s _ _, .inf t => .fin (s != t) 0 0
  | .fin s m e, .fin t n f =>
    if n = 0 then (if m = 0 then .nan else .inf (s != t))
    else if m = 0 then .fin (s != t) 0 0
    else
      let k := 64 + n.log2
      let q := (m <<< k) / n
      let sticky := if q * n = m <<< k then 0 else 1
      .fin (s != t) (2 * q + sticky) (e - f - k - 1)

/-- The largest r with r² ≤ n, by bits from 2^k down. -/
def isqrt (n : Nat) : Nat → Nat → Nat
  | 0, r => if (r + 1) * (r + 1) ≤ n then r + 1 else r
  | k + 1, r => let c := r + 2 ^ (k + 1); isqrt n k (if c * c ≤ n then c else r)

/-- Square root, with the same last bit as `Val.div`; −0 gives −0, a negative value NaN (R152). -/
def Val.sqrt : Val → Val
  | .nan => .nan
  | .inf s => if s then .nan else .inf false
  | .fin s m e =>
    if m = 0 then .fin s 0 0
    else if s then .nan
    else
      let k := 64 + (if e % 2 = 0 then 0 else 1)
      let n := m <<< k
      let r := isqrt n (n.log2 / 2 + 1) 0
      .fin false (2 * r + (if r * r = n then 0 else 1)) ((e - k) / 2 - 1)

/-- Order of two values that are no NaN: less than, with −0 equal to +0 (R153). -/
def Val.lt : Val → Val → Bool
  | .nan, _ => false
  | _, .nan => false
  | .inf s, .inf t => s && !t
  | .inf s, _ => s
  | _, .inf t => !t
  | .fin s m e, .fin t n f => let u := min e f; finUnits s m e u < finUnits t n f u
/-- Equality of two values that are no NaN (R153). -/
def Val.eqv (a b : Val) : Bool := a != .nan && b != .nan && !Val.lt a b && !Val.lt b a

/-- IEEE 754-2019 minimum: NaN wins, −0 < +0 (R151). -/
def Val.min2 (a b : Val) : Val :=
  if a == .nan || b == .nan then .nan
  else if Val.lt a b then a else if Val.lt b a then b else if a.neg? then a else b
/-- IEEE 754-2019 maximum (R151). -/
def Val.max2 (a b : Val) : Val :=
  if a == .nan || b == .nan then .nan
  else if Val.lt a b then b else if Val.lt b a then a else if a.neg? then b else a

/-- floor(log2 |x|) of a nonzero finite value. -/
def finLog (m : Nat) (e : Int) : Int := m.log2 + e

/-- The value of a code in a format, without a descriptor (R80, R82). E2M1 code 0b1000 reads as +0. -/
def rawValue (f : Fmt) (bits : Nat) : Val :=
  match f with
  | .int sgn w =>
    let b := bits % 2 ^ w
    if sgn && b ≥ 2 ^ (w - 1) then .ofInt ((b : Int) - 2 ^ w) else .ofInt b
  | f =>
    let w := f.width
    let b := bits % 2 ^ w
    let s := decide (b ≥ 2 ^ (w - 1))
    let mag := b % 2 ^ (w - 1)
    if f = .e2m1 && b = 8 then .zero false
    else if mag > f.maxMag then
      if f.hasInf && mag = f.maxMag + 1 then .inf s else .nan
    else
      let ef := mag / 2 ^ f.man
      let mf := mag % 2 ^ f.man
      if ef = 0 then .fin s mf (1 - (f.bias : Int) - f.man)
      else .fin s (2 ^ f.man + mf) ((ef : Int) - f.bias - f.man)

/-- The default descriptor (R84). -/
def defaultDesc : BitVec 32 := 0xA4007F00

/-- The check byte of R85. -/
def checkByte (d : BitVec 32) : BitVec 8 :=
  (d.extractLsb' 0 8) ^^^ (d.extractLsb' 8 8).rotateLeft 1 ^^^ (d.extractLsb' 16 8).rotateLeft 2 ^^^ 0x5A

/-- A descriptor with its check byte (R85). -/
def mkDesc (fmt scale special : BitVec 8) : BitVec 32 :=
  let d : BitVec 32 := 0#8 ++ special ++ scale ++ fmt
  checkByte d ++ special ++ scale ++ fmt

/-- `Decode(bits, fmt, desc)` of R90; `fmt` is a format code of R85. -/
def decode (bits fmt : Nat) (desc : BitVec 32) : Val :=
  let sc := (desc.extractLsb' 8 8).toNat
  if sc = 0xFF then .nan
  else
    let f := (desc.extractLsb' 0 8).toNat
    let f := if f = 0 then fmt else f
    let k : Int := (sc : Int) - 127
    if f = 6 && bits % 16 = 8 then
      match rawValue .e4m3 (desc.extractLsb' 16 8).toNat with
      | .nan => .nan
      | .inf s => .inf s
      | .fin s m e => if m = 0 then .zero false else .fin s m (e + k)
    else match Fmt.ofCode f with
      | none => .nan
      | some ft => (rawValue ft bits).scale k

/-- Decode with the default descriptor (R90). -/
def decodeDef (f : Fmt) (bits : Nat) : Val := rawValue f bits

/-- The fault that decoding a block by its descriptor raises (R89). -/
inductive DescFault where
  | check | format
  deriving DecidableEq, Repr

/-- The checks of R89, and for a step also that the format is inherit or the shape's own (R201). -/
def descCheck (desc : BitVec 32) (fmt : Nat) : Option DescFault :=
  if checkByte desc != desc.extractLsb' 24 8 then some .check
  else
    let f := (desc.extractLsb' 0 8).toNat
    if f > 8 || (f = 0 && (Fmt.ofCode fmt).isNone) || (f ≠ 0 && f ≠ fmt) then some .format else none

/-- What `Encode` returns: the bits and its flags (R91). -/
structure Enc where
  bits : Nat
  invalid : Bool
  overflow : Bool
  underflow : Bool
  inexact : Bool
  deriving DecidableEq, Repr

/-- n / 2^k rounded by rm for a value of sign `s` (R62, R92). -/
def roundShift (rm : Nat) (s : Bool) (n k : Nat) : Nat :=
  let q := n / 2 ^ k
  let r := n % 2 ^ k
  if r = 0 then q
  else match rm with
    | 0 => if 2 * r > 2 ^ k || (2 * r = 2 ^ k && q % 2 = 1) then q + 1 else q
    | 1 => q
    | 2 => if s then q else q + 1
    | _ => if s then q + 1 else q

/-- m × 2^e in units of 2^q, rounded by rm. -/
def roundUnits (rm : Nat) (s : Bool) (m : Nat) (e q : Int) : Nat :=
  if e ≥ q then m * 2 ^ (e - q).toNat else roundShift rm s m (q - e).toNat

/-- A nonzero finite value rounded to the ordinary candidates of a floating format: (n, q) for n × 2^q (R92, steps 1 and 2). -/
def roundCand (f : Fmt) (rm : Nat) (s : Bool) (m : Nat) (e : Int) : Nat × Int :=
  let q := max (finLog m e - f.man) (1 - (f.bias : Int) - f.man)
  (roundUnits rm s m e q, q)

/-- The magnitude code of n × 2^q, of a candidate as `roundCand` gives it (R80, R92). -/
def magCode (f : Fmt) (n : Nat) (q : Int) : Nat :=
  let q0 := 1 - (f.bias : Int) - f.man
  (q - q0).toNat * 2 ^ f.man + n

/-- x is nearer to b than to a. -/
def nearer (x a b : Val) : Bool :=
  Val.lt (Val.abs (Val.add 0 x b.negate)) (Val.abs (Val.add 0 x a.negate))

/-- The E2M1 special candidate wins over the ordinary one for this x and rm (R92, step 2). -/
def specialWins (rm : Nat) (x r sp : Val) : Bool :=
  let ok := match rm with
    | 0 => true
    | 1 => !Val.lt x.abs sp.abs
    | 2 => !Val.lt sp x
    | _ => !Val.lt x sp
  ok && nearer x r sp

/-- The special candidate of an E4M3 byte: its value when finite, nonzero and no ordinary E2M1 value (R92, step 1). -/
def specialCand (sp : Option (BitVec 8)) : Option Val :=
  match sp with
  | none => none
  | some b =>
    match rawValue .e4m3 b.toNat with
    | .fin s m e =>
      if m = 0 then none
      else if (List.range 8).any (fun c => Val.eqv (rawValue .e2m1 c) (.fin false m e)) then none
      else some (.fin s m e)
    | _ => none

/-- `Encode` of a nonzero finite value into a floating format (R92). A special candidate of 8 or more may equal an ordinary candidate of the unbounded exponent: the rounded value then is the special one, code 0b1000 and no overflow (step 3), though the tie rule of step 2 names the ordinary candidate (log entry 93). -/
def encodeFin (f : Fmt) (rm : Nat) (sat : Bool) (sp : Option (BitVec 8)) (s : Bool) (m : Nat) (e : Int) : Enc :=
  let x := Val.fin s m e
  let (n, q) := roundCand f rm s m e
  let r := Val.fin s n q
  let sign := if s then 2 ^ (f.width - 1) else 0
  let viaSp := f = .e2m1 && (match specialCand sp with | some v => specialWins rm x r v || Val.eqv r v | none => false)
  if viaSp then
    ⟨8, false, false, false, !(match specialCand sp with | some v => Val.eqv x v | none => false)⟩
  else
    let mag := magCode f n q
    let inx := !(Val.eqv x r)
    if mag > f.maxMag then
      let big := sign + f.maxMag
      let bits :=
        if sat then big
        else match f with
          | .e4m3 => sign + 0x7F
          | .e2m1 => 8
          | _ =>
            let toInf := match rm with | 0 => true | 1 => false | 2 => !s | _ => s
            if toInf then sign + f.maxMag + 1 else big
      ⟨bits, false, true, false, true⟩
    else
      let bits := if f = .e2m1 && mag = 0 then 0 else sign + mag
      ⟨bits, false, false, inx && decide (finLog m e < 1 - (f.bias : Int)), inx⟩

/-- An integer rounding of a finite value (R93). -/
def roundInt (rm : Nat) (s : Bool) (m : Nat) (e : Int) : Int :=
  let n : Int := roundUnits rm s m e 0
  if s then -n else n

/-- The least and greatest values of an integer format (R82). -/
def intMin (sgn : Bool) (w : Nat) : Int := if sgn then -(2 ^ (w - 1) : Int) else 0
def intMax (sgn : Bool) (w : Nat) : Int := if sgn then 2 ^ (w - 1) - 1 else 2 ^ w - 1
/-- An integer modulo 2^w. -/
def intBits (w : Nat) (i : Int) : Nat := (i % (2 ^ w : Int)).toNat

/-- `Encode(x, fmt, rm, sat, sp)` (R91 to R93). -/
def encodeVal (x : Val) (f : Fmt) (rm : Nat) (sat : Bool) (sp : Option (BitVec 8)) : Enc :=
  match f with
  | .int sgn w =>
    match x with
    | .nan => ⟨0, true, false, false, false⟩
    | .inf s => ⟨intBits w (if s then intMin sgn w else intMax sgn w), true, false, false, false⟩
    | .fin s m e =>
      let i := roundInt rm s m e
      if intMin sgn w ≤ i ∧ i ≤ intMax sgn w then
        ⟨intBits w i, false, false, false, !(Val.eqv x (.ofInt i))⟩
      else if sat then ⟨intBits w (if i < 0 then intMin sgn w else intMax sgn w), true, false, false, false⟩
      else ⟨intBits w i, true, false, false, false⟩
  | f =>
    match x with
    | .nan => ⟨f.nan, f = .e2m1, false, false, false⟩
    | .inf s =>
      let sign := if s then 2 ^ (f.width - 1) else 0
      if sat then ⟨sign + f.maxMag, false, false, false, false⟩
      else if f.hasInf then ⟨sign + f.maxMag + 1, false, false, false, false⟩
      else if f = .e2m1 then ⟨8, true, false, false, false⟩
      else ⟨sign + 0x7F, true, false, false, false⟩
    | .fin s 0 _ => ⟨if s && f ≠ .e2m1 then 2 ^ (f.width - 1) else 0, false, false, false, false⟩
    | .fin s m e => encodeFin f rm sat sp s m e

/-- `RoundF32(x, rm)` (R94). -/
def roundF32 (x : Val) (rm : Nat) : BitVec 32 := BitVec.ofNat 32 (encodeVal x .f32 rm false none).bits

/-- The value of FP32 bits. -/
def f32 (b : BitVec 32) : Val := rawValue .f32 b.toNat

/-! ### The sum of a matrix step -/

/-- The greatest floor(log2 |P|) of the finite nonzero products; none when there is none (R95). -/
def maxExp : List Val → Option Int
  | [] => none
  | .fin _ m e :: t =>
    if m = 0 then maxExp t
    else match maxExp t with
      | none => some (finLog m e)
      | some x => some (max x (finLog m e))
  | _ :: t => maxExp t

/-- One product truncated toward zero to a multiple of 2^u, in those units (R95). -/
def truncUnits (u : Int) : Val → Int
  | .fin s m e =>
    let n : Int := if e ≥ u then m * 2 ^ (e - u).toNat else m / 2 ^ (u - e).toNat
    if s then -n else n
  | _ => 0

/-- The value s of R95 from the exact products: NaN, an infinity, +0, or the truncated products' sum rounded once to FP32. -/
def stepSum (ps : List Val) : Val :=
  let pinf := ps.any (· == .inf false)
  let ninf := ps.any (· == .inf true)
  if ps.any (· == .nan) || (pinf && ninf) then .nan
  else if pinf then .inf false
  else if ninf then .inf true
  else match maxExp ps with
    | none => .zero false
    | some ex =>
      let u := ex - 40
      let total := ps.foldl (fun a p => a + truncUnits u p) 0
      if total = 0 then .zero false
      else f32 (roundF32 (.fin (total < 0) total.natAbs u) 0)

/-- The accumulator element after one step (R95). -/
def stepAcc (acc : BitVec 32) (ps : List Val) : BitVec 32 := roundF32 (Val.add 0 (f32 acc) (stepSum ps)) 0

end Sys2Proof.Machine
end

