-- ==== Sys2Proof/Machine/Bank.lean ====
section
/-! DEFINITION. Sparse storage by number: a list of (key, value) pairs, keys rising, no entry equal to what an unlisted key reads as. Memory bytes, register files and tables are held in this one form. -/
namespace Sys2Proof.Machine

/-- Values by number; a number that is not listed holds the default of the file it belongs to. -/
abbrev Bank (α : Type) := List (Nat × α)

/-- The value at `k`. -/
def Bank.get {α : Type} (d : α) : Bank α → Nat → α
  | [], _ => d
  | (i, v) :: t, k => if i = k then v else Bank.get d t k

/-- The list without key `k`. -/
def Bank.erase {α : Type} : Bank α → Nat → Bank α
  | [], _ => []
  | (i, v) :: t, k => if i = k then Bank.erase t k else (i, v) :: Bank.erase t k

/-- Key `k` put before the first larger key. -/
def Bank.ins {α : Type} : Bank α → Nat → α → Bank α
  | [], k, v => [(k, v)]
  | (i, x) :: t, k, v => if k < i then (k, v) :: (i, x) :: t else (i, x) :: Bank.ins t k v

/-- Key `k` set to `v`; writing the default removes the entry. -/
def Bank.put {α : Type} [DecidableEq α] (d : α) (b : Bank α) (k : Nat) (v : α) : Bank α :=
  if v = d then b.erase k else (b.erase k).ins k v

/-- Canonical form: keys strictly rising, no entry at the default. -/
def Bank.wf {α : Type} [DecidableEq α] (d : α) : Bank α → Bool
  | [] => true
  | [(_, v)] => decide (v ≠ d)
  | (i, v) :: (j, w) :: t => decide (v ≠ d) && decide (i < j) && Bank.wf d ((j, w) :: t)

/-- `put` at consecutive keys from `k` on. -/
def Bank.putList {α : Type} [DecidableEq α] (d : α) (b : Bank α) (k : Nat) : List α → Bank α
  | [] => b
  | v :: t => Bank.putList d (Bank.put d b k v) (k + 1) t

/-- The `n` values from key `k` on. -/
def Bank.getList {α : Type} (d : α) (b : Bank α) (k : Nat) : Nat → List α
  | 0 => []
  | n + 1 => Bank.get d b k :: Bank.getList d b (k + 1) n

end Sys2Proof.Machine
end

