-- ==== Sys2Proof/Machine/State.lean ====
section
/-! DEFINITION. The state of the whole module as plain data: cores, memory system and hub, every piece of state the spec names, and the model's own five fields (clock, acting core, agenda, outbox, free-value counter; log entry 1). -/
namespace Sys2Proof.Machine

/-! ### Registers of a core -/

/-- A loop counter (R124): ec in bits 35:32, cnt in bits 31:0 of the register. -/
structure LoopCtr where
  ec : BitVec 4 := 0
  cnt : BitVec 32 := 0
  deriving DecidableEq, Repr

/-- The registers that the shadow also holds (R306): those of R124 and R182 with both copies of every shape register (key 4 × engine + number), p0 to p15, lsave, vfm and ckcfg. -/
structure Regs where
  s : Bank W64 := []
  a : Bank W72 := []
  g : Bank Bool := []
  b : Bank (BitVec 20) := []
  lc : Bank LoopCtr := []
  mp : Bank W72 := []
  ix : Bank W64 := []
  p : Bank Pred := []
  shAct : Bank (BitVec 128) := []
  shShd : Bank (BitVec 128) := []
  lsave : W64 := 0
  vfm : BitVec 128 := 0
  ckcfg : BitVec 3 := 0
  deriving DecidableEq, Repr

/-- The trap registers of one level (R300). -/
structure TrapBank where
  cause : W64 := 0
  tret : W64 := 0
  taddr : W64 := 0
  hscr : W64 := 0
  asave : W72 := 0
  deriving DecidableEq, Repr

/-- The system registers that the shadow does not hold (R300, R302, R306). -/
structure Sys where
  svctx : Bool := false
  level : Nat := 0
  tsave : W64 := 0
  tvec1 : W64 := 0
  tvec2 : W64 := 0
  bank1 : TrapBank := {}
  bank2 : TrapBank := {}
  wtmo : BitVec 48 := 0
  clock : W64 := 0
  deriving DecidableEq, Repr

/-- One register write: masked for predicate and vector destinations, whose inactive lanes keep what they hold when the write completes (R145). -/
inductive Wr where
  | s (n : Nat) (v : W64)
  | a (n : Nat) (v : W72)
  | g (n : Nat) (v : Bool)
  | b (n : Nat) (v : BitVec 20)
  | lc (n : Nat) (v : LoopCtr)
  | mp (n : Nat) (v : W72)
  | ix (n : Nat) (v : W64)
  | p (n : Nat) (mask v : Pred)
  | v (n : Nat) (mask v : Vec)
  | shadow (key lo width : Nat) (v : BitVec 64)
  | sys (n : Nat) (v : W64)
  deriving DecidableEq, Repr

/-- The register classes that results name, for interlocks and poison reports (R78, R309). -/
inductive RegName where
  | s (n : Nat) | a (n : Nat) | v (n : Nat) | ix (n : Nat)
  deriving DecidableEq, Repr

/-- A fixed-latency write in flight: it lands at the end of cycle `due` (R76). -/
structure FixedWrite where
  due : Nat
  region : Nat
  wr : Wr
  deriving DecidableEq, Repr

/-- What a pending variable-latency result waits for (R78). -/
inductive VKind where
  | load | division | atomic | engine | status | hub
  | sync (off : Nat) (theta : Option W64)
  deriving DecidableEq, Repr

/-- A variable-latency result pending (R78): the registers it interlocks, its writes once known, the cycle from which it may complete (none while another transition decides), whether it holds later memory operations (R106), and the poisoned address it found (R164). -/
structure VarWrite where
  id : Nat
  kind : VKind
  region : Nat
  regs : List RegName
  wr : List Wr
  ready : Option Nat
  hold : Bool
  poison : Option (Nat × W72)
  deriving DecidableEq, Repr

/-- The fields of R309 for one cause. -/
structure Cause where
  code : Nat
  det : Nat
  prog : Nat
  loc : Nat
  addr : W72
  deriving DecidableEq, Repr

/-- The kinds of trap (R309). -/
inductive TrapKind where
  | precise | boundary | deferred
  deriving DecidableEq, Repr

/-- A trap that waits for its entry (R311). -/
structure TrapReq where
  kind : TrapKind
  cause : Cause
  deriving DecidableEq, Repr

/-- What holds the issue of every later bundle (R280, R283, R317). `stall` is the waiting bundle's count. -/
inductive Hold where
  | none
  | bsync (nb stall : Nat) (arrived waitOnly : Bool)
  | effect (stall : Nat)
  | parked (stall : Nat)
  | idle
  deriving DecidableEq, Repr

/-- Issue, the region and the exposed pipeline of a core (R76 to R79, R99, R304, R305). `next` is what the bundle's branch has chosen, with its penalty (R137, R139); `wmWait` is a watermark wait: channel, slot, first byte that waits, end of the access (R264). `paid`: the waiting bundle's bank conflicts have passed (R75, R168). `ckpt`: a checkpoint is reached and the Commit transition stands next (R102, R304). `xlds`: the pending results that read scratchpad, each with the banks of its words (R188). `onEngine`: the next bundle stands interlocked on a drain of the frozen matrix engine (R208, R312). -/
structure Issue where
  pc : W72 := 0
  regionStart : W72 := 0
  region : Nat := 0
  nv : Nat := 0
  nm : Nat := 0
  nc : Nat := 0
  nb : Nat := 0
  wlog : List (Nat × Vec) := []
  pend : List FixedWrite := []
  vpend : List VarWrite := []
  nextId : Nat := 0
  elig : Nat := 0
  hold : Hold := .none
  wmWait : Option (Nat × Nat × Nat × Nat) := none
  trap : Option TrapReq := none
  poisons : List Cause := []
  clamp : Bool := false
  next : Option (W72 × Nat) := none
  paid : Bool := false
  ckpt : Bool := false
  xlds : List (Nat × List Nat) := []
  onEngine : Bool := false
  deriving DecidableEq, Repr

/-- Where a core stands in its task (R317, R344, R350, R352, R372): `stopped` at a pre-emption point, `halted` by a hard stop. -/
inductive Phase where
  | starting (at_ : Nat)
  | running
  | stopped
  | halted
  | done
  | frozen
  deriving DecidableEq, Repr

/-- The part of a stage task that a core runs (R40, R344): its context, partition, task, rank, declared resources, the forced-epilogue bound, and, once clamp is set, the cycle in which its hard stop is due and the bundles issued since (R352). -/
structure Job where
  ctx : Nat
  part : Nat
  task : Nat
  rank : Nat
  vregs : Nat
  accs : Nat
  scratch : Nat
  budget : Nat
  phase : Phase
  due : Option Nat
  issued : Nat
  deriving DecidableEq, Repr

/-! ### Caches -/

/-- One 64-byte sector of an L1 line (R99, R108). `valid`: every byte that is not dirty holds the filled value; an invalid sector with dirty bytes is partial. `descNew`: the descriptor was written with the data and goes home with it (R208). `whole`: one store of all 64 bytes is among its dirty bytes, so its Write-back clears the home's poison (R164). -/
structure Sector where
  valid : Bool := false
  dirty : BitVec 64 := 0
  data : BitVec 512 := 0
  desc : BitVec 32 := 0xA4007F00
  descNew : Bool := false
  poison : Bool := false
  whole : Bool := false
  deriving DecidableEq, Repr

/-- An L1 line: two sectors, ownership, the version it was filled at or recorded at its last ownership move or accepted Write-back, its retention class, whether an ev6 line has been read, its last access, and the cycle in which it first held dirty bytes (R98, R99, R109, R173). -/
structure L1Line where
  s0 : Sector := {}
  s1 : Sector := {}
  owned : Bool := false
  ver : Nat := 0
  cls : Nat := 0
  read6 : Bool := false
  used : Nat := 0
  since : Nat := 0
  deriving DecidableEq, Repr

/-- A signature triple for the classes P, L and N (R99). -/
structure Sigs where
  p : Pred := 0
  l : Pred := 0
  n : Pred := 0
  deriving DecidableEq, Repr

/-- A cached translation (R324): context, first page number and log2 size of the page, and the leaf. -/
structure TlbEntry where
  ctx : Nat
  vpn : Nat
  size : Nat
  leaf : W64
  deriving DecidableEq, Repr

/-! ### Withheld effects -/

/-- Bytes of one page after translation: physical address, count, and whether the page is untracked (R322). -/
structure Seg where
  pa : Nat
  n : Nat
  untr : Bool
  deriving DecidableEq, Repr

/-- Bytes of one store within one 64-byte block (R102), and whether the page is untracked (R115). -/
structure Piece where
  pa : Nat
  bytes : List Byte
  untr : Bool
  deriving DecidableEq, Repr

/-- The operations of R176. -/
inductive AtomOp where
  | add | and | or | xor | minI | maxI | minN | maxN | swp | cas | fadd
  deriving DecidableEq, Repr

/-- Matrix commands that take a queue entry (R198). Tiles and destinations are as captured at issue, each with its virtual address; those that a stitch issues carry virtual addresses and are checked when they bind or run (R239, R241, R242). -/
inductive MOp where
  | step (acc pa fmt : Nat) (va ab : W72) (h : BitVec 128)
  | stepVa (acc : Nat) (ta ab : W72) (h : BitVec 128)
  | zero (acc : Nat)
  | drain (acc : Nat) (va : W72) (dst : List Seg) (bias top : Vec) (h : BitVec 128)
  | drainV (acc d vid : Nat) (bias top : Vec) (h : BitVec 128)
  | drainM (acc : Nat) (dst tb : W72) (h : BitVec 128)
  | write (pa fmt row : Nat) (va : W72) (data : Vec) (keep : Bool)
  | topkSet (k cb : Nat)
  | topkGet (va : W72) (dst : List Seg)
  | topkGetVa (dst : W72)
  | tsclr (acc : Nat)
  | stitch (bank0 : Bool) (entry depth : Nat) (opw : BitVec 43) (mp : List W72) (mh : List (BitVec 128))
  deriving DecidableEq, Repr

/-- Matrix commands that take effect at the head of RQ (R198, R214, R217). -/
inductive MDirect where
  | pin (pa fmt cls : Nat) (va : W72)
  | unpin (pa fmt : Nat) (va : W72)
  | inv (pa fmt : Nat) (va : W72)
  | repl (pa fmt cls n : Nat) (va : W72)
  | pref (table : W72) (id prio dl : Nat)
  | cancelId (id : Nat)
  | cancelAll
  | flush
  deriving DecidableEq, Repr

/-- The kinds of a copy-channel command (R257, R263, R267, R270). -/
inductive COp where
  | copy
  | loop (count : Nat) (step : W72)
  | put (ep : Nat)
  | get (ep : Nat)
  | coll (kind op ty group root : Nat)
  | wm (len : Nat)
  | sync (target : BitVec 32)
  deriving DecidableEq, Repr

/-- A copy-channel command with its captured operands and progress: the running iteration and whether it has begun, pieces of earlier iterations, pieces of this one, remote accesses not yet answered, blocks written (and whether untracked), the cycle from which its next piece may go, and the wake that its completion absorbs (R123, R251 to R257). -/
structure CopyCmd where
  op : COp
  scope : Nat
  h : BitVec 128
  dst : W72
  org : W72
  sup : Bool
  ctx : Nat
  iter : Nat
  iterOn : Bool
  past : Nat
  piece : Nat
  acks : List Nat
  failed : Bool
  wrote : List (Nat × Bool)
  from_ : Nat
  wake : Pred := 0
  deriving DecidableEq, Repr

/-- The hub commands of R318 with their operands. -/
inductive HubOp where
  | tlbinvVa (ctx : Nat) (va : W72)
  | tlbinvCtx (ctx : Nat)
  | tlbinvAll
  | bias (page : Nat) (host : Bool)
  | stitchIns (ctx : Nat) (va : W72)
  | stitchBind (ctx i off : Nat)
  | stitchUnbind (ctx i : Nat)
  | stitchDrop (ctx off : Nat)
  | ctxEnd (ctx : Nat)
  deriving DecidableEq, Repr

/-- An effect that leaves the core: withheld in WB, performed at the head of RQ (R102). -/
inductive Effect where
  | scratch (cells : List (Nat × Byte))
  | store (ps : List Piece) (ev scope : Nat)
  | sdesc (pa : Nat) (d : BitVec 32) (untr : Bool) (scope : Nat)
  | cwb (pa scope : Nat)
  | atomic (op : AtomOp) (ord scope ev : Nat) (p : Piece) (x y : W64) (d vid : Nat)
  | relSt (scope ev pa : Nat) (v : W64) (untr : Bool)
  | storeRel (scope ev : Nat) (p : Piece)
  | relFence (scope : Nat)
  | waitaddr (pa : Nat) (reg : Nat) (v : W64)
  | waitM (mask n : Nat)
  | waitK (mask : Nat)
  | drain (scope d vid : Nat)
  | matrix (op : MOp) (sup : Bool)
  | direct (op : MDirect) (sup : Bool)
  | mwrite (ps : List Piece) (descs : List (Nat × BitVec 32))
  | copy (ch : Nat) (c : CopyCmd)
  | kstage (ch : Nat)
  | kstageSched (regs : Regs) (sup : Bool)
  | kcancel (mode ch : Nat)
  | hub (op : HubOp) (d vid : Nat)
  deriving DecidableEq, Repr

/-! ### The matrix engine -/

/-- A 64-byte block with its descriptor, as a fill reads it (R199). -/
structure Block where
  data : BitVec 512
  desc : BitVec 32
  poison : Bool
  deriving DecidableEq, Repr

/-- The states of a tile instance (R193). A replica copy names its source. -/
inductive InstState where
  | filling
  | copying (src : Nat)
  | valid
  | retiring
  deriving DecidableEq, Repr

/-- A tile instance: its tag (pa, fmt, gen), class, first frame, contents so far, and dispatch time (R193, R194). -/
structure Inst where
  id : Nat
  pa : Nat
  fmt : Nat
  gen : Nat
  cls : Nat
  frame : Nat
  st : InstState
  blocks : List Block
  time : Nat
  deriving DecidableEq, Repr

/-- A pinned tag; `want` while its fill into pinnable frames is still to start (R195, R205). -/
structure Pin where
  pa : Nat
  fmt : Nat
  cls : Nat
  want : Bool
  deriving DecidableEq, Repr

/-- How far a queued command has come (R198, R199, R208). -/
inductive MSt where
  | waiting
  | bound
  | running
  | ending (at_ : Nat)
  deriving DecidableEq, Repr

/-- A matrix-queue or step-queue entry: its command, the privilege it issued at, its state, the group it bound to, and its completed rows (R198, R202). -/
structure MEntry where
  id : Nat
  op : MOp
  sup : Bool
  st : MSt
  gen : Nat
  pa : Nat
  fmt : Nat
  rows : Nat
  status : BitVec 64
  deriving DecidableEq, Repr

/-- A step running in an array: the entry, the instance, its dispatch cycle, the rows it started with, its step time, and the rows that came late with the cycles by which each delays itself and the rows after it (R199). -/
structure Run where
  arr : Nat
  entry : Nat
  inst : Nat
  start : Nat
  row0 : Nat
  t : Nat
  late : List (Nat × Nat) := []
  deriving DecidableEq, Repr

/-- A prefetch request (R217): id, priority, deadline cycle, table entry address, and, once its entry is read, the tiles still to fill: virtual address, format, class. -/
structure Prefetch where
  id : Nat
  prio : Nat
  dl : Option Nat
  table : W72
  sup : Bool
  tiles : Option (List (Nat × Nat × Nat))
  deriving DecidableEq, Repr

/-- The top-k unit (R212): k, cb, and for each row its entries (key, value, index) as FP32 bits. -/
structure TopK where
  k : Nat := 0
  cb : Nat := 0
  rows : Bank (List (BitVec 32 × BitVec 32 × BitVec 32)) := []
  deriving DecidableEq, Repr

/-- A bank of the stitch store (R222, R224): tag when valid, contents, last use. -/
structure StitchBank where
  tag : Option Nat := none
  words : Bank (BitVec 64) := []
  used : Nat := 0
  deriving DecidableEq, Repr

/-- How the stitch sequencer stands (R227, R234, R244, R246). -/
inductive SeqSt where
  | running
  | waitAll
  | yielding
  | ended
  | faulted (fatal : Bool)
  deriving DecidableEq, Repr

/-- The micro-state of the running stitch (R229) with its step queue (R228). -/
structure Seq where
  entry : Nat
  bank0 : Bool
  upc : Nat
  mt : Bank W72 := []
  ml : Bank LoopCtr := []
  sp : BitVec 8 := 0
  abase : Nat := 0
  acnt : Nat := 32
  aoff : Nat := 0
  steps : Nat := 0
  words : Nat := 0
  depth : Nat
  st : SeqSt := .running
  fstep : Nat := 0
  sq : List MEntry := []
  elig : Nat := 0
  prog : List (BitVec 64) := []
  deriving DecidableEq, Repr

/-- A fault that froze an engine, with the entry it belongs to, the region open when it froze, whether it has been delivered, whether the command cannot resume, and a direct command that starts again on resumption (R203, R214, R247). -/
structure Frozen where
  cause : Cause
  entry : Nat
  region : Nat
  delivered : Bool
  fatal : Bool
  again : Option (MDirect × Bool) := none
  deriving DecidableEq, Repr

/-- The weight cache and matrix engine of a core (R192 to R230); `repl` holds the `mrepl` requests under way: tile, format, class and number of instances (R214). `bank0`: bank 0 holds the vendor's image (R222, R401). `reload` holds the bank reloads under way: bank, context, and the cycle in which each ends (R224). -/
structure MEng where
  insts : List Inst := []
  pins : List Pin := []
  fillcount : BitVec 16 := 0
  q : List MEntry := []
  runs : List Run := []
  frozen : Option Frozen := none
  mrp : BitVec 16 := 0
  pfq : List Prefetch := []
  pfLost : Nat := 0
  repl : List (Nat × Nat × Nat × Nat) := []
  topk : TopK := {}
  bank0 : Bool := false
  banks : Bank StitchBank := []
  reload : List (Nat × Nat × Nat) := []
  pattern : Bank (BitVec 64) := []
  seq : Option Seq := none
  yieldReq : Bool := false
  dead : List Nat := []
  nextId : Nat := 0
  deriving DecidableEq, Repr

/-! ### Copy channels -/

/-- A watermark (R263): base, range length, the end of the longest prefix written (none until the arm reaches the front of its channel), and what has been written beyond it. -/
structure Watermark where
  base : Nat
  len : Nat
  reach : Option Nat
  beyond : List (Nat × Nat) := []
  deriving DecidableEq, Repr

/-- A copy channel (R251, R255, R260, R263, R274). `more` holds the failures of schedule entries that came while the channel was frozen, in order (R262). -/
structure Chan where
  q : List CopyCmd := []
  running : Bool := false
  filled : Nat := 0
  released : Nat := 0
  nfail : Nat := 0
  frozen : Option Frozen := none
  more : List Frozen := []
  wm : Option Watermark := none
  deriving DecidableEq, Repr

/-- The static copy schedule of the running task (R262): its entries, the next one, the stage counter, and, while the initial release still waits for room in a channel, the registers and privilege that its entries take. -/
structure Sched where
  entries : List (BitVec 64) := []
  next : Nat := 0
  sc : Nat := 0
  start : Option (Regs × Bool) := none
  deriving DecidableEq, Repr

/-! ### A core -/

/-- One core (R8, R51, R99). The accumulators are held by row, key 16 × accumulator + row. `rqAt`: the head of RQ has begun to perform and goes on from that cycle; `rqFrom`: the cycle from which the next head may perform (R408). `pipeFrom`: the cycle from which the load pipes have the translation that the shared TLB served (R325). `count`: the counts since the last meter update; `recent`: those since the last estimate of the power manager (R366, R405). `icache`: the instruction cache, bundles by physical address, the latest first (R16). -/
structure Core where
  job : Option Job := none
  lastCtx : Option Nat := none
  regs : Regs := {}
  sh : Regs := {}
  sys : Sys := {}
  vec : Bank Vec := []
  acc : Bank Vec := []
  accPoison : Bank Bool := []
  ts : Bank W64 := []
  tsNew : List (Nat × Nat × W64) := []
  iss : Issue := {}
  wb : List Effect := []
  rq : List Effect := []
  rqAt : Option Nat := none
  rqFrom : Nat := 0
  l1 : Bank L1Line := []
  ws : Sigs := {}
  as_ : Sigs := {}
  scr : Bank Byte := []
  eng : MEng := {}
  ch : Bank Chan := []
  sched : Sched := {}
  tlb : List TlbEntry := []
  ptlb : List TlbEntry := []
  pipeFrom : Nat := 0
  poolFail : Nat := 0
  poolCause : BitVec 3 := 0
  netFail : Nat := 0
  netCause : BitVec 3 := 0
  count : Bank Nat := []
  recent : Bank Nat := []
  icache : List (Nat × BitVec 512) := []
  noPage : List (Nat × Nat × Nat) := []
  deriving DecidableEq, Repr

/-! ### The memory system -/

/-- A parked `waitaddr` at a line's home, with the cycle of its registration (R290, R292). -/
structure Monitor where
  line : Nat
  core : Nat
  reg : Nat
  since : Nat
  deriving DecidableEq, Repr

/-- A wake message under way to a core (R291): status and the cycle it arrives. -/
structure WakeMsg where
  core : Nat
  reg : Nat
  status : Nat
  due : Nat
  deriving DecidableEq, Repr

/-- A line present in the L2 (R173, R179): class, dirty towards HBM, its last use, and the line that shares its data entry. -/
structure L2Line where
  here : Bool := false
  cls : Nat := 0
  dirty : Bool := false
  used : Nat := 0
  mate : Option Nat := none
  deriving DecidableEq, Repr

/-- A write of the pool agent's in-flight set, with the cycle in which it entered (R111, R408) and the sync word that it counts at when it performs: its offset and the bytes (R266). -/
structure PoolWrite where
  id : Nat
  core : Nat
  pa : Nat
  bytes : List Byte
  since : Nat
  sync : Option (Nat × Nat) := none
  poison : Bool := false
  meterRec : Nat := 0
  task : Option Nat := none
  deriving DecidableEq, Repr

/-- The fabric state of a window sector (R331): the hosts that hold it, whether one holds it exclusively, the bytes that host has modified, and since when. -/
structure Fabric where
  holders : List Nat := []
  excl : Bool := false
  mods : List (Nat × Byte) := []
  since : Nat := 0
  deriving DecidableEq, Repr

/-- A host request held while its page flips (R333). -/
inductive HostReq where
  | read (host pa : Nat) (want : HostWant)
  | write (host pa : Nat) (data : List Byte)
  deriving DecidableEq, Repr

/-- The memory system (R12, R13, R99, R108 to R111). `sends`: by slice, the cycle of the last wake message that it sends (R291). -/
structure Mem where
  bytes : List Host.Cell := []
  desc : Bank (BitVec 32) := []
  poison : Bank Bool := []
  ver : Bank Nat := []
  owner : Bank (Option Nat) := []
  mons : List Monitor := []
  msgs : List WakeMsg := []
  sends : Bank Nat := []
  dirs : Bank (List Nat) := []
  l2 : Bank L2Line := []
  inflight : List PoolWrite := []
  bias : Bank Bool := []
  fabric : Bank Fabric := []
  flipping : List Nat := []
  held : List HostReq := []
  deriving DecidableEq, Repr

/-! ### The hub -/

/-- Partition states (R371). -/
inductive PartSt where
  | running | capturing | resetting | halted
  deriving DecidableEq, Repr

/-- A command queue (R336). `timer`: the cycle from which its watchdog counts (R399). -/
structure Queue where
  cfg : QueueRec
  rd : BitVec 32 := 0
  wr : BitVec 32 := 0
  state : Nat := 0
  err : Nat := 0
  cwr : BitVec 32 := 0
  timer : Option Nat := none
  deriving DecidableEq, Repr

/-- A partition (R358, R360, R371, R373): its record, state, queues, free frames of its pool, capture frames and ring head, control-ring done index, and whether that ring is stopped; `frozenAt`, `frozenUpd` and `frozenQueues` are the cycle, the update number and the queues of its last freeze (R372, R373); `resetBy` is the cycle in which the clearing of its reset ends (R345, R372). -/
structure Part where
  cfg : PartRec
  st : PartSt := .halted
  queues : List Queue := []
  pool : List Nat := []
  capFrames : List Nat := []
  capOff : Nat := 64
  capCount : Nat := 0
  ctlDone : Nat := 0
  ctlStop : Bool := false
  trigger : Nat := 0xFF
  drainBy : Option Nat := none
  resetBy : Option Nat := none
  frozenAt : Nat := 0
  frozenUpd : Nat := 0
  frozenQueues : List Queue := []
  miglog : List (Nat × Nat) := []
  deriving DecidableEq, Repr

/-- An entry of a context's endpoint table (R269, R361). -/
structure Endpoint where
  qp : Nat
  base : Nat
  size : Nat
  deriving DecidableEq, Repr

/-- A collective group (R270, R361). -/
structure Group where
  rank : Nat
  members : List Nat
  deriving DecidableEq, Repr

/-- A stitch placed in a context's image (R223). -/
structure Placed where
  off : Nat
  len : Nat
  depth : Nat
  deriving DecidableEq, Repr

/-- A context record (R364): partition, base privilege, page-table root, save area, endpoints, groups, stitch image and pattern table. -/
structure Ctx where
  part : Nat
  sup : Bool
  root : Nat
  save : Nat
  slots : Nat
  closed : Bool := false
  endpoints : Bank (Option Endpoint) := []
  groups : Bank (Option Group) := []
  image : Bank (BitVec 64) := []
  placed : List Placed := []
  pattern : Bank (BitVec 64) := []
  deriving DecidableEq, Repr

/-- A stage entry of a launch record (R340). -/
structure StageRec where
  kernel : Nat
  gang : Nat
  accs : Nat
  vregs : Nat
  scratch : Nat
  maxg : Nat
  qdep : Nat
  qent : Nat
  tasks : Nat
  deriving DecidableEq, Repr

/-- A slot of an output queue (R343, R346): its address, the wake kept beside it, and its state. -/
inductive SlotSt where
  | free | reserved | published (n : Nat) | taken
  deriving DecidableEq, Repr
structure OutSlot where
  addr : Nat
  wake : Pred
  st : SlotSt
  deriving DecidableEq, Repr

/-- A stage of a launch: its entry, tasks started, tasks ended, its output slots, how many entries it has published, and whether it is halted in a trace cut (R343, R357). -/
structure Stage where
  cfg : StageRec
  started : Nat := 0
  ended : Nat := 0
  slots : List OutSlot := []
  published : Nat := 0
  halted : Bool := false
  deriving DecidableEq, Repr

/-- What a launch is doing (R341, R355). -/
inductive LaunchSt where
  | running
  | cutting
  | stopped
  | ending (status : Nat)
  | ended
  deriving DecidableEq, Repr

/-- A launch (R340, R341, R346). `slots` are the save-area slots that its admission has reserved (R362); `lastStage` is the stage that placed last (R347); `stopRec` and `abortRec` are the sequence number and tag of the record that stops or aborts it. -/
structure Launch where
  part : Nat
  queue : Nat
  seq : Nat
  ctx : Nat
  prio : Nat
  weight : Nat
  trace : Bool
  keep : Bool
  schedStage : Nat
  epi : Nat
  sinit : Nat
  wdog : Nat
  sched : List (BitVec 64)
  args : W72
  tag : W64
  stages : List Stage
  frames : List Nat
  slots : Nat
  st : LaunchSt := .running
  first : Option Nat := none
  nfail : Nat := 0
  killed : Option (Nat × Nat) := none
  seen : List Nat := []
  lastStage : Option Nat := none
  stopRec : Option (Nat × W64) := none
  abortRec : Option (Nat × W64) := none
  deriving DecidableEq, Repr

/-- Stage-task states (R343, R347, R352). -/
inductive TaskSt where
  | ready
  | running
  | stopping
  | ended
  deriving DecidableEq, Repr

/-- A saved core of a pre-empted gang (R352, R364): its state, the core it ran on, its stage-task number, its slot of the save area, and the free choice that filled the slot's private bytes. -/
structure Saved where
  core : Core
  flat : Nat
  index : Nat
  slot : Nat
  seed : Nat
  deriving DecidableEq, Repr

/-- A stage task: launch, stage, its index or publication number, its input and output slots, cores in rank order, state, the cycle it became ready, its aged levels, start of slice, barrier masks, arrivals and masks to come of its gang by line (R281), saved cores (R285), the waking cluster that it waits for (R348), and, while its gang is being saved, the cycle in which that ends (R352). -/
structure Task where
  launch : Nat
  stage : Nat
  index : Nat
  inSlot : Option Nat
  outSlot : Option Nat
  cores : List Nat
  st : TaskSt
  since : Nat
  aged : Nat
  sliceFrom : Nat
  order : Nat
  masks : Bank (List Nat)
  arrived : Bank (List Nat)
  pending : Bank (List Nat)
  saved : List Saved
  promised : Option Nat := none
  saveAt : Option Nat := none
  deriving DecidableEq, Repr

/-- A core start that the distributor has placed (R350). -/
structure ClusterSt where
  awake : Bool := false
  waking : Option Nat := none
  busyAt : Nat := 0
  lastStart : Option Nat := none
  runStart : Option Nat := none
  throttle : Nat := 0
  holdSteps : Bool := false
  hot : Bool := false
  deriving DecidableEq, Repr

/-- A collective that has been sent (R123, R270 to R272): the command, its group, its contribution, the pages of its destination, the blocks of its buffers, the relay chunks passed on, the bytes that wait to be written with their offsets, the cause bits of a failure still to be counted and whether one has been, and whether it has ended. -/
structure CollOp where
  cmd : CopyCmd
  group : Group
  own : List Byte
  dst : List Seg
  blocks : List Nat
  chunk : Nat := 0
  due : List (Nat × List Byte) := []
  fail : Nat := 0
  failed : Bool := false
  ended : Bool := false
  deriving DecidableEq, Repr

/-- A remote access that has been sent (R257, R269, R270), with the task and launch that sent it and the queue pair it goes through: a put, a get's piece (destination space, address and bytes; none once it is cancelled), or a collective. While the task is saved, `away` holds the sender's rank; `answer` is an outcome that waits for the task, or for the answers of earlier pieces (R251, R276). `meterRec` is the metering record of its bytes (R365); `sent` counts the bytes that a put has sent, and `sync` is the sync word at which they count when it is acknowledged (R266). -/
structure NetOp where
  id : Nat
  core : Nat
  ch : Nat
  put : Bool
  piece : Option (Bool × W72 × Nat)
  untr : Bool
  task : Nat
  launch : Nat
  qp : Option Nat := none
  away : Option Nat := none
  answer : Option RemoteResult := none
  coll : Option CollOp := none
  meterRec : Nat := 0
  sent : Nat := 0
  sync : Option Nat := none
  deriving DecidableEq, Repr

/-- A hub command handed over and not yet complete (R318); `cover` is the address range whose cached translations it removed. While its task is saved, `away` holds the task and the core's rank, and `answer` its status. -/
structure HubCmd where
  core : Nat
  op : HubOp
  d : Nat
  vid : Nat
  from_ : Nat
  ctx : Nat
  cover : List (Nat × Nat × Nat) := []
  away : Option (Nat × Nat) := none
  answer : Option Nat := none
  deriving DecidableEq, Repr

/-- An entry of a die's miss table (R325): the page, the cluster that asked first, the core TLBs, the pipe TLBs and the cores' copy engines that wait for it, the cycle in which its walk ends (none while no walker is free), and whether a `tlbinv` overtook it. -/
structure Walk where
  die : Nat
  ctx : Nat
  vpn : Nat
  cluster : Nat
  cores : List Nat
  pipes : List Nat
  due : Option Nat
  cancelled : Bool
  copies : List Nat := []
  deriving DecidableEq, Repr

/-- A page that the migrator moves (R327): context, partition, first page number, log2 size, old address, frame, and the leaf's entries with the values that the walk read; the cycle in which its copy ends, and whether the leaf has been rewritten. -/
structure Move where
  ctx : Nat
  part : Nat
  vpn : Nat
  size : Nat
  old : Nat
  frame : Nat
  la : Nat
  vals : List W64
  due : Nat
  moved : Bool
  deriving DecidableEq, Repr

/-- The health record that the management controller keeps with the signed configuration (R375, R401): the locations that have retired, those of them with no spare, and the frames that have left the free list. -/
structure Health where
  retired : List ErrLoc := []
  noSpare : List ErrLoc := []
  lost : List Nat := []
  deriving DecidableEq, Repr

/-- Boot, attestation and links (R401 to R404, R407): `closing` is the cause of a shutdown whose captures are still to end; `windows` and `exposed` are the signed configuration's. -/
structure Boot where
  stage : Nat := 0
  failed : Bool := false
  digests : Bank (BitVec 384) := []
  attested : Bool := false
  session : Bool := false
  group : Nat := 0
  links : Bank LinkState := []
  diesUp : Nat := 0
  upAt : Nat := 0
  off : Bool := false
  closing : Option Nat := none
  windows : List Window := []
  exposed : Option (Nat × Nat) := none
  health : Health := {}
  deriving DecidableEq, Repr

/-- An error location with the times of its corrected errors (R374). -/
structure ErrRec where
  loc : ErrLoc
  times : List Nat
  deriving DecidableEq, Repr

/-- The round robin of one priority level of a partition (R347): its contexts in order, and the placements that the first has had in its turn. -/
structure Turn where
  order : List Nat := []
  used : Nat := 0
  deriving DecidableEq, Repr

/-- The Bydun hub (R14, chapters 15 to 17 and 24). `scrub` holds the frames freed and not yet cleaned, with the partition whose pool takes them back (R328); `lost` those that have left the free list for good (R375). `turns` is kept by 4 × partition + level. -/
structure Hub where
  parts : Bank (Option Part) := []
  frameOwner : Bank Nat := []
  scrub : List (Nat × Nat) := []
  lost : List Nat := []
  ctxs : Bank (Option Ctx) := []
  launches : Bank (Option Launch) := []
  tasks : Bank (Option Task) := []
  nextLaunch : Nat := 0
  nextTask : Nat := 0
  turns : Bank Turn := []
  ring : Bank (Option Nat) := []
  windows : List Window := []
  exposed : Option (Nat × Nat × Nat) := none
  budgets : Bank Nat := []
  budgetUsed : List (Nat × Nat) := []
  migr : List (Nat × Nat × Nat) := []
  moves : List Move := []
  meters : Bank Nat := []
  live : Bank Nat := []
  updates : Nat := 0
  errs : List ErrRec := []
  retired : List ErrLoc := []
  noSpare : List ErrLoc := []
  clusters : Bank ClusterSt := []
  boot : Boot := {}
  stlb : Bank (List TlbEntry) := []
  walks : List Walk := []
  cmds : List HubCmd := []
  net : List NetOp := []
  deriving DecidableEq, Repr

/-! ### The module -/

/-- What leaves the module: answers to hosts, messages over a link, reports to the management controller. -/
inductive Out where
  | ueWrite (qp addr : Nat) (data : List Byte)
  | uePut (id ep off : Nat) (data : List Byte)
  | ueGet (id ep off n : Nat)
  | ueColl (core ch : Nat) (data : List Byte)
  | rmaData (qp : Nat) (data : List Byte)
  | rmaError (qp : Nat)
  | rmaDone (qp : Nat)
  | hostData (host : Nat) (data : List Byte)
  | hostAck (host : Nat)
  | snoop (host pa : Nat)
  | ioUnsupported (port : Nat)
  | budgetAck (port budget : Nat)
  | cacheEvict (port pa : Nat)
  | mctl (code : Nat) (args : List Nat)
  | mgmt (data : List Byte)
  | meter (ctx part label update : Nat) (counters : List Nat)
  deriving DecidableEq, Repr

/-- The state of the module. `cur` is the core that slot and micro operations act on; `agenda` the transitions to take next; `outbox` what has left the module; `fresh` the free-value counter (log entry 1). -/
structure State where
  cores : Bank Core := []
  mem : Mem := {}
  hub : Hub := {}
  cycle : Nat := 0
  cur : Nat := 0
  agenda : List Instr := []
  outbox : List Out := []
  fresh : Nat := 0
  deriving DecidableEq, Repr

/-- Why the model stops. It never does: the spec gives every condition an effect, a trap, a refusal of a request, or a wait. -/
inductive Fault where
  deriving DecidableEq, Repr

/-- Why the model gives no meaning. -/
inductive Refusal where
  /-- Raised by Dispatch for an instruction without a meaning. Safe. -/
  | notModelled (mnemonic : String)
  deriving DecidableEq, Repr

/-- The module right after reset: every field as its rule gives it, else as the assumption log names it. Memory lists nothing, every cluster is gated, nothing is booted (R345, R401, R404). -/
def State.reset : State := {}

end Sys2Proof.Machine
end

