-- ==== Sys2Proof/Machine/Regs.lean ====
section
/-! DEFINITION. The one home of every register: reads, writes as they land, both copies of the shape registers and their fields, and the writes in flight (R55, R58, R76, R77, R124, R136, R145). -/
namespace Sys2Proof.Machine

/-! ### Reads -/

/-- s0 reads zero (R124). -/
def Regs.rs (r : Regs) (n : Nat) : W64 := if n = 0 then 0 else r.s.get 0 n
/-- An address register. -/
def Regs.ra (r : Regs) (n : Nat) : W72 := r.a.get 0 n
/-- g0 reads 1 (R124). -/
def Regs.rg (r : Regs) (n : Nat) : Bool := if n = 0 then true else r.g.get false n
/-- A scratchpad base register. -/
def Regs.rb (r : Regs) (n : Nat) : BitVec 20 := r.b.get 0 n
/-- A loop counter. -/
def Regs.rlc (r : Regs) (n : Nat) : LoopCtr := r.lc.get {} n
/-- A matrix parameter register. -/
def Regs.rmp (r : Regs) (n : Nat) : W72 := r.mp.get 0 n
/-- An index register. -/
def Regs.rix (r : Regs) (n : Nat) : W64 := r.ix.get 0 n
/-- p0 reads all ones (R62, R145). -/
def Regs.rp (r : Regs) (n : Nat) : Pred := if n = 0 then BitVec.allOnes 512 else r.p.get 0 n

/-- A loop counter's 64 bits (R124). -/
def LoopCtr.bits (l : LoopCtr) : W64 := (l.ec ++ l.cnt).setWidth 64
/-- A loop counter from the low 36 bits of a value (R124, R135). -/
def LoopCtr.ofBits (v : W64) : LoopCtr := ⟨v.extractLsb' 32 4, v.extractLsb' 0 32⟩

/-- The reset value of a shape register of engine `eng`: zero but for mh's oscale 0x7F (R166, R183, R197, R253). -/
def shapeReset (eng : Nat) : BitVec 128 := if eng = 0 then 0x7F#128 <<< 72 else 0
/-- The active copy of shape register `h` of engine `eng` (0 mh, 1 lh, 2 sh, 3 kh, 4 xh; R61). -/
def Regs.shape (r : Regs) (eng h : Nat) : BitVec 128 := r.shAct.get (shapeReset eng) (4 * eng + h)
/-- The shadow copy. -/
def Regs.shapeShadow (r : Regs) (eng h : Nat) : BitVec 128 := r.shShd.get (shapeReset eng) (4 * eng + h)

/-- The place of a shape field: lowest bit and width, by engine and field number (R166, R183, R197, R253). -/
def shapeField (eng fld : Nat) : Nat × Nat :=
  match eng with
  | 0 => match fld with
    | 0 => (0, 16) | 1 => (52, 4) | 2 => (56, 4) | 3 => (88, 1) | 4 => (89, 1) | 5 => (32, 20) | 6 => (80, 3) | 7 => (83, 2)
    | 8 => (60, 4) | 9 => (85, 2) | 10 => (87, 1) | 11 => (64, 8) | 12 => (72, 8) | 13 => (16, 16) | 14 => (90, 4) | _ => (0, 0)
  | 1 | 2 => match fld with
    | 0 => (0, 4) | 1 => (4, 20) | 2 => (24, 1) | 3 => (25, 3) | 4 => (28, 4) | 5 => (32, 1) | _ => (0, 0)
  | 3 => match fld with
    | 0 => (0, 20) | 1 => (20, 12) | 2 => (32, 24) | 3 => (56, 32) | 4 => (88, 1) | 5 => (89, 1) | 6 => (90, 3) | 7 => (93, 1)
    | 8 => (94, 16) | 9 => (110, 3) | _ => (0, 0)
  | _ => match fld with
    | 0 => (0, 64) | 1 => (64, 8) | 2 => (72, 2) | 3 => (74, 1) | 4 => (75, 1) | 5 => (76, 3) | 6 => (79, 32) | _ => (0, 0)

/-- A shape field's value. -/
def fieldOf (eng fld : Nat) (h : BitVec 128) : Nat :=
  let (lo, w) := shapeField eng fld
  (h >>> lo).toNat % 2 ^ w

/-- Bits `lo + w − 1 : lo` of `x` replaced by the low bits of `v`. -/
def setBits (x : BitVec 128) (lo w : Nat) (v : W64) : BitVec 128 :=
  let mask : BitVec 128 := BitVec.ofNat 128 ((2 ^ w - 1) * 2 ^ lo)
  (x &&& ~~~mask) ||| ((v.setWidth 128 <<< lo) &&& mask)

/-! ### Writes as they land -/

/-- A write to a register that the shadow holds (R306); s0 discards it, g0 and p0 are never named (R58). -/
def Regs.apply (r : Regs) : Wr → Regs
  | .s n v => if n = 0 then r else { r with s := r.s.put 0 n v }
  | .a n v => { r with a := r.a.put 0 n v }
  | .g n v => if n = 0 then r else { r with g := r.g.put false n v }
  | .b n v => { r with b := r.b.put 0 n v }
  | .lc n v => { r with lc := r.lc.put {} n v }
  | .mp n v => { r with mp := r.mp.put 0 n v }
  | .ix n v => { r with ix := r.ix.put 0 n v }
  | .p n m v => if n = 0 then r else { r with p := r.p.put 0 n ((r.p.get 0 n &&& ~~~m) ||| (v &&& m)) }
  | .shadow k lo w v => { r with shShd := r.shShd.put (shapeReset (k / 4)) k (setBits (r.shShd.get (shapeReset (k / 4)) k) lo w v) }
  | .sys n v => match n with
    | 0x000 => { r with ckcfg := v.setWidth 3 }
    | 0x020 => { r with lsave := v &&& 0x8000003FFFFFFFFF }
    | 0x021 => { r with vfm := (r.vfm.extractLsb' 64 64) ++ v }
    | 0x022 => { r with vfm := v ++ (r.vfm.extractLsb' 0 64) }
    | _ => r
  | .v _ _ _ => r

/-- A trap bank's register written by `syswr`, by the low bits of its number (R300). -/
def TrapBank.write (b : TrapBank) (k : Nat) (v : W64) : TrapBank :=
  match k with
  | 0 => { b with cause := v }
  | 1 => { b with tret := v &&& ~~~0x3F }
  | 2 => { b with taddr := v }
  | 3 => { b with hscr := v }
  | 4 => { b with asave := (b.asave.extractLsb' 64 8) ++ v }
  | 5 => { b with asave := (v.extractLsb' 0 8) ++ (b.asave.extractLsb' 0 64) }
  | _ => b

/-- A `syswr` to a register outside the shadow (R289, R300). -/
def Sys.write (y : Sys) (n : Nat) (v : W64) : Sys :=
  match n with
  | 0x008 => { y with tsave := v &&& ~~~0x1FF }
  | 0x009 => { y with tvec1 := v &&& ~~~0x3F }
  | 0x00A => { y with tvec2 := v &&& ~~~0x3F }
  | 0x010 | 0x011 | 0x012 | 0x013 | 0x014 | 0x015 => { y with bank1 := y.bank1.write (n - 0x010) v }
  | 0x018 | 0x019 | 0x01A | 0x01B | 0x01C | 0x01D => { y with bank2 := y.bank2.write (n - 0x018) v }
  | 0x023 => { y with wtmo := v.setWidth 48 }
  | _ => y

/-- Both copies of shape register `h` of engine `eng` exchanged (R55). -/
def Regs.swap (r : Regs) (eng h : Nat) : Regs :=
  let k := 4 * eng + h
  { r with shAct := r.shAct.put (shapeReset eng) k (r.shapeShadow eng h),
           shShd := r.shShd.put (shapeReset eng) k (r.shape eng h) }

/-- `new` where the mask has ones, `old` elsewhere. -/
def blend (mask old new : Vec) : Vec := (old &&& ~~~mask) ||| (new &&& mask)

/-- Write-log entries of register `n` brought to what a committed write leaves there, so that a rollback keeps that write (R307). -/
def patchLog (log : List (Nat × Vec)) (n : Nat) (mask v : Vec) : List (Nat × Vec) :=
  log.map fun (k, x) => if k = n then (k, blend mask x v) else (k, x)

/-- A write of region `reg` lands. A write of the open region changes the current registers, and one to a vector register is logged first (R149); a write of a committed region changes the shadow too (R306, R307; log entry 10). -/
def Core.land (c : Core) (reg : Nat) (w : Wr) : Core :=
  let c := { c with regs := c.regs.apply w, sys := match w with | .sys n v => c.sys.write n v | _ => c.sys,
                    sh := if reg < c.iss.region then c.sh.apply w else c.sh }
  match w with
  | .v n m v =>
    let old := c.vec.get 0 n
    let log := if reg < c.iss.region then patchLog c.iss.wlog n m v else (n, old) :: c.iss.wlog
    { c with vec := c.vec.put 0 n (blend m old v), iss := { c.iss with wlog := log } }
  | _ => c

/-- Every write of a list lands, in order. -/
def Core.landAll (c : Core) (reg : Nat) : List Wr → Core
  | [] => c
  | w :: t => Core.landAll (c.land reg w) reg t

/-- The writes due by the end of cycle `t` land, in the order in which they issued (R76, R77). -/
def Core.retire (c : Core) (t : Nat) : Core :=
  let due := c.iss.pend.filter fun w => w.due ≤ t
  let c := { c with iss := { c.iss with pend := c.iss.pend.filter fun w => !(w.due ≤ t) } }
  due.foldl (fun c w => c.land w.region w.wr) c

/-! ### The state's cores -/

/-- Core number `c` (R5). -/
def State.core (s : State) (c : Nat) : Core := s.cores.get {} c
/-- Core `c` replaced. -/
def State.setCore (s : State) (c : Nat) (x : Core) : State := { s with cores := s.cores.put {} c x }
/-- Core `c` changed by `f`. -/
def State.modCore (s : State) (c : Nat) (f : Core → Core) : State := s.setCore c (f (s.core c))
/-- The core that slot operations act on. -/
def State.me (s : State) : Core := s.core s.cur
/-- That core changed by `f`. -/
def State.modMe (s : State) (f : Core → Core) : State := s.modCore s.cur f

/-- A write of fixed latency `lat`, issued now: it lands at the end of cycle + lat − 1 (R76). DEDUCED: R76 says both that a reader issued in that cycle sees the new value and that sources are read as they stand at the start of a cycle; the model takes the second, which R79's example shows, so that the new value is seen from the next cycle on (log entry 113). -/
def Core.emit (c : Core) (cycle lat : Nat) (w : Wr) : Core :=
  { c with iss := { c.iss with pend := c.iss.pend ++ [⟨cycle + lat - 1, c.iss.region, w⟩] } }

/-- The acting core issues a write of latency `lat`. -/
def State.emit (s : State) (lat : Nat) (w : Wr) : State := s.modMe fun c => c.emit s.cycle lat w

/-- The acting core issues several writes of one latency. -/
def State.emits (s : State) (lat : Nat) (ws : List Wr) : State :=
  s.modMe fun c => ws.foldl (fun c w => c.emit s.cycle lat w) c

/-- A core frozen by a capture (R372). -/
def Core.isFrozen (k : Core) : Bool := match k.job with | some j => j.phase == .frozen | none => false
/-- A core's counter of R365 advanced; the counters of a frozen context have stopped (R399). -/
def State.meter (s : State) (c idx n : Nat) : State :=
  s.modCore c fun k => if k.isFrozen then k else { k with count := k.count.put 0 idx (k.count.get 0 idx + n), recent := k.recent.put 0 idx (k.recent.get 0 idx + n) }

/-- The flat cluster of a core. -/
def clusterOf (core : Nat) : Nat := core / 8
/-- The hub changed. -/
def State.modHub (s : State) (f : Hub → Hub) : State := { s with hub := f s.hub }
/-- The metering store's records: contexts, then each partition's idle record, then the hub's. -/
def idleRec (p : Nat) : Nat := 4096 + p
def hubRec : Nat := 4112
/-- A count for a record since the last update. -/
def Hub.note (h : Hub) (r i n : Nat) : Hub := { h with live := h.live.put 0 (16 * r + i) (h.live.get 0 (16 * r + i) + n) }
/-- The partition that owns a cluster (R358). -/
def Hub.partOfCluster (h : Hub) (cl : Nat) : Option Nat :=
  (h.parts.find? fun (_, p) => match p with | some x => x.cfg.clusters.getLsbD cl | none => false).map (·.1)
/-- The record that a core's counts belong to (R365). -/
def State.recOf (s : State) (c : Nat) : Nat :=
  match (s.core c).job with
  | some j => j.ctx
  | none => match s.hub.partOfCluster (clusterOf c) with | some p => idleRec p | none => hubRec
/-- A free value: the next number of the run's counter (log entry 8). -/
def State.freshen (s : State) : Nat × State := (s.fresh, { s with fresh := s.fresh + 1 })

/-- What leaves the module. -/
def State.out (s : State) (o : Out) : State := { s with outbox := s.outbox ++ [o] }

/-- The core runs at supervisor privilege (R298). -/
def Core.sup (c : Core) : Bool := c.sys.svctx || c.sys.level != 0

/-- A guard's value at issue (R57). -/
def Core.guardOn (c : Core) (g : Guard) : Bool := c.regs.rg g.n.toNat != g.inv

end Sys2Proof.Machine
end

