-- ==== Sys2Proof/Machine/Mem.lean ====
section
/-! DEFINITION. The memory system: homes, versions, monitors, ownership, the L1s with Write-back, Evict and Fill, signatures and wakes, the pool agent's in-flight writes, and the exposed window's fabric states (R12, R13, R99 to R122, R173, R331). -/
namespace Sys2Proof.Machine

/-! ### Addresses and bytes -/

/-- A physical address of the remote range (R12). -/
def isRemote (pa : Nat) : Bool := 0x100000000000000 ≤ pa && pa < 0x200000000000000
/-- A physical address of HBM (R12). -/
def isHbm (pa : Nat) : Bool := pa < 0x6000000000
/-- Neither: the reserved range of R12. -/
def isReserved (pa : Nat) : Bool := !isHbm pa && !isRemote pa

/-- What a byte that nothing has written reads as (log entry 2). -/
def unwritten : Byte := 0

/-- One byte of memory at its home. -/
def Mem.byte (m : Mem) (a : Nat) : Byte := Bank.get unwritten m.bytes a
/-- One byte of memory set at its home. -/
def Mem.setByte (m : Mem) (a : Nat) (b : Byte) : Mem := { m with bytes := Bank.put unwritten m.bytes a b }
/-- Bytes from `a` on, read at the home. -/
def Mem.read (m : Mem) (a n : Nat) : List Byte := Bank.getList unwritten m.bytes a n
/-- Bytes from `a` on, written at the home. -/
def Mem.write (m : Mem) (a : Nat) (bs : List Byte) : Mem := { m with bytes := Bank.putList unwritten m.bytes a bs }
/-- The canonical form of memory: addresses strictly rising, nothing listed that reads as an unlisted address does. -/
def Mem.wf (m : Mem) : Bool := Bank.wf unwritten m.bytes

/-- The number that bytes hold, first byte lowest (R1). -/
def leVal : List Byte → Nat
  | [] => 0
  | b :: t => b.toNat + 256 * leVal t
/-- `n` bytes of a number, lowest first (R1). -/
def leList : Nat → Nat → List Byte
  | 0, _ => []
  | k + 1, x => BitVec.ofNat 8 x :: leList k (x / 256)

/-- Eight bytes at a home. -/
def Mem.read64 (m : Mem) (a : Nat) : W64 := BitVec.ofNat 64 (leVal (m.read a 8))
/-- The 64 bytes of a block as one number. -/
def Mem.block (m : Mem) (blk : Nat) : BitVec 512 := BitVec.ofNat 512 (leVal (m.read (64 * blk) 64))
/-- A block's descriptor; memory of the remote range keeps none (R87). -/
def Mem.descOf (m : Mem) (blk : Nat) : BitVec 32 := if isRemote (64 * blk) then defaultDesc else m.desc.get defaultDesc blk
/-- A block's descriptor written; dropped on memory without descriptors (R87). -/
def Mem.setDesc (m : Mem) (blk : Nat) (d : BitVec 32) : Mem :=
  if isRemote (64 * blk) then m else { m with desc := m.desc.put defaultDesc blk d }
/-- A block holds uncorrectable poison (R164). -/
def Mem.poisoned (m : Mem) (blk : Nat) : Bool := m.poison.get false blk
/-- A block's poison set or cleared. -/
def Mem.setPoison (m : Mem) (blk : Nat) (b : Bool) : Mem := { m with poison := m.poison.put false blk b }

/-- The home of a line: die × 16 + slice, by the XOR fold of R13. -/
def homeOf (line : Nat) : Nat :=
  let rec fold (k : Nat) (y : Nat) : BitVec 6 :=
    match k with
    | 0 => 0
    | k + 1 => BitVec.ofNat 6 y ^^^ fold k (y / 64)
  (fold 9 line).toNat

/-- The HBM stack of its home die, 0 or 1, that stores a line: h[3] (R13). -/
def stackOf (line : Nat) : Nat := homeOf line / 8 % 2

/-- The ring offset of a cluster, a slice or a link stop on its die (R9). -/
def clusterStop (k : Nat) : Nat := 8 * k
def sliceStop (j : Nat) : Nat := 8 * (j / 2) + 2 + 2 * (j % 2)
/-- The cycles of a trip on one die (R10). -/
def ringTrip (o1 o2 : Nat) : Nat := min ((o2 + 64 - o1) % 64) ((o1 + 64 - o2) % 64)

/-- The one-way ring distance d of R174 from a flat cluster to a line's home, and the link cycles there and back. -/
def pathTo (cluster line : Nat) : Nat × Nat :=
  let h := homeOf line
  let d0 := cluster / 8
  let d1 := h / 16
  let a := clusterStop (cluster % 8)
  let b := sliceStop (h % 16)
  if d0 = d1 then (ringTrip a b, 0)
  else if d0 / 2 = d1 / 2 then (ringTrip a 38 + ringTrip 38 b, 48)
  else (ringTrip a 6 + ringTrip 6 b, 96)

/-- The L2 latency of R174 from a cluster to a line's home. -/
def l2Latency (cluster line : Nat) : Nat :=
  let (d, x) := pathTo cluster line
  36 + 2 * d + x

/-! ### Wakes -/

/-- The bit positions of a block's WakeHash (R112). -/
def wakeBits (blk : Nat) : List Nat :=
  let c (j : Nat) : BitVec 9 := BitVec.ofNat 9 (blk / 2 ^ (9 * j))
  let h0 := c 0 ^^^ c 1 ^^^ c 2 ^^^ c 3 ^^^ c 4 ^^^ c 5
  let h1 := c 0 ^^^ (c 1).rotateLeft 1 ^^^ (c 2).rotateLeft 2 ^^^ (c 3).rotateLeft 3 ^^^ (c 4).rotateLeft 4 ^^^ (c 5).rotateLeft 5
  let h2 := (c 0).rotateLeft 4 ^^^ (c 1).rotateLeft 7 ^^^ c 2 ^^^ (c 3).rotateLeft 2 ^^^ (c 4).rotateLeft 6 ^^^ (c 5).rotateLeft 1
  [h0.toNat, h1.toNat, h2.toNat]

/-- `WakeHash` of a block (R112). -/
def wakeHash (blk : Nat) : Pred := (wakeBits blk).foldl (fun w i => w ||| (1#512 <<< i)) 0

/-- Set bits of a 512-bit value. -/
def popcount : Nat → Nat → Nat
  | 0, _ => 0
  | k + 1, x => x % 2 + popcount k (x / 2)

/-- A block hits a wake (R113). -/
def hits (w : Pred) (blk : Nat) : Bool :=
  popcount 512 w.toNat > 384 || (w &&& wakeHash blk) == wakeHash blk
/-- A line hits when either sector does (R113). -/
def lineHits (w : Pred) (line : Nat) : Bool := hits w (2 * line) || hits w (2 * line + 1)

/-- A write of a block enters every signature of its core, unless its page is untracked (R115). -/
def Sigs.enter (g : Sigs) (blk : Nat) : Sigs := ⟨g.p ||| wakeHash blk, g.l ||| wakeHash blk, g.n ||| wakeHash blk⟩
/-- All three signatures ORed with a wake (R116). -/
def Sigs.or (g : Sigs) (w : Pred) : Sigs := ⟨g.p ||| w, g.l ||| w, g.n ||| w⟩
/-- The signature of a scope's class (R101). -/
def Sigs.cls (g : Sigs) (scope : Nat) : Pred := if scope = 4 then g.l else if scope = 5 then g.n else g.p
/-- That signature cleared. -/
def Sigs.clear (g : Sigs) (scope : Nat) : Sigs :=
  if scope = 4 then { g with l := 0 } else if scope = 5 then { g with n := 0 } else { g with p := 0 }

/-! ### Versions, monitors, the L2 -/

/-- Wake messages to the cores of some monitors: one a cycle from cycle `from_` on, in registration order, each with its travel time (R291). -/
def wakeMsgs (from_ line status : Nat) : List Monitor → List WakeMsg
  | [] => []
  | mo :: t =>
    let (d, x) := pathTo (clusterOf mo.core) line
    ⟨mo.core, mo.reg, status, from_ + d + x / 2⟩ :: wakeMsgs (from_ + 1) line status t
/-- A slice sends wake messages, one a cycle after those that it still has to send (R291). -/
def Mem.send (m : Mem) (cycle line status : Nat) (l : List Monitor) : Mem :=
  let h := homeOf line
  let from_ := max cycle (m.sends.get 0 h) + 1
  { m with msgs := m.msgs ++ wakeMsgs from_ line status l, sends := if l.isEmpty then m.sends else m.sends.put 0 h (from_ + l.length - 1) }

/-- Every monitor on a line fires (R291). -/
def Mem.fire (m : Mem) (cycle line status : Nat) : Mem :=
  let f := m.mons.filter fun mo => mo.line == line
  if f.isEmpty then m
  else ({ m with mons := m.mons.filter (fun mo => !(mo.line == line)) } : Mem).send cycle line status f

/-- The home raises a line's version by 1 and fires its monitors (R109, R291). -/
def Mem.bump (m : Mem) (cycle line : Nat) : Mem :=
  ({ m with ver := m.ver.put 0 line (m.ver.get 0 line + 1) } : Mem).fire cycle line 1

/-- The L2 holds a line at a class (R173). -/
def Mem.l2Touch (m : Mem) (line cls used : Nat) (dirty : Bool) : Mem :=
  let l := m.l2.get {} line
  { m with l2 := m.l2.put {} line { l with here := true, cls := min cls 3, dirty := l.dirty || dirty, used := used } }
/-- A line shares its data entry with another, or with none (R179). -/
def Mem.l2Pair (m : Mem) (line : Nat) (mate : Option Nat) : Mem := { m with l2 := m.l2.put {} line { m.l2.get {} line with mate := mate } }
/-- The L2 drops a line, whose mate keeps the entry alone, and its monitors complete with status 4 (R179, R292). -/
def Mem.l2Drop (m : Mem) (cycle line : Nat) : Mem :=
  let m := match (m.l2.get {} line).mate with | some o => m.l2Pair o none | none => m
  ({ m with l2 := m.l2.put {} line {} } : Mem).fire cycle line 4
/-- The line is in the L2, dirty towards HBM. -/
def Mem.l2IsDirty (m : Mem) (line : Nat) : Bool := (m.l2.get {} line).here && (m.l2.get {} line).dirty && isHbm (128 * line)
/-- The home copy is written to HBM and stays clean (R178). -/
def Mem.l2Clean (m : Mem) (line : Nat) : Mem :=
  let l := m.l2.get {} line
  { m with l2 := m.l2.put {} line { l with dirty := false } }

/-! ### The exposed window -/

/-- A home holds a block: its line is in the L2 and, on the remote range, the home has taken the block's sector (R173, R330). -/
def State.homeHas (s : State) (blk : Nat) : Bool :=
  (s.mem.l2.get {} (blk / 2)).here && (!isRemote (64 * blk) || s.hub.budgetUsed.any fun x => x.2 == blk)
/-- The unloaded time of a read of a block at its home (R174): the L2's own when the L2 holds it, else HBM's 400 more, or about 1,120 cycles for the remote range. -/
def State.homeLatency (s : State) (cluster blk : Nat) : Nat :=
  if s.homeHas blk then l2Latency cluster (blk / 2)
  else if isRemote (64 * blk) then 1120 else l2Latency cluster (blk / 2) + 400

/-- The window (base, size, owner) holds the address (R329). -/
def inWindow (w : Option (Nat × Nat × Nat)) (pa : Nat) : Bool :=
  match w with
  | some (b, n, _) => b ≤ pa && pa < b + n
  | none => false

/-- Bytes at given addresses. -/
def Mem.writeCells (m : Mem) : List (Nat × Byte) → Mem
  | [] => m
  | (a, b) :: t => Mem.writeCells (m.setByte a b) t

/-! ### Lines of an L1 -/

/-- A sector of an L1 line. -/
def L1Line.sec (l : L1Line) (i : Nat) : Sector := if i % 2 = 0 then l.s0 else l.s1
/-- A sector of an L1 line replaced. -/
def L1Line.setSec (l : L1Line) (i : Nat) (x : Sector) : L1Line := if i % 2 = 0 then { l with s0 := x } else { l with s1 := x }
/-- A core's line. -/
def Core.line (c : Core) (ln : Nat) : L1Line := c.l1.get {} ln
/-- A core's line replaced. -/
def Core.setLine (c : Core) (ln : Nat) (l : L1Line) : Core := { c with l1 := c.l1.put {} ln l }

/-- Mask of the dirty bytes, one byte of ones for each. -/
def byteMask (d : BitVec 64) : BitVec 512 :=
  BitVec.ofNat 512 ((List.range 64).foldl (fun a i => if d.getLsbD i then a + 255 * 2 ^ (8 * i) else a) 0)

/-- Bytes of `new` where the mask has them, of `old` elsewhere. -/
def mergeBlock (d : BitVec 64) (old new : BitVec 512) : BitVec 512 := (old &&& ~~~byteMask d) ||| (new &&& byteMask d)

/-- The sector holds byte `i` (R108). -/
def Sector.has (x : Sector) (i : Nat) : Bool := x.valid || x.dirty.getLsbD i
/-- Byte `i` of a sector. -/
def Sector.byte (x : Sector) (i : Nat) : Byte := x.data.extractLsb' (8 * i) 8
/-- The sector holds some dirty byte. -/
def Sector.isDirty (x : Sector) : Bool := x.dirty != 0

/-- The dirty bytes of a sector with their addresses. -/
def dirtyCells (blk : Nat) (x : Sector) : List (Nat × Byte) :=
  (List.range 64).filterMap fun i => if x.dirty.getLsbD i then some (64 * blk + i, x.byte i) else none

/-- The sector after its Write-back: clean when it holds all its bytes, with the home's descriptor and poison when it was never filled, invalid when it was partial (R87, R108, R164). -/
def Sector.cleaned (x : Sector) (home : BitVec 32) (bad : Bool) : Sector :=
  if x.valid || x.dirty == BitVec.allOnes 64 then
    { x with valid := true, dirty := 0, desc := if x.valid then x.desc else home, poison := if x.valid then x.poison else bad, descNew := false, whole := false }
  else {}

/-! ### The capacity of the L2 (R8, R16, R173, R179) -/

/-- The 16 words of a line at its home. -/
def Mem.lineWords (m : Mem) (ln : Nat) : List (BitVec 64) := (List.range 16).map fun i => m.read64 (128 * ln + 8 * i)
/-- The stored size of a line (R179). The spec does not say whether w_i − w_0 is taken of signed words, of unsigned ones or modulo 2^64: they are signed here (log entry 86). -/
def storedSize (ws : List (BitVec 64)) : Nat :=
  let w := ws.headD 0
  let ds := ws.map fun x => (x.toInt - w.toInt : Int)
  let fit (n : Int) : Bool := ds.all fun d => -n ≤ d && d < n
  if ws.all (· == w) then 8 else if fit 128 then 24 else if fit 32768 then 40 else if fit 8388608 then 56 else 128
/-- The line takes half an entry (R179). -/
def Mem.compresses (m : Mem) (ln : Nat) : Bool := storedSize (m.lineWords ln) < 128
/-- The lines that the L2 holds in the slice of `ln`, but for `ln` itself. -/
def Mem.l2Slice (m : Mem) (ln : Nat) : List (Nat × L2Line) := m.l2.filter fun x => x.2.here && x.1 != ln && homeOf x.1 == homeOf ln
/-- Those of its set (R179; log entry 26). -/
def Mem.l2SetLines (m : Mem) (ln : Nat) : List (Nat × L2Line) := (m.l2Slice ln).filter fun x => Config.l2Set x.1 % 2048 == Config.l2Set ln % 2048
/-- The data entries that lines of one set take: two that share one count once. -/
def entriesOf (l : List (Nat × L2Line)) : Nat := (l.filter fun x => match x.2.mate with | some o => x.1 < o | none => true).length
/-- The data entries of a set of a slice: 16, less the ways that retirement has disabled (R179, R375). -/
def Hub.l2Ways (h : Hub) (slice : Nat) : Nat :=
  16 - (h.noSpare.filter fun x => match x with | .sramColumn .l2Slice o _ => o == slice | _ => false).length
/-- The ways of a core's L1 (R173, R375). -/
def Hub.l1Ways (h : Hub) (core : Nat) : Nat :=
  8 - (h.noSpare.filter fun x => match x with | .sramColumn .l1 o _ => o == core | _ => false).length
/-- The frame belongs to an output queue of a launch (R343). -/
def Hub.queueFrame (h : Hub) (f : Nat) : Bool := h.launches.any fun x => match x.2 with | some l => l.frames.contains f | none => false
/-- What an access of core `who`, or of nobody, counts about a line: its context's counter, or the idle record of the partition that owns the frame (R365). -/
def State.noteLine (s : State) (who : Option Nat) (ln i n : Nat) : State :=
  match who with
  | some c => s.meter c i n
  | none => s.modHub fun h => h.note (match h.frameOwner.get 0 (ln / 512) with | 0 => hubRec | o + 1 => idleRec o) i n
/-- CXL.cache gives up the sectors of a line that a home holds for a port's pool or host window (R330). Peer windows are not of CXL.cache; their sectors stand under 4 + port. -/
def State.giveUp (s : State) (ln : Nat) : State :=
  let gone := s.hub.budgetUsed.filter fun x => x.2 / 2 == ln && x.1 < 4
  let s := gone.foldl (fun s x => s.out (.cacheEvict x.1 (64 * x.2))) s
  { s with hub := { s.hub with budgetUsed := s.hub.budgetUsed.filter fun x => x.2 / 2 != ln } }
/-- A line leaves the L2 for want of room (R173, R179, R330): HBM takes its bytes first when it is dirty, and CXL.cache gives up its sectors. -/
def State.l2Evict (s : State) (who : Option Nat) (ln : Nat) : State :=
  let s := if s.mem.l2IsDirty ln then s.noteLine who ln 9 128 else s
  let s := s.giveUp ln
  { s with mem := s.mem.l2Drop s.cycle ln }
/-- The order of L2 victims: the higher class, then the least recently used (R173, R179). -/
def l2Worse (a b : Nat × L2Line) : Nat × L2Line := if a.2.cls < b.2.cls || (b.2.cls == a.2.cls && b.2.used < a.2.used) then b else a
/-- Room for a line that the L2 does not hold (R179): an entry that is free, else half of one whose line compresses too, else the victim's. -/
def State.l2Room (s : State) (who : Option Nat) (ln : Nat) : State :=
  let ways := s.hub.l2Ways (homeOf ln)
  if (s.mem.l2Slice ln).length < ways || entriesOf (s.mem.l2SetLines ln) < ways then s
  else
    let set := s.mem.l2SetLines ln
    let half := if s.mem.compresses ln then set.filter fun x => x.2.mate.isNone && s.mem.compresses x.1 else []
    match half with
    | y :: _ =>
      let o := (half.getD (Config.l2Partner s.fresh % half.length) y).1
      { s with fresh := s.fresh + 1, mem := (s.mem.l2Pair o (some ln)).l2Pair ln (some o) }
    | [] => match set with
      | [] => s
      | x :: t =>
        let v := t.foldl l2Worse x
        let s := s.l2Evict who v.1
        match v.2.mate with
        | some o => if s.mem.compresses ln then { s with mem := (s.mem.l2Pair o (some ln)).l2Pair ln (some o) } else s.l2Evict who o
        | none => s
/-- A line that no longer compresses evicts the line that shares its entry (R179). -/
def State.l2Unpair (s : State) (who : Option Nat) (ln : Nat) : State :=
  match (s.mem.l2.get {} ln).mate with
  | some o => if s.mem.compresses ln then s else (s.noteLine who o 14 1).l2Evict who o
  | none => s
/-- The L2 takes or touches a line at a class, for core `who` or for nobody (R173, R179). A line of a queue frame stays at class 0 (R343). -/
def State.l2Use (s : State) (who : Option Nat) (ln cls : Nat) (dirty : Bool) : State :=
  let s := if (s.mem.l2.get {} ln).here then s.l2Unpair who ln else s.l2Room who ln
  { s with mem := s.mem.l2Touch ln (if s.hub.queueFrame (ln / 512) then 0 else cls) s.cycle dirty }

/-! ### Links (R403) -/

/-- Link numbers (R403): six die-to-die links from 0, eight HBM stacks from 6, four CXL ports from 14, eight Ultra Ethernet ports from 18. -/
def cxlLink (port : Nat) : Nat := 14 + port
def ueLink (port : Nat) : Nat := 18 + port
/-- A link that is in service (R403). -/
def Hub.linkUp (h : Hub) (l : Nat) : Bool := h.boot.links.get .down l != .down
/-- The window that holds a remote address (R329). -/
def Hub.windowAt (h : Hub) (pa : Nat) : Option Window := h.windows.find? fun w => w.base ≤ pa && pa < w.base + w.size
/-- What a remote access meets (R122, R326, R403): its window's port, when that is down, answers dead. So does an address that lies in no window, for which the spec names no cause bit (log entry 87). -/
def Hub.remoteResult (h : Hub) (pa : Nat) (r : RemoteResult) : RemoteResult :=
  match h.windowAt pa with
  | some w => if h.linkUp (cxlLink w.port) then r else .dead
  | none => .dead
/-- A remote address that nothing answers now. -/
def Hub.remoteDead (h : Hub) (pa : Nat) : Bool := isRemote pa && (h.remoteResult pa (.ok []) != .ok [])
/-- Accesses to the address read and write through, as ev5 does: its port's budget is 0 (R330). -/
def Hub.readsThrough (h : Hub) (pa : Nat) : Bool :=
  isRemote pa && match h.windowAt pa with
    | some w => w.kind != .peer && h.budgets.get 0 w.port == 0
    | none => false

/-! ### The remote range's sectors at the home (R330) -/

/-- A home sector of the remote range is gone; its line leaves the L2 with its last sector (R330, R292). -/
def State.dropSector (s : State) (blk : Nat) : State :=
  let used := s.hub.budgetUsed.filter fun x => x.2 != blk
  let s := { s with hub := { s.hub with budgetUsed := used } }
  if used.any fun x => x.2 / 2 == blk / 2 then s else { s with mem := s.mem.l2Drop s.cycle (blk / 2) }
/-- A port's least recently used sectors evicted until `n` are left; only the CXL.cache message leaves (R330). -/
def State.evictPort (s : State) (port n : Nat) : Nat → State
  | 0 => s
  | fuel + 1 =>
    match s.hub.budgetUsed.filter fun x => x.1 == port with
    | x :: t => if t.length < n then s else ((s.dropSector x.2).out (.cacheEvict port (64 * x.2))).evictPort port n fuel
    | [] => s
/-- The home takes a sector in CXL.cache state when its port's budget allows it; with a budget of 0 it reads and writes through (R330). A sector of a peer window is held too, and no budget counts it. -/
def State.takeSector (s : State) (blk : Nat) : Bool × State :=
  if !isRemote (64 * blk) then (true, s)
  else match s.hub.windowAt (64 * blk) with
    | none => (false, s)
    | some w =>
      let b := s.hub.budgets.get 0 w.port
      let take (port : Nat) : State := { s with hub := { s.hub with budgetUsed := (s.hub.budgetUsed.filter fun (x : Nat × Nat) => x.2 != blk) ++ [(port, blk)] } }
      if w.kind == .peer then (true, take (4 + w.port))
      else if b = 0 then (false, s)
      else (true, (take w.port).evictPort w.port b ((take w.port).hub.budgetUsed.length + 1))
/-- The L2 takes or touches a sector's line, where the budget of a remote one allows it (R173, R330). -/
def State.l2Take (s : State) (who : Option Nat) (blk cls : Nat) (dirty : Bool) : State :=
  let (ok, s) := s.takeSector blk
  if ok then s.l2Use who (blk / 2) cls dirty else s

/-! ### Home accesses -/

/-- The hub takes back a window sector from every host that holds it: the hosts' modified bytes merge (version + 1), the sector is I, and the snoop leaves the module (R331). The tiles that hold the line are invalidated by the caller (R206), who has also recalled the line's ownership where bytes merge (R109). -/
def State.backInvalidate (s : State) (blk : Nat) : State :=
  let f := s.mem.fabric.get {} blk
  if f.holders.isEmpty then s
  else
    let s : State := { s with mem := { s.mem with fabric := s.mem.fabric.put {} blk {} } }
    let s := if f.mods.isEmpty then s else
      let s := ({ s with mem := s.mem.writeCells f.mods } : State).l2Use none (blk / 2) 3 true
      { s with mem := s.mem.bump s.cycle (blk / 2) }
    f.holders.foldl (fun s h => s.out (.snoop h (64 * blk))) s

/-- A tile instance's extent holds a byte of the block. -/
def tileBytes (fmt : Nat) : Nat :=
  match fmt with
  | 6 | 8 => 8192 | 4 | 5 | 7 => 16384 | _ => 32768
def Inst.holds (i : Inst) (blk : Nat) : Bool := i.pa ≤ 64 * blk && 64 * blk < i.pa + tileBytes i.fmt

/-- Retiring instances that no bound step waits for and no running step uses become free (R193, R387). -/
def MEng.settle (e : MEng) : MEng :=
  { e with insts := e.insts.filter fun i => i.st != .retiring || e.runs.any (fun r => r.inst == i.id) ||
      (e.q ++ (match e.seq with | some q => q.sq | none => [])).any fun m => m.st == .bound && m.gen == i.gen && m.pa == i.pa && m.fmt == i.fmt }
/-- Instances that the predicate names become invalid: retiring while a running step uses them, gone otherwise; steps bound to them and not dispatched bind again, and pinned tags ask for a new fill (R205, R206). -/
def MEng.invalidate (e : MEng) (p : Inst → Bool) : MEng :=
  let hit := e.insts.filter fun i => p i && i.st != .retiring
  let inRun (i : Inst) : Bool := e.runs.any fun r => r.inst == i.id
  let tagHit (pa fmt : Nat) : Bool := hit.any fun i => i.pa == pa && i.fmt == fmt
  let unb (m : MEntry) : MEntry := if m.st == .bound && hit.any (fun i => i.gen == m.gen && i.pa == m.pa && i.fmt == m.fmt) then { m with st := .waiting } else m
  MEng.settle { e with
    insts := e.insts.filterMap fun i =>
      if hit.contains i then (if inRun i then some { i with st := .retiring } else none) else some i
    q := e.q.map unb
    seq := e.seq.map fun q => { q with sq := q.sq.map unb }
    pins := e.pins.map fun p => if tagHit p.pa p.fmt then { p with want := true } else p }

/-- An instance that becomes retiring (R193). A replica copy under way holds no contents, and its result never becomes valid (R387); a Fill goes on, for the steps that keep their binding to it, where a store of the engine hits it: the spec names no other way for them to dispatch (log entry 122). -/
def Inst.retired (i : Inst) : Inst := { i with st := .retiring, blocks := match i.st with | .copying _ => [] | _ => i.blocks }
/-- The instance holds all its tile. -/
def Inst.full (i : Inst) : Bool := tileBytes i.fmt / 64 ≤ i.blocks.length
/-- The instance still receives a Fill (R199): its dispatch time is none yet. -/
def Inst.fills (i : Inst) : Bool := !i.full && (i.st == .filling || (i.st == .retiring && i.time == 0))
/-- As `invalidate`, but a bound step keeps its instance: the rule of program order for the core's own stores and `minv` (R205, R206). -/
def MEng.retire (e : MEng) (p : Inst → Bool) : MEng :=
  let hit := e.insts.filter fun i => p i && i.st != .retiring
  let used (i : Inst) : Bool := e.runs.any (fun r => r.inst == i.id) ||
    (e.q ++ (match e.seq with | some q => q.sq | none => [])).any fun m => m.st == .bound && m.gen == i.gen && m.pa == i.pa && m.fmt == i.fmt
  { e with
    insts := e.insts.filterMap fun i =>
      if hit.contains i then (if used i then some i.retired else none) else some i
    pins := e.pins.map fun p => if hit.any (fun i => i.pa == p.pa && i.fmt == p.fmt) then { p with want := true } else p }

/-- Every core's engine changed. -/
def State.modEngines (s : State) (f : MEng → MEng) : State :=
  { s with cores := s.cores.map fun (k, c) => (k, { c with eng := f c.eng }) }

/-- A back-invalidate of a sector whose line nobody owns, with the tiles that hold its line (R206, R331). -/
def State.snoopRaw (s : State) (blk : Nat) : State :=
  if (s.mem.fabric.get {} blk).holders.isEmpty then s
  else (s.backInvalidate blk).modEngines fun e => e.invalidate fun i => i.holds blk || i.holds (2 * (blk / 2)) || i.holds (2 * (blk / 2) + 1)

/-- Bytes merge at the home for core `who` or for nobody: window sectors are taken back first, one write of a whole block clears poison, the descriptor comes with it when it was written with the data (R108, R164, R208, R331). -/
def State.mergeHome (s : State) (who : Option Nat) (blk : Nat) (cells : List (Nat × Byte)) (desc : Option (BitVec 32)) (whole poison : Bool) (cls : Nat) : State :=
  let s := s.snoopRaw blk
  let m := s.mem.writeCells cells
  let m := if whole then m.setPoison blk poison else if poison then m.setPoison blk true else m
  let m := match desc with | some d => m.setDesc blk d | none => m
  ({ s with mem := m } : State).l2Use who (blk / 2) cls true

/-- One sector's dirty bytes leave core `c`'s L1 for the home, without a version (R108). -/
def State.mergeSector (s : State) (c ln i : Nat) : State :=
  let l := (s.core c).line ln
  let x := l.sec i
  let s := s.mergeHome (some c) (2 * ln + i % 2) (dirtyCells (2 * ln + i % 2) x) (if x.descNew then some x.desc else none) x.whole (x.whole && x.poison) l.cls
  s.modCore c fun k => k.setLine ln (l.setSec i (x.cleaned (s.mem.descOf (2 * ln + i % 2)) (s.mem.poisoned (2 * ln + i % 2))))

/-- A line out of every ownership directory (R177). -/
def dirDrop (d : Bank (List Nat)) (ln : Nat) : Bank (List Nat) := d.map fun (k, l) => (k, l.filter fun x => x != ln)

/-- Ownership of a line returns to the home: every dirty byte merges, over the bytes that a host modified in its sector, the owner's copy is invalid, the version rises once (R110, R331). -/
def State.recall (s : State) (ln : Nat) : State :=
  match s.mem.owner.get none ln with
  | none => s
  | some o =>
    let l := (s.core o).line ln
    let s := if l.s0.isDirty then s.mergeSector o ln 0 else s
    let s := if l.s1.isDirty then s.mergeSector o ln 1 else s
    let s := s.modCore o fun k => k.setLine ln {}
    { s with mem := ({ s.mem with owner := s.mem.owner.put none ln none, dirs := dirDrop s.mem.dirs ln } : Mem).bump s.cycle ln }

/-- A back-invalidate of a sector (R331). A host's modified bytes merge as a Write-back, which first recalls the line's ownership (R109). -/
def State.snoopBlock (s : State) (blk : Nat) : State :=
  (if (s.mem.fabric.get {} blk).mods.isEmpty then s else s.recall (blk / 2)).snoopRaw blk
/-- A sector that a host holds exclusively comes back before it is read (R331). -/
def State.snoopExcl (s : State) (blk : Nat) : State := if (s.mem.fabric.get {} blk).excl then s.snoopBlock blk else s

/-- Write-back of one sector (R108, R109): from an owned copy it is accepted unless its version is below the home's, and raises and records the version; where a host's modified bytes must merge first, ownership is recalled with it. From another copy it first recalls ownership and is never cancelled. -/
def State.writeBack (s : State) (c ln i : Nat) : State :=
  let l := (s.core c).line ln
  if !(l.sec i).isDirty then s
  else if l.owned then
    if l.ver < s.mem.ver.get 0 ln then
      s.modCore c fun k => k.setLine ln (l.setSec i { l.sec i with dirty := 0, valid := false, whole := false })
    else if !(s.mem.fabric.get {} (2 * ln + i % 2)).mods.isEmpty then s.recall ln
    else
      let s := s.mergeSector c ln i
      let s := { s with mem := s.mem.bump s.cycle ln }
      s.modCore c fun k => k.setLine ln { k.line ln with ver := s.mem.ver.get 0 ln }
  else
    let s := s.recall ln
    let s := s.mergeSector c ln i
    { s with mem := s.mem.bump s.cycle ln }

/-- Both sectors of a line written back. -/
def State.writeBackLine (s : State) (c ln : Nat) : State := (s.writeBack c ln 0).writeBack c ln 1

/-- Ownership given up and the line invalid, after its dirty bytes went home (R110, R173, R178). -/
def State.flushLine (s : State) (c ln : Nat) : State :=
  let s := if s.mem.owner.get none ln == some c then s.recall ln else s.writeBackLine c ln
  s.modCore c fun k => k.setLine ln {}

/-- The lines that core `c`'s L1 holds. -/
def Core.lines (c : Core) : List Nat := c.l1.map (·.1)

/-- Every dirty sector of an L1 to the home (R101). -/
def State.writeBackAll (s : State) (c : Nat) : State := (s.core c).lines.foldl (fun s ln => s.writeBackLine c ln) s
/-- Every line written back and invalid (R118, R288). -/
def State.flushAll (s : State) (c : Nat) : State := (s.core c).lines.foldl (fun s ln => s.flushLine c ln) s

/-- The authoritative copy of a block: the owning L1's bytes over the home's (R100). -/
def State.authBlock (s : State) (blk : Nat) : Block :=
  let home : Block := ⟨s.mem.block blk, s.mem.descOf blk, s.mem.poisoned blk⟩
  match s.mem.owner.get none (blk / 2) with
  | none => home
  | some o =>
    let x := ((s.core o).line (blk / 2)).sec (blk % 2)
    if x.valid then ⟨x.data, x.desc, x.poison⟩
    else ⟨mergeBlock x.dirty home.data x.data, home.desc, (home.poison && !x.whole) || x.poison⟩

/-! ### The remote range at the hub (R326, R330) -/

/-- The partition of a context, and its clusters (R358). -/
def Hub.ctxPart (h : Hub) (ctx : Nat) : Nat := match h.ctxs.get none ctx with | some c => c.part | none => 0
def Hub.clustersOf (h : Hub) (p : Nat) : Nat := match h.parts.get none p with | some x => popcount 32 x.cfg.clusters.toNat | none => 0
/-- A page's migration counter rises by 1, to at most 255 (R326). A partition's counters beyond its limit replace its own least recently incremented one (R363). -/
def Hub.countForward (h : Hub) (ctx vpn : Nat) : Hub :=
  let it (x : Nat × Nat × Nat) : Bool := x.1 == ctx && x.2.1 == vpn
  let p := h.ctxPart ctx
  let n := match h.migr.find? it with | some x => x.2.2 | none => 0
  let rest := h.migr.filter fun x => !it x
  let mine := rest.filter fun x => h.ctxPart x.1 == p
  let rest := if 2048 * h.clustersOf p ≤ mine.length then (match mine with | x :: _ => rest.erase x | [] => rest) else rest
  { h with migr := rest ++ [(ctx, vpn, min 255 (n + 1))] }
/-- A cached leaf maps the block of a remote-owned page that the migrator may move (R321). -/
def TlbEntry.mapsRemote (e : TlbEntry) (blk : Nat) : Bool :=
  let pa := (e.leaf.extractLsb' 12 45).toNat * 4096
  e.leaf.getLsbD 9 && e.leaf.getLsbD 11 && pa ≤ 64 * blk && 64 * blk < pa + 2 ^ e.size
/-- The first page of a context's tables, from one table on, whose leaf maps the block so (R320, R321). A valid entry has a byte that is listed. -/
def Mem.pageMapping (m : Mem) (ctx blk lvl t vpn : Nat) : Nat → Option TlbEntry
  | 0 => none
  | fuel + 1 =>
    m.bytes.findSome? fun x =>
      if x.1 < t || t + (if lvl = 1 then 262144 else 4096) ≤ x.1 || (x.1 - t) % 8 != 0 || !x.2.getLsbD 0 then none
      else
        let e := m.read64 x.1
        let v := 512 * vpn + (x.1 - t) / 8
        if e.getLsbD 1 then
          let size := if lvl = 4 then 30 else if lvl = 5 then 21 else if e.getLsbD 10 then 16 else 12
          let r : TlbEntry := ⟨ctx, v * 512 ^ (6 - lvl) / 2 ^ (size - 12) * 2 ^ (size - 12), size, e⟩
          if 4 ≤ lvl && r.mapsRemote blk then some r else none
        else if lvl = 6 then none
        else m.pageMapping ctx blk (lvl + 1) ((e.extractLsb' 12 45).toNat * 4096) v fuel
/-- A line access of core `c` forwarded to the remote range: the counter of its page rises (R326). The page is that of the cached translation, else of the context's tables. -/
def State.forwardAccess (s : State) (c blk : Nat) : State :=
  let k := s.core c
  let ctx := match k.job with | some j => j.ctx | none => 0
  let cached := (k.tlb ++ k.ptlb ++ s.hub.stlb.get [] (c / 64)).find? fun e => e.ctx == ctx && e.mapsRemote blk
  let page := match cached, s.hub.ctxs.get none ctx with
    | some e, _ => some e
    | none, some x => s.mem.pageMapping ctx blk 1 x.root 0 6
    | none, none => none
  match page with
  | some e => { s with hub := s.hub.countForward ctx e.vpn }
  | none => s

/-- Bytes forwarded to or from a pool or host window count for the core's context; those of a peer window do not (R365). -/
def State.meterPool (s : State) (c pa n : Nat) : State :=
  match s.hub.windowAt pa with
  | some w => if w.kind == .peer then s else s.meter c 10 n
  | none => s
/-- The same for the record that a write's bytes count for, whatever its core now runs (R365). -/
def State.meterSent (s : State) (w : PoolWrite) : State :=
  if s.recOf w.core == w.meterRec then s.meterPool w.core w.pa w.bytes.length
  else match s.hub.windowAt w.pa with
    | some x => if x.kind == .peer then s else s.modHub fun h => h.note w.meterRec 10 w.bytes.length
    | none => s
/-- The stage task that a core runs. -/
def State.jobTask (s : State) (c : Nat) : Option Nat := (s.core c).job.map (·.task)
/-- What a read at the home counts for the reading core when the L2 does not hold the block: HBM bytes, or forwarded bytes and the page's counter on the remote range (R326, R365). `again`: the same access has already forwarded the block's line. -/
def State.meterRead (s : State) (c blk : Nat) (again : Bool := false) : State :=
  if s.homeHas blk then s
  else if isRemote (64 * blk) then (if again then s else s.forwardAccess c blk).meterPool c (64 * blk) 64 else s.meter c 8 64

/-- A home read by core `c` through the L2 at a class; a window sector that a host holds exclusively comes back first (R173, R331). A read that must go to a remote window that does not answer returns poison, and nothing is allocated (R326). -/
def State.readHome (s : State) (c blk cls : Nat) (alloc : Bool) (again : Bool := false) : Block × State :=
  let dead := s.hub.remoteDead (64 * blk) && !s.homeHas blk
  let s := (s.meterRead c blk again).snoopExcl blk
  let b := s.authBlock blk
  if dead then ({ b with poison := true }, s)
  else (b, if alloc then s.l2Take (some c) blk cls false else s)

/-! ### Allocation in an L1 -/

/-- The lines of a core's set (R173). -/
def Core.setLines (c : Core) (ln : Nat) : List (Nat × L1Line) := c.l1.filter fun (k, _) => k % 128 == ln % 128

/-- Of two candidate victims, the one R173 takes first among lines without ownership: the higher class, then the least recently used. -/
def worse (a b : Nat × L1Line) : Nat × L1Line :=
  if b.2.cls > a.2.cls || (b.2.cls == a.2.cls && b.2.used < a.2.used) then b else a

/-- The victim of a full set (R173). DESIGN CHOICE: where R173 leaves the victim open, the model takes the lowest line number among several read ev6 lines or equals, and where every line of the set is owned, the higher class, then the least recently used (log entry 107). -/
def victim (ls : List (Nat × L1Line)) : Option Nat :=
  match ls.find? (fun x => x.2.cls == 6 && x.2.read6) with
  | some x => some x.1
  | none =>
    let pick (l : List (Nat × L1Line)) : Option Nat :=
      match l with
      | [] => none
      | x :: t => some (t.foldl worse x).1
    match pick (ls.filter fun x => !x.2.owned) with
    | some k => some k
    | none => pick ls

/-- Room for a line in its set: when others fill its ways, the victim goes (R173, R375). -/
def State.makeRoom (s : State) (c ln : Nat) : State :=
  let ls := ((s.core c).setLines ln).filter fun x => x.1 != ln
  if ls.length < s.hub.l1Ways c then s
  else match victim ls with
    | some v => s.flushLine c v
    | none => s

/-- A sector that takes every byte of a block but its own dirty ones (R108, R164). -/
def Sector.filled (x : Sector) (b : Block) : Sector :=
  { x with valid := true, data := mergeBlock x.dirty b.data x.data, desc := if x.descNew then x.desc else b.desc,
           poison := (b.poison && !x.whole) || x.poison }
/-- A block put into core `c`'s L1, in a set that has room (R108, R173). A line without ownership records the version that it was filled at (R99). -/
def State.putBlock (s : State) (c ln i cls : Nat) (b : Block) : State :=
  s.modCore c fun k =>
    let l := k.line ln
    k.setLine ln { l.setSec i ((l.sec i).filled b) with cls := cls, used := s.cycle, ver := if l.owned then l.ver else s.mem.ver.get 0 ln }
/-- Fill of one sector from the authoritative copy, keeping its dirty bytes (R108). -/
def State.fillSector (s : State) (c ln i cls : Nat) (again : Bool := false) : State :=
  let (b, s) := (s.makeRoom c ln).readHome c (2 * ln + i % 2) cls true again
  s.putBlock c ln i cls b

/-! ### Reads of a core -/

/-- The bytes that a store piece gives, with their addresses. -/
def Piece.cells (p : Piece) : List (Nat × Byte) := (List.range p.bytes.length).zip p.bytes |>.map fun (i, b) => (p.pa + i, b)

/-- The memory bytes that a withheld store will write, for the core's own loads (R103). Those of a `rel.st` are its value here; its generation is added by `State.relCells`. -/
def Effect.cells : Effect → List (Nat × Byte)
  | .store ps _ _ => ps.flatMap Piece.cells
  | .relSt _ _ pa v _ => ({ pa := pa, bytes := leList 8 v.toNat, untr := false } : Piece).cells
  | .storeRel _ _ p => p.cells
  | .mwrite ps _ => ps.flatMap Piece.cells
  | _ => []
/-- The scratchpad bytes that a withheld store will write. -/
def Effect.scrCells : Effect → List (Nat × Byte)
  | .scratch cs => cs
  | _ => []

/-- The youngest value given to an address by a list of cells in program order. -/
def lastCell (cs : List (Nat × Byte)) (a : Nat) : Option Byte :=
  cs.foldl (fun r x => if x.1 = a then some x.2 else r) none

/-- One byte as core `c` sees it beneath its unperformed stores: in its L1, else in the authoritative copy (R100, R103). -/
def State.byteBelow (s : State) (c a : Nat) : Byte :=
  let x := ((s.core c).line (a / 128)).sec (a / 64)
  if x.has (a % 64) then x.byte (a % 64) else (s.authBlock (a / 64)).data.extractLsb' (8 * (a % 64)) 8
/-- The generation that a withheld `rel.st` will store, as the core's own view of the line gives it beneath the stores `cs`: the view's generation plus 1 (R117, R286; log entry 25). -/
def State.relCells (s : State) (c : Nat) (cs : List (Nat × Byte)) : Effect → List (Nat × Byte)
  | .relSt _ _ pa _ _ =>
    let g := leVal ((List.range 8).map fun i => (lastCell cs (pa + 8 + i)).getD (s.byteBelow c (pa + 8 + i)))
    ({ pa := pa + 8, bytes := leList 8 ((g + 1) % 2 ^ 64), untr := false } : Piece).cells
  | _ => []
/-- The cells of core `c`'s stores that have not performed, oldest first (R103). -/
def State.ownCells (s : State) (c : Nat) : List (Nat × Byte) :=
  ((s.core c).rq ++ (s.core c).wb).foldl (fun cs e => cs ++ e.cells ++ s.relCells c cs e) []
def Core.ownScr (c : Core) : List (Nat × Byte) := (c.rq ++ c.wb).flatMap Effect.scrCells

/-- One scratchpad byte as the core's load reads it (R103). -/
def Core.scrByte (c : Core) (x : Nat) : Byte :=
  match lastCell c.ownScr x with
  | some b => b
  | none => c.scr.get 0 x
/-- Scratchpad bytes as a load reads them. -/
def Core.scrRead (c : Core) (x n : Nat) : List Byte :=
  let own := c.ownScr
  (List.range n).map fun i => match lastCell own (x + i) with | some b => b | none => c.scr.get 0 (x + i)

/-- An L1 line touched by an access of class `ev` that finds it there (R173). `read`: the access reads it. -/
def State.touchL1 (s : State) (c ln ev : Nat) (read : Bool) : State :=
  s.modCore c fun k => k.setLine ln { k.line ln with used := s.cycle, cls := ev, read6 := (k.line ln).read6 || (read && ev == 6) || (read && (k.line ln).cls == 6) }
/-- The class at which an access acts: where its port's budget is 0, or where nothing answers for a line that the L2 does not hold, it reads and writes through, as ev5 does (R326, R330). -/
def State.evAt (s : State) (blk ev : Nat) : Nat :=
  if s.hub.readsThrough (64 * blk) || (s.hub.remoteDead (64 * blk) && !s.homeHas blk) then 5 else ev
/-- One block as core `c` reads it: stores `own` over its L1 sector, over a Fill or, for a class that allocates no L1 line, over the authoritative copy (R103, R173). `need` lists the byte offsets that the load reads. An ev4 access enters the L2 at class 3, for which R173 names no class (log entry 88). `again`: the same access has already forwarded the block's line (R326). Where the L1 holds every byte through the core's own stores and took no descriptor with them, the block comes with the authoritative copy's descriptor (R88 names none; log entry 89). -/
def State.readBlockOver (s : State) (own : List (Nat × Byte)) (c blk ev : Nat) (need : List Nat) (again : Bool := false) : Block × State :=
  let ln := blk / 2
  let fromL1 := need.filter fun i => (lastCell own (64 * blk + i)).isNone
  let x := ((s.core c).line ln).sec blk
  let layOwn (b : BitVec 512) : BitVec 512 :=
    need.foldl (fun b i => match lastCell own (64 * blk + i) with
      | some v => (b &&& ~~~(255#512 <<< (8 * i))) ||| ((v.setWidth 512) <<< (8 * i))
      | none => b) b
  let ev := s.evAt blk ev
  if fromL1.isEmpty then (⟨layOwn x.data, x.desc, false⟩, s)
  else if fromL1.all x.has then
    let s := s.touchL1 c ln ev true
    (⟨layOwn x.data, if x.valid || x.descNew then x.desc else (s.authBlock blk).desc, x.poison⟩, s)
  else if ev = 4 || ev = 5 then
    let (b, s) := s.readHome c blk 3 (ev == 4) again
    (⟨layOwn (mergeBlock x.dirty b.data x.data), if x.descNew then x.desc else b.desc, b.poison⟩, s)
  else
    let s := (s.fillSector c ln blk ev again).touchL1 c ln ev true
    let x := ((s.core c).line ln).sec blk
    (⟨layOwn x.data, x.desc, x.poison⟩, s)

/-- A read of a block by core `c` goes to the remote range: it needs a byte that neither the stores `own`, nor its L1, nor the block's home holds (R326). -/
def State.forwards (s : State) (own : List (Nat × Byte)) (c blk : Nat) (need : List Nat) : Bool :=
  isRemote (64 * blk) && !s.homeHas blk &&
  need.any fun i => (lastCell own (64 * blk + i)).isNone && !(((s.core c).line (blk / 2)).sec blk).has i
/-- One block as core `c`'s load reads it: its own unperformed stores lie over what it finds (R103). -/
def State.readBlock (s : State) (c blk ev : Nat) (need : List Nat) : Block × State := s.readBlockOver (s.ownCells c) c blk ev need
/-- One block as core `c`'s engines read it: stores that have not performed are not seen (R107, R201). -/
def State.readEngine (s : State) (c blk ev : Nat) (again : Bool := false) : Block × State := s.readBlockOver [] c blk ev (List.range 64) again

/-- `n` bytes at a physical address as core `c` reads them under the stores `own`, with the first poisoned block; each remote line that it reads is forwarded once (R103, R164, R326). The bytes lie within one page. -/
def State.readPhysOver (s : State) (own : List (Nat × Byte)) (c pa n ev : Nat) : List Byte × Option Nat × State :=
  let blks := (List.range ((pa + n - 1) / 64 + 1 - pa / 64)).map (· + pa / 64)
  (blks.foldl (fun (acc : Option Nat × List Byte × Option Nat × State) blk =>
    let (sent, bs, po, s) := acc
    let lo := max pa (64 * blk) - 64 * blk
    let hi := min (pa + n) (64 * blk + 64) - 64 * blk
    let need := (List.range (hi - lo)).map (· + lo)
    let goes := s.forwards own c blk need
    let (b, s) := s.readBlockOver own c blk ev need (sent == some (blk / 2))
    (if goes then some (blk / 2) else sent, bs ++ need.map (fun i => b.data.extractLsb' (8 * i) 8), (if po.isNone && b.poison then some blk else po), s)) (none, [], none, s)).2

/-- `n` bytes as core `c`'s load reads them: its own unperformed stores lie over what it finds (R103). -/
def State.readPhys (s : State) (c pa n ev : Nat) : List Byte × Option Nat × State := s.readPhysOver (s.ownCells c) c pa n ev

/-! ### Stores performing -/

/-- The piece's bytes as a dirty mask and data within its block. -/
def Piece.mask (p : Piece) : BitVec 64 := BitVec.ofNat 64 ((2 ^ p.bytes.length - 1) * 2 ^ (p.pa % 64))
def Piece.data (p : Piece) : BitVec 512 := BitVec.ofNat 512 (leVal p.bytes * 2 ^ (8 * (p.pa % 64)))

/-- The write's block enters the core's signatures (R115). -/
def State.sign (s : State) (c blk : Nat) (untr : Bool) : State :=
  if untr then s else s.modCore c fun k => { k with ws := k.ws.enter blk }

/-- Dirty bytes put into core `c`'s L1, which makes room for the line (R108, R173). One store of a whole block leaves it free of poison; stores of parts leave it as it is (R164). -/
def State.dirtyL1 (s : State) (c : Nat) (p : Piece) (cls : Nat) (desc : Option (BitVec 32)) (poison : Bool) : State :=
  let ln := p.pa / 128
  let i := p.pa / 64
  let s := s.makeRoom c ln
  s.modCore c fun k =>
    let l := k.line ln
    let x := l.sec i
    let full := p.mask == BitVec.allOnes 64
    let x' : Sector := { x with dirty := x.dirty ||| p.mask, data := mergeBlock p.mask x.data p.data,
                                desc := desc.getD x.desc, descNew := x.descNew || desc.isSome,
                                poison := if full then poison else x.poison, whole := x.whole || full }
    k.setLine ln { l.setSec i x' with cls := cls, used := s.cycle, since := if l.s0.isDirty || l.s1.isDirty then l.since else s.cycle }

/-- The instances that hold a written byte retire, as R205 states for the core's own stores. -/
def State.storeTiles (s : State) (c pa n : Nat) : State :=
  s.modCore c fun k => { k with eng := k.eng.retire fun i => i.pa < pa + n && pa < i.pa + tileBytes i.fmt }

/-- A direct merge at a line's home by an agent other than an L1, on behalf of core `who` or of nobody: ownership is recalled, the bytes merge as a Write-back, the version rises (R108, R109, R110, R256, R334). -/
def State.mergeDirect (s : State) (who : Option Nat) (pa : Nat) (bs : List Byte) (desc : Option (BitVec 32)) (poison : Bool) (cls : Nat) : State :=
  let s := s.recall (pa / 128)
  let s := s.mergeHome who (pa / 64) ((List.range bs.length).zip bs |>.map fun (i, b) => (pa + i, b)) desc (bs.length == 64) poison cls
  { s with mem := s.mem.bump s.cycle (pa / 128) }

/-- A device write that is forwarded to a page under migration is applied to its frame too (R327, step 2). The bytes lie in one block. -/
def State.mirror (s : State) (pa : Nat) (bs : List Byte) (poison : Bool := false) : State :=
  s.hub.moves.foldl (fun s m => if m.old ≤ pa && pa < m.old + 2 ^ m.size then s.mergeDirect none (65536 * m.frame + (pa - m.old)) bs none poison 3 else s) s

/-- A write enters the pool agent's in-flight set, tagged with its core (R111), the record that its bytes count for (R365), its task, the sync word at which it counts when it performs (R266) and the poison of its data (R208, R255). `again`: the same store has already forwarded its line (R326). -/
def State.poolWrite (s : State) (c : Nat) (p : Piece) (sync : Option (Nat × Nat) := none) (poison : Bool := false) (again : Bool := false) : State :=
  let id := s.fresh
  let s := (if again then s else s.forwardAccess c (p.pa / 64)).mirror p.pa p.bytes poison
  { s with fresh := s.fresh + 1, mem := { s.mem with inflight := s.mem.inflight ++ [(⟨id, c, p.pa, p.bytes, s.cycle, sync, poison, s.recOf c, s.jobTask c⟩ : PoolWrite)] } }

/-- The home copy of a line written to HBM, on behalf of core `c`, and left clean (R178). -/
def State.cleanHome (s : State) (c ln : Nat) : State :=
  let s := if s.mem.l2IsDirty ln then s.meter c 9 128 else s
  { s with mem := s.mem.l2Clean ln }
/-- The home copy of a line written to HBM and dropped, with its remote sectors (R173, R178, R330). -/
def State.dropHome (s : State) (c ln : Nat) : State :=
  let s := (s.cleanHome c ln).giveUp ln
  { s with mem := s.mem.l2Drop s.cycle ln }

/-- Every line of some pages recalled for an access at a scope wider than a cluster (R110). -/
def State.scopeRecall (s : State) (scope : Nat) (lines : List Nat) : State := if 2 ≤ scope then lines.foldl State.recall s else s
/-- The lines of some bytes. -/
def Seg.lines (g : Seg) : List Nat := (List.range ((g.pa + g.n - 1) / 128 + 1 - g.pa / 128)).map (· + g.pa / 128)

/-- A store piece on the remote range: the L1 copy is updated where there is one, and the bytes are written through (R111, R173). -/
def State.writeRemote (s : State) (c ev : Nat) (p : Piece) (poison again : Bool) : State :=
  let ln := p.pa / 128
  let x := ((s.core c).line ln).sec (p.pa / 64)
  let s := if x.valid then s.modCore c fun k =>
      let l := k.line ln
      k.setLine ln { l.setSec (p.pa / 64) { x with data := mergeBlock p.mask x.data p.data, poison := poison || (x.poison && p.mask != BitVec.allOnes 64) } with cls := ev, used := s.cycle }
    else s
  s.poolWrite c p none poison again
/-- One store piece performs (R108, R111, R115, R173, R205). A hit of an ev4 or ev5 store updates the L1; after an ev5 store the home writes the line to HBM and drops it. An ev4 miss enters the L2 at class 3, for which R173 names no class (log entry 88). -/
def State.performPiece (s : State) (c ev : Nat) (p : Piece) (poison : Bool := false) (again : Bool := false) : State :=
  let ln := p.pa / 128
  let x := ((s.core c).line ln).sec (p.pa / 64)
  let s :=
    if isRemote p.pa then s.writeRemote c ev p poison again
    else
      let s := if ev < 4 || x.valid || x.isDirty then s.dirtyL1 c p ev none poison
        else
          let s := (s.recall ln).mergeHome (some c) (p.pa / 64) p.cells none (p.bytes.length == 64) poison 3
          { s with mem := s.mem.bump s.cycle ln }
      if ev = 5 then s.dropHome c ln else s
  let s := s.storeTiles c p.pa p.bytes.length
  s.sign c (p.pa / 64) p.untr

/-- Every piece of a store performs, after the recalls of its scope; a remote line is forwarded once (R110, R326). -/
def State.performStore (s : State) (c ev scope : Nat) (ps : List Piece) : State :=
  (ps.foldl (fun (acc : Option Nat × State) p => (some (p.pa / 128), acc.2.performPiece c ev p false (acc.1 == some (p.pa / 128)))) (none, s.scopeRecall scope (ps.map fun p => p.pa / 128))).2

/-- Direct merges of a run of bytes, block by block; a block written whole comes with descriptor `desc`, when one is given (R87). -/
def State.mergeRun (s : State) (desc : Option (BitVec 32)) (pa : Nat) (bs : List Byte) : Nat → State
  | 0 => s
  | fuel + 1 =>
    if bs.isEmpty then s
    else
      let n := min bs.length (64 - pa % 64)
      (s.mergeDirect none pa (bs.take n) (if n = 64 then desc else none) false 3).mergeRun desc (pa + n) (bs.drop n) fuel

/-! ### Releases and acquires -/

/-- The wake of a line at its home (R114). -/
def Mem.wake (m : Mem) (line : Nat) : Pred := m.block (2 * line + 1)

/-- A failed remote write is counted against its core (R122). -/
def Core.poolFailure (k : Core) (bits : Nat) : Core := { k with poolFail := k.poolFail + 1, poolCause := k.poolCause ||| BitVec.ofNat 3 bits }
/-- A home action on a remote line that no port answers fails: its bytes stay as they were, nothing is published, and the failure counts against the core as dead (R111, R122, R403; log entry 90). -/
def State.deadWrite (s : State) (c line : Nat) : Option State :=
  if s.hub.remoteDead (128 * line) then some (s.modCore c fun k => k.poolFailure 1) else none

/-- `Publish` at the home of a line, once its ownership is recalled and the fabric's copies are back (R116): the wake replaced or ORed, the core's own bytes written in the same action, which enter the signatures when `enter` names their block, the signatures of the class cleared, the version raised once. -/
def State.publishHere (s : State) (c line scope : Nat) (replace : Bool) (cells : List (Nat × Byte)) (enter : Option Nat) : State :=
  let k := s.core c
  let w := k.ws.cls scope ||| k.as_.cls scope
  let w := if replace then w else s.mem.wake line ||| w
  let s := ({ s with mem := (s.mem.write (128 * line + 64) (leList 64 w.toNat)).writeCells cells } : State).l2Take (some c) (2 * line + 1) 3 true
  let s := cells.foldl (fun s x => s.mirror x.1 [x.2]) (({ s with mem := s.mem.bump s.cycle line } : State).mirror (128 * line + 64) (leList 64 w.toNat))
  s.modCore c fun k => { k with ws := (match enter with | some b => k.ws.enter b | none => k.ws).clear scope, as_ := k.as_.clear scope }

/-- The line as a Publish finds it: ownership recalled, both sectors taken back from the hosts (R110, R116, R331). -/
def State.homeAll (s : State) (line : Nat) : State := ((s.recall line).snoopBlock (2 * line)).snoopBlock (2 * line + 1)
/-- `Publish` (R116), or its failure on a remote line whose port is down. -/
def State.publish (s : State) (c line scope : Nat) (replace : Bool) (cells : List (Nat × Byte)) (enter : Option Nat) : State :=
  match s.deadWrite c line with
  | some u => u
  | none => (s.homeAll line).publishHere c line scope replace cells enter

/-- `Absorb` (R116). -/
def State.absorb (s : State) (c : Nat) (w : Pred) : State :=
  let s := ((s.core c).lines.filter (lineHits w)).foldl (fun s ln => s.flushLine c ln) s
  s.modCore c fun k => { k with
    as_ := k.as_.or w
    eng := k.eng.invalidate fun i => (List.range (tileBytes i.fmt / 64)).any fun j => hits w (i.pa / 64 + j) }

/-- Every clean sector of a remote-range line becomes invalid (R118). -/
def State.dropRemote (s : State) (c : Nat) : State :=
  s.modCore c fun k => { k with l1 := k.l1.filter fun (ln, _) => !isRemote (128 * ln) }

/-- What follows the read of an acquire of scope `scope` (R118). -/
def State.acquired (s : State) (c scope : Nat) (w : Pred) : State :=
  if scope = 0 then s
  else
    let s := s.absorb c w
    if scope ≥ 4 then s.dropRemote c else s

/-- A line that an acquire of class `ev` leaves in the reader's L1 as a load does (R173): a sector that holds no dirty bytes takes what the acquire read, a partial one is filled. -/
def State.keepAcquired (s : State) (c ln ev : Nat) (b : Block) : State :=
  let x := ((s.core c).line ln).sec 0
  if ev = 4 || ev = 5 then s
  else
    let s := s.makeRoom c ln
    if x.valid && x.isDirty then s.touchL1 c ln ev true else (s.putBlock c ln 0 ev b).touchL1 c ln ev true
/-- The acquire's read: ownership wider than the reader's cluster comes home (R110), then bytes and wake of the authoritative copy in one action (R118). With `keep` the line stays in the reader's caches as a load's does (R171, R173); an `acq.ld` allocates no L1 line, and for ev5 and ev6 no L2 line (R287). It reads that copy alone: not the core's own withheld stores, nor dirty bytes of its L1 that it does not own. R102 sends acquire loads to R103 as well, and R118 decides here (log entry 91). -/
def State.acquireRead (s : State) (pa n scope ev : Nat) (keep : Bool) : List Byte × Pred × Bool × State :=
  let ln := pa / 128
  let ev := s.evAt (2 * ln) ev
  let s := if scope ≥ 2 then s.recall ln else s
  let sent := s.forwards [] s.cur (2 * ln) (List.range 64)
  let alloc := ev != 5 && (keep || ev != 6)
  let (b0, s) := s.readHome s.cur (2 * ln) (if ev = 4 then 3 else ev) alloc
  let (b1, s) := s.readHome s.cur (2 * ln + 1) (if ev = 4 then 3 else ev) alloc sent
  let s := if keep then s.keepAcquired s.cur ln ev b0 else s
  ((List.range n).map (fun i => b0.data.extractLsb' (8 * (pa % 64 + i)) 8), b1.data, b0.poison || b1.poison, s)

/-- Remote writes of core `c` still in flight (R121). -/
def State.poolBusy (s : State) (c : Nat) : Bool := s.mem.inflight.any fun w => w.core == c
/-- A put or get. -/
def COp.isNet : COp → Bool
  | .put _ | .get _ => true
  | _ => false
/-- Puts and gets of core `c` not yet acknowledged or failed, those still in its channels among them (R121). -/
def State.netBusy (s : State) (c : Nat) : Bool :=
  s.hub.net.any (fun o => o.core == c && o.coll.isNone && o.answer.isNone) || (s.core c).ch.any fun (_, x) => x.q.any fun m => m.op.isNet

end Sys2Proof.Machine
end

