-- ==== Sys2Proof/Machine/Translate.lean ====
section
/-! DEFINITION. Page tables, `Walk` and `Translate`, and the translation caches (R298, R320 to R325). -/
namespace Sys2Proof.Machine

/-- The kinds of access that translate (R322). -/
inductive Acc where
  | read | write | exec
  deriving DecidableEq, Repr

/-- Why a translation fails, with the address the fault names (R322). -/
inductive TFault where
  | translation (a : W72)
  | permission (a : W72)
  deriving DecidableEq, Repr

/-- The index of a level's table (R320). -/
def walkIndex (lvl : Nat) (va : Nat) : Nat :=
  if lvl = 1 then va / 2 ^ 57 % 32768 else va / 2 ^ (12 + 9 * (6 - lvl)) % 512

/-- The fields of a table entry (R321). -/
def pteValid (e : W64) : Bool := e.getLsbD 0
def pteLeaf (e : W64) : Bool := e.getLsbD 1
def ptePa (e : W64) : Nat := (e.extractLsb' 12 45).toNat * 4096
def pteContig (e : W64) : Bool := e.getLsbD 10
def pteRemote (e : W64) : Bool := e.getLsbD 9
def pteUntr (e : W64) : Bool := e.getLsbD 8
def pteSup (e : W64) : Bool := e.getLsbD 7
def pteX (e : W64) : Bool := e.getLsbD 6
def pteW (e : W64) : Bool := e.getLsbD 5
def pteR (e : W64) : Bool := e.getLsbD 4
def pteMig (e : W64) : Bool := e.getLsbD 11
/-- The must-be-zero bits of an entry are zero; a table entry also has bits 11:2 zero (R321). -/
def pteClean (e : W64) : Bool :=
  e.extractLsb' 57 7 == 0 && e.extractLsb' 2 2 == 0 && (pteLeaf e || e.extractLsb' 2 10 == 0)

/-- The partition owns every 64 KiB frame from `pa` on (R322, R328). -/
def Hub.ownsFrames (h : Hub) (p pa n : Nat) : Bool :=
  (List.range (ceilDiv (pa % 65536 + n) 65536)).all fun i => h.frameOwner.get 0 (pa / 65536 + i) == p + 1

/-- One window of the partition holds the whole page (R322, R329). -/
def Hub.ownsWindow (h : Hub) (p pa n : Nat) : Bool :=
  h.windows.any fun w => w.owner == p && w.base ≤ pa && pa + n ≤ w.base + w.size

/-- The context's record. -/
def Hub.ctx? (h : Hub) (c : Nat) : Option Ctx := h.ctxs.get none c

/-- A leaf passes the checks of R322: aligned, remote equal to pa[56], not reserved, and the partition owns what it maps. -/
def leafOk (h : Hub) (p : Nat) (e : W64) (size : Nat) : Bool :=
  let pa := ptePa e
  pa % 2 ^ size == 0 && (pteRemote e == (e.getLsbD 56)) && !isReserved pa &&
  (if pteRemote e then h.ownsWindow p pa (2 ^ size) else h.ownsFrames p pa (2 ^ size))

/-- The level-6 entry that translates an access: its own, or where the 16 entries of its group disagree about a 64 KiB page, one of them, which one is not defined (R323; log entry 11). -/
def contigEntry (s : State) (t va : Nat) : W64 :=
  let i := walkIndex 6 va
  let own := s.mem.read64 (t + 8 * i)
  let group := (List.range 16).map fun j => s.mem.read64 (t + 8 * (i / 16 * 16 + j))
  if group.any pteContig && !(group.all (· == own)) then
    let cand := own :: group.filter pteContig
    cand.getD ((Config.contigPick (s.cycle * 2 ^ 73 + va)).toNat % cand.length) own
  else own

/-- `Walk` from level `lvl` on (R322): the leaf and the log2 size of its page, or none for a fault. -/
def walkFrom (s : State) (p va : Nat) (lvl t : Nat) : Nat → Option (W64 × Nat)
  | 0 => none
  | fuel + 1 =>
    let e := if lvl = 6 then contigEntry s t va else s.mem.read64 (t + 8 * walkIndex lvl va)
    if !pteValid e || !pteClean e then none
    else if !pteLeaf e then (if lvl = 6 then none else walkFrom s p va (lvl + 1) (ptePa e) fuel)
    else if lvl < 4 then none
    else
      let size := if lvl = 4 then 30 else if lvl = 5 then 21 else if pteContig e then 16 else 12
      if leafOk s.hub p e size then some (e, size) else none

/-- `Walk(ctx, va)` (R322). -/
def State.walk (s : State) (ctx : Nat) (va : W72) : Option (W64 × Nat) :=
  match s.hub.ctx? ctx with
  | none => none
  | some c => walkFrom s c.part va.toNat 1 c.root 6

/-- A cached translation (R324). -/
def tlbFind (tlb : List TlbEntry) (ctx : Nat) (va : W72) : Option (W64 × Nat) :=
  (tlb.find? fun e => e.ctx == ctx && va.toNat / 2 ^ e.size == e.vpn / 2 ^ (e.size - 12)).map fun e => (e.leaf, e.size)

/-- A translation from the cache or by a fresh walk. -/
def State.pageOf (s : State) (tlb : List TlbEntry) (ctx : Nat) (va : W72) : Option (W64 × Nat) :=
  match tlbFind tlb ctx va with
  | some r => some r
  | none => s.walk ctx va

/-- The leaf allows the access at this privilege (R322). -/
def leafAllows (e : W64) (kind : Acc) (sup : Bool) : Bool :=
  (sup || !pteSup e) && (match kind with | .read => pteR e | .write => pteW e | .exec => pteX e)

/-- `Translate(va, n, kind)` (R322): the bytes page by page, lowest first. -/
def State.translate (s : State) (tlb : List TlbEntry) (ctx : Nat) (kind : Acc) (sup : Bool) (va : W72) (n : Nat) : Nat → Except TFault (List Seg)
  | 0 => .ok []
  | fuel + 1 =>
    match s.pageOf tlb ctx va with
    | none => .error (.translation va)
    | some (e, size) =>
      if !leafAllows e kind sup then .error (.permission va)
      else
        let off := va.toNat % 2 ^ size
        let k := min n (2 ^ size - off)
        let seg : Seg := ⟨ptePa e + off, k, pteUntr e⟩
        if k = n then .ok [seg]
        else match s.translate tlb ctx kind sup (va + BitVec.ofNat 72 k) (n - k) fuel with
          | .error f => .error f
          | .ok t => .ok (seg :: t)

/-- Enough pages for `n` bytes. -/
def pageFuel (n : Nat) : Nat := n / 4096 + 2

/-- The entry that a translation leaves in a TLB. -/
def tlbEntry (ctx : Nat) (va : W72) (e : W64 × Nat) : TlbEntry :=
  ⟨ctx, va.toNat / 2 ^ e.2 * 2 ^ (e.2 - 12), e.2, e.1⟩

/-- A TLB with an entry put first; one beyond its size drops the oldest (log entry 12). -/
def tlbPut (cap : Nat) (tlb : List TlbEntry) (e : TlbEntry) : List TlbEntry :=
  (e :: tlb.filter (· != e)).take cap

/-- A shared TLB with an entry put first: 4,096 sets of 8 ways (R324; log entry 12). -/
def sharedPut (tlb : List TlbEntry) (e : TlbEntry) : List TlbEntry :=
  let rest := tlb.filter (· != e)
  if rest.length < 8 then e :: rest
  else
    let set := rest.filter fun x => Config.tlbSet x.ctx x.vpn % 4096 == Config.tlbSet e.ctx e.vpn % 4096
    match set.getLast? with
    | some x => if set.length < 8 then e :: rest else e :: rest.erase x
    | none => e :: rest

/-- Every page of an access cached in the core's TLB, which a completed translation leaves there (R324). -/
def State.tlbFill (s : State) (c : Nat) (pipe : Bool) (ctx : Nat) (va : W72) (n : Nat) : Nat → State
  | 0 => s
  | fuel + 1 =>
    let k := s.core c
    match s.pageOf (if pipe then k.ptlb else k.tlb) ctx va with
    | none => s
    | some (e, size) =>
      let ent := tlbEntry ctx va (e, size)
      let s := s.modCore c fun k => if pipe then { k with ptlb := tlbPut 32 k.ptlb ent } else
        if (tlbFind k.tlb ctx va).isSome then k else { k with tlb := tlbPut 64 k.tlb ent }
      let off := va.toNat % 2 ^ size
      if 2 ^ size - off ≥ n then s else s.tlbFill c pipe ctx (va + BitVec.ofNat 72 (2 ^ size - off)) (n - (2 ^ size - off)) fuel

/-- The context a core runs. -/
def Core.ctx (c : Core) : Nat := match c.job with | some j => j.ctx | none => 0
/-- The declared scratchpad bytes of the running task (R162). -/
def Core.scratchSize (c : Core) : Nat := match c.job with | some j => j.scratch | none => 0x100000

/-- A translation for the acting core at issue (R162, R324). -/
def State.xlate (s : State) (kind : Acc) (va : W72) (n : Nat) : Except TFault (List Seg) :=
  s.translate s.me.tlb s.me.ctx kind s.me.sup va n (pageFuel n)

/-- Translations removed by `p` from every TLB, pipe TLB, shared TLB and miss table; walks under way end without a result (R318, R325). -/
def State.tlbDrop (s : State) (p : TlbEntry → Bool) (w : Walk → Bool) : State :=
  { s with
    cores := s.cores.map fun (k, c) => (k, { c with tlb := c.tlb.filter (!p ·), ptlb := c.ptlb.filter (!p ·) })
    hub := { s.hub with
      stlb := s.hub.stlb.map fun (d, l) => (d, l.filter (!p ·))
      walks := s.hub.walks.map fun x => if w x then { x with cancelled := true } else x } }

/-! ### Misses (R324, R325, R363) -/

/-- What a partition may hold of a table that several share (R363): its reserved part and, of what nobody reserves and the others do not hold, at most `share`. The list gives each partition's reserved part and what it holds. -/
def divLimit (l : List (Nat × Nat × Nat)) (total share p : Nat) : Nat :=
  let res := l.foldl (fun n x => n + x.2.1) 0
  let above := (l.filter fun x => x.1 != p).foldl (fun n x => n + (x.2.2 - x.2.1)) 0
  (match l.find? fun x => x.1 == p with | some x => x.2.1 | none => 0) + min share (total - res - above)
/-- The clusters that a partition holds on a die. -/
def Part.onDie (p : Part) (die : Nat) : Nat := ((List.range 8).filter fun k => p.cfg.clusters.getLsbD (8 * die + k)).length
/-- The partitions of the hub. -/
def Hub.parts' (h : Hub) : List (Nat × Part) := h.parts.filterMap fun x => x.2.map fun p => (x.1, p)
/-- The entries of a die's miss table that belong to a partition, and those of them that a walker has taken. -/
def Hub.walksOf (h : Hub) (die p : Nat) : Nat := (h.walks.filter fun w => w.die == die && h.ctxPart w.ctx == p).length
def Hub.walkersOf (h : Hub) (die p : Nat) : Nat := (h.walks.filter fun w => w.die == die && w.due.isSome && h.ctxPart w.ctx == p).length
/-- The entries of a die's miss table that a partition may hold (R363). -/
def Hub.tableLimit (h : Hub) (die p : Nat) : Nat := divLimit (h.parts'.map fun x => (x.1, 32 * x.2.onDie die, h.walksOf die x.1)) 512 128 p
/-- The walkers of a die that a partition may use (R363). -/
def Hub.walkerLimit (h : Hub) (die p : Nat) : Nat := divLimit (h.parts'.map fun x => (x.1, 4 * x.2.onDie die, h.walkersOf die x.1)) 64 16 p

/-- The addresses of the entries that a walk reads, in order (R322). -/
def walkReads (s : State) (va lvl t : Nat) : Nat → List Nat
  | 0 => []
  | fuel + 1 =>
    let a := t + 8 * walkIndex lvl va
    let e := s.mem.read64 a
    if !pteValid e || !pteClean e || pteLeaf e || lvl = 6 then [a] else a :: walkReads s va (lvl + 1) (ptePa e) fuel
/-- The unloaded time of a walk from a cluster (R325). -/
def State.walkTime (s : State) (cluster ctx : Nat) (va : W72) : Nat :=
  match s.hub.ctx? ctx with
  | none => 24
  | some c => (walkReads s va.toNat 1 c.root 6).foldl (fun t a => t + s.homeLatency cluster (a / 64)) 24
/-- An entry of a miss table gets a walker where one is free for its partition (R325, R363). -/
def State.startWalk (s : State) (w : Walk) : State :=
  if w.due.isSome || s.hub.walkerLimit w.die (s.hub.ctxPart w.ctx) ≤ s.hub.walkersOf w.die (s.hub.ctxPart w.ctx) then s
  else s.modHub fun h => { h with walks := h.walks.map fun x => if x = w then { w with due := some (s.cycle + s.walkTime w.cluster w.ctx (BitVec.ofNat 72 (4096 * w.vpn))) } else x }
/-- Every entry that waits for a walker, oldest first. -/
def State.startWalks (s : State) : State := s.hub.walks.foldl State.startWalk s
/-- A walk that has ended. -/
def Walk.ended (w : Walk) (cycle : Nat) : Bool := match w.due with | some t => t ≤ cycle | none => false
/-- Who misses: a core's TLB, its load pipes, or its copy engine, which has no TLB of its own (R324). -/
inductive Misser where
  | core | pipe | copy
  deriving DecidableEq, Repr
/-- The number of a misser in `Core.noPage`. -/
def Misser.num : Misser → Nat
  | .core => 0 | .pipe => 1 | .copy => 2
/-- The misser's last walk of a page has ended without a translation: the access goes on to its fault (R325). -/
def Core.walkedOut (k : Core) (who : Misser) (ctx : Nat) (va : W72) : Bool := k.noPage.contains (who.num, ctx, va.toNat / 4096)
/-- What such walks have left is spent: the access has faulted, or gone on. -/
def Core.walksSpent (k : Core) (who : Misser) : Core := { k with noPage := k.noPage.filter fun x => x.1 != who.num }
/-- A translation that the shared TLB serves, 24 cycles later (R325). -/
def State.serveShared (s : State) (who : Misser) (c : Nat) (e : TlbEntry) : State :=
  match who with
  | .core => s.modCore c fun k => { k with tlb := tlbPut 64 k.tlb e, iss := { k.iss with elig := max k.iss.elig (s.cycle + 24) } }
  | .pipe => s.modCore c fun k => { k with ptlb := tlbPut 32 k.ptlb e, pipeFrom := max k.pipeFrom (s.cycle + 24) }
  | .copy => s
/-- A TLB, or a copy engine, that waits joins an entry of the miss table. -/
def Walk.join (w : Walk) (who : Misser) (c : Nat) : Walk :=
  match who with
  | .core => if w.cores.contains c then w else { w with cores := w.cores ++ [c] }
  | .pipe => if w.pipes.contains c then w else { w with pipes := w.pipes ++ [c] }
  | .copy => if w.copies.contains c then w else { w with copies := w.copies ++ [c] }
/-- A miss of core `c` (R324, R325): served by the shared TLB, joined to an entry of the miss table, or a new entry where the partition may have one. -/
def State.miss (s : State) (who : Misser) (c ctx : Nat) (va : W72) : State :=
  let die := c / 64
  let vpn := va.toNat / 4096
  match (s.hub.stlb.get [] die).find? fun e => (tlbFind [e] ctx va).isSome with
  | some e => s.serveShared who c e
  | none =>
    if s.hub.walks.any fun w => w.die == die && w.ctx == ctx && w.vpn == vpn && !w.cancelled then
      s.modHub fun h => { h with walks := h.walks.map fun w => if w.die == die && w.ctx == ctx && w.vpn == vpn && !w.cancelled then w.join who c else w }
    else if s.hub.tableLimit die (s.hub.ctxPart ctx) ≤ s.hub.walksOf die (s.hub.ctxPart ctx) then s
    else (s.modHub fun h => { h with walks := h.walks ++ [({ die := die, ctx := ctx, vpn := vpn, cluster := clusterOf c, cores := [], pipes := [], due := none, cancelled := false } : Walk).join who c] }).startWalks
/-- A walk's result enters the shared TLB and the TLBs that wait for it (R325). -/
def State.walkResult (s : State) (w : Walk) (e : TlbEntry) : State :=
  let s := s.modHub fun h => { h with stlb := h.stlb.put [] w.die (sharedPut (h.stlb.get [] w.die) e) }
  let s := w.cores.foldl (fun s c => s.modCore c fun k => { k with tlb := tlbPut 64 k.tlb e }) s
  w.pipes.foldl (fun s c => s.modCore c fun k => { k with ptlb := tlbPut 32 k.ptlb e }) s
/-- A walk that finds no translation leaves that with those that wait for it, and nothing in a TLB (R325). -/
def State.walkNone (s : State) (w : Walk) : State :=
  let tell (who : Misser) (s : State) (c : Nat) : State := s.modCore c fun k => { k with noPage := (who.num, w.ctx, w.vpn) :: k.noPage }
  w.copies.foldl (tell .copy) (w.pipes.foldl (tell .pipe) (w.cores.foldl (tell .core) s))
/-- The 4 KiB pages of an access, as addresses. -/
def pagesOf (va : W72) (n : Nat) : List W72 :=
  (List.range ((va.toNat % 4096 + n - 1) / 4096 + 1)).map fun i => if i = 0 then va else BitVec.ofNat 72 ((va.toNat / 4096 + i) * 4096)
/-- The first page of an access that a TLB lacks; none when it is one for which the misser's walk has found nothing (R324, R325). -/
def Core.lacks (k : Core) (who : Misser) (tlb : List TlbEntry) (ctx : Nat) (va : W72) (n : Nat) : Option W72 :=
  ((pagesOf va n).find? fun a => (tlbFind tlb ctx a).isNone).filter fun a => !k.walkedOut who ctx a
/-- The page for which core `c`'s load pipes must wait, none when they have every page of an access (R324). -/
def State.pipeLacks (s : State) (c : Nat) (va : W72) (n : Nat) : Option W72 := (s.core c).lacks .pipe (s.core c).ptlb (s.core c).ctx va n
/-- The same for core `c`'s copy engine, which is served by the die's shared TLB. -/
def State.copyLacks (s : State) (c ctx : Nat) (va : W72) (n : Nat) : Option W72 := (s.core c).lacks .copy (s.hub.stlb.get [] (c / 64)) ctx va n

end Sys2Proof.Machine
end

