-- ==== Sys2Proof/Machine/Ops.lean ====
section
/-! DEFINITION. Named operations that every class shares: commit and rollback, taking an exception and returning from one, killing a context, capture records, and variable-latency results (R78, R102, R307 to R313, R316, R373). -/
namespace Sys2Proof.Machine

/-- What a transition answers. -/
abbrev Res := Host.Outcome State Fault Refusal

/-! ### Regions -/

/-- Commit (R102, R304): WB is appended to RQ, the shadow takes the registers, and the next region starts at the next bundle. -/
def Core.commit (c : Core) : Core :=
  { c with
    rq := c.rq ++ c.wb, wb := [], sh := c.regs
    iss := { c.iss with region := c.iss.region + 1, regionStart := c.iss.pc, nv := 0, nm := 0, nc := 0, nb := 0, wlog := [], ckpt := false } }

/-- The write log restored from its youngest entry to its oldest (R307). -/
def restoreLog (vec : Bank Vec) : List (Nat × Vec) → Bank Vec
  | [] => vec
  | (n, v) :: t => restoreLog (vec.put 0 n v) t

/-- Rollback (R307): WB discarded, the region's writes and loads in flight cancelled, the write log and the shadow restored; issue resumes at the region's start. -/
def Core.rollback (c : Core) : Core :=
  { c with
    wb := [], regs := c.sh, vec := restoreLog c.vec c.iss.wlog
    iss := { c.iss with
      pend := c.iss.pend.filter fun w => w.region < c.iss.region
      vpend := c.iss.vpend.filter fun w => w.region < c.iss.region
      wlog := [], pc := c.iss.regionStart, nv := 0, nm := 0, nc := 0, nb := 0, next := none, paid := false, ckpt := false } }

/-- A pending result that a frozen engine or channel cannot deliver, and that a handler never waits for (R312). -/
def Core.stuck (c : Core) (w : VarWrite) : Bool :=
  match w.kind with
  | .engine => c.eng.frozen.isSome
  | .sync _ (some _) => c.ch.any fun (_, x) => x.frozen.isSome
  | _ => false
/-- A write of a committed region is still pending (R311). -/
def Core.committedPending (c : Core) : Bool :=
  c.iss.pend.any (fun w => w.region < c.iss.region) || c.iss.vpend.any (fun w => w.region < c.iss.region && !c.stuck w)

/-! ### Capture records -/

/-- The physical address of a byte of a partition's capture ring (R373). -/
def Part.capAddr (p : Part) (off : Nat) : Nat := p.capFrames.getD (off / 65536) 0 * 65536 + off % 65536

/-- Bytes put into the capture ring from an offset on, as Write-backs (R373). -/
def captureWrite (s : State) (p : Part) (off : Nat) (bs : List Byte) : Nat → State
  | 0 => s
  | fuel + 1 =>
    if bs.isEmpty then s
    else
      let n := min bs.length (64 - off % 64)
      captureWrite (s.mergeDirect none (p.capAddr off) (bs.take n) none false 3) p (off + n) (bs.drop n) fuel

/-- A partition of the hub. -/
def Hub.part? (h : Hub) (p : Nat) : Option Part := h.parts.get none p
/-- A partition replaced. -/
def Hub.setPart (h : Hub) (p : Nat) (x : Part) : Hub := { h with parts := h.parts.put none p (some x) }
/-- A partition changed, where it exists. -/
def State.modPart (s : State) (p : Nat) (f : Part → Part) : State :=
  match s.hub.part? p with
  | none => s
  | some x => s.modHub fun h => h.setPart p (f x)

/-- A record appended to a partition's capture ring (R373): it wraps to offset 64 when it does not fit, and one longer than the ring is cut. -/
def State.capture (s : State) (p : Nat) (rec : List Byte) : State :=
  match s.hub.part? p with
  | none => s
  | some x =>
    let cap := x.capFrames.length * 65536 - 64
    if x.capFrames.isEmpty then s
    else
      let cut := decide (rec.length > cap)
      let off := if cut then 64 else if x.capOff + rec.length > cap + 64 then 64 else x.capOff
      let bs := rec.take cap
      let s := captureWrite s x off bs (bs.length + 1)
      let next := if cut then 64 else off + bs.length
      let x := { x with capOff := next, capCount := x.capCount + 1 }
      let s := captureWrite s x 0 (leList 4 next ++ leList 4 x.capCount) 2
      let s := s.modHub fun h => h.setPart p x
      if cut then s.out (.mctl 1 [p]) else s

/-! ### Killing a context -/

/-- Core `c`'s channel `n`. -/
def Core.chan (k : Core) (n : Nat) : Chan := k.ch.get {} n
/-- A channel changed. -/
def State.modChan (s : State) (c n : Nat) (f : Chan → Chan) : State := s.modCore c fun k => { k with ch := k.ch.put {} n (f (k.chan n)) }
/-- The blocks that a command wrote enter WS (R115, R256, R273). -/
def State.signBlocks (s : State) (c : Nat) (l : List (Nat × Bool)) : State := l.foldl (fun s (b, u) => s.sign c b u) s
/-- A channel's commands are dropped: what they have written enters the signatures. Puts and collectives already sent run on; a put that has sent nothing is gone, and the data of gets under way are not written any more (R273). -/
def State.dropChan (s : State) (c ch : Nat) : State :=
  let s := ((s.core c).chan ch).q.foldl (fun s m => s.signBlocks c m.wrote) s
  let mine (o : NetOp) : Bool := o.core == c && o.ch == ch && o.away.isNone
  let s := s.modHub fun h => { h with net := (h.net.filter fun o => !(mine o && o.put && o.sent == 0)).map fun o => if mine o && !o.put then { o with piece := none } else o }
  s.modChan c ch fun x => { x with q := [], running := false, frozen := none, more := [] }
/-- A `waitaddr` at the head of RQ is on its way to its line's home (R408). -/
def Core.onWay (k : Core) : Bool :=
  k.rqAt.isSome && match k.rq with
    | .waitaddr _ _ _ :: _ => true
    | _ => false
/-- A core's engine work abandoned, as `mcancel flush` and `kcancel` abandon it: what its channels have written enters the signatures, and instances that nothing uses any more are free. An effect that has begun to perform stays, but for a `waitaddr` that has not registered (R193, R217, R273, R313, R372). -/
def State.abandon (s : State) (c : Nat) : State :=
  ((List.range 16).foldl (fun s i => s.dropChan c i) s).modCore c fun k => { k with
    wb := [], rq := if k.rqAt.isSome && !k.onWay then k.rq.take 1 else [], rqAt := if k.onWay then none else k.rqAt
    eng := ({ k.eng with q := [], runs := [], frozen := none, mrp := 0, seq := none, pfq := [] } : MEng).settle }
/-- A queue changed, where it exists. -/
def State.modQueue (s : State) (p q : Nat) (f : Queue → Queue) : State :=
  s.modPart p fun x => match x.queues[q]? with
    | some y => { x with queues := x.queues.set q (f y) }
    | none => x
/-- A core's counts handed to the hub: at each update, and before the core changes context. -/
def State.flushCounts (s : State) (c : Nat) : State :=
  let r := s.recOf c
  let k := s.core c
  (s.setCore c { k with count := [] }).modHub fun h => k.count.foldl (fun h (i, n) => h.note r i n) h

/-- The bytes of a 64-bit value. -/
def bytes64 (v : W64) : List Byte := leList 8 v.toNat

/-- ContextKill (R313): the context's cores stop, their unperformed effects and engine work are discarded, their counts so far stay the context's (R366), a kill record is written, the launch ends with status 3. -/
def State.contextKill (s : State) (c reason : Nat) (third : W64) (ret : W64) : State :=
  let k := s.core c
  match k.job with
  | none => s
  | some j =>
    let b1 := k.sys.bank1
    let b2 := k.sys.bank2
    let rec_ := leList 2 1 ++ leList 2 72 ++ leList 2 j.ctx ++ leList 1 reason ++ [0] ++ bytes64 b1.cause ++ bytes64 b1.tret ++ bytes64 b1.taddr ++
      bytes64 b2.cause ++ bytes64 b2.tret ++ bytes64 b2.taddr ++ bytes64 third ++ bytes64 ret
    let s := s.capture j.part rec_
    let stage := match s.hub.tasks.get none j.task with | some t => t.stage | none => 0
    let k0 := s.cores
    let isOf (x : Core) : Bool := match x.job with | some y => y.ctx == j.ctx | none => false
    let s := ((s.cores.filter fun x => isOf x.2).map (·.1)).foldl (fun s n => (s.flushCounts n).abandon n) s
    let s := { s with mem := { s.mem with mons := s.mem.mons.filter fun m => !isOf (s.core m.core), msgs := s.mem.msgs.filter fun m => !isOf (s.core m.core) } }
    let s := { s with cores := s.cores.map fun (n, x) =>
      (n, if isOf x then { x with job := none, iss := { x.iss with hold := .none, wmWait := none, trap := none, poisons := [], ckpt := false } } else x) }
    s.modHub fun h => { h with
      cmds := h.cmds.map fun x => if x.away.isNone && (match (k0.get {} x.core).job with | some y => y.ctx == j.ctx | none => false) then { x with away := some (j.task, 0) } else x
      launches := h.launches.map fun (n, l) => (n, match l with
        | some l => if l.ctx == j.ctx && l.part == j.part && l.st != .ended then some { l with st := .ending 3, killed := some (j.ctx, stage) } else some l
        | none => none)
      tasks := h.tasks.map fun (n, t) => (n, match t with
        | some t => (match h.launches.get none t.launch with
          | some l => if l.ctx == j.ctx && l.part == j.part then some { t with st := .ended, cores := [], saved := [] } else some t
          | none => some t)
        | none => none) }

/-! ### Taking an exception and returning from one -/

/-- The cause register's bits (R308). A code whose table row names no address leaves vahi zero. -/
def causeWord (deferred : Bool) (from_ : Nat) (x : Cause) : W64 :=
  let v := x.code % 256 + x.det % 256 * 2 ^ 8 + x.loc % 256 * 2 ^ 16 + (x.addr.extractLsb' 64 8).toNat * 2 ^ 24 +
    x.prog % 2 ^ 29 * 2 ^ 32 + from_ % 4 * 2 ^ 61 + (if deferred then 2 ^ 63 else 0)
  BitVec.ofNat 64 v

/-- The trap bank of a level. -/
def Sys.bank (y : Sys) (l : Nat) : TrapBank := if l = 1 then y.bank1 else y.bank2
/-- That bank replaced. -/
def Sys.setBank (y : Sys) (l : Nat) (b : TrapBank) : Sys := if l = 1 then { y with bank1 := b } else { y with bank2 := b }
/-- The handler address of a level (R300). -/
def Sys.tvec (y : Sys) (l : Nat) : W64 := if l = 1 then y.tvec1 else y.tvec2

/-- Trap entry of a core once nothing of a committed region is pending (R311). A pre-emption request is held for the handler. A core that waits in `idle` returns to its `idle` (R312, R317). -/
def State.enterTrap (s : State) (c : Nat) (r : TrapReq) : State :=
  let k := (s.core c).walksSpent .core
  let n := k.iss.wlog.length
  let k := if k.iss.hold == .idle then { k with iss := { k.iss with pc := k.iss.pc - 64 } } else k
  let k := if r.kind == TrapKind.precise then k.rollback else k.commit
  let ret := k.iss.pc
  let lvl := k.sys.level + 1
  let cw := causeWord (r.kind == TrapKind.deferred) (lvl - 1) r.cause
  if lvl ≥ 3 then (s.setCore c k).contextKill c 0 cw (ret.setWidth 64)
  else
    let b : TrapBank := { k.sys.bank lvl with cause := cw, tret := ret.setWidth 64 &&& ~~~0x3F, taddr := r.cause.addr.setWidth 64, asave := k.regs.ra 30 }
    let y := { k.sys.setBank lvl b with level := lvl }
    let k := { k with
      sys := y, eng := { k.eng with yieldReq := false }
      regs := { k.regs with a := k.regs.a.put 0 30 (y.tsave.setWidth 72 + BitVec.ofNat 72 (256 * (lvl - 1))) }
      iss := { k.iss with pc := (y.tvec lvl).setWidth 72, next := none, trap := none, hold := .none, wmWait := none, paid := false, onEngine := false
                          elig := s.cycle + 12 + (if r.kind == TrapKind.precise then ceilDiv n 2 else 0) } }
    s.setCore c k.commit

/-- The acting core takes a trap: at once, or as soon as no write of a committed region is pending (R311). -/
def State.takeTrap (s : State) (c : Nat) (r : TrapReq) : State :=
  if (s.core c).committedPending then s.modCore c fun k => { k with iss := { k.iss with trap := some r } }
  else s.enterTrap c r

/-- A precise trap of the acting core (R309). -/
def State.precise (s : State) (x : Cause) : State := s.takeTrap s.cur ⟨TrapKind.precise, x⟩

/-- A cause without address, location or progress. -/
def cause0 (code det : Nat) : Cause := ⟨code, det, 0, 0, 0⟩

/-- The cause of a failed translation in a slot (R309, codes 0x07 and 0x08). -/
def TFault.cause (f : TFault) (slot : Nat) : Cause :=
  match f with
  | .translation a => ⟨0x07, slot, 0, 0, a⟩
  | .permission a => ⟨0x08, slot, 0, 0, a⟩

/-- The pending result of a drain into registers. -/
def MOp.vid? : MOp → Option Nat
  | .drainV _ _ v _ _ _ => some v
  | _ => none

/-- `mcancel flush` (R217): a frozen engine abandons the faulting command and every later entry, releases their interlocks with destinations unchanged and clears mrp. Entries ahead stay. -/
def Core.flushMatrix (c : Core) : Core :=
  match c.eng.frozen with
  | none => c
  | some f =>
    let gone := c.eng.q.filter fun m => f.entry ≤ m.id
    let sub := match c.eng.seq with | some q => if f.entry ≤ q.entry then q.sq else [] | none => []
    let vids := gone.filterMap fun m => m.op.vid?
    { c with
      eng := ({ c.eng with
        frozen := none, mrp := 0, q := c.eng.q.filter fun m => m.id < f.entry
        seq := match c.eng.seq with | some q => if f.entry ≤ q.entry then none else some q | none => none
        runs := c.eng.runs.filter fun r => !(gone ++ sub).any fun m => m.id == r.entry } : MEng).settle
      iss := { c.iss with vpend := c.iss.vpend.filter fun v => !vids.contains v.id } }

/-- An effect put back at the head of RQ, behind one that has begun to perform. -/
def Core.requeue (c : Core) (e : Effect) : Core :=
  { c with rq := if c.rqAt.isSome then c.rq.take 1 ++ [e] ++ c.rq.drop 1 else e :: c.rq }

/-- The matrix engine whose fault was delivered resumes at the return to level 0 (R203, R246, R312): mrp clears, a refused pin is tried again, the sequencer continues; one that cannot resume is flushed (R247). -/
def Core.resumeMatrix (c : Core) : Core :=
  match c.eng.frozen with
  | none => c
  | some f =>
    if !f.delivered then c
    else if f.fatal then c.flushMatrix
    else
      let c := { c with eng := { c.eng with
        frozen := none, mrp := 0
        seq := c.eng.seq.map fun q => if q.st == .faulted false then { q with st := .running } else q } }
      match f.again with
      | some (op, sup) => c.requeue (.direct op sup)
      | none => c

/-- A channel whose fault is over: the next failure of its schedule is its fault now, if there is one (R255, R262). -/
def Chan.thawed (x : Chan) : Chan := { x with frozen := x.more.head?, more := x.more.drop 1 }
/-- At level 0 a stitch hears of a pre-emption request that was held for the handler (R244, R311). -/
def Core.askYield (c : Core) : Core := { c with eng := { c.eng with yieldReq := match c.job with | some j => j.due.isSome | none => false } }
/-- The return from a trap (R316): it commits, a30 is restored, the level falls by one, issue continues at tret 3 cycles later. -/
def Core.trapReturn (c : Core) (cycle : Nat) : Core :=
  let c := c.commit
  let l := c.sys.level
  let b := c.sys.bank l
  let c := { c with
    sys := { c.sys with level := l - 1 }
    regs := { c.regs with a := c.regs.a.put 0 30 b.asave }
    iss := { c.iss with pc := b.tret.setWidth 72, next := some (b.tret.setWidth 72, 2), elig := cycle + 3 } }
  let c := if l = 1 then
      { c.resumeMatrix.askYield with
               ch := c.ch.map fun (i, x) => (i, match x.frozen with
                 | some f => if f.delivered then x.thawed else x
                 | none => x) }
    else c
  c.commit

/-! ### Variable-latency results -/

/-- A variable-latency result is registered; its number (R78). -/
def Core.addVar (c : Core) (kind : VKind) (regs : List RegName) (wr : List Wr) (ready : Option Nat) (hold : Bool) (poison : Option (Nat × W72)) : Nat × Core :=
  (c.iss.nextId, { c with iss := { c.iss with nextId := c.iss.nextId + 1, vpend := c.iss.vpend ++ [⟨c.iss.nextId, kind, c.iss.region, regs, wr, ready, hold, poison⟩] } })

/-- A pending result. -/
def Core.var? (c : Core) (id : Nat) : Option VarWrite := c.iss.vpend.find? fun v => v.id == id

/-- The register that a write names, where a pending result may name it too. -/
def Wr.reg? : Wr → Option RegName
  | .s n _ => some (.s n) | .a n _ => some (.a n) | .v n _ _ => some (.v n) | .ix n _ => some (.ix n)
  | _ => none
/-- The writes in flight to some registers that are due before this cycle come first: a result that is read from this cycle on was written at the end of the cycle before, and what completes last stands (R77, R78). -/
def Core.landBefore (c : Core) (cycle : Nat) (regs : List RegName) : Core :=
  let first (w : FixedWrite) : Bool := w.due < cycle && (match w.wr.reg? with | some r => regs.contains r | none => false)
  (c.iss.pend.filter first).foldl (fun c w => c.land w.region w.wr) { c with iss := { c.iss with pend := c.iss.pend.filter (!first ·) } }
/-- A pending result completes in a cycle: its writes land, or, with poison, its destination stays and the data-poison trap waits (R77, R78, R164). -/
def Core.finishVar (c : Core) (cycle id : Nat) : Core :=
  match c.var? id with
  | none => c
  | some v =>
    let c := c.landBefore cycle v.regs
    let c := { c with iss := { c.iss with vpend := c.iss.vpend.filter fun x => x.id != id } }
    match v.poison with
    | none => c.landAll v.region v.wr
    | some (slot, a) =>
      let (cls, n) := match v.regs with
        | .s n :: _ => (0, n) | .a n :: _ => (1, n) | .v n :: _ => (2, n) | .ix n :: _ => (3, n) | [] => (0, 0)
      { c with iss := { c.iss with poisons := c.iss.poisons ++ [⟨0x0B, slot, cls * 1024 + n, 0, a⟩] } }

/-- A pending result gets its writes and its earliest completion. -/
def Core.setVar (c : Core) (id : Nat) (wr : List Wr) (ready : Nat) : Core :=
  { c with iss := { c.iss with vpend := c.iss.vpend.map fun v => if v.id == id then { v with wr := wr, ready := some ready } else v } }

/-- An effect withheld in WB (R102). -/
def Core.withhold (c : Core) (e : Effect) : Core := { c with wb := c.wb ++ [e] }
/-- The acting core withholds an effect. -/
def State.withhold (s : State) (e : Effect) : State := s.modMe fun c => c.withhold e

end Sys2Proof.Machine
end

