-- ==== Sys2Proof/Machine/Operands.lean ====
section
/-! DEFINITION. Operand forms: immediates, the addresses of every memory format, scratchpad rows and lanes, the checks that an access meets at issue, and the pieces in which stores perform (R60, R160 to R169, R278, R279). -/
namespace Sys2Proof.Machine

/-! ### Immediates and addresses -/

/-- An immediate sign-extended to a scalar's width (R60). -/
def imm64 {n : Nat} (x : BitVec n) : W64 := x.signExtend 64
/-- An immediate sign-extended to an address's width (R60). -/
def imm72 {n : Nat} (x : BitVec n) : W72 := x.signExtend 72

/-- The address of format MA (R160). -/
def Regs.eaMA (r : Regs) (f : MA) : W72 := r.ra f.a.toNat + imm72 f.off
/-- The address of format MX (R160). -/
def Regs.eaMX (r : Regs) (f : MX) : W72 := r.ra f.a.toNat + ((r.rs f.s.toNat).setWidth 72 <<< f.sc.toNat)
/-- The address of format MT (R160). -/
def Regs.eaMT (r : Regs) (f : MT) : W72 := r.ra f.a.toNat + imm72 f.off
/-- The address of format YM: off12 counts 128-byte lines (R278). -/
def Regs.eaYM (r : Regs) (f : YM) : W72 := r.ra f.a.toNat + imm72 f.off * 128
/-- The scratchpad offset of format MP, exact (R160). -/
def Regs.scrMP (r : Regs) (f : MP) : Nat := (r.rb f.b.toNat).toNat + f.off.toNat
/-- The base of format MG, exact (R160). -/
def Regs.scrMG (r : Regs) (f : MG) : Nat := (r.rb f.b.toNat).toNat + f.off.toNat

/-! ### Scratchpad rows and lanes -/

/-- Row bytes R of a load or store shape (R166). -/
def rowBytes (h : BitVec 128) : Nat :=
  let l := fieldOf 1 0 h
  if 2 ≤ l ∧ l ≤ 9 then 2 ^ l else 512
/-- The stride of a load or store shape (R166). -/
def rowStride (h : BitVec 128) : Nat := fieldOf 1 1 h
/-- The rows of a strided access from `x` on: (offset, bytes); with R = 512 the stride is unused (R169). -/
def stridedRows (x : Nat) (h : BitVec 128) : List (Nat × Nat) :=
  let r := rowBytes h
  (List.range (512 / r)).map fun i => (x + i * rowStride h, r)

/-- Bytes of a gather or scatter lane (R166). -/
def laneBytes (h : BitVec 128) : Nat := if fieldOf 1 2 h = 1 then 8 else 4
/-- The address of lane `i` (R160, R169). -/
def laneAddr (base : Nat) (h : BitVec 128) (vi : Vec) (i : Nat) : Nat :=
  base + (vi.extractLsb' (32 * i) 32).toNat * 2 ^ fieldOf 1 3 h
/-- The lanes that the shape's predicate leaves active: (lane, address) (R167). -/
def activeLanes (r : Regs) (h : BitVec 128) (base : Nat) (vi : Vec) : List (Nat × Nat) :=
  let p := r.rp (fieldOf 1 4 h)
  let w := laneBytes h
  (List.range (512 / w)).filterMap fun i => if p.getLsbD (w * i) then some (i, laneAddr base h vi i) else none
/-- A lane address is out of range (R167). -/
def laneOut (size w x : Nat) : Bool := x % w != 0 || size < x + w

/-- The bytes of a vector register. -/
def vecBytes (v : Vec) : List Byte := leList 512 v.toNat
/-- A vector register from its bytes. -/
def vecOf (bs : List Byte) : Vec := BitVec.ofNat 4096 (leVal bs)
/-- Every byte lane on. -/
def allLanes : Vec := BitVec.allOnes 4096
/-- Byte lanes `w × i` to `w × i + w − 1` of each listed lane on. -/
def lanesMask (w : Nat) (ls : List Nat) : Vec :=
  ls.foldl (fun m i => m ||| ((BitVec.ofNat 4096 (2 ^ (8 * w) - 1)) <<< (8 * w * i))) 0

/-! ### Watermarks (R263, R264) -/

/-- A prefix end carried on over what was written beyond it. -/
def extendReach (r : Nat) (l : List (Nat × Nat)) : Nat → Nat
  | 0 => r
  | fuel + 1 => match l.find? fun x => x.1 ≤ r && r < x.2 with
    | some x => extendReach x.2 l fuel
    | none => r
/-- A piece written into the scratchpad extends the written prefix (R263). -/
def Watermark.wrote (w : Watermark) (x n : Nat) : Watermark :=
  match w.reach with
  | none => w
  | some r =>
    let l := w.beyond ++ [(x, x + n)]
    let r := min (extendReach r l (l.length + 1)) (w.base + w.len)
    { w with reach := some r, beyond := l.filter fun y => r < y.2 }
/-- The first byte of an access that waits for a watermark (R264). -/
def Watermark.waits (w : Watermark) (x n : Nat) : Option Nat :=
  let lo := max x (w.reach.getD w.base)
  if lo < min (x + n) (w.base + w.len) then some lo else none
/-- The channel for which an access of the scratchpad waits, with its first waiting byte and its end (R264). -/
def Core.wmWaits (k : Core) (x n : Nat) : Option (Nat × Nat × Nat) :=
  (List.range 16).findSome? fun i => match (k.chan i).wm with
    | some w => (w.waits x n).map fun b => (i, b, x + n)
    | none => none

/-! ### Checks at issue -/

/-- The alignment fault of a slot (R161, code 0x06). -/
def alignFault (slot : Nat) (va : W72) (n : Nat) : Option Cause := if va.toNat % n = 0 then none else some ⟨0x06, slot, 0, 0, va⟩

/-- The checks of a device-memory access, in the order of R162. -/
def State.memFault (s : State) (slot align : Nat) (kind : Acc) (va : W72) (n : Nat) : Option Cause :=
  match alignFault slot va align with
  | some c => some c
  | none => match s.xlate kind va n with
    | .error f => some (f.cause slot)
    | .ok _ => none

/-- The pages of an access that passes its checks. -/
def State.segs (s : State) (kind : Acc) (va : W72) (n : Nat) : List Seg :=
  match s.xlate kind va n with
  | .error _ => []
  | .ok l => l

/-- The target of a release or acquire lies in bytes 0 to 63 of its line (R114, R171, R172). -/
def beaconFault (slot : Nat) (va : W72) : Option Cause := if va.toNat % 128 < 64 then none else some ⟨0x06, slot, 0, 0, va⟩

/-- The first of two optional causes. -/
def orCause (a b : Option Cause) : Option Cause := match a with | some c => some c | none => b

/-- A scratchpad offset as a fault's address. -/
def offAddr (x : Nat) : W72 := BitVec.ofNat 72 x

/-- The checks of scratchpad rows: alignment first, then the task's size (R162). -/
def scrFault (slot size align : Nat) (stride : Nat) (rows : List (Nat × Nat)) : Option Cause :=
  match rows with
  | [] => none
  | (x, _) :: _ =>
    if x % align != 0 || stride % align != 0 then some ⟨0x06, slot, 0, 0, offAddr x⟩
    else match rows.find? fun (y, n) => size < y + n with
      | some (y, _) => some ⟨0x09, slot, 0, 0, offAddr y⟩
      | none => none

/-- The check of gather and scatter lanes: with trap = 1 an out-of-range active lane raises the scratchpad-range fault (R167). -/
def laneFault (slot size : Nat) (h : BitVec 128) (ls : List (Nat × Nat)) : Option Cause :=
  if fieldOf 1 5 h = 1 then
    match ls.find? fun (_, x) => laneOut size (laneBytes h) x with
    | some (_, x) => some ⟨0x09, slot, 0, 0, offAddr x⟩
    | none => none
  else none

/-- The privilege trap of a slot whose operation needs supervisor privilege (R299). -/
def State.supFault (s : State) (slot : Nat) : Option Cause := if s.me.sup then none else some (cause0 0x03 slot)

/-- An operation whose check may raise a precise trap: the trap is taken and nothing else happens, or the operation has its effect (R57, R72, R309). -/
def State.checked (s : State) (c : Option Cause) (t : State) : Res :=
  match c with
  | some x => .next (s.precise x)
  | none => .next t

/-! ### Pieces -/

/-- A run of bytes at a physical address cut at 64-byte blocks. -/
def cutBlocks (untr : Bool) : Nat → Nat → List Byte → List Piece
  | 0, _, _ => []
  | fuel + 1, pa, bs =>
    if bs.isEmpty then []
    else
      let n := min bs.length (64 - pa % 64)
      ⟨pa, bs.take n, untr⟩ :: cutBlocks untr fuel (pa + n) (bs.drop n)

/-- The pieces of a store, page by page (R102, R108). -/
def piecesOf : List Seg → List Byte → List Piece
  | [], _ => []
  | g :: t, bs => cutBlocks g.untr (g.n + 1) g.pa (bs.take g.n) ++ piecesOf t (bs.drop g.n)

/-- The bytes of a run of scratchpad rows put at their offsets, in row order: a later byte stands (R169). -/
def rowCells : List (Nat × Nat) → List Byte → List (Nat × Byte)
  | [], _ => []
  | (x, n) :: t, bs => (List.range n).zip (bs.take n) |>.map (fun (i, b) => (x + i, b)) |> (· ++ rowCells t (bs.drop n))

/-! ### Loads -/

/-- Core `c` serves a byte itself: from its unperformed stores `own` or its L1 (R103). -/
def State.servesByte (s : State) (own : List (Nat × Byte)) (c a : Nat) : Bool :=
  (((s.core c).line (a / 128)).sec (a / 64)).has (a % 64) || (lastCell own a).isSome
/-- The unloaded time of a load's slowest line: 12 cycles where the core serves every byte of a block that the load reads (R174). R174 names no time for bytes that the core's own withheld stores serve, which take the L1's (log entry 108). -/
def State.loadTime (s : State) (c : Nat) (segs : List Seg) : Nat :=
  let own := s.ownCells c
  segs.foldl (fun t g =>
    (List.range ((g.pa + g.n - 1) / 64 + 1 - g.pa / 64)).foldl (fun t i =>
      let blk := g.pa / 64 + i
      let lo := max g.pa (64 * blk)
      let hi := min (g.pa + g.n) (64 * blk + 64)
      max t (if (List.range (hi - lo)).all fun j => s.servesByte own c (lo + j) then 12 else s.homeLatency (clusterOf c) blk)) t) 12
/-- The unloaded time of an acquire's read: 12 cycles where the reader's own L1 is the authoritative copy, else the home's (R100, R174). -/
def State.acquireTime (s : State) (c ln : Nat) : Nat := if s.mem.owner.get none ln == some c then 12 else s.homeLatency (clusterOf c) (2 * ln)

/-- The bytes of an access, and whether a byte of it is poisoned (R103, R164). -/
def State.loadSegs (s : State) (c ev : Nat) (segs : List Seg) : List Byte × Bool × State :=
  segs.foldl (fun (bs, p, s) g =>
    let (b, q, s) := s.readPhys c g.pa g.n ev
    (bs ++ b, p || q.isSome, s)) ([], false, s)

/-- The pages of an access enter the core's TLB (R324). -/
def State.useTlb (s : State) (va : W72) (n : Nat) : State := s.tlbFill s.cur false s.me.ctx va n (pageFuel n)

/-- A load of the acting core whose checks have passed: at a scope wider than a cluster it first recalls ownership; it reads at issue and its result is pending (R102, R103, R110, R163, R174). -/
def State.load (s : State) (slot scope : Nat) (va : W72) (n ev : Nat) (reg : RegName) (wr : List Byte → List Wr) : State :=
  let segs := s.segs .read va n
  let s := (s.useTlb va n).scopeRecall scope (segs.flatMap Seg.lines)
  let t := s.loadTime s.cur segs
  let (bs, p, s) := s.loadSegs s.cur ev segs
  s.modMe fun c => (c.addVar .load [reg] (wr bs) (some (s.cycle + t)) false (if p then some (slot, va) else none)).2

/-- An acquire load of the acting core (R118, R171, R287): read, wake and absorption in one action; it holds later memory operations until it completes (R106). -/
def State.loadAcq (s : State) (slot scope : Nat) (va : W72) (n ev : Nat) (reg : RegName) (wr : List Byte → List Wr) (all keep : Bool) : State :=
  match s.segs .read va n with
  | [] => s
  | g :: _ =>
    let s := s.useTlb va n
    let s := s.scopeRecall scope [g.pa / 128]
    let t := s.acquireTime s.cur (g.pa / 128)
    let (bs, w, p, s) := s.acquireRead g.pa n scope ev keep
    let s := if all then
        (s.flushAll s.cur).modMe fun c => { c with eng := c.eng.invalidate fun _ => true }
      else s
    let s := s.acquired s.cur scope w
    s.modMe fun c => (c.addVar .load [reg] (wr bs) (some (s.cycle + t)) true (if p then some (slot, va) else none)).2

/-! ### Stores -/

/-- The bytes of a store withheld in WB (R102, R163). -/
def State.store (s : State) (va : W72) (bs : List Byte) (ev scope : Nat) : State :=
  let ps := piecesOf (s.segs .write va bs.length) bs
  (s.useTlb va bs.length).withhold (.store ps ev scope)

/-- A store-release withheld in WB (R172). -/
def State.storeRel (s : State) (scope : Nat) (va : W72) (bs : List Byte) (ev : Nat) : State :=
  match piecesOf (s.segs .write va bs.length) bs with
  | [] => s
  | p :: _ => (s.useTlb va bs.length).withhold (.storeRel scope ev p)

end Sys2Proof.Machine
end

