-- ==== Sys2Proof/Machine/Flags.lean ====
section
/-! DEFINITION. Conditions and the bits that hold them: guard results of the scalar compares, lane activity under a governing predicate, predicate results, and lane classes (R132, R133, R144, R145, R153, R154). -/
namespace Sys2Proof.Machine

/-! ### Scalar conditions -/

/-- a < b as signed (R132). -/
def ltI (a b : W64) : Bool := a.slt b
/-- a < b as unsigned (R132). -/
def ltN (a b : W64) : Bool := a.ult b
/-- a ≤ b as signed (R132). -/
def leI (a b : W64) : Bool := a.sle b
/-- a ≤ b as unsigned (R132). -/
def leN (a b : W64) : Bool := a.ule b

/-- All guards as a scalar: bit i is g[i], bit 0 is 1 (R133). -/
def Regs.guardBits (r : Regs) : W64 :=
  BitVec.ofNat 64 ((List.range 16).foldl (fun a i => if r.rg i then a + 2 ^ i else a) 0)
/-- The writes of g1 to g15 from a scalar (R133). -/
def guardWrites (v : W64) : List Wr := (List.range 15).map fun i => .g (i + 1) (v.getLsbD (i + 1))

/-! ### Lanes -/

/-- Lanes of width `w` in a vector register (R144). -/
def laneCount (w : Nat) : Nat := 4096 / w
/-- Lane `i` of width `w` (R144). -/
def lane (w : Nat) (v : Vec) (i : Nat) : Nat := (v >>> (w * i)).toNat % 2 ^ w
/-- The lanes of a register, lane 0 first. -/
def lanes (w : Nat) (v : Vec) : List Nat := (List.range (laneCount w)).map (lane w v)
/-- Lanes put together, lane 0 lowest. -/
def packLanes (w : Nat) : List Nat → Nat
  | [] => 0
  | x :: t => x % 2 ^ w + 2 ^ w * packLanes w t
/-- A register from its lanes. -/
def vecLanes (w : Nat) (l : List Nat) : Vec := BitVec.ofNat 4096 (packLanes w l)

/-- Lane `i` of width `w` is active under a predicate (R145). -/
def laneOn (p : Pred) (w i : Nat) : Bool := p.getLsbD (w * i / 8)
/-- The register bits of the active lanes (R145). -/
def govMask (p : Pred) (w : Nat) : Vec :=
  if p = BitVec.allOnes 512 then BitVec.allOnes 4096
  else vecLanes w ((List.range (laneCount w)).map fun i => if laneOn p w i then 2 ^ w - 1 else 0)

/-- A predicate result: all bits that cover an active lane take its condition, inactive lanes 0 (R145, R153). -/
def predResult (p : Pred) (w : Nat) (c : Nat → Bool) : Pred :=
  BitVec.ofNat 512 (packLanes (w / 8) ((List.range (laneCount w)).map fun i => if laneOn p w i && c i then 2 ^ (w / 8) - 1 else 0))

/-- Bits 2^k·i of a predicate that are set (R154). -/
def predCount (p : Pred) (k : Nat) : Nat := ((List.range (512 / 2 ^ k)).filter fun i => p.getLsbD (2 ^ k * i)).length

/-! ### Lane conditions -/

/-- The value of a lane (R150, R153). -/
def laneVal (t x : Nat) : Val := rawValue (Fmt.ofType t) x

/-- The class bit of a floating value (R153): its position in the mask of `vclass`. -/
def classBit (t x : Nat) : Nat :=
  match laneVal t x with
  | .nan => 8
  | .inf s => if s then 0 else 7
  | .fin s m e =>
    if m = 0 then (if s then 3 else 4)
    else
      let sub := decide (finLog m e < 1 - ((Fmt.ofType t).bias : Int))
      if s then (if sub then 2 else 1) else (if sub then 5 else 6)

end Sys2Proof.Machine
end

