-- ==== Sys2Proof/Machine/Memory.lean ====
section
/-! DEFINITION. The memory class: loads and stores of the scratchpad and of device memory, gathers and scatters, descriptors, cache operations and atomics, with the transitions that atomics take at the head of RQ (R160 to R181). -/
namespace Sys2Proof.Machine

/-! ### Global loads (R170, R171) -/

/-- Sign-extended bytes of a load (R170). -/
def sextBytes (n : Nat) (bs : List Byte) : W64 := (BitVec.ofNat (8 * n) (leVal bs)).signExtend 64
/-- Zero-extended bytes of a load (R170). -/
def zextBytes (bs : List Byte) : W64 := BitVec.ofNat 64 (leVal bs)
/-- The address in 16 bytes; bits 127:72 are ignored (R170). -/
def addrBytes (bs : List Byte) : W72 := BitVec.ofNat 72 (leVal bs)

/-- A scalar load of format MA (R161, R162, R170). -/
def State.ldMA (s : State) (f : MA) (n : Nat) (val : List Byte → W64) : Res :=
  let va := s.me.regs.eaMA f
  s.checked (s.memFault 4 n .read va n) (s.load 4 f.scope.toNat va n f.ev.toNat (.s f.data.toNat) fun bs => [.s f.data.toNat (val bs)])

/-- `ld.i8` (R170). -/
def execLdI8 (f : MA) (s : State) : Res := s.ldMA f 1 (sextBytes 1)
/-- `ld.i16` (R170). -/
def execLdI16 (f : MA) (s : State) : Res := s.ldMA f 2 (sextBytes 2)
/-- `ld.i32` (R170). -/
def execLdI32 (f : MA) (s : State) : Res := s.ldMA f 4 (sextBytes 4)
/-- `ld.n8` (R170). -/
def execLdN8 (f : MA) (s : State) : Res := s.ldMA f 1 zextBytes
/-- `ld.n16` (R170). -/
def execLdN16 (f : MA) (s : State) : Res := s.ldMA f 2 zextBytes
/-- `ld.n32` (R170). -/
def execLdN32 (f : MA) (s : State) : Res := s.ldMA f 4 zextBytes
/-- `ld.n64` (R170). -/
def execLdN64 (f : MA) (s : State) : Res := s.ldMA f 8 zextBytes
/-- `lda` (R170). -/
def execLda (f : MA) (s : State) : Res :=
  let va := s.me.regs.eaMA f
  s.checked (s.memFault 4 16 .read va 16) (s.load 4 f.scope.toNat va 16 f.ev.toNat (.a f.data.toNat) fun bs => [.a f.data.toNat (addrBytes bs)])

/-- The bytes of an acquire load (R170). -/
def ldSize : LdKind → Nat
  | .i8 | .n8 => 1 | .i16 | .n16 => 2 | .i32 | .n32 => 4 | .n64 => 8 | .a => 16
/-- Its destination (R170). -/
def ldReg (k : LdKind) (d : Nat) : RegName := match k with | .a => .a d | _ => .s d
/-- The write it makes (R170). -/
def ldWr (k : LdKind) (d : Nat) (bs : List Byte) : List Wr :=
  match k with
  | .i8 | .i16 | .i32 => [.s d (sextBytes (ldSize k) bs)]
  | .n8 | .n16 | .n32 | .n64 => [.s d (zextBytes bs)]
  | .a => [.a d (addrBytes bs)]

/-- A load with ord acq (R171): its target lies in bytes 0 to 63 of the line. -/
def execLdAcq (k : LdKind) (f : MA) (s : State) : Res :=
  let va := s.me.regs.eaMA f
  let d := f.data.toNat
  s.checked (orCause (alignFault 4 va (ldSize k)) (orCause (beaconFault 4 va) (s.memFault 4 (ldSize k) .read va (ldSize k))))
    (s.loadAcq 4 f.scope.toNat va (ldSize k) f.ev.toNat (ldReg k d) (ldWr k d) false true)

/-- A vector load from `va` (R161, R170). -/
def State.vecLoad (s : State) (va : W72) (d ev scope : Nat) : Res :=
  s.checked (s.memFault 4 64 .read va 512) (s.load 4 scope va 512 ev (.v d) fun bs => [.v d allLanes (vecOf bs)])
/-- `vld` (R170). -/
def execVld (f : MA) (s : State) : Res := s.vecLoad (s.me.regs.eaMA f) f.data.toNat f.ev.toNat f.scope.toNat
/-- `vldx` (R170). -/
def execVldx (f : MX) (s : State) : Res := s.vecLoad (s.me.regs.eaMX f) f.data.toNat f.ev.toNat f.scope.toNat

/-! ### Global stores (R170, R172) -/

/-- A scalar store of format MA (R161, R162, R170). -/
def State.stMA (s : State) (f : MA) (n : Nat) : Res :=
  let va := s.me.regs.eaMA f
  s.checked (s.memFault 5 n .write va n) (s.store va (leList n (s.me.regs.rs f.data.toNat).toNat) f.ev.toNat f.scope.toNat)

/-- `st.n8` (R170). -/
def execStN8 (f : MA) (s : State) : Res := s.stMA f 1
/-- `st.n16` (R170). -/
def execStN16 (f : MA) (s : State) : Res := s.stMA f 2
/-- `st.n32` (R170). -/
def execStN32 (f : MA) (s : State) : Res := s.stMA f 4
/-- `st.n64` (R170). -/
def execStN64 (f : MA) (s : State) : Res := s.stMA f 8
/-- `sta` (R170). -/
def execSta (f : MA) (s : State) : Res :=
  let va := s.me.regs.eaMA f
  s.checked (s.memFault 5 16 .write va 16) (s.store va (leList 16 (s.me.regs.ra f.data.toNat).toNat) f.ev.toNat f.scope.toNat)

/-- The bytes that a store-release stores (R170, R172). -/
def stBytes (k : StKind) (r : Regs) (d : Nat) : List Byte :=
  match k with
  | .n8 => leList 1 (r.rs d).toNat | .n16 => leList 2 (r.rs d).toNat | .n32 => leList 4 (r.rs d).toNat | .n64 => leList 8 (r.rs d).toNat
  | .a => leList 16 (r.ra d).toNat
/-- Their number. -/
def stSize : StKind → Nat
  | .n8 => 1 | .n16 => 2 | .n32 => 4 | .n64 => 8 | .a => 16
/-- A store with ord rel (R172): its target lies in bytes 0 to 63 of the line. -/
def execStRel (k : StKind) (f : MA) (s : State) : Res :=
  let va := s.me.regs.eaMA f
  s.checked (orCause (alignFault 5 va (stSize k)) (orCause (beaconFault 5 va) (s.memFault 5 (stSize k) .write va (stSize k))))
    (s.storeRel f.scope.toNat va (stBytes k s.me.regs f.data.toNat) f.ev.toNat)

/-- A vector store to `va` (R161, R170). -/
def State.vecStore (s : State) (va : W72) (r ev scope : Nat) : Res :=
  s.checked (s.memFault 5 64 .write va 512) (s.store va (vecBytes (s.me.vec.get 0 r)) ev scope)
/-- `vst` (R170). -/
def execVst (f : MA) (s : State) : Res := s.vecStore (s.me.regs.eaMA f) f.data.toNat f.ev.toNat f.scope.toNat
/-- `vstx` (R170). -/
def execVstx (f : MX) (s : State) : Res := s.vecStore (s.me.regs.eaMX f) f.data.toNat f.ev.toNat f.scope.toNat

/-! ### Scratchpad (R162, R165 to R169) -/

/-- The active load or store shape that an operation names (R166). -/
def State.lhOf (s : State) (hs : BitVec 2) : BitVec 128 := s.me.regs.shape 1 hs.toNat
def State.shOf (s : State) (hs : BitVec 2) : BitVec 128 := s.me.regs.shape 2 hs.toNat

/-- The check of scratchpad rows for the running task (R162). -/
def State.rowFault (s : State) (slot align stride : Nat) (rows : List (Nat × Nat)) : Option Cause :=
  scrFault slot s.me.scratchSize align stride rows
/-- The stride that counts: unused with R = 512 (R169). -/
def strideUsed (h : BitVec 128) : Nat := if rowBytes h = 512 then 0 else rowStride h

/-- Rows read into a vector register with latency 6 (R76, R169). -/
def State.rowLoad (s : State) (d : Nat) (rows : List (Nat × Nat)) : State :=
  s.emit 6 (.v d allLanes (vecOf (rows.flatMap fun (x, n) => s.me.scrRead x n)))

/-- `svld` (R169). -/
def execSvld (f : MP) (s : State) : Res :=
  let rows := [(s.me.regs.scrMP f, 512)]
  s.checked (s.rowFault 4 4 0 rows) (s.rowLoad f.data.toNat rows)
/-- `svlds` (R169). -/
def execSvlds (f : MP) (s : State) : Res :=
  let h := s.lhOf f.hs
  let rows := stridedRows (s.me.regs.scrMP f) h
  s.checked (s.rowFault 4 4 (strideUsed h) rows) (s.rowLoad f.data.toNat rows)
/-- `sld` (R169). -/
def execSld (f : MP) (s : State) : Res :=
  let x := s.me.regs.scrMP f
  s.checked (s.rowFault 4 8 0 [(x, 8)]) (s.emit 6 (.s f.data.toNat (zextBytes (s.me.scrRead x 8))))
/-- `svst` (R169). -/
def execSvst (f : MP) (s : State) : Res :=
  let rows := [(s.me.regs.scrMP f, 512)]
  s.checked (s.rowFault 5 4 0 rows) (s.withhold (.scratch (rowCells rows (vecBytes (s.me.vec.get 0 f.data.toNat)))))
/-- `svsts` (R169). -/
def execSvsts (f : MP) (s : State) : Res :=
  let h := s.shOf f.hs
  let rows := stridedRows (s.me.regs.scrMP f) h
  s.checked (s.rowFault 5 4 (strideUsed h) rows) (s.withhold (.scratch (rowCells rows (vecBytes (s.me.vec.get 0 f.data.toNat)))))
/-- `sst` (R169). -/
def execSst (f : MP) (s : State) : Res :=
  let x := s.me.regs.scrMP f
  s.checked (s.rowFault 5 8 0 [(x, 8)]) (s.withhold (.scratch (rowCells [(x, 8)] (leList 8 (s.me.regs.rs f.data.toNat).toNat))))

/-- Out-of-range lanes are recorded in vfm (R167). -/
def State.noteLanes (s : State) (ls : List Nat) : State :=
  s.modMe fun c => { c with regs := { c.regs with vfm := ls.foldl (fun m i => m ||| (1#128 <<< i)) c.regs.vfm } }

/-- The active lanes of format MG with the running shape. -/
def State.lanesMG (s : State) (f : MG) (h : BitVec 128) : List (Nat × Nat) :=
  activeLanes s.me.regs h (s.me.regs.scrMG f) (s.me.vec.get 0 f.vi.toNat)

/-- `svgth` (R167, R169): an out-of-range lane reads as zero. -/
def execSvgth (f : MG) (s : State) : Res :=
  let h := s.lhOf f.hs
  let w := laneBytes h
  let ls := s.lanesMG f h
  let out := laneOut s.me.scratchSize w
  let v := ls.foldl (fun n (i, x) => if out x then n else n + leVal (s.me.scrRead x w) * 2 ^ (8 * w * i)) 0
  s.checked (laneFault 4 s.me.scratchSize h ls)
    ((s.noteLanes ((ls.filter fun (_, x) => out x).map (·.1))).emit 6 (.v f.data.toNat (lanesMask w (ls.map (·.1))) (BitVec.ofNat 4096 v)))
/-- `svsct` (R167, R169): an out-of-range lane writes nothing. -/
def execSvsct (f : MG) (s : State) : Res :=
  let h := s.shOf f.hs
  let w := laneBytes h
  let ls := s.lanesMG f h
  let out := laneOut s.me.scratchSize w
  let v := s.me.vec.get 0 f.data.toNat
  let cells := ls.flatMap fun (i, x) => if out x then [] else rowCells [(x, w)] (leList w (lane (8 * w) v i))
  s.checked (laneFault 5 s.me.scratchSize h ls)
    ((s.noteLanes ((ls.filter fun (_, x) => out x).map (·.1))).withhold (.scratch cells))

/-! ### Descriptors and cache operations (R175, R178) -/

/-- The physical address of a one-byte access that passed its checks. -/
def State.paOf (s : State) (kind : Acc) (va : W72) : Nat := match s.segs kind va 1 with | g :: _ => g.pa | [] => 0
/-- Whether its page is untracked (R115). -/
def State.untrOf (s : State) (kind : Acc) (va : W72) : Bool := match s.segs kind va 1 with | g :: _ => g.untr | [] => false

/-- The descriptor of the youngest `sdesc` of core `c` on a block that has not performed (R88, R175). -/
def Core.ownDesc (k : Core) (blk : Nat) : Option (BitVec 32) :=
  (k.rq ++ k.wb).foldl (fun r e => match e with | .sdesc pa d _ _ => if pa / 64 = blk && !isRemote pa then some d else r | _ => r) none
/-- The time of a descriptor load: 12 cycles where the core serves the descriptor itself, else the home's (R78, R174). R174 names no time for a withheld `sdesc`, which answers as the L1 does (log entry 108). -/
def State.descTime (s : State) (c blk : Nat) : Nat :=
  let x := ((s.core c).line (blk / 2)).sec blk
  if ((s.core c).ownDesc blk).isSome || x.valid || x.descNew then 12 else s.homeLatency (clusterOf c) blk
/-- A block's descriptor as core `c` reads it: the youngest `sdesc` still withheld, the L1 sector, a Fill, or the authoritative copy (R88, R175). -/
def State.readDesc (s : State) (c blk ev : Nat) : BitVec 32 × State :=
  let k := s.core c
  match k.ownDesc blk with
  | some d => (d, s)
  | none =>
    let x := (k.line (blk / 2)).sec blk
    let ev := s.evAt blk ev
    if x.valid || x.descNew then (x.desc, s.touchL1 c (blk / 2) ev true)
    else if ev = 4 || ev = 5 then
      let (b, s) := s.readHome c blk 3 (ev == 4)
      (b.desc, s)
    else
      let s := (s.fillSector c (blk / 2) blk ev).touchL1 c (blk / 2) ev true
      ((((s.core c).line (blk / 2)).sec blk).desc, s)

/-- `ldesc` (R175). -/
def execLdesc (f : MA) (s : State) : Res :=
  let va := s.me.regs.eaMA f
  let segs := s.segs .read va 1
  let s0 := (s.useTlb va 1).scopeRecall f.scope.toNat (segs.flatMap Seg.lines)
  let t := s0.descTime s.cur (s.paOf .read va / 64)
  let (d, s') := s0.readDesc s.cur (s.paOf .read va / 64) f.ev.toNat
  s.checked (s.memFault 4 1 .read va 1)
    (s'.modMe fun c => (c.addVar .load [.s f.data.toNat] [.s f.data.toNat (d.setWidth 64)] (some (s.cycle + t)) false none).2)
/-- `sdesc` (R175). -/
def execSdesc (f : MA) (s : State) : Res :=
  let va := s.me.regs.eaMA f
  s.checked (s.memFault 5 1 .write va 1)
    ((s.useTlb va 1).withhold (.sdesc (s.paOf .write va) ((s.me.regs.rs f.data.toNat).setWidth 32) (s.untrOf .write va) f.scope.toNat))

/-- A sector brought in as a load with this ev would (R173, R178). -/
def State.prefSector (s : State) (c ln i ev : Nat) (again : Bool := false) : State :=
  let ev := s.evAt (2 * ln + i) ev
  if (((s.core c).line ln).sec i).valid then s.touchL1 c ln ev false
  else if ev = 5 then s
  else if ev = 4 then (s.readHome c (2 * ln + i) 3 true again).2
  else s.fillSector c ln i ev again
/-- `pref` (R162, R178): never faults. -/
def execPref (f : MA) (s : State) : Res :=
  let va := s.me.regs.eaMA f
  match s.memFault 4 1 .read va 1 with
  | some _ => .next s
  | none =>
    let ln := s.paOf .read va / 128
    let s := (s.useTlb va 1).scopeRecall f.scope.toNat [ln]
    let sent := f.ev != 5 && s.forwards [] s.cur (2 * ln) (List.range 64)
    .next ((s.prefSector s.cur ln 0 f.ev.toNat).prefSector s.cur ln 1 f.ev.toNat sent)

/-- The line discarded: one held with ownership is written back and returned first (R178). -/
def State.discardLine (s : State) (c ln : Nat) : State :=
  if s.mem.owner.get none ln == some c then s.flushLine c ln else s.modCore c fun k => k.setLine ln {}

/-- `cinv` (R178). -/
def execCinv (f : MA) (s : State) : Res :=
  let va := s.me.regs.eaMA f
  let ln := s.paOf .read va / 128
  let t := ((s.useTlb va 1).scopeRecall f.scope.toNat [ln]).discardLine s.cur ln
  s.checked (s.memFault 4 1 .read va 1) (if 2 ≤ f.scope.toNat then t.dropHome s.cur ln else t)
/-- `cflush` (R178). -/
def execCflush (f : MA) (s : State) : Res :=
  let va := s.me.regs.eaMA f
  let ln := s.paOf .write va / 128
  let t := ((s.useTlb va 1).scopeRecall f.scope.toNat [ln]).flushLine s.cur ln
  s.checked (s.memFault 4 1 .write va 1) (if 2 ≤ f.scope.toNat then t.dropHome s.cur ln else t)
/-- `cwb` (R178): it acts at the head of RQ. -/
def execCwb (f : MA) (s : State) : Res :=
  let va := s.me.regs.eaMA f
  s.checked (s.memFault 5 1 .write va 1) ((s.useTlb va 1).withhold (.cwb (s.paOf .write va) f.scope.toNat))

/-! ### Atomics (R176, R177) -/

/-- The value an atomic writes, none for a `cas` that fails (R176). -/
def AtomOp.new (o : AtomOp) (old x y : W64) : Option W64 :=
  match o with
  | .add => some (old + x)
  | .and => some (old &&& x)
  | .or => some (old ||| x)
  | .xor => some (old ^^^ x)
  | .minI => some (if ltI x old then x else old)
  | .maxI => some (if ltI old x then x else old)
  | .minN => some (if ltN x old then x else old)
  | .maxN => some (if ltN old x then x else old)
  | .swp => some x
  | .cas => if old = y then some x else none
  | .fadd => some ((roundF32 (Val.add 0 (f32 (old.setWidth 32)) (f32 (x.setWidth 32))) 0).setWidth 64)

/-- The bytes of an atomic's target (R161). -/
def AtomOp.size : AtomOp → Nat
  | .fadd => 4 | _ => 8

/-- An atomic issued: it is withheld, and its destination is pending (R102, R163, R177). With acq or ar it holds later memory operations (R106). -/
def State.atomic (s : State) (f : MT) (o : AtomOp) : Res :=
  let va := s.me.regs.eaMT f
  let n := o.size
  let r := s.me.regs
  let fault := orCause (alignFault 5 va n) (orCause (if f.ord = 0 then none else beaconFault 5 va) (s.memFault 5 n .write va n))
  let d := f.d.toNat
  let (id, c) := s.me.addVar .atomic [.s d] [] none (f.ord = 1 || f.ord = 3) none
  let s' := s.setCore s.cur c
  let e : Effect := .atomic o f.ord.toNat f.scope.toNat f.ev.toNat ⟨s.paOf .write va, List.replicate n 0, s.untrOf .write va⟩ (r.rs f.x.toNat) (r.rs f.y.toNat) d id
  s.checked fault ((s'.useTlb va n).withhold e)

/-- `atm.add` (R176). -/
def execAtmAdd (f : MT) (s : State) : Res := s.atomic f .add
/-- `atm.and` (R176). -/
def execAtmAnd (f : MT) (s : State) : Res := s.atomic f .and
/-- `atm.or` (R176). -/
def execAtmOr (f : MT) (s : State) : Res := s.atomic f .or
/-- `atm.xor` (R176). -/
def execAtmXor (f : MT) (s : State) : Res := s.atomic f .xor
/-- `atm.minI` (R176). -/
def execAtmMinI64 (f : MT) (s : State) : Res := s.atomic f .minI
/-- `atm.maxI` (R176). -/
def execAtmMaxI64 (f : MT) (s : State) : Res := s.atomic f .maxI
/-- `atm.minN` (R176). -/
def execAtmMinN64 (f : MT) (s : State) : Res := s.atomic f .minN
/-- `atm.maxN` (R176). -/
def execAtmMaxN64 (f : MT) (s : State) : Res := s.atomic f .maxN
/-- `atm.swp` (R176). -/
def execAtmSwp (f : MT) (s : State) : Res := s.atomic f .swp
/-- `atm.cas` (R176). -/
def execAtmCas (f : MT) (s : State) : Res := s.atomic f .cas
/-- `atm.fadd` (R176). -/
def execAtmFaddF32 (f : MT) (s : State) : Res := s.atomic f .fadd

/-- The line as an L1 takes it into ownership: every byte of the authoritative copy, under its own dirty bytes and those of the previous owner (R109). -/
def ownedSector (own prev : Sector) (b : Block) : Sector :=
  let d := own.dirty ||| prev.dirty
  { valid := true, dirty := d, data := mergeBlock own.dirty b.data own.data,
    desc := if own.descNew then own.desc else b.desc, descNew := own.descNew || prev.descNew,
    poison := own.poison || (b.poison && !own.whole), whole := own.whole || prev.whole }

/-- Core `c`'s L1 takes ownership of a line (R109, R110, R177): from none, from an L1 of its cluster with the line's data, or after a recall from elsewhere that counts as the same move. A full directory recalls its oldest entry first. The sectors that a host holds exclusively come back, as before a Fill (R331). The cycles that the request takes are returned: R177 gives none for a line that no L1 of the cluster owns, and the model takes 14 and the L2 latency (log entry 92). -/
def State.own (s : State) (c ln cls : Nat) : Nat × State :=
  let prev := s.mem.owner.get none ln
  if prev == some c then (14, s)
  else
    let cl := clusterOf c
    let dir := s.mem.dirs.get [] cl
    let s := if 2048 ≤ dir.length && !dir.contains ln then (match dir with | x :: _ => s.recall x | [] => s) else s
    let s := ((s.makeRoom c ln).snoopExcl (2 * ln)).snoopExcl (2 * ln + 1)
    let prev := s.mem.owner.get none ln
    let dir := (s.mem.dirs.get [] cl).filter fun x => x != ln
    let b0 := s.authBlock (2 * ln)
    let b1 := s.authBlock (2 * ln + 1)
    let (near, s) := match prev with
      | some o => if clusterOf o = cl then (true, s) else
          (false, let l := (s.core o).line ln
                  let s := if l.s0.isDirty then s.mergeSector o ln 0 else s
                  if l.s1.isDirty then s.mergeSector o ln 1 else s)
      | none => (false, s)
    let old : L1Line := match prev with | some o => if near then (s.core o).line ln else {} | none => {}
    let s := match prev with | some o => s.modCore o fun k => k.setLine ln {} | none => s
    let m := { s.mem with
      owner := s.mem.owner.put none ln (some c)
      dirs := Bank.put [] (dirDrop s.mem.dirs ln) cl (dir ++ [ln]) }
    let m := m.bump s.cycle ln
    let s := { s with mem := m }
    let s := s.modCore c fun k =>
      let l := k.line ln
      k.setLine ln { l with s0 := ownedSector l.s0 old.s0 b0, s1 := ownedSector l.s1 old.s1 b1, owned := true, ver := m.ver.get 0 ln, cls := cls, used := s.cycle, since := s.cycle }
    (if near then 54 else 14 + l2Latency cl ln, s)

/-- An atomic in core `c`'s L1 under ownership (R101, R176, R177). The table of R173 has no column for atomics: the line takes the class ev where that is below 4, else 3 (log entry 88). -/
def State.atomicL1 (s : State) (c : Nat) (o : AtomOp) (ev : Nat) (p : Piece) (x y : W64) : W64 × Bool × Nat × State :=
  let ln := p.pa / 128
  let (t, s) := s.own c ln (if ev < 4 then ev else 3)
  let q := ((s.core c).line ln).sec (p.pa / 64)
  let old := BitVec.ofNat 64 (leVal ((List.range o.size).map fun i => q.byte (p.pa % 64 + i)))
  let s := match o.new old x y with
    | some v =>
      let p' := { p with bytes := leList o.size v.toNat }
      ((s.dirtyL1 c p' (if ev < 4 then ev else 3) none false).storeTiles c p.pa o.size).sign c (p.pa / 64) p.untr
    | none => s
  (old, q.poison, t, s)

/-- An atomic at the home (R101, R109, R176): own dirty bytes of the line go first, ownership returns, then read and write in one action. With rel or ar its operation is part of its Publish (R116, R117); with acq or ar the wake read before it is absorbed (R118). A remote line whose port is down gives poison and a failure (R122, R326). The L2 takes the line at class 3, for which R173 names no class (log entry 88). -/
def State.atomicHome (s : State) (c : Nat) (o : AtomOp) (ord scope : Nat) (p : Piece) (x y : W64) : W64 × Bool × Nat × State :=
  let ln := p.pa / 128
  let s := (s.flushLine c ln).recall ln
  let t := s.homeLatency (clusterOf c) (p.pa / 64) + 8
  match s.deadWrite c ln with
  | some u => (0, true, t, u)
  | none =>
    let s := s.snoopBlock (p.pa / 64)
    let s := if ord = 1 || ord = 3 then s.snoopExcl (2 * ln + 1) else s
    let old := BitVec.ofNat 64 (leVal (s.mem.read p.pa o.size))
    let wake := s.mem.wake ln
    let bad := s.mem.poisoned (p.pa / 64)
    let new := o.new old x y
    let cells := match new with | some v => ({ p with bytes := leList o.size v.toNat } : Piece).cells | none => []
    let s := (s.meterRead c (p.pa / 64)).l2Take (some c) (p.pa / 64) 3 new.isSome
    let s := if new.isSome then s.storeTiles c p.pa o.size else s
    let s := if 2 ≤ ord then s.publish c ln scope false cells (if new.isSome && !p.untr then some (p.pa / 64) else none)
      else
        let s := (({ s with mem := (s.mem.writeCells cells).bump s.cycle ln } : State).l2Unpair (some c) ln).mirror p.pa (cells.map fun x => x.2)
        if new.isSome then s.sign c (p.pa / 64) p.untr else s
    let s := if ord = 1 || ord = 3 then s.acquired c scope wake else s
    (old, bad, t, s)

/-- The scope at which an atomic executes: pool at least on remote memory (R176). -/
def effScope (scope pa : Nat) : Nat := if isRemote pa && decide (scope < 4) then 4 else scope

/-- An atomic performs at the head of RQ, and its result is on its way (R176, R177). -/
def State.performAtomic (s : State) (c : Nat) (o : AtomOp) (ord scope ev : Nat) (p : Piece) (x y : W64) (d vid : Nat) : State :=
  let sc := effScope scope p.pa
  let (old, bad, t, s) :=
    if sc = 0 || (sc = 1 && ord = 0) then s.atomicL1 c o ev p x y
    else s.atomicHome c o ord sc p x y
  s.modCore c fun k =>
    let k := k.setVar vid [.s d old] (s.cycle + t)
    if bad then { k with iss := { k.iss with vpend := k.iss.vpend.map fun v => if v.id == vid then { v with poison := some (5, BitVec.ofNat 72 p.pa) } else v } } else k

end Sys2Proof.Machine
end

