-- ==== Sys2Proof/Machine/Index.lean ====
section
/-! DEFINITION. The index class: index arithmetic, compares and moves, index loads, cursor merges and 2:4 group expansion (R182 to R191). -/
namespace Sys2Proof.Machine

/-- An index result with latency 2 (R182). -/
def State.ixRes (s : State) (d : BitVec 4) (v : W64) : Res := .next (s.emit 2 (.ix d.toNat v))
/-- Format XR: ix[d] from ix[a] and ix[b] (R184). -/
def State.opXR (s : State) (f : XR) (g : W64 → W64 → W64) : Res := s.ixRes f.d (g (s.me.regs.rix f.a.toNat) (s.me.regs.rix f.b.toNat))
/-- Format XR: ix[d] from ix[a] and imm15 as a count (R184). -/
def State.opXN (s : State) (f : XR) (g : W64 → Nat → W64) : Res := s.ixRes f.d (g (s.me.regs.rix f.a.toNat) f.imm.toNat)

/-- `xadd` (R184). -/
def execXadd (f : XR) (s : State) : Res := s.opXR f (· + ·)
/-- `xsub` (R184). -/
def execXsub (f : XR) (s : State) : Res := s.opXR f (· - ·)
/-- `xand` (R184). -/
def execXand (f : XR) (s : State) : Res := s.opXR f (· &&& ·)
/-- `xshl` (R184). -/
def execXshl (f : XR) (s : State) : Res := s.opXN f fun a n => a <<< n
/-- `xshr` (R184). -/
def execXshr (f : XR) (s : State) : Res := s.opXN f fun a n => a >>> n
/-- `xpopc` (R184): set bits below position n. -/
def execXpopc (f : XR) (s : State) : Res := s.opXN f fun a n => BitVec.ofNat 64 (popcount n a.toNat)
/-- `xaddi` (R184). -/
def execXaddi (f : XR) (s : State) : Res := s.ixRes f.d (s.me.regs.rix f.a.toNat + imm64 f.imm)

/-- The condition codes of `xcmp` (R185). -/
def xcond (cc : Nat) (a b : W64) : Bool :=
  match cc with
  | 0 => a == b | 1 => a != b | 2 => ltN a b | 3 => leN a b | 4 => ltI a b | _ => leI a b
/-- `xcmp` (R185). -/
def execXcmp (f : XR) (s : State) : Res :=
  s.opXR f fun a b => if xcond (f.imm.extractLsb' 0 3).toNat a b then BitVec.allOnes 64 else 0
/-- `xsel` (R185): the old ix[d] is the mask. -/
def execXsel (f : XR) (s : State) : Res :=
  let m := s.me.regs.rix f.d.toNat
  s.opXR f fun a b => (a &&& m) ||| (b &&& ~~~m)

/-- `xfroms` (R186). -/
def execXfroms (f : XS) (s : State) : Res := s.ixRes f.x (s.me.regs.rs f.d.toNat + imm64 f.imm)
/-- `xtos` (R186). -/
def execXtos (f : XS) (s : State) : Res := .next (s.emit 2 (.s f.d.toNat (s.me.regs.rix f.x.toNat + imm64 f.imm)))
/-- `xtov` (R186). -/
def execXtov (f : XV) (s : State) : Res :=
  let n := f.imm.toNat
  .next (s.emit 2 (.v f.v.toNat (lanesMask 8 [n]) ((s.me.regs.rix f.ix.toNat).setWidth 4096 <<< (64 * n))))

/-! ### Index loads (R187, R188) -/

/-- What an `xld` does, from its shape and index (R187): nothing but a result past the end of a list, or a read of `n` bytes. -/
inductive XldPlan where
  | past (pos : BitVec 32)
  | global (va : W72) (n : Nat) (pos : Option (BitVec 32))
  | scratch (x n : Nat) (pos : Option (BitVec 32))
  deriving DecidableEq, Repr

/-- The plan of `xld` (R187). -/
def xldPlan (h : BitVec 128) (a : W64) (imm : BitVec 15) : XldPlan :=
  let base : W72 := h.setWidth 72
  let cursor := fieldOf 4 4 h = 1
  let pos : BitVec 32 := a.setWidth 32 + imm.signExtend 32
  let i : Nat := if cursor then pos.toNat else (a + imm64 imm).toNat
  let e := if cursor then 2 else fieldOf 4 2 h
  let mark := if cursor then some pos else none
  if cursor ∧ fieldOf 4 6 h ≤ pos.toNat then .past pos
  else if fieldOf 4 3 h = 0 then .global (base + BitVec.ofNat 72 (i * 2 ^ e)) (2 ^ e) mark
  else .scratch (base.toNat + i * 2 ^ e) (2 ^ e) mark

/-- ix[d] from the element's bytes (R187). -/
def xldValue (pos : Option (BitVec 32)) (bs : List Byte) : W64 :=
  match pos with
  | some p => (BitVec.ofNat 32 (leVal bs)) ++ p
  | none => zextBytes bs

/-- The shape that an index load uses (R187). -/
def State.xhOf (s : State) (hs : BitVec 2) : BitVec 128 := s.me.regs.shape 4 hs.toNat
/-- The plan of an index load of the acting core. -/
def State.xldPlan (s : State) (f : XR) : XldPlan := Machine.xldPlan (s.xhOf f.hs) (s.me.regs.rix f.a.toNat) f.imm

/-- The faults of `xld` (R187, R188). -/
def State.xldFault (s : State) (f : XR) : Option Cause :=
  if fieldOf 4 5 (s.xhOf f.hs) = 7 then some (cause0 0x01 (16 * 4 + 8))
  else match s.xldPlan f with
    | .past _ => none
    | .global va n _ => s.memFault 8 n .read va n
    | .scratch x n _ => scrFault 8 s.me.scratchSize n 0 [(x, n)]

/-- `xld` (R187, R188). A cursor past the end of its list makes no access, and the spec gives no time for its result: it comes in 2 cycles, the latency of the class (log entry 54). What L and W accesses that hold its bank add to a scratchpad read comes with their bundles (`State.holdBanks`). -/
def execXld (f : XR) (s : State) : Res :=
  let d := f.d.toNat
  s.checked (s.xldFault f) <|
    match s.xldPlan f with
    | .past p => s.modMe fun c => (c.addVar .load [.ix d] [.ix d (0xFFFFFFFF#32 ++ p)] (some (s.cycle + 2)) false none).2
    | .global va n p => s.load 8 0 va n (fieldOf 4 5 (s.xhOf f.hs)) (.ix d) fun bs => [.ix d (xldValue p bs)]
    | .scratch x n p => s.modMe fun c => (c.addVar .load [.ix d] [.ix d (xldValue p (c.scrRead x n))] (some (s.cycle + 8)) false none).2

/-! ### Cursor intersection and group expansion (R189, R190) -/

/-- A cursor with its position advanced (R189). -/
def advance (c : W64) : W64 := c.extractLsb' 32 32 ++ (c.extractLsb' 0 32 + 1)
/-- `xadv` (R189). -/
def execXadv (f : XR) (s : State) : Res :=
  let a := s.me.regs.rix f.a.toNat
  let b := s.me.regs.rix f.b.toNat
  let ka := a.extractLsb' 32 32
  let kb := b.extractLsb' 32 32
  let ones := BitVec.allOnes 64
  let d := f.d.toNat
  .next <| s.emits 2 <|
    if ka = 0xFFFFFFFF ∧ kb = 0xFFFFFFFF then [.ix d ones]
    else if ka.ult kb then [.ix f.a.toNat (advance a), .ix d ones]
    else if kb.ult ka then [.ix f.b.toNat (advance b), .ix d ones]
    else [.ix d (a.extractLsb' 0 32 ++ b.extractLsb' 0 32), .ix f.a.toNat (advance a), .ix f.b.toNat (advance b)]

/-- The two positions of group `g`, when the group is legal (R190). -/
def groupOf (m : W64) (g : Nat) : Option (Nat × Nat) :=
  let p0 := m.toNat / 2 ^ (4 * g) % 4
  let p1 := m.toNat / 2 ^ (4 * g + 2) % 4
  if p0 < p1 then some (p0, p1) else none
/-- The 32 index lanes of `xexp` (R190). -/
def groupLanes (m : W64) (q : Nat) : List Nat :=
  (List.range 16).flatMap fun g => match groupOf m g with
    | some (p0, p1) => [4 * (16 * q + g) + p0, 4 * (16 * q + g) + p1]
    | none => [0xFFFFFFFF, 0xFFFFFFFF]
/-- The 32 activity bits of `xexp` (R190). -/
def groupOn (m : W64) : List Nat :=
  (List.range 16).flatMap fun g => if (groupOf m g).isSome then [15, 15] else [0, 0]
/-- `xexp` (R190): lanes 32q to 32q + 31 of the index vector and their bits of the predicate. -/
def execXexp (f : XV) (s : State) : Res :=
  let m := s.me.regs.rix f.ix.toNat
  let q := (f.imm.extractLsb' 0 2).toNat
  let lo := 1024 * q
  let pm : Pred := BitVec.ofNat 512 (2 ^ 128 - 1) <<< (128 * q)
  .next (s.emits 2
    [.v f.v.toNat (BitVec.ofNat 4096 (2 ^ 1024 - 1) <<< lo) (BitVec.ofNat 4096 (packLanes 32 (groupLanes m q)) <<< lo),
     .p f.p.toNat pm (BitVec.ofNat 512 (packLanes 4 (groupOn m)) <<< (128 * q))])

end Sys2Proof.Machine
end

