-- ==== Sys2Proof/Machine/Matrix.lean ====
section
/-! DEFINITION. The matrix class at issue: shapes, the checks of steps, drains and tile commands, the commands they withhold, and `mstat` (R197, R201, R207 to R221, R226, R386). -/
namespace Sys2Proof.Machine

/-! ### Shapes (R192, R197) -/

/-- Element bits of a format code (R85). -/
def fmtBits (f : Nat) : Nat := match Fmt.ofCode f with | some x => x.width | none => 0
/-- Bytes of a row of 128 elements (R197). -/
def fmtRow (f : Nat) : Nat := 16 * fmtBits f
/-- Frames of a tile (R192). -/
def fmtFrames (f : Nat) : Nat := tileBytes f / 8192
/-- A format code that afmt and wfmt may hold (R197). -/
def opFmt (f : Nat) : Bool := 2 ≤ f && f ≤ 8
/-- A format code that ofmt may hold (R197). -/
def outFmt (f : Nat) : Bool := f == 1 || f == 2 || f == 3 || f == 4 || f == 5 || f == 7

/-- Fields of a matrix shape (R197). -/
def mAstride (h : BitVec 128) : Nat := fieldOf 0 0 h
def mAfmt (h : BitVec 128) : Nat := fieldOf 0 1 h
def mWfmt (h : BitVec 128) : Nat := fieldOf 0 2 h
def mAspace (h : BitVec 128) : Nat := fieldOf 0 3 h
def mAdesc (h : BitVec 128) : Nat := fieldOf 0 4 h
def mDbase (h : BitVec 128) : Nat := fieldOf 0 5 h
def mAev (h : BitVec 128) : Nat := fieldOf 0 6 h
def mTcls (h : BitVec 128) : Nat := fieldOf 0 7 h
def mOfmt (h : BitVec 128) : Nat := fieldOf 0 8 h
def mOrm (h : BitVec 128) : Nat := fieldOf 0 9 h
def mOsat (h : BitVec 128) : Bool := fieldOf 0 10 h == 1
def mDexp (h : BitVec 128) : Int := (BitVec.ofNat 8 (fieldOf 0 11 h)).toInt
def mOscale (h : BitVec 128) : Nat := fieldOf 0 12 h
def mOstride (h : BitVec 128) : Nat := fieldOf 0 13 h
/-- Drain flag `i` of dfl (R197). -/
def mDfl (h : BitVec 128) (i : Nat) : Bool := h.getLsbD (90 + i)

/-- The step time T (R197). -/
def stepTime (h : BitVec 128) : Nat := match max (fmtBits (mAfmt h)) (fmtBits (mWfmt h)) with | 4 => 64 | 8 => 128 | _ => 256

/-- An illegal shape value at use (R197, R221). -/
def shapeCause : Cause := cause0 0x01 (16 * 4 + 6)
/-- The shape values that a step uses (R197): aev is read for activations in device memory only. -/
def stepShapeBad (h : BitVec 128) : Bool := !opFmt (mAfmt h) || !opFmt (mWfmt h) || (mAspace h == 0 && mAev h == 7)
/-- The shape values that a drain uses (R197). -/
def drainShapeBad (h : BitVec 128) : Bool := !mDfl h 2 && (!outFmt (mOfmt h) || mOscale h == 0xFF)

/-! ### Checks (R201, R208, R214) -/

/-- How an engine command translates: at issue through the core's TLB, in the engine through the pipe TLB (R201, R241, R324). -/
abbrev Xlate := Acc → W72 → Nat → Except TFault (List Seg)
/-- A translation in core `c`'s engine pipe (R201, R324). -/
def State.pipe (s : State) (c : Nat) (sup : Bool) : Xlate := fun k va n =>
  s.translate (s.core c).ptlb (s.core c).ctx k sup va n (pageFuel n)

/-- Pages that follow one another in physical memory. -/
def contiguous : List Seg → Bool
  | a :: b :: t => a.pa + a.n == b.pa && contiguous (b :: t)
  | _ => true

/-- The physical address of a tile (R201): aligned, mapped for `kind`, contiguous. -/
def tileCheck (x : Xlate) (kind : Acc) (fmt : Nat) (ta : W72) : Except Cause Nat :=
  let tb := tileBytes fmt
  if ta.toNat % tb ≠ 0 then .error ⟨0x06, 6, 0, 0, ta⟩
  else match x kind ta tb with
    | .error f => .error (f.cause 6)
    | .ok [] => .error ⟨0x07, 6, 0, 0, ta⟩
    | .ok (g :: t) => if contiguous (g :: t) then .ok g.pa else .error ⟨0x0E, 6, 0, 0, ta⟩

/-- The checks of a step (R201): its tile's physical address. -/
def stepCheck (x : Xlate) (size : Nat) (h : BitVec 128) (ta ab : W72) : Except Cause Nat :=
  if stepShapeBad h then .error shapeCause
  else match tileCheck x .read (mWfmt h) ta with
    | .error c => .error c
    | .ok pa =>
      if ab.toNat % 64 ≠ 0 then .error ⟨0x06, 6, 0, 0, ab⟩
      else if mAspace h = 1 ∧ (size < ab.toNat + 64 * 15 * mAstride h + fmtRow (mAfmt h) ∨ (mAdesc h = 1 ∧ size < mDbase h + 256)) then
        .error ⟨0x09, 6, 0, 0, ab⟩
      else .ok pa

/-- Rows translated for writing, in order (R208, R212). -/
def rowSegs (x : Xlate) (n : Nat) : List W72 → Except Cause (List Seg)
  | [] => .ok []
  | va :: t => match x .write va n with
    | .error f => .error (f.cause 6)
    | .ok l => match rowSegs x n t with
      | .error c => .error c
      | .ok m => .ok (l ++ m)
/-- The addresses of the 16 rows of a drain (R208). -/
def drainRows (h : BitVec 128) (base : W72) : List W72 := (List.range 16).map fun m => base + BitVec.ofNat 72 (64 * mOstride h * m)
/-- The checks of a drain's destination (R208): the pages that it writes, none under dfl bit 92. -/
def drainCheck (x : Xlate) (h : BitVec 128) (base : W72) : Except Cause (List Seg) :=
  if drainShapeBad h then .error shapeCause
  else if mDfl h 2 then .ok []
  else if base.toNat % 64 ≠ 0 then .error ⟨0x06, 6, 0, 0, base⟩
  else rowSegs x (fmtRow (mOfmt h)) (drainRows h base)
/-- The checks of `mtopk.get`'s destination (R212). -/
def topkCheck (x : Xlate) (base : W72) : Except Cause (List Seg) :=
  if base.toNat % 64 ≠ 0 then .error ⟨0x06, 6, 0, 0, base⟩ else rowSegs x 1024 [base]

/-- The active matrix shape that an operation names, after any swap in its bundle (R55). -/
def State.mhOf (s : State) (hs : BitVec 2) : BitVec 128 := s.me.regs.shape 0 hs.toNat
/-- A matrix command withheld with the privilege it issued at (R198). -/
def State.queueM (s : State) (o : MOp) : State := s.withhold (.matrix o s.me.sup)
/-- A direct command withheld (R198, R214). -/
def State.directM (s : State) (o : MDirect) : State := s.withhold (.direct o s.me.sup)
/-- A check's answer: a precise trap, or the effect with what the check found. -/
def State.passed {α : Type} (s : State) (x : Except Cause α) (f : α → State) : Res :=
  match x with
  | .error c => .next (s.precise c)
  | .ok a => .next (f a)

/-! ### Steps and accumulators (R201, R207, R210) -/

/-- The tile address of a command: toff counts tiles of the shape's wfmt (R201, R214). -/
def State.tileAddr (s : State) (mp : BitVec 3) (toff : W72) (h : BitVec 128) : W72 :=
  s.me.regs.rmp mp.toNat + toff * BitVec.ofNat 72 (tileBytes (mWfmt h))

/-- `mstep` (R201). -/
def execMstep (f : MS) (s : State) : Res :=
  let h := s.mhOf f.hs
  let ta := s.tileAddr f.mt (f.toff.setWidth 72) h
  let ab := s.me.regs.rmp f.ma.toNat + BitVec.ofNat 72 (64 * f.aoff.toNat)
  s.passed (stepCheck s.xlate s.me.scratchSize h ta ab) fun pa =>
    (s.useTlb ta (tileBytes (mWfmt h))).queueM (.step f.acc.toNat pa (mWfmt h) ta ab h)
/-- `mzero` (R207). -/
def execMzero (f : MD) (s : State) : Res := .next (s.queueM (.zero f.acc.toNat))
/-- `mtsclr` (R210). -/
def execMtsclr (f : MD) (s : State) : Res := .next (s.queueM (.tsclr f.acc.toNat))

/-! ### Drains and top-k (R208, R212) -/

/-- The vector register that bits 22:13 of imm23 name (R208). -/
def topVec (s : State) (f : MD) : Vec := s.me.vec.get 0 (f.imm.extractLsb' 13 10).toNat
/-- The destination base of a drain or `mtopk.get` (R208, R212): off is signed, as R60 makes every immediate for which no other rule is given (log entry 95). -/
def State.drainBase (s : State) (f : MD) : W72 := s.me.regs.rmp f.mp.toNat + imm72 (f.imm.extractLsb' 0 13) * 64
/-- `mdrain` (R208). -/
def execMdrain (f : MD) (s : State) : Res :=
  let h := s.mhOf f.hs
  let base := s.drainBase f
  s.passed (drainCheck s.xlate h base) fun dst =>
    s.queueM (.drain f.acc.toNat base dst (s.me.vec.get 0 f.v.toNat) (topVec s f) h)

/-- The registers that `mdrain.v` writes under a shape (R208): none with dfl bit 92, v[D] alone when ofmt is illegal. -/
def drainRegs (h : BitVec 128) (d : Nat) : List Nat :=
  if mDfl h 2 then [] else if outFmt (mOfmt h) then (List.range (fmtBits (mOfmt h) / 2)).map (d + ·) else [d]
/-- `mdrain.v` (R208): a range beyond v1023 or the declared registers raises reason 3, an illegal shape value reason 4. -/
def execMdrainV (f : MD) (s : State) : Res :=
  let h := s.mhOf f.hs
  let d := (f.imm.extractLsb' 0 10).toNat
  let rs := drainRegs h d
  let lim := match s.me.job with | some j => min j.vregs 1024 | none => 1024
  if rs.any (lim ≤ ·) then .next (s.precise (cause0 0x01 (16 * 3 + 6)))
  else if drainShapeBad h then .next (s.precise shapeCause)
  else
    let (id, c) := s.me.addVar .engine (rs.map .v) [] none false none
    .next ((s.setCore s.cur c).queueM (.drainV f.acc.toNat d id (s.me.vec.get 0 f.v.toNat) (topVec s f) h))

/-- `mtopk.set` (R212). -/
def execMtopkSet (f : MD) (s : State) : Res := .next (s.queueM (.topkSet (f.imm.extractLsb' 0 4).toNat (f.imm.extractLsb' 4 19).toNat))
/-- `mtopk.get` (R212). -/
def execMtopkGet (f : MD) (s : State) : Res :=
  let base := s.drainBase f
  s.passed (topkCheck s.xlate base) fun dst => s.queueM (.topkGet base dst)

/-! ### Tiles (R214, R215) -/

/-- A tile command of R214: its tile is checked as `mstep` checks it. Its toff is signed (R60; log entry 95). -/
def State.tileCmd (s : State) (f : MD) (toff : W72) (g : Nat → BitVec 128 → W72 → State → State) : Res :=
  let h := s.mhOf f.hs
  let ta := s.tileAddr f.mp toff h
  if !opFmt (mWfmt h) then .next (s.precise shapeCause)
  else s.passed (tileCheck s.xlate .read (mWfmt h) ta) fun pa => g pa h ta (s.useTlb ta (tileBytes (mWfmt h)))
/-- `mpin` (R214). -/
def execMpin (f : MD) (s : State) : Res := s.tileCmd f (imm72 f.imm) fun pa h ta s => s.directM (.pin pa (mWfmt h) (mTcls h) ta)
/-- `munpin` (R214). -/
def execMunpin (f : MD) (s : State) : Res := s.tileCmd f (imm72 f.imm) fun pa h ta s => s.directM (.unpin pa (mWfmt h) ta)
/-- `minv` (R214). -/
def execMinv (f : MD) (s : State) : Res := s.tileCmd f (imm72 f.imm) fun pa h ta s => s.directM (.inv pa (mWfmt h) ta)
/-- `mrepl` (R214). -/
def execMrepl (f : MD) (s : State) : Res :=
  s.tileCmd f (imm72 (f.imm.extractLsb' 4 19)) fun pa h ta s => s.directM (.repl pa (mWfmt h) (mTcls h) (f.imm.extractLsb' 0 4).toNat ta)

/-- The descriptors that `mwrite` writes: bytes 256 + 4j of v[S] for block j (R215). -/
def rowDescs (pa n : Nat) (v : Vec) : List (Nat × BitVec 32) :=
  (List.range (n / 64)).map fun j => (pa + 64 * j, v.extractLsb' (2048 + 32 * j) 32)
/-- `mwrite` (R215): a memory write and a queue entry. -/
def execMwrite (f : MD) (s : State) : Res :=
  let h := s.mhOf f.hs
  let fmt := mWfmt h
  let ta := s.tileAddr f.mp (imm72 (f.imm.extractLsb' 8 15)) h
  let row := (f.imm.extractLsb' 0 7).toNat
  let n := fmtRow fmt
  let v := s.me.vec.get 0 f.v.toNat
  let va := ta + BitVec.ofNat 72 (n * row)
  if !opFmt fmt then .next (s.precise shapeCause)
  else s.passed (tileCheck s.xlate .write fmt ta) fun pa =>
    let descs := if f.imm.getLsbD 7 then [] else rowDescs (pa + n * row) n v
    let s' := (s.useTlb ta (tileBytes fmt)).withhold (.mwrite (piecesOf (s.segs .write va n) ((vecBytes v).take n)) descs)
    s'.queueM (.write pa fmt row ta v (f.imm.getLsbD 7))

/-! ### Prefetch, cancel, stitches (R217, R219, R226, R250) -/

/-- `mpref` (R217): the table entry of its id. -/
def execMpref (f : MD) (s : State) : Res :=
  let id := (f.imm.extractLsb' 0 12).toNat
  .next (s.directM (.pref (s.me.regs.rmp f.mp.toNat + BitVec.ofNat 72 (16 * id)) id (f.imm.extractLsb' 12 2).toNat (f.imm.extractLsb' 14 9).toNat))
/-- `mcancel id` (R217). -/
def execMcancelId (f : MD) (s : State) : Res := .next (s.directM (.cancelId (f.imm.extractLsb' 0 12).toNat))
/-- `mcancel all` (R217). -/
def execMcancelAll (_f : MD) (s : State) : Res := .next (s.directM .cancelAll)
/-- `mcancel flush` (R217). -/
def execMcancelFlush (_f : MD) (s : State) : Res := .next (s.directM .flush)

/-- The partition's pre-emption budget, as it stands (R226, R250). -/
def State.budgetNow (s : State) : Nat :=
  match s.me.job with
  | some j => (match s.hub.part? j.part with | some p => p.cfg.budget | none => j.budget)
  | none => 1024
/-- The captured matrix parameters and shapes of a stitch command (R226). -/
def State.stitchCmd (s : State) (bank0 : Bool) (entry depth : Nat) (opw : BitVec 43) : State :=
  let r := s.me.regs
  s.queueM (.stitch bank0 entry depth opw ((List.range 8).map r.rmp) ((List.range 4).map (r.shape 0)))

/-- The MD operand bits as an operand word (R250). -/
def mdBits (f : MD) : BitVec 43 := f.acc ++ f.hs ++ f.mp ++ f.v ++ f.imm
/-- The effective depth of a built-in stitch (R250). -/
def mcallDepth (f : MD) : Nat :=
  if (f.imm.extractLsb' 0 10).toNat = 0 then (f.imm.extractLsb' 10 10).toNat + 1 + 16 else 2 * ((f.imm.extractLsb' 10 8).toNat + 1) + 16
/-- `mcall` (R219, R250): a depth above the budget, or another entry point, raises reason 4. -/
def execMcall (f : MD) (s : State) : Res :=
  let entry := (f.imm.extractLsb' 0 10).toNat
  if (entry ≠ 0 ∧ entry ≠ 0x40) ∨ s.budgetNow < mcallDepth f then .next (s.precise shapeCause)
  else .next (s.stitchCmd true entry (mcallDepth f) (mdBits f))

/-- The fields of a pattern-table entry (R225). -/
def patValid (w : W64) : Bool := w.getLsbD 15
def patDepth (w : W64) : Nat := (w.extractLsb' 16 16).toNat
def patEntry (w : W64) : Nat := (w.extractLsb' 0 10).toNat
/-- A stitch opcode is bound on the acting core (R70, R226). -/
def State.patBound (s : State) (idx : BitVec 6) : Bool :=
  let w := s.me.eng.pattern.get 0 idx.toNat
  patValid w && patDepth w ≤ s.budgetNow
/-- A stitch-range opcode (R226): an unbound one raises reason 6. -/
def execStitchOpcode (idx : BitVec 6) (opw : BitVec 43) (s : State) : Res :=
  let w := s.me.eng.pattern.get 0 idx.toNat
  if s.patBound idx then .next (s.stitchCmd false (patEntry w) (patDepth w) opw)
  else .next (s.precise (cause0 0x01 (16 * 6 + 6)))

/-! ### Status (R218, R386) -/

/-- The arrays in service (R195, R375). -/
def MEng.arrays (e : MEng) : List Nat := (List.range 8).filter fun a => !e.dead.contains a
/-- The pinnable arrays: those in service but for the two highest (R195). -/
def MEng.pinArrays (e : MEng) : List Nat := e.arrays.take (e.arrays.length - 2)
/-- A pinned instance: of a pinned group, in a pinnable array (R195). -/
def MEng.pinned (e : MEng) (i : Inst) : Bool := e.pinArrays.contains (i.frame / 4) && e.pins.any fun p => p.pa == i.pa && p.fmt == i.fmt
/-- The instances of a group that are valid or filling (R193). -/
def MEng.live (e : MEng) (pa fmt : Nat) : List Inst := e.insts.filter fun i => i.pa == pa && i.fmt == fmt && i.st != .retiring
/-- The valid instances of a group. -/
def MEng.valid (e : MEng) (pa fmt : Nat) : List Inst := (e.live pa fmt).filter fun i => i.st == .valid

/-- Mode 0 of `mstat` for a mapped tile (R218, R386). -/
def MEng.statTile (e : MEng) (pa fmt : Nat) : W64 :=
  let v := (e.valid pa fmt).length
  let l := e.live pa fmt
  let gen := match l with | i :: _ => i.gen | [] => 0
  BitVec.ofNat 64 (1 + (if v = 0 then 0 else 2) + (if e.pins.any fun p => p.pa == pa && p.fmt == fmt then 4 else 0) +
    (if l.length = v then 0 else 8) + v % 16 * 2 ^ 4 + gen % 65536 * 2 ^ 8 + fmt * 2 ^ 24)
/-- Frames that pinned instances hold. -/
def MEng.pinFrames (e : MEng) : Nat := (e.insts.filter fun i => e.pinned i && i.st != .retiring).foldl (fun n i => n + fmtFrames i.fmt) 0
/-- Mode 1 of `mstat` (R218). -/
def MEng.statEngine (e : MEng) : W64 :=
  BitVec.ofNat 64 (e.q.length % 64 + (if e.frozen.isSome then 64 else 0) + e.pinFrames % 32 * 2 ^ 7 + e.mrp.toNat * 2 ^ 12 +
    e.pfq.length % 32 * 2 ^ 28 + min e.pfLost 65535 * 2 ^ 33)

/-- `mstat` of a tile (R218): 0 when the tile is not mapped; it never faults. -/
def execMstatTile (f : MD) (s : State) : Res :=
  let h := s.mhOf f.hs
  let v : W64 := if !opFmt (mWfmt h) then 0
    else match tileCheck s.xlate .read (mWfmt h) (s.tileAddr f.mp (imm72 (f.imm.extractLsb' 0 15)) h) with
      | .ok pa => s.me.eng.statTile pa (mWfmt h)
      | .error _ => 0
  .next (s.emit 4 (.s (f.v.extractLsb' 0 6).toNat v))
/-- `mstat` of the engine (R218). -/
def execMstatEngine (f : MD) (s : State) : Res := .next (s.emit 4 (.s (f.v.extractLsb' 0 6).toNat s.me.eng.statEngine))

end Sys2Proof.Machine
end

