-- ==== Sys2Proof/Machine/Engine.lean ====
section
/-! DEFINITION. The matrix engine at work: readiness, binding, fills, replicas and pins, steps row by row, drains, top-k, prefetches, and the faults that freeze it (R192 to R217, R389). -/
namespace Sys2Proof.Machine

/-! ### Entries -/

/-- Core `c`'s engine changed. -/
def State.modEng (s : State) (c : Nat) (f : MEng → MEng) : State := s.modCore c fun k => { k with eng := f k.eng }
/-- The step queue of the running stitch (R228). -/
def MEng.sub (e : MEng) : List MEntry := match e.seq with | some q => q.sq | none => []
/-- Every entry of the matrix queue and the step queue, oldest first. -/
def MEng.all (e : MEng) : List MEntry := e.q ++ e.sub
/-- An entry by number. -/
def MEng.entry? (e : MEng) (id : Nat) : Option MEntry := e.all.find? fun m => m.id == id
/-- Entries changed by number. -/
def modIn (id : Nat) (f : MEntry → MEntry) (l : List MEntry) : List MEntry := l.map fun m => if m.id == id then f m else m
def MEng.modEntry (e : MEng) (id : Nat) (f : MEntry → MEntry) : MEng :=
  { e with q := modIn id f e.q, seq := e.seq.map fun q => { q with sq := modIn id f q.sq } }
/-- An entry leaves its queue (R198). -/
def MEng.dropEntry (e : MEng) (id : Nat) : MEng :=
  { e with q := e.q.filter fun m => m.id != id, seq := e.seq.map fun q => { q with sq := q.sq.filter fun m => m.id != id } }
/-- The entries ahead of one in its own queue. -/
def MEng.ahead (e : MEng) (id : Nat) : List MEntry :=
  (if e.q.any fun m => m.id == id then e.q else e.sub).takeWhile fun m => m.id != id
/-- A command enters the matrix queue (R198). -/
def MEng.enqueue (e : MEng) (o : MOp) (sup : Bool) : MEng :=
  { e with q := e.q ++ [⟨e.nextId, o, sup, .waiting, 0, 0, 0, 0, 0⟩], nextId := e.nextId + 1 }

/-- The accumulator that a command names (R198). -/
def MOp.acc? : MOp → Option Nat
  | .step a _ _ _ _ _ | .stepVa a _ _ _ | .zero a | .drain a _ _ _ _ _ | .drainV a _ _ _ _ _ | .drainM a _ _ _ | .tsclr a => some a
  | .write _ _ _ _ _ _ | .topkSet _ _ | .topkGet _ _ | .topkGetVa _ | .stitch _ _ _ _ _ _ => none
/-- A top-k command (R198). -/
def MOp.isTopk : MOp → Bool
  | .topkSet _ _ | .topkGet _ _ | .topkGetVa _ => true
  | .drain _ _ _ _ _ h | .drainV _ _ _ _ _ h | .drainM _ _ _ h => mDfl h 1
  | _ => false
/-- A stitch command (R227). -/
def MOp.isStitch : MOp → Bool
  | .stitch _ _ _ _ _ _ => true
  | _ => false
/-- A step. -/
def MOp.isStep : MOp → Bool
  | .step _ _ _ _ _ _ | .stepVa _ _ _ _ => true
  | _ => false
/-- An `mwrite`'s entry. -/
def MOp.isWrite : MOp → Bool
  | .write _ _ _ _ _ _ => true
  | _ => false
/-- The shape that a step captured. -/
def MOp.shape : MOp → BitVec 128
  | .step _ _ _ _ _ h | .stepVa _ _ _ h | .drain _ _ _ _ _ h | .drainV _ _ _ _ _ h | .drainM _ _ _ h => h
  | _ => 0
/-- The virtual address of a step's tile. -/
def MOp.tileVa : MOp → W72
  | .step _ _ _ va _ _ => va
  | .stepVa _ va _ _ => va
  | _ => 0
/-- The activation address of a step. -/
def MOp.actVa : MOp → W72
  | .step _ _ _ _ ab _ => ab
  | .stepVa _ _ ab _ => ab
  | _ => 0
/-- The group that an entry names, where it is known (R198). -/
def MEntry.tile? (m : MEntry) : Option (Nat × Nat) :=
  match m.op with
  | .step _ pa fmt _ _ _ | .write pa fmt _ _ _ _ => some (pa, fmt)
  | .stepVa _ _ _ _ => if m.st == .waiting then none else some (m.pa, m.fmt)
  | _ => none

/-- An earlier entry `x` keeps `y` from being ready (R198, R215, R227). -/
def MEntry.blocks (x y : MEntry) : Bool :=
  x.op.isStitch || y.op.isStitch || (x.op.acc?.isSome && x.op.acc? == y.op.acc?) || (x.op.isTopk && y.op.isTopk) ||
  ((x.op.isWrite || y.op.isWrite) && x.tile?.isSome && x.tile? == y.tile?)
/-- An entry is ready: not begun, and nothing ahead of it blocks it (R198). -/
def MEng.ready (e : MEng) (m : MEntry) : Bool := e.frozen.isNone && m.st == .waiting && !(e.ahead m.id).any fun x => x.blocks m

/-! ### Placements (R192 to R195) -/

/-- The instances whose frames overlap frames `f` to `f + n − 1`. -/
def MEng.occupants (e : MEng) (f n : Nat) : List Inst := e.insts.filter fun i => i.frame < f + n && f < i.frame + fmtFrames i.fmt
/-- The entry is a step bound to the group of an instance and not dispatched (R199). -/
def MEntry.boundTo (m : MEntry) (i : Inst) : Bool := m.st == .bound && m.gen == i.gen && m.pa == i.pa && m.fmt == i.fmt
/-- A step is bound to the instance (R194): it waits for the group, or runs on this instance. -/
def MEng.inUse (e : MEng) (i : Inst) : Bool := e.runs.any (fun r => r.inst == i.id) || e.all.any fun m => m.boundTo i
/-- An instance that a new placement may evict (R194). -/
def MEng.evictable (e : MEng) (i : Inst) : Bool := i.st == .valid && !e.pinned i && !e.inUse i
/-- The first frames of the placements of a format in given arrays (R192). -/
def firstFrames (fmt : Nat) (arrs : List Nat) : List Nat := (List.range 32).filter fun f => f % fmtFrames fmt == 0 && arrs.contains (f / 4)
/-- The lowest class and the latest dispatch time of a placement's instances, with its first frame (R194). -/
def placeKey (l : List Inst) (f : Nat) : Nat × Nat × Nat := (l.foldl (fun m i => min m i.cls) 4, l.foldl (fun m i => max m i.time) 0, f)
/-- The better of two placements (R194): the higher class, the earlier time, the lower frame. -/
def placeBetter (a b : Nat × Nat × Nat) : Nat × Nat × Nat :=
  if b.1 > a.1 || (b.1 == a.1 && (b.2.1 < a.2.1 || (b.2.1 == a.2.1 && b.2.2 < a.2.2))) then b else a
/-- The placement that R194 chooses among given arrays, none when no placement is eligible. -/
def MEng.place (e : MEng) (fmt : Nat) (arrs : List Nat) : Option Nat :=
  match (firstFrames fmt arrs).filterMap fun f =>
      let l := e.occupants f (fmtFrames fmt)
      if l.all e.evictable then some (placeKey l f) else none with
  | [] => none
  | x :: t => some (t.foldl placeBetter x).2.2

/-- The instances of a placement evicted. -/
def MEng.vacate (e : MEng) (f n : Nat) : MEng := { e with insts := e.insts.filter fun i => !((e.occupants f n).contains i) }
/-- A Fill starts (R199). -/
def MEng.fillAt (e : MEng) (pa fmt cls f : Nat) : MEng :=
  let e := e.vacate f (fmtFrames fmt)
  { e with insts := e.insts ++ [⟨e.nextId, pa, fmt, e.fillcount.toNat, cls, f, .filling, [], 0⟩], nextId := e.nextId + 1, fillcount := e.fillcount + 1 }
/-- A replica copy starts (R196): it ends when the fill port has carried the tile. -/
def MEng.copyAt (e : MEng) (src : Inst) (f cycle : Nat) : MEng :=
  let e := e.vacate f (fmtFrames src.fmt)
  { e with insts := e.insts ++ [{ src with id := e.nextId, frame := f, st := .copying src.id, time := cycle + tileBytes src.fmt / 64 }], nextId := e.nextId + 1 }

/-! ### Pins and replicas (R195, R196, R214) -/

/-- A pin is served: resident in pinnable frames, copied there, or filled there, when a placement allows. -/
def MEng.servePin (e : MEng) (cycle : Nat) (p : Pin) : MEng :=
  let done (e : MEng) : MEng := { e with pins := e.pins.map fun q => if q.pa == p.pa && q.fmt == p.fmt then { q with want := false } else q }
  if !p.want then e
  else
    let live := e.live p.pa p.fmt
    if live.any fun i => e.pinArrays.contains (i.frame / 4) then done e
    else match e.place p.fmt e.pinArrays with
      | none => e
      | some f =>
        match live with
        | [] => done (e.fillAt p.pa p.fmt p.cls f)
        | l => match l.find? (fun i => i.st == .valid) with
          | some src => done (e.copyAt src f cycle)
          | none => e
/-- Every pin that asks for it is served, before any other placement is chosen (R205, R206). -/
def MEng.servePins (e : MEng) (cycle : Nat) : MEng := e.pins.foldl (fun e p => e.servePin cycle p) e

/-- Every pinnable placement of a format is held by a pinned instance (R214). -/
def MEng.pinRefused (e : MEng) (fmt : Nat) : Bool :=
  (firstFrames fmt e.pinArrays).all fun f => (e.occupants f (fmtFrames fmt)).any fun i => e.pinned i
/-- `munpin` (R214). -/
def MEng.unpin (e : MEng) (pa fmt : Nat) : MEng := { e with pins := e.pins.filter fun p => !(p.pa == pa && p.fmt == fmt) }

/-- Unbound replicas beyond `n` invalidated, the highest frame first (R214). -/
def MEng.trim (e : MEng) (pa fmt n : Nat) : Nat → MEng
  | 0 => e
  | fuel + 1 =>
    if (e.live pa fmt).length ≤ n then e
    else match ((e.valid pa fmt).filter fun i => !e.inUse i).foldl (fun (r : Option Inst) i => match r with | some j => if j.frame < i.frame then some i else some j | none => some i) none with
      | none => e
      | some i => MEng.trim { e with insts := e.insts.filter fun j => j.id != i.id } pa fmt n fuel
/-- `mrepl` (R214): the tile filled if absent, then replicas asked for; none while an absent tile finds no placement. -/
def MEng.replicate (e : MEng) (cycle pa fmt cls n : Nat) : Option MEng :=
  let e := e.servePins cycle
  let ask (e : MEng) : MEng := { e with repl := (e.repl.filter fun r => !(r.1 == pa && r.2.1 == fmt)) ++ [(pa, fmt, cls, n)] }
  if (e.live pa fmt).isEmpty then (e.place fmt e.arrays).map fun f => ask (e.fillAt pa fmt cls f)
  else some (ask (e.trim pa fmt n 8))

/-- The instance belongs to the group of another (R193). -/
def Inst.ofGroup (i j : Inst) : Bool := i.pa == j.pa && i.fmt == j.fmt && i.gen == j.gen
/-- The arrays that hold no instance of the group of `i` (R196). -/
def MEng.freshArrays (e : MEng) (i : Inst) : List Nat := e.arrays.filter fun a => !e.insts.any fun j => j.ofGroup i && j.frame / 4 == a
/-- Requests of `mrepl` that are met, that find no placement, or whose group is gone end (R214). -/
def MEng.endRepl (e : MEng) : MEng :=
  { e with repl := e.repl.filter fun (pa, fmt, _, n) =>
      let l := e.live pa fmt
      match l with
      | [] => false
      | i :: _ => l.length < n && (l.any (fun i => i.st != .valid) || (e.place fmt (e.freshArrays i)).isSome) }
/-- A replica of the instance is wanted (R196): steps bound to its group wait for an array, or `mrepl` asks. -/
def MEng.wantsReplica (e : MEng) (i : Inst) : Bool :=
  (e.live i.pa i.fmt).length < 8 && i.st == .valid && (e.live i.pa i.fmt).all (fun j => j.st == .valid) &&
  (2 ≤ (e.all.filter fun m => m.boundTo i).length ||
   e.repl.any fun (pa, fmt, _, n) => pa == i.pa && fmt == i.fmt && (e.live pa fmt).length < n)
/-- REPLICA_COPY (R196): a copy of a valid instance starts into an array that holds none of its group. -/
def execReplicaCopy (c iid : Nat) (s : State) : Res :=
  let e := (s.core c).eng.servePins s.cycle
  match e.insts.find? fun i => i.id == iid with
  | some i =>
    if e.wantsReplica i then
      match e.place i.fmt (e.freshArrays i) with
      | some f => .next (s.modEng c fun _ => e.copyAt i f s.cycle)
      | none => .next s
    else .next s
  | none => .next s

/-! ### Binding (R199) -/

/-- The entry bound to a group. -/
def MEng.bindTo (e : MEng) (id gen pa fmt : Nat) : MEng := e.modEntry id fun m => { m with st := .bound, gen := gen, pa := pa, fmt := fmt }
/-- A step binds by `Match`, or by a `Fill` that waits until a placement is eligible (R199). -/
def MEng.bind (e : MEng) (cycle id pa fmt cls : Nat) : MEng :=
  let e := e.servePins cycle
  match e.live pa fmt with
  | i :: _ => e.bindTo id i.gen pa fmt
  | [] => match e.place fmt e.arrays with
    | none => e
    | some f => (e.fillAt pa fmt cls f).bindTo id e.fillcount.toNat pa fmt

/-- A store must wait for earlier steps (R205): an unbound one, or one bound to a filling instance, whose tile holds a byte of it. -/
def State.storeWaits (s : State) (c pa n : Nat) : Bool :=
  let k := s.core c
  let hit (p f : Nat) : Bool := p < pa + n && pa < p + tileBytes f
  k.eng.all.any fun m =>
    match m.st with
    | .waiting => (match m.op with
      | .step _ p f _ _ _ => hit p f
      | .stepVa _ ta ab h => (match stepCheck (s.pipe c m.sup) k.scratchSize h ta ab with | .ok p => hit p (mWfmt h) | .error _ => false)
      | _ => false)
    | .bound => hit m.pa m.fmt && (k.eng.valid m.pa m.fmt).isEmpty && (k.eng.live m.pa m.fmt).any fun i => i.gen == m.gen
    | _ => false

/-! ### Drains (R208 to R212) -/

/-- The accumulator element before encoding (R208): scaled by dexp, with the bias. -/
def drainVal (h : BitVec 128) (acc bias : BitVec 32) : Val :=
  let y := (f32 acc).scale (mDexp h)
  if mDfl h 0 then Val.add 0 y (f32 bias) else y
/-- Lane `n` of a register as FP32 bits. -/
def lane32 (v : Vec) (n : Nat) : BitVec 32 := v.extractLsb' (32 * n) 32

/-- `TopkInsert` (R212). An entry with key −∞ falls behind every empty one, so it is never held. -/
def topkInsert (k : Nat) (l : List (BitVec 32 × BitVec 32 × BitVec 32)) (key val idx : BitVec 32) : List (BitVec 32 × BitVec 32 × BitVec 32) :=
  if f32 key == .nan || f32 key == .inf true then l
  else
    let front := l.takeWhile fun e => !Val.lt (f32 e.1) (f32 key)
    (front ++ (key, val, idx) :: l.drop front.length).take k
/-- One drained row inserted (R208, R212). -/
def topkRow (t : TopK) (m : Nat) (ys : List Val) (top : Vec) : TopK :=
  let l := (ys.zip (List.range 128)).foldl (fun l (y, n) =>
    topkInsert t.k l (roundF32 (Val.add 0 y (f32 (lane32 top n))) 0) (roundF32 y 0) (BitVec.ofNat 32 (128 * t.cb + n))) (t.rows.get [] m)
  { t with rows := t.rows.put [] m l }

/-- One encoded element: its bits, and whether it is NaN, infinite or overflowed (R208, R209). -/
def drainEnc (h : BitVec 128) (y : Val) : Nat × Bool × Bool × Bool :=
  match Fmt.ofCode (mOfmt h) with
  | none => (0, false, false, false)
  | some f =>
    let r := encodeVal (y.scale (127 - (mOscale h : Int))) f (mOrm h) (mOsat h) none
    match f with
    | .int _ _ => (r.bits, false, false, r.overflow || r.invalid)
    | _ =>
      let v := rawValue f r.bits
      (r.bits, v == .nan, v == .inf false || v == .inf true, r.overflow)
/-- The canonical NaN of a drain format, 0 for integers (R208). -/
def drainNan (h : BitVec 128) : Nat := match Fmt.ofCode (mOfmt h) with | some f => f.nan | none => 0

/-- What a drain makes: the rows' bytes with their poison, the status bits and the top-k state. -/
structure DrainOut where
  rows : List (List Byte × Bool)
  status : Nat
  topk : TopK

/-- One row of a drain (R208, R209). `regs`: a poisoned row is written as NaNs. DESIGN CHOICE: what a poisoned row gives to the top-k unit, and, written to memory, its nan, inf, ovf and row bits, are those of the bits that the accumulator stores (log entry 117). -/
def drainRow (h : BitVec 128) (bias top : Vec) (regs : Bool) (acc : Vec) (bad : Bool) (m : Nat) (o : DrainOut) : DrainOut :=
  let ys := (List.range 128).map fun n => drainVal h (lane32 acc n) (lane32 bias n)
  let topk := if mDfl h 1 then topkRow o.topk m ys top else o.topk
  let pz := if bad then 2 ^ 3 + 2 ^ (32 + m) else 0
  if mDfl h 2 then { o with status := o.status ||| pz, topk := topk }
  else
    let es := ys.map (drainEnc h)
    let w := fmtBits (mOfmt h)
    let nan := if bad && regs then drainNan h != 0 else es.any fun x => x.2.1
    let inf := !(bad && regs) && es.any fun x => x.2.2.1
    let ovf := !(bad && regs) && es.any fun x => x.2.2.2
    let bits := if bad && regs then List.replicate 128 (drainNan h) else es.map (·.1)
    let st := (if nan then 1 else 0) + (if inf then 2 else 0) + (if ovf then 4 else 0)
    { rows := o.rows ++ [(leList (fmtRow (mOfmt h)) (packLanes w bits), bad)]
      status := o.status ||| st ||| (if st = 0 then 0 else 2 ^ (16 + m)) ||| pz
      topk := topk }

/-- The 16 rows of a drain of accumulator `a` (R208). After a drain with dfl bit 91 cb rises by 1 (R212). -/
def Core.drainAll (k : Core) (a : Nat) (h : BitVec 128) (bias top : Vec) (regs : Bool) : DrainOut :=
  let o := (List.range 16).foldl (fun o m => drainRow h bias top regs (k.acc.get 0 (16 * a + m)) (k.accPoison.get false (16 * a + m)) m o) ⟨[], 0, k.eng.topk⟩
  if mDfl h 1 then { o with topk := { o.topk with cb := o.topk.cb + 1 } } else o

/-- An accumulator set to +0 (R207). -/
def Core.zeroAcc (k : Core) (a : Nat) : Core :=
  { k with acc := (List.range 16).foldl (fun b m => b.put 0 (16 * a + m) 0) k.acc
           accPoison := (List.range 16).foldl (fun b m => b.put false (16 * a + m) false) k.accPoison }

/-- A block that an engine writes: data and descriptor in one action, as a store of core `c` at class ev0 (R208, R211). -/
def State.engineBlock (s : State) (c : Nat) (p : Piece) (desc : BitVec 32) (poison : Bool) : State :=
  if isRemote p.pa then s.performPiece c 0 p poison
  else (((s.dirtyL1 c p 0 (some desc) poison).storeTiles c p.pa p.bytes.length).sign c (p.pa / 64) p.untr)
/-- The blocks of a run of rows, each with its descriptor and poison. -/
def State.engineBlocks (s : State) (c : Nat) : List Piece → List (BitVec 32 × Bool) → State
  | p :: ps, (d, z) :: ds => (s.engineBlock c p d z).engineBlocks c ps ds
  | _, _ => s

/-- The entry ends `n` cycles from now, with a status (R208). -/
def State.endIn (s : State) (c id n st : Nat) : State :=
  s.modEng c fun e => e.modEntry id fun m => { m with st := .ending (s.cycle + n), status := BitVec.ofNat 64 st }
/-- What every drain leaves besides its result: the top-k state, and a zeroed accumulator (R208). -/
def State.drainTail (s : State) (c a : Nat) (h : BitVec 128) (o : DrainOut) : State :=
  s.modCore c fun k =>
    let k := { k with eng := { k.eng with topk := o.topk } }
    if mDfl h 3 then k.zeroAcc a else k
/-- A drain to memory runs (R208, R211). -/
def State.runDrain (s : State) (c id a : Nat) (dst : List Seg) (bias top : Vec) (h : BitVec 128) : State :=
  let o := (s.core c).drainAll a h bias top false
  let n := fmtRow (mOfmt h) / 64
  let desc := mkDesc (BitVec.ofNat 8 (mOfmt h)) (BitVec.ofNat 8 (mOscale h)) 0
  let ps := piecesOf dst (o.rows.flatMap (·.1))
  let s := s.engineBlocks c ps (o.rows.flatMap fun r => List.replicate n (desc, r.2))
  (s.drainTail c a h o).endIn c id (32 + ps.length) o.status
/-- A drain to registers runs: its writes land when it completes (R208). -/
def State.runDrainV (s : State) (c id a d vid : Nat) (bias top : Vec) (h : BitVec 128) : State :=
  let o := (s.core c).drainAll a h bias top true
  let bs := o.rows.flatMap (·.1)
  let n := bs.length / 512
  let wr : List Wr := (List.range n).map fun i => .v (d + i) allLanes (vecOf ((bs.drop (512 * i)).take 512))
  let s := s.modCore c fun k => { k with iss := { k.iss with vpend := k.iss.vpend.map fun v => if v.id == vid then { v with wr := wr } else v } }
  (s.drainTail c a h o).endIn c id (32 + n) o.status

/-- The 1 KiB of `mtopk.get` (R212). -/
def topkBytes (t : TopK) : List Byte :=
  let ent (m j : Nat) := (t.rows.get [] m)[j]?
  let cells := (List.range 16).flatMap fun m => (List.range 8).map fun j => ent m j
  cells.flatMap (fun x => leList 4 (match x with | some (_, v, _) => v.toNat | none => 0xFF800000)) ++
  cells.flatMap (fun x => leList 4 (match x with | some (_, _, i) => i.toNat | none => 0xFFFFFFFF))
/-- `mtopk.get` runs (R211, R212): FP32 descriptors on its first 512 bytes. -/
def State.runTopkGet (s : State) (c id : Nat) (dst : List Seg) : State :=
  let ps := piecesOf dst (topkBytes (s.core c).eng.topk)
  let ds := List.replicate 8 (mkDesc 1 0x7F 0, false) ++ List.replicate 8 (defaultDesc, false)
  (s.engineBlocks c ps ds).endIn c id 16 0

/-- The bytes of whole blocks as core `c`'s engines read them, or the poison that they meet at address `va` on (R203). -/
def State.readBlocks (s : State) (c ev : Nat) (va : W72) : List Nat → Except Cause (List Byte × State)
  | [] => .ok ([], s)
  | blk :: t =>
    let (b, s) := s.readEngine c blk ev
    if b.poison then .error ⟨0x0B, 6, 0, 0, va⟩
    else match s.readBlocks c ev (va + 64) t with
      | .error x => .error x
      | .ok (l, s) => .ok (leList 64 b.data.toNat ++ l, s)
/-- One vector of biases that a stitch's drain reads at `a`, where the drain uses it (R241). DESIGN CHOICE: at class ev0, since the spec names no retention class for these loads (log entry 118). -/
def State.biasHalf (s : State) (c : Nat) (sup on : Bool) (a : W72) : Except Cause (Vec × State) :=
  if !on then .ok (0, s)
  else match s.pipe c sup .read a 512 with
    | .error f => .error (f.cause 6)
    | .ok segs =>
      let s := s.tlbFill c true (s.core c).ctx a 512 2
      match s.readBlocks c 0 a (segs.flatMap fun g => (List.range (g.n / 64)).map (· + g.pa / 64)) with
      | .error x => .error x
      | .ok (bs, s) => .ok (vecOf bs, s)
/-- The bias and the top-k bias that a stitch's drain reads at `tb` under its shape (R241), or the fault of reading them. -/
def State.biasRead (s : State) (c : Nat) (sup : Bool) (tb : W72) (h : BitVec 128) : Except Cause (Vec × Vec × State) :=
  if (mDfl h 0 || mDfl h 1) && tb.toNat % 64 != 0 then .error ⟨0x06, 6, 0, 0, tb⟩
  else match s.biasHalf c sup (mDfl h 0) tb with
    | .error x => .error x
    | .ok (b, s) => match s.biasHalf c sup (mDfl h 1) (tb + 512) with
      | .error x => .error x
      | .ok (t, s) => .ok (b, t, s)
/-- What a stitch's drain needs when it runs (R241): destination and biases. -/
def State.drainMReady (s : State) (c : Nat) (sup : Bool) (dst tb : W72) (h : BitVec 128) : Except Cause (List Seg × Vec × Vec × State) :=
  match drainCheck (s.pipe c sup) h dst with
  | .error x => .error x
  | .ok segs => match s.biasRead c sup tb h with
    | .error x => .error x
    | .ok (b, t, s) => .ok (segs, b, t, s)
/-- The core's load pipes must wait for a translation before they can make some accesses (R324, R325): the state with the miss taken, or as it stands while the shared TLB serves one. Accesses to more pages than the pipe TLB holds do not wait (log entry 12). -/
def State.pipeWaits (s : State) (c : Nat) (l : List (W72 × Nat)) : Option State :=
  if l.isEmpty || 32 < ((l.flatMap fun x => pagesOf x.1 x.2).map fun a => a.toNat / 4096).eraseDups.length then none
  else match l.findSome? fun x => s.pipeLacks c x.1 x.2 with
    | some a => some (s.miss .pipe c (s.core c).ctx a)
    | none => if s.cycle < (s.core c).pipeFrom then some s else none
/-- What a stitch's command reads and writes when it binds or runs (R239, R241, R242). -/
def MOp.accesses : MOp → List (W72 × Nat)
  | .stepVa _ ta _ h => [(ta, tileBytes (mWfmt h))]
  | .drainM _ dst tb h => (if mDfl h 2 then [] else (drainRows h dst).map fun a => (a, fmtRow (mOfmt h))) ++
      (if mDfl h 0 then [(tb, 512)] else []) ++ (if mDfl h 1 then [(tb + 512, 512)] else [])
  | .topkGetVa va => [(va, 1024)]
  | _ => []

/-- A row written into an instance (R215). -/
def Inst.writeRow (i : Inst) (row : Nat) (v : Vec) (keep : Bool) : Inst :=
  let n := fmtRow i.fmt / 64
  { i with blocks := (i.blocks.zip (List.range i.blocks.length)).map fun (b, j) =>
      if n * row ≤ j && j < n * row + n then
        ⟨v.extractLsb' (512 * (j - n * row)) 512, if keep then b.desc else v.extractLsb' (2048 + 32 * (j - n * row)) 32, false⟩
      else b }

/-! ### Readiness (R198, R199) -/

/-- What a ready entry does once its translations are there: a step binds, every other command runs. A check that fails leaves it waiting for its deferred fault. -/
def State.runEntry (s : State) (c : Nat) (m : MEntry) : State :=
  match m.op with
  | .step _ pa fmt _ _ h => s.modEng c fun e => e.bind s.cycle m.id pa fmt (mTcls h)
  | .stepVa _ ta ab h => match stepCheck (s.pipe c m.sup) (s.core c).scratchSize h ta ab with
    | .ok pa =>
      let e := (s.core c).eng.bind s.cycle m.id pa (mWfmt h) (mTcls h)
      if e == (s.core c).eng then s
      else (s.tlbFill c true (s.core c).ctx ta (tileBytes (mWfmt h)) (pageFuel (tileBytes (mWfmt h)))).modEng c fun _ => e
    | .error _ => s
  | .zero a => (s.modCore c fun k => k.zeroAcc a).endIn c m.id 0 0
  | .tsclr a => (s.modCore c fun k => { k with ts := k.ts.put 0 a 0, tsNew := k.tsNew.filter fun x => x.1 != a }).endIn c m.id 0 0
  | .topkSet k cb => (s.modEng c fun e => { e with topk := ⟨k, cb, []⟩ }).endIn c m.id 0 0
  | .topkGet _ dst => s.runTopkGet c m.id dst
  | .topkGetVa va => match topkCheck (s.pipe c m.sup) va with
    | .ok dst => s.runTopkGet c m.id dst
    | .error _ => s
  | .drain a _ dst bias top h => s.runDrain c m.id a dst bias top h
  | .drainV a d vid bias top h => s.runDrainV c m.id a d vid bias top h
  | .drainM a dst tb h => match s.drainMReady c m.sup dst tb h with
    | .ok (segs, b, t, s) => s.runDrain c m.id a segs b t h
    | .error _ => s
  | .write pa fmt row _ v keep =>
    (s.modEng c fun e => { e with insts := e.insts.map fun i => if i.pa == pa && i.fmt == fmt && (match i.st with | .valid | .copying _ => true | _ => false) then i.writeRow row v keep else i }).endIn c m.id 0 0
  | .stitch _ _ _ _ _ _ => s
/-- What a ready entry does: it runs, or waits for a translation of its load pipes. -/
def State.startEntry (s : State) (c : Nat) (m : MEntry) : State := (s.pipeWaits c m.op.accesses).getD (s.runEntry c m)
/-- MATRIX_ENTRY_READY (R198, R199). -/
def execMatrixEntryReady (c id : Nat) (s : State) : Res :=
  let e := (s.core c).eng
  match e.entry? id with
  | some m => if e.ready m then .next (s.startEntry c m) else .next s
  | none => .next s

/-! ### Faults (R202, R203, R246) -/

/-- The engine freezes on a fault of entry `id` with `rows` done (R203): mrp and the report take its queue position, a running stitch stops and records the command (R246); one that has executed `uend` stays ended (R227). Steps on other arrays go on. The entry keeps the rows it has completed (log entry 41). DESIGN CHOICE: a fault of the stitch itself, which no command of it has met, reports as its command the number of those outstanding, and no rows (log entry 120). -/
def MEng.freeze (e : MEng) (region : Nat) (x : Cause) (id rows : Nat) (fatal : Bool) : MEng :=
  let inQ := e.q.any fun m => m.id == id
  let top := if inQ then id else match e.seq with | some q => q.entry | none => id
  let pos := (e.q.takeWhile fun m => m.id != top).length
  let fs := (e.sub.takeWhile fun m => m.id != id).length
  let e := e.modEntry id fun m => { m with st := if m.op.isStitch then m.st else .waiting }
  let e := { e with runs := e.runs.filter fun r => r.entry != id }
  match e.frozen with
  | some _ => e.settle
  | none =>
    ({ e with
      frozen := some ⟨{ x with loc := pos % 32 }, top, region, false, fatal, none⟩
      mrp := BitVec.ofNat 16 (0x8000 + pos % 32 * 256 + rows % 32)
      seq := e.seq.map fun q => if q.entry == top then { q with st := if q.st == .ended then .ended else .faulted fatal, fstep := fs } else q } : MEng).settle
/-- Core `c`'s engine freezes. -/
def State.freezeMatrix (s : State) (c : Nat) (x : Cause) (id rows : Nat) (fatal : Bool) : State :=
  s.modCore c fun k => { k.walksSpent .pipe with eng := k.eng.freeze k.iss.region x id rows fatal }
/-- `mpin` refused (R203, R214): the command is tried again when the engine resumes. -/
def State.refusePin (s : State) (c : Nat) (op : MDirect) (sup : Bool) (va : W72) : State :=
  s.modCore c fun k =>
    if k.eng.frozen.isSome then k.requeue (.direct op sup)
    else { k with eng := { k.eng with
      mrp := BitVec.ofNat 16 (0x8000 + k.eng.q.length % 32 * 256)
      frozen := some ⟨⟨0x11, 6, 0, k.eng.q.length % 32, va⟩, k.eng.nextId, k.iss.region, false, false, some (op, sup)⟩ } }

/-! ### Steps (R199 to R201) -/

/-- The cycles by which late rows have delayed row `m` of a step (R199). -/
def Run.lateBy (r : Run) (m : Nat) : Nat := r.late.foldl (fun n x => if x.1 ≤ m then n + x.2 else n) 0
/-- The cycle in which row `m` enters the array (R199). -/
def Run.enters (r : Run) (m : Nat) : Nat := r.start + (m - r.row0) * (r.t / 16) + r.lateBy m
/-- The data of row `m` have arrived: 16 cycles after it entered (R199, R204). -/
def Run.arrived (r : Run) (m cycle : Nat) : Bool := r.enters m + 16 ≤ cycle
/-- The cycle from which row `m` is written (R199). -/
def Run.dueAt (r : Run) (m : Nat) : Nat := r.enters m + 16 + r.t / 16
/-- The next row of a running step is due. -/
def Run.due (r : Run) (rows cycle : Nat) : Bool := r.dueAt rows ≤ cycle
/-- The array runs a step: it still takes its cycles, or a row of it is overdue (R192, R199). -/
def MEng.busy (e : MEng) (cycle a : Nat) : Bool :=
  e.runs.any fun r => r.arr == a && (cycle < r.start + (16 - r.row0) * (r.t / 16) + r.lateBy 15 ||
    (match e.entry? r.entry with | some m => r.dueAt m.rows < cycle | none => false))
/-- The instance on which a bound step would dispatch (R199, R387). -/
def MEng.dispatchOn (e : MEng) (cycle : Nat) (m : MEntry) : Option Inst :=
  if e.frozen.isSome || m.st != .bound then none
  else (e.insts.filter fun i => i.pa == m.pa && i.fmt == m.fmt && i.gen == m.gen && (i.st == .valid || (i.st == .retiring && i.full && i.blocks.all (!·.poison))) && !e.busy cycle (i.frame / 4)).foldl
    (fun (r : Option Inst) i => match r with | some j => if i.frame < j.frame then some i else some j | none => some i) none
/-- STEP_DISPATCH (R199): the oldest bound step that can dispatch goes first; a capped cluster holds it (R405). -/
def execStepDispatch (c id : Nat) (s : State) : Res :=
  let e := (s.core c).eng
  match e.entry? id with
  | none => .next s
  | some m =>
    match e.dispatchOn s.cycle m with
    | none => .next s
    | some i =>
      if (s.hub.clusters.get {} (clusterOf c)).holdSteps || (e.ahead id).any (fun x => (e.dispatchOn s.cycle x).isSome) then .next s
      else .next <| s.modEng c fun e =>
        let e := e.modEntry id fun m => { m with st := .running }
        ({ e with
          runs := e.runs ++ [⟨i.frame / 4, id, i.id, s.cycle, m.rows, stepTime m.op.shape, []⟩]
          insts := e.insts.map fun j => if j.id == i.id then { j with time := s.cycle } else j } : MEng).settle

/-- The fault code of a descriptor (R89, R309). -/
def DescFault.code : DescFault → Nat
  | .check => 0x0C
  | .format => 0x0D

/-- Elements of a row of blocks, decoded block by block (R90, R95). -/
def rowVals (fmt : Nat) (bs : List (BitVec 512 × BitVec 32)) : List Val :=
  let w := fmtBits fmt
  bs.flatMap fun (d, x) => (List.range (512 / w)).map fun i => decode ((d >>> (w * i)).toNat % 2 ^ w) fmt x

/-- The blocks of an activation row in device memory, read as loads of core `c` (R201, R203). -/
def State.actBlocks (s : State) (c : Nat) (sup : Bool) (fmt ev : Nat) : List W72 → Except Cause (List (BitVec 512 × BitVec 32) × State)
  | [] => .ok ([], s)
  | va :: t =>
    match s.pipe c sup .read va 64 with
    | .error f => .error (f.cause 6)
    | .ok [] => .error ⟨0x07, 6, 0, 0, va⟩
    | .ok (g :: _) =>
      let s := s.tlbFill c true (s.core c).ctx va 64 2
      let (b, s) := s.readEngine c (g.pa / 64) ev
      if b.poison then .error ⟨0x0B, 6, 0, 0, va⟩
      else match descCheck b.desc fmt with
        | some d => .error ⟨d.code, 6, 0, 0, va⟩
        | none => match s.actBlocks c sup fmt ev t with
          | .error x => .error x
          | .ok (l, s) => .ok ((b.data, b.desc) :: l, s)
/-- The blocks of an activation row in the scratchpad (R201). -/
def Core.scrBlocks (k : Core) (h : BitVec 128) (m x : Nat) : List Nat → Except Cause (List (BitVec 512 × BitVec 32))
  | [] => .ok []
  | j :: t =>
    let data := BitVec.ofNat 512 (leVal (k.scr.getList 0 (x + 64 * j) 64))
    let desc := if mAdesc h = 0 then mkDesc (BitVec.ofNat 8 (mAfmt h)) 0x7F 0 else BitVec.ofNat 32 (leVal (k.scr.getList 0 (mDbase h + 16 * m + 4 * j) 4))
    match descCheck desc (mAfmt h) with
    | some d => .error ⟨d.code, 6, 0, 0, offAddr (x + 64 * j)⟩
    | none => match k.scrBlocks h m x t with
      | .error e => .error e
      | .ok l => .ok ((data, desc) :: l)
/-- Activation row `m` of a step (R201). -/
def State.actRow (s : State) (c : Nat) (e : MEntry) (m : Nat) : Except Cause (List Val × State) :=
  let h := e.op.shape
  let js := List.range (fmtRow (mAfmt h) / 64)
  let ab := e.op.actVa
  if mAspace h = 1 then
    match (s.core c).scrBlocks h m (ab.toNat + 64 * mAstride h * m) js with
    | .error x => .error x
    | .ok l => .ok (rowVals (mAfmt h) l, s)
  else
    match s.actBlocks c e.sup (mAfmt h) (mAev h) (js.map fun j => ab + BitVec.ofNat 72 (64 * mAstride h * m + 64 * j)) with
    | .error x => .error x
    | .ok (l, s) => .ok (rowVals (mAfmt h) l, s)

/-- A tile block whose descriptor faults (R89, R201), with the address of the block. -/
def tileFault (va : W72) (fmt : Nat) : List Block → Option Cause
  | [] => none
  | b :: t => match descCheck b.desc fmt with
    | some d => some ⟨d.code, 6, 0, 0, va⟩
    | none => tileFault (va + 64) fmt t
/-- The 128 rows of a tile, decoded (R95). -/
def tileRows (i : Inst) : List (List Val) :=
  let n := fmtRow i.fmt / 64
  (List.range 128).map fun k => rowVals i.fmt (((i.blocks.drop (n * k)).take n).map fun b => (b.data, b.desc))
/-- One accumulator row after a step's row of activations (R95, R201). -/
def stepRow (acc : Vec) (a : List Val) (w : List (List Val)) : Vec :=
  vecLanes 32 ((List.range 128).map fun n => (stepAcc (lane32 acc n) ((a.zip w).map fun (x, r) => Val.mul x (r.getD n .nan))).toNat)

/-- The next row of the step that runs in an array: its entry, its number and the state with the row added; or the fault that stops it (R201, R203). -/
def State.nextRow (s : State) (c : Nat) (r : Run) : Option (MEntry × Except Cause State) :=
  let k := s.core c
  match k.eng.entry? r.entry, k.eng.insts.find? fun i => i.id == r.inst with
  | some m, some i =>
    let h := m.op.shape
    let out : Except Cause State :=
      match tileFault m.op.tileVa i.fmt i.blocks with
      | some x => .error x
      | none => match s.actRow c m m.rows with
        | .error x => .error x
        | .ok (a, s) =>
          let key := 16 * (m.op.acc?.getD 0) + m.rows
          let s := s.modCore c fun k => { k with acc := k.acc.put 0 key (stepRow (k.acc.get 0 key) a (tileRows i)) }
          .ok (s.meter c (match stepTime h with | 64 => 1 | 128 => 2 | _ => 3) (stepTime h / 16))
    some (m, match out with | .error x => .error { x with prog := m.rows } | .ok s => .ok s)
  | _, _ => none
/-- Row `n` of a step waits for a watermark: its activations in the scratchpad, or their descriptors, are not yet written (R264). -/
def Core.rowHeld (k : Core) (m : MEntry) (n : Nat) : Bool :=
  let h := m.op.shape
  mAspace h = 1 && ((k.wmWaits (m.op.actVa.toNat + 64 * mAstride h * n) (fmtRow (mAfmt h))).isSome ||
    (mAdesc h != 0 && (k.wmWaits (mDbase h + 16 * n) (fmtRow (mAfmt h) / 16)).isSome))
/-- The activation row `n` of a step in device memory, as an access. -/
def MOp.actAccess (o : MOp) (n : Nat) : List (W72 × Nat) :=
  if mAspace o.shape = 1 then [] else [(o.actVa + BitVec.ofNat 72 (64 * mAstride o.shape * n), fmtRow (mAfmt o.shape))]
/-- A step's row that would enter its array in this cycle and cannot, for a watermark or a translation, comes a cycle later, and every row after it (R199, R264, R325). -/
def State.holdRow (s : State) (c : Nat) (r : Run) : State :=
  let k := s.core c
  match k.eng.entry? r.entry with
  | none => s
  | some m =>
    (List.range 16).foldl (fun s n =>
      if n < r.row0 || r.enters n != s.cycle then s
      else
        let wait := if k.rowHeld m n then some s else s.pipeWaits c (m.op.actAccess n)
        match wait with
        | none => s
        | some u => u.modEng c fun e => { e with runs := e.runs.map fun x => if x.entry == r.entry then { x with late := x.late ++ [(n, 1)] } else x }) s
/-- Every running step of a core, held where it must be. -/
def State.holdRows (s : State) (c : Nat) : State := (s.core c).eng.runs.foldl (fun s r => s.holdRow c r) s
/-- The run of an array whose next row is due (R199). -/
def State.dueRun (s : State) (c arr : Nat) : Option Run :=
  let k := s.core c
  k.eng.runs.find? fun r => r.arr == arr && (match k.eng.entry? r.entry with | some m => r.due m.rows s.cycle | none => false)

/-- STEP_ROW_WRITE (R199, R201): one accumulator row; one that comes late delays those after it; the last completes the step. -/
def execStepRowWrite (c arr : Nat) (s : State) : Res :=
  match s.dueRun c arr with
  | none => .next s
  | some r => match s.nextRow c r with
    | some (m, .ok s') =>
      .next <| s'.modEng c fun e =>
        let e := e.modEntry m.id fun x => { x with rows := x.rows + 1 }
        let e := if r.dueAt m.rows < s.cycle then { e with runs := e.runs.map fun x => if x.entry == r.entry then { x with late := x.late ++ [(m.rows, s.cycle - r.dueAt m.rows)] } else x } else e
        if m.rows + 1 < 16 then e
        else
          let e := e.modEntry m.id fun x => { x with st := .ending s.cycle }
          ({ e with runs := e.runs.filter fun q => q.entry != m.id } : MEng).settle
    | _ => .next s

/-- The fault that a ready command of a stitch meets when it binds or runs (R239, R241, R242). -/
def State.startFault (s : State) (c : Nat) (m : MEntry) : Option Cause :=
  let k := s.core c
  if !k.eng.ready m || (s.pipeWaits c m.op.accesses).isSome then none
  else match m.op with
    | .stepVa _ ta ab h => (match stepCheck (s.pipe c m.sup) k.scratchSize h ta ab with | .error x => some x | .ok _ => none)
    | .drainM _ dst tb h => (match s.drainMReady c m.sup dst tb h with | .error x => some x | .ok _ => none)
    | .topkGetVa va => (match topkCheck (s.pipe c m.sup) va with | .error x => some x | .ok _ => none)
    | _ => none
/-- MATRIX_DEFERRED_FAULT (R203, R246): a row whose data have arrived, or a command, faults and freezes the engine. -/
def execMatrixDeferredFault (c id : Nat) (s : State) : Res :=
  match (s.core c).eng.entry? id with
  | none => .next s
  | some m =>
    match (s.core c).eng.runs.find? fun r => r.entry == id with
    | some r =>
      if r.arrived m.rows s.cycle then
        match s.nextRow c r with
        | some (_, .error x) => .next (s.freezeMatrix c x id m.rows false)
        | _ => .next s
      else .next s
    | none => match s.startFault c m with
      | some x => .next (s.freezeMatrix c { x with prog := m.rows } id m.rows false)
      | none => .next s

/-- MATRIX_COMMAND_COMPLETE (R198, R208, R209, R227): the entry leaves its queue; a drain's status becomes visible to a `tsrd` six cycles later, its registers are written; a stitch completes when its sequencer has ended and its commands are done. -/
def execMatrixCommandComplete (c id : Nat) (s : State) : Res :=
  let k := s.core c
  match k.eng.entry? id with
  | none => .next s
  | some m =>
    match m.st, m.op with
    | .ending t, op =>
      if s.cycle < t then .next s
      else
        let s := s.modEng c fun e => e.dropEntry id
        .next <| match op with
          | .drain a _ _ _ _ _ | .drainM a _ _ _ => s.modCore c fun k => { k with tsNew := k.tsNew ++ [(a, s.cycle + 5, m.status)] }
          | .drainV a _ vid _ _ _ => s.modCore c fun k => ({ k with tsNew := k.tsNew ++ [(a, s.cycle + 5, m.status)] } : Core).finishVar s.cycle vid
          | _ => s
    | _, .stitch _ _ _ _ _ _ =>
      match k.eng.seq with
      | some q => if q.entry == id && q.st == .ended && q.sq.isEmpty then .next (s.modEng c fun e => { e.dropEntry id with seq := none }) else .next s
      | none => .next s
    | _, _ => .next s

/-! ### Fills (R199, R200) -/

/-- The instance that the fill port serves: the first that still fills. -/
def MEng.filling? (e : MEng) : Option Inst := e.insts.find? Inst.fills
/-- One block through the fill port (R199): data and descriptor in one action, as a load of core `c` that allocates no L1 line. -/
def State.fillBlock (s : State) (c : Nat) : State :=
  let s := s.modEng c fun e => (e.servePins s.cycle).endRepl
  match (s.core c).eng.filling? with
  | none => s
  | some i =>
    let (b, s) := s.readEngine c (i.pa / 64 + i.blocks.length) 4
    s.modEng c fun e => { e with insts := e.insts.map fun j => if j.id == i.id then { j with blocks := j.blocks ++ [b] } else j }

/-- TILE_FILL_END (R199, R203): the instance becomes valid; a poisoned tile's group is invalidated and the step that waited for it reports rows = 0 (log entry 41). A replica copy ends when its cycles have passed. -/
def execTileFillEnd (c iid : Nat) (s : State) : Res :=
  match (s.core c).eng.insts.find? fun i => i.id == iid with
  | none => .next s
  | some i =>
    let ready := s.modEng c fun e => { e with insts := e.insts.map fun j => if j.id == iid then { j with st := .valid, time := s.cycle } else j }
    match i.st with
    | .copying _ => if i.time ≤ s.cycle then .next ready else .next s
    | .filling =>
      if !i.full then .next s
      else if i.blocks.any (·.poison) then
        let off := 64 * (i.blocks.takeWhile fun b => !b.poison).length
        let steps := (s.core c).eng.all.filter fun m => m.boundTo i
        let s := s.modEng c fun e =>
          let e := e.invalidate fun j => j.pa == i.pa && j.fmt == i.fmt
          { e with pins := e.pins.map fun p => if p.pa == i.pa && p.fmt == i.fmt then { p with want := false } else p }
        match steps with
        | [] => .next s
        | m :: _ => .next (s.freezeMatrix c ⟨0x0B, 6, 0, 0, m.op.tileVa + BitVec.ofNat 72 off⟩ m.id 0 false)
      else .next ready
    | .retiring =>
      if i.time != 0 || !i.full || !i.blocks.any (·.poison) then .next s
      else
        let off := 64 * (i.blocks.takeWhile fun b => !b.poison).length
        let steps := (s.core c).eng.all.filter fun m => m.boundTo i
        let s := s.modEng c fun e => (steps.foldl (fun e m => e.modEntry m.id fun m => { m with st := .waiting }) e).settle
        match steps with
        | [] => .next s
        | m :: _ => .next (s.freezeMatrix c ⟨0x0B, 6, 0, 0, m.op.tileVa + BitVec.ofNat 72 off⟩ m.id 0 false)
    | .valid => .next s

/-- A ready step waits for a placement: a demand fill (R200). -/
def MEng.demand (e : MEng) : Bool := e.all.any fun m => m.op.isStep && e.ready m
/-- EARLY_FILL (R200): a queued step that is not ready. -/
def execEarlyFill (c id : Nat) (s : State) : Res :=
  let e := (s.core c).eng.servePins s.cycle
  match e.entry? id with
  | some m =>
    match m.op with
    | .step _ pa fmt _ _ h =>
      if m.st != .waiting || e.ready m || e.demand || e.frozen.isSome || !(e.live pa fmt).isEmpty then .next s
      else match e.place fmt e.arrays with
        | some f => .next (s.modEng c fun _ => e.fillAt pa fmt (mTcls h) f)
        | none => .next s
    | _ => .next s
  | none => .next s

/-! ### Prefetch (R216, R217, R389, R390) -/

/-- The earlier of two deadlines; none counts as latest (R217). -/
def dlBefore : Option Nat → Option Nat → Bool
  | some a, some b => decide (a < b)
  | some _, none => true
  | none, _ => false
/-- Of two requests the one served first: deadline, priority, arrival (R217). -/
def pfFirst (a b : Prefetch) : Prefetch := if dlBefore b.dl a.dl || (b.dl == a.dl && a.prio < b.prio) then b else a
/-- Bytes that a prefetch reads, none when they do not translate. -/
def State.pfRead (s : State) (c : Nat) (sup : Bool) (va : W72) (n : Nat) : Option (List Byte × State) :=
  match s.pipe c sup .read va n with
  | .error _ => none
  | .ok segs =>
    let s := s.tlbFill c true (s.core c).ctx va n (pageFuel n)
    some (segs.foldl (fun (acc : List Byte × State) g =>
      (List.range ((g.pa + g.n - 1) / 64 + 1 - g.pa / 64)).foldl (fun (acc : List Byte × State) i =>
        let blk := g.pa / 64 + i
        let lo := max g.pa (64 * blk) - 64 * blk
        let hi := min (g.pa + g.n) (64 * blk + 64) - 64 * blk
        let (b, s) := acc.2.readEngine c blk 4
        (acc.1 ++ ((leList 64 b.data.toNat).drop lo).take (hi - lo), s)) acc) ([], s))
/-- An expert-table entry (R216): where its list stands, the tiles in it, their format and class; none when it is bad. -/
def State.pfEntry (s : State) (c : Nat) (p : Prefetch) : Option ((W72 × Nat × Nat × Nat) × State) :=
  match s.pfRead c p.sup p.table 16 with
  | none => none
  | some (b, s) =>
    let n := (b.getD 9 0).toNat
    let fmt := (b.getD 10 0).toNat
    let cls := (b.getD 11 0).toNat
    if n != 0 && (64 < n || !opFmt fmt || 3 < cls || (b.drop 12).any (· != 0)) then none
    else some ((BitVec.ofNat 72 (leVal (b.take 9)), n, fmt, cls), s)
/-- The tiles of a list (R216): none when it is bad. -/
def State.pfList (s : State) (c : Nat) (p : Prefetch) (a : W72) (n fmt cls : Nat) : Option (List (Nat × Nat × Nat) × State) :=
  match s.pfRead c p.sup a (16 * n) with
  | none => none
  | some (l, s) =>
    let ents := (List.range n).map fun i => (l.drop (16 * i)).take 16
    if ents.any fun x => (x.drop 9).any (· != 0) then none
    else some (ents.map fun x => (leVal (x.take 9), fmt, cls), s)
/-- The first entry of a list that equals `x` replaced. -/
def replaceFirst (x y : Prefetch) : List Prefetch → List Prefetch
  | [] => []
  | a :: t => if a = x then y :: t else a :: replaceFirst x y t
/-- A request leaves the prefetch queue, counted when it was ended or dropped (R217, R218). -/
def MEng.endPf (e : MEng) (p : Prefetch) (count : Bool) : MEng :=
  { e with pfq := e.pfq.erase p, pfLost := if count then e.pfLost + 1 else e.pfLost }
/-- PREFETCH_SERVICE (R217, R389): the request served next reads its entry, skips a resident tile, or starts the Fill of a tile, never ahead of a demand fill. -/
def execPrefetchService (c : Nat) (s : State) : Res :=
  let e := (s.core c).eng.servePins s.cycle
  match e.pfq with
  | [] => .next s
  | x :: t =>
    let p := t.foldl pfFirst x
    let put (l : List (Nat × Nat × Nat)) (e : MEng) : MEng := { e with pfq := replaceFirst p { p with tiles := some l } e.pfq }
    let gone (s : State) (n : Bool) : Res := .next (s.modEng c fun e => e.endPf p n)
    match p.tiles with
    | none => match s.pipeWaits c [(p.table, 16)] with
      | some u => .next u
      | none => match s.pfEntry c p with
        | none => gone s true
        | some ((a, n, fmt, cls), s) =>
          if n = 0 then gone s false
          else match s.pipeWaits c [(a, 16 * n)] with
            | some u => .next u
            | none => match s.pfList c p a n fmt cls with
              | none => gone s true
              | some (l, s) => .next (s.modEng c (put l))
    | some [] => gone s false
    | some ((va, fmt, cls) :: l) =>
      let rest := put l
      match s.pipeWaits c [(BitVec.ofNat 72 va, tileBytes fmt)] with
      | some u => .next u
      | none => match tileCheck (s.pipe c p.sup) .read fmt (BitVec.ofNat 72 va) with
      | .error _ => .next (s.modEng c fun e => e.endPf p true)
      | .ok pa =>
        if !(e.live pa fmt).isEmpty then .next (s.modEng c rest)
        else if e.demand || e.insts.any (fun i => i.st == .filling) then .next s
        else match e.place fmt e.arrays with
          | none => .next s
          | some f => .next (s.modEng c fun _ => rest (e.fillAt pa fmt cls f))

/-! ### Direct commands at the head of RQ (R198, R214, R217) -/

/-- A direct command takes effect; none while it must wait (R205, R214). -/
def State.performDirect (s : State) (c : Nat) (o : MDirect) (sup : Bool) : Option State :=
  let e := (s.core c).eng
  match o with
  | .pin pa fmt cls va =>
    if e.pins.any fun p => p.pa == pa && p.fmt == fmt then some s
    else if e.pinRefused fmt then some (s.refusePin c o sup va)
    else some (s.modEng c fun e => ({ e with pins := e.pins ++ [⟨pa, fmt, cls, true⟩] } : MEng).servePins s.cycle)
  | .unpin pa fmt _ => some (s.modEng c fun e => e.unpin pa fmt)
  | .inv pa fmt _ =>
    if s.storeWaits c pa (tileBytes fmt) then none
    else some (s.modEng c fun e => (e.retire fun i => i.pa == pa && i.fmt == fmt).servePins s.cycle)
  | .repl pa fmt cls n _ => (e.replicate s.cycle pa fmt cls n).map fun e' => s.modEng c fun _ => e'
  | .pref table id prio dl =>
    some (s.modEng c fun e =>
      if 16 ≤ e.pfq.length then { e with pfLost := e.pfLost + 1 }
      else { e with pfq := e.pfq ++ [⟨id, prio, if dl = 0 then none else some (s.cycle + 256 * dl), table, sup, none⟩] })
  | .cancelId id => some (s.modEng c fun e => { e with pfq := e.pfq.filter fun p => p.id != id })
  | .cancelAll => some (s.modEng c fun e => { e with pfq := [] })
  | .flush => some (s.modCore c fun k => k.flushMatrix)

/-! ### Arrays (R195, R204, R375) -/

/-- A pin that retirement leaves outside the pinnable arrays (R195): moved into free pinnable frames, by a copy of a valid instance, by its Fill or copy under way going on there, or by a new Fill; released where no such frames are free. -/
def MEng.movePin (e : MEng) (cycle : Nat) (p : Pin) : MEng :=
  let live := e.live p.pa p.fmt
  let kept (e : MEng) : MEng := { e with pins := e.pins.map fun q => if q.pa == p.pa && q.fmt == p.fmt then { q with want := false } else q }
  if live.any fun i => e.pinArrays.contains (i.frame / 4) then e
  else match (firstFrames p.fmt e.pinArrays).find? fun f => (e.occupants f (fmtFrames p.fmt)).isEmpty with
    | none => e.unpin p.pa p.fmt
    | some f => kept <| match live.find? (fun i => i.st == .valid), live with
      | some i, _ => e.copyAt i f cycle
      | none, i :: _ => { e with insts := e.insts.map fun j => if j.id == i.id then { j with frame := f } else j }
      | none, [] => e.fillAt p.pa p.fmt p.cls f
/-- An array leaves the weight cache: its steps stop at their row, its instances are invalidated, and the pins that had an instance and are left outside the pinnable arrays move or are released (R195, R375). -/
def MEng.retireArray (e : MEng) (cycle arr : Nat) : MEng :=
  if e.dead.contains arr then e
  else
    let placed := e.pins.filter fun p => !(e.live p.pa p.fmt).isEmpty
    let gone := e.runs.filter fun r => r.arr == arr
    let e := gone.foldl (fun e r => e.modEntry r.entry fun m => { m with st := .waiting }) { e with runs := e.runs.filter fun r => r.arr != arr }
    let e := { e.invalidate (fun i => i.frame / 4 == arr) with dead := e.dead ++ [arr] }
    placed.foldl (fun e p => e.movePin cycle p) e
/-- The part of a parity error that the core sees (R204): the step stops at its row boundary, its instance is invalidated, and a valid replica is copied in its place. While an instance of the group is left, or on its way, the group's steps stay bound to it; with none left they bind again, which refills the tile. Each resumes at its progress. -/
def MEng.parity (e : MEng) (cycle arr : Nat) : MEng :=
  match e.runs.find? fun r => r.arr == arr with
  | none => e
  | some r =>
    let e := { e with runs := e.runs.filter fun q => q.entry != r.entry }
    let e := e.modEntry r.entry fun m => { m with st := .bound }
    match e.insts.find? fun i => i.id == r.inst with
    | none => e
    | some i =>
      let e := { e with insts := e.insts.filter fun j => j.id != i.id
                        pins := e.pins.map fun (p : Pin) => if p.pa == i.pa && p.fmt == i.fmt then { p with want := true } else p }
      let rest := e.insts.filter fun j => j.ofGroup i && (j.st != .retiring || j.full || j.fills)
      if rest.isEmpty then
        let unb (m : MEntry) : MEntry := if m.boundTo i then { m with st := .waiting } else m
        ({ e with q := e.q.map unb, seq := e.seq.map fun q => { q with sq := q.sq.map unb } } : MEng).settle
      else match rest.find? fun j => j.st == .valid with
        | some src => (match e.place i.fmt (e.freshArrays i) with | some f => e.copyAt src f cycle | none => e)
        | none => e

end Sys2Proof.Machine
end

