-- ==== Sys2Proof/Machine/Stitch.lean ====
section
/-! DEFINITION. Stitches: the banks and their reload, the sequencer and every micro-operation, the microstate block, the built-in stitches and the validator (R222 to R250). -/
namespace Sys2Proof.Machine

/-! ### Banks (R222, R224) -/

/-- The bank of 1 to 3 that holds a context's image (R224). -/
def MEng.bankOf (e : MEng) (ctx : Nat) : Option Nat := [1, 2, 3].find? fun b => (e.banks.get {} b).tag == some ctx
/-- A context's image is on its way into a bank (R224). -/
def MEng.reloading (e : MEng) (ctx : Nat) : Bool := e.reload.any fun x => x.2.1 == ctx
/-- The bank that a reload takes (R224): an invalid one, else the least recently used; a tie goes to the lowest number. A bank that is being reloaded is not taken. -/
def MEng.reloadBank (e : MEng) : Option Nat :=
  let key (b : Nat) : Nat := let x := e.banks.get {} b; if x.tag.isNone then 0 else x.used + 1
  match [1, 2, 3].filter fun b => !e.reload.any fun x => x.1 == b with
  | [] => none
  | b :: t => some (t.foldl (fun r b => if key b < key r then b else r) b)
/-- A reload starts where no bank holds the context or is taking it (R224): 1 µs, 4,000 cycles. -/
def MEng.startReload (e : MEng) (ctx cycle : Nat) : MEng :=
  if (e.bankOf ctx).isSome || e.reloading ctx then e
  else match e.reloadBank with
    | some b => { e with banks := e.banks.put {} b { e.banks.get {} b with tag := none }, reload := e.reload ++ [(b, ctx, cycle + 4000)] }
    | none => e
/-- The stitch entry at the front of the queue, ready to start (R227). DESIGN CHOICE: none starts while a pre-emption request is pending, of which R244 speaks only for a running stitch (log entry 121). -/
def MEng.stitchFront (e : MEng) : Option MEntry :=
  match e.q with
  | m :: _ => if m.op.isStitch && e.frozen.isNone && !e.yieldReq && (m.st == .waiting || (match e.seq with | some q => q.st == .yielding | none => false)) then some m else none
  | [] => none
/-- A stitch entry runs from bank 0 (R250). -/
def MOp.inBank0 : MOp → Bool
  | .stitch b _ _ _ _ _ => b
  | _ => false
/-- The bank of an entry is loaded (R222, R224, R227). -/
def MEng.bankReady (e : MEng) (ctx : Nat) (o : MOp) : Bool := if o.inBank0 then e.bank0 else (e.bankOf ctx).isSome

/-- The stitch that runs at the front of the queue, or goes on there after its fault, has no bank of its context: it was saved on another core (R224, R246). -/
def MEng.runsBare (e : MEng) (ctx : Nat) : Bool :=
  match e.q, e.seq with
  | m :: _, some q => q.entry == m.id && q.st == .running && !m.op.inBank0 && (e.bankOf ctx).isNone
  | _, _ => false
/-- STITCH_BANK_RELOAD (R224, step 3): a ready stitch entry finds no bank of its context. -/
def execStitchBankReload (c : Nat) (s : State) : Res :=
  let k := s.core c
  match k.eng.stitchFront with
  | some m =>
    if m.op.inBank0 || k.eng.bankReady k.ctx m.op then .next s
    else .next (s.modEng c fun e => e.startReload k.ctx s.cycle)
  | none => .next (if k.eng.runsBare k.ctx then s.modEng c fun e => e.startReload k.ctx s.cycle else s)
/-- STITCH_BANK_RELOAD_END (R224): the oldest reload's bank holds the image as it now stands; the bank's use time stays. -/
def execStitchBankReloadEnd (c : Nat) (s : State) : Res :=
  match (s.core c).eng.reload with
  | (b, ctx, due) :: t =>
    if s.cycle < due then .next s
    else
      let image := match s.hub.ctx? ctx with | some x => x.image | none => []
      .next (s.modEng c fun e => { e with banks := e.banks.put {} b { e.banks.get {} b with tag := some ctx, words := image }, reload := t })
  | [] => .next s

/-! ### The built-in stitches (R250) -/

/-- Micro-words of operations under a predicate code. -/
def microWords (l : List (BitVec 4 × Instr)) : List (BitVec 64) := l.map fun (pc, i) => (encodeMicro ⟨false, pc, i⟩).getD 0
/-- A displacement. -/
def disp10 (i : Int) : BitVec 10 := BitVec.ofInt 10 i
/-- An immediate of format UA. -/
def imm41 (n : Nat) : BitVec 41 := BitVec.ofNat 41 n

/-- `kred` in micro-words, from its MD operands and its shape (R250). -/
def kredWords (acc : BitVec 5) (h : BitVec 2) (m : BitVec 3) (sh : BitVec 128) : List (BitVec 64) :=
  microWords [(0, .uacc ⟨acc, 1⟩), (0, .uzero), (0, .uldmp ⟨0, m⟩), (0, .uldmp ⟨1, m + 1⟩), (0, .uldop ⟨2, 0, 10, 10⟩), (0, .uaddi ⟨2, 2, 0, 1⟩),
    (0, .uloop ⟨0, 2, 1, 0, 4⟩), (0, .ustep ⟨0, 1, h⟩), (0, .uaddi ⟨0, 0, 0, imm41 (tileBytes (mWfmt sh))⟩),
    (0, .uaddi ⟨1, 1, 0, imm41 (1024 * mAstride sh)⟩), (0, .unext ⟨0, 0, 0, 0, disp10 (-3)⟩),
    (0, .uldmp ⟨3, m + 2⟩), (0, .uldmp ⟨4, m + 3⟩), (0, .udrain ⟨4, 3, h⟩), (0, .uyield), (0, .uend)]
/-- `gridn` in micro-words (R250): two accumulators in turn, so that a column's drain overlaps the next column's steps. -/
def gridnWords (acc : BitVec 5) (h : BitVec 2) (m : BitVec 3) (sh : BitVec 128) : List (BitVec 64) :=
  microWords [(0, .uldop ⟨0, 0, 10, 8⟩), (0, .uaddi ⟨0, 0, 0, 1⟩), (0, .uldop ⟨1, 0, 18, 5⟩), (0, .uaddi ⟨1, 1, 0, 1⟩),
    (0, .uldmp ⟨2, m⟩), (0, .uldmp ⟨4, m + 2⟩), (0, .uldmp ⟨5, m + 3⟩), (0, .uacc ⟨acc, 2⟩), (0, .uring ⟨1⟩),
    (0, .uloop ⟨0, 1, 2, 0, 13⟩), (0, .uldmp ⟨3, m + 1⟩), (1, .uzero), (1, .uloop ⟨1, 0, 1, 0, 4⟩), (0, .ustep ⟨2, 3, h⟩),
    (0, .uaddi ⟨2, 2, 0, imm41 (tileBytes (mWfmt sh))⟩), (0, .uaddi ⟨3, 3, 0, imm41 (1024 * mAstride sh)⟩), (0, .unext ⟨1, 0, 0, 0, disp10 (-3)⟩),
    (0, .uaca ⟨1, 0⟩), (2, .udrain ⟨5, 4, h⟩), (2, .uyield), (2, .uaddi ⟨4, 4, 0, imm41 (fmtRow (mOfmt sh))⟩),
    (2, .uaddi ⟨5, 5, 0, 1024⟩), (0, .unext ⟨0, 0, 0, 1, disp10 (-12)⟩), (0, .uend)]
/-- The words of the built-in stitch at an entry (R250). -/
def builtinWords (entry : Nat) (opw : BitVec 43) (mh : List (BitVec 128)) : List (BitVec 64) :=
  let h := opw.extractLsb' 36 2
  let sh := mh.getD h.toNat 0
  (if entry = 0 then kredWords else gridnWords) (opw.extractLsb' 38 5) h (opw.extractLsb' 33 3) sh

/-! ### The sequencer (R227 to R233) -/

/-- STITCH_START (R227, R244): the oldest entry's stitch starts in the next cycle, once its bank is loaded; a saved one goes on with steps and words zero. -/
def execStitchStart (c : Nat) (s : State) : Res :=
  let k := s.core c
  match k.eng.stitchFront with
  | some m =>
    if !k.eng.bankReady k.ctx m.op then .next s
    else match m.op, k.eng.seq with
      | .stitch _ _ _ _ _ _, some q => .next (s.modEng c fun e => { e with seq := some { q with st := .running, steps := 0, words := 0, elig := s.cycle + 1 } })
      | .stitch b entry depth opw _ mh, none =>
        let q : Seq := { entry := m.id, bank0 := b, upc := entry, depth := depth, elig := s.cycle + 1, prog := if b then builtinWords entry opw mh else [] }
        .next (s.modEng c fun e => { e.modEntry m.id fun x => { x with st := .running } with seq := some q })
      | _, _ => .next s
  | none => .next s

/-- What the running stitch captured: operand word, matrix parameters and shapes (R226). -/
def MEng.captured (e : MEng) (q : Seq) : BitVec 43 × List W72 × List (BitVec 128) :=
  match e.q.find? fun m => m.id == q.entry with
  | some m => (match m.op with
    | .stitch _ _ _ opw mp mh => (opw, mp, mh)
    | _ => (0, [], []))
  | none => (0, [], [])
/-- The micro-word at upc (R229). -/
def MEng.word (e : MEng) (ctx : Nat) (q : Seq) : BitVec 64 :=
  if q.bank0 then q.prog.getD (if q.upc < 0x40 then q.upc else q.upc - 0x40) 0
  else match e.bankOf ctx with
    | some b => (e.banks.get {} b).words.get 0 q.upc
    | none => 0
/-- The bank in use is marked with the cycle (R224). -/
def MEng.touchBank (e : MEng) (ctx : Nat) (q : Seq) (cycle : Nat) : MEng :=
  match if q.bank0 then none else e.bankOf ctx with
  | some b => { e with banks := e.banks.put {} b { e.banks.get {} b with used := cycle } }
  | none => e

/-- A temporary (R229). -/
def Seq.t (q : Seq) (n : BitVec 4) : W72 := q.mt.get 0 n.toNat
/-- A temporary written. -/
def Seq.setT (q : Seq) (n : BitVec 4) (v : W72) : Seq := { q with mt := q.mt.put 0 n.toNat v }
/-- The current accumulator (R229). -/
def Seq.acc (q : Seq) : Nat := (q.abase + q.aoff) % 32
/-- On to the next word, one cycle later (R233). -/
def Seq.go (q : Seq) (cycle : Nat) : Seq := { q with upc := (q.upc + 1) % 1024, elig := cycle + 1 }
/-- A transfer by a signed displacement in words, two cycles (R231, R233). -/
def Seq.hop (q : Seq) (cycle : Nat) (d : Int) : Seq := { q with upc := (((q.upc : Int) + d) % 1024).toNat, elig := cycle + 2 }
/-- The value that a predicate code and its invert bit give (R230). -/
def Seq.pred (q : Seq) (inv : Bool) (pc : BitVec 4) : Bool := (pc == 0 || q.sp.getLsbD (pc.toNat - 1)) != inv

/-- A word, one that issues a step or not, would pass the declared depth (R243). -/
def Seq.overruns (q : Seq) (step : Bool) : Bool := decide (q.depth < q.steps + (if step then 1 else 0) + (q.words + 1) / 256)
/-- One word of the acting core's running stitch (R233, R243): counted, refused with the reduction-depth overrun when it would pass the declared depth, or waiting when `f` gives none. -/
def State.micro (s : State) (step : Bool) (f : Seq → State → Option (Seq × State)) : Res :=
  let e := s.me.eng
  match e.seq with
  | none => .next s
  | some q =>
    if q.st != .running || e.frozen.isSome then .next s
    else
      let q' := { q with steps := q.steps + (if step then 1 else 0), words := q.words + 1 }
      if q.overruns step then .next (s.freezeMatrix s.cur ⟨0x12, 6, q.steps, 0, 0⟩ q.entry 0 true)
      else match f q' s with
        | none => .next s
        | some (q'', s) => .next (s.modMe fun c => { c with eng := { c.eng.touchBank c.ctx q s.cycle with seq := some q'' } })
/-- A word that only changes the micro-state. -/
def State.microQ (s : State) (f : Seq → Seq) : Res := s.micro false fun q s => some (f q, s)
/-- A word that writes one temporary. -/
def State.microT (s : State) (d : BitVec 4) (v : Seq → W72) : Res := s.microQ fun q => (q.setT d (v q)).go s.cycle

/-- A command of the stitch enters its step queue (R228): it waits while 16 are outstanding. -/
def State.issueSub (s : State) (q : Seq) (o : MOp) : Option (Seq × State) :=
  if 16 ≤ q.sq.length then none
  else
    let id := s.me.eng.nextId
    some (({ q with sq := q.sq ++ [⟨id, o, false, .waiting, 0, 0, 0, 0, 0⟩] } : Seq).go s.cycle, s.modMe fun c => { c with eng := { c.eng with nextId := id + 1 } })
/-- A word that issues a command on the current accumulator (R238, R239, R241): beyond the declared accumulators it is not issued, and the illegal-bundle fault is deferred (R59). -/
def State.microAcc (s : State) (step : Bool) (o : Seq → MOp) : Res :=
  let lim := match s.me.job with | some j => j.accs | none => 32
  match s.me.eng.seq with
  | some q =>
    if q.st == .running && s.me.eng.frozen.isNone && !q.overruns step && lim ≤ q.acc then .next (s.freezeMatrix s.cur (cause0 0x01 0x36) q.entry 0 false)
    else s.micro step fun q s => s.issueSub q (o q)
  | none => .next s
/-- The captured shape that a UM word names. -/
def State.capShape (s : State) (q : Seq) (h : BitVec 2) : BitVec 128 := (s.me.eng.captured q).2.2.getD h.toNat 0

/-! ### Micro-operations (R234 to R244) -/

/-- `unop` (R234). -/
def execUnop (s : State) : Res := s.microQ fun q => q.go s.cycle
/-- `uend` (R234): the sequencer stops. -/
def execUend (s : State) : Res := s.microQ fun q => { q.go s.cycle with st := .ended }
/-- `uwait` (R234): it waits for every command that the stitch has issued. -/
def execUwait (s : State) : Res := s.micro false fun q s => if q.sq.isEmpty then some (q.go s.cycle, s) else none
/-- `uyield` (R243, R244): the counts restart; with a pre-emption pending the stitch stops here once its commands are done. -/
def execUyield (s : State) : Res :=
  s.micro false fun q s =>
    let q := { q with steps := 0, words := 0 }
    if s.me.eng.yieldReq then
      if q.sq.isEmpty then some ({ q.go s.cycle with st := .yielding }, s) else none
    else some (q.go s.cycle, s)
/-- `ujmp` (R234). -/
def execUjmp (f : UL) (s : State) : Res := s.microQ fun q => q.hop s.cycle f.disp.toInt
/-- `ubz` (R234). -/
def execUbz (f : UL) (s : State) : Res := s.microQ fun q => if q.t f.a = 0 then q.hop s.cycle f.disp.toInt else q.go s.cycle
/-- `uring` (R234). -/
def execUring (f : UR) (s : State) : Res := s.microQ fun q => ({ q with sp := f.ring } : Seq).go s.cycle

/-- `uloop` with a true predicate (R235). -/
def execUloop (f : UL) (s : State) : Res :=
  s.microQ fun q =>
    let c : BitVec 32 := (q.t f.a).setWidth 32
    if c = 0 then { q with ml := q.ml.put {} f.n.toNat {} }.hop s.cycle (f.disp.toInt + 1)
    else ({ q with ml := q.ml.put {} f.n.toNat ⟨f.ec, c - 1⟩ } : Seq).go s.cycle
/-- `uloop` with a false predicate (R235): the body is skipped, the counter unchanged. -/
def State.skipLoop (s : State) (f : UL) : Res := s.microQ fun q => q.hop s.cycle (f.disp.toInt + 1)
/-- The counter after an `unext`, the bit that enters the ring, and whether it is taken (R235). -/
def unextCount (l : LoopCtr) (r : Bool) : LoopCtr × Bool × Bool :=
  if l.cnt ≠ 0 then ({ l with cnt := l.cnt - 1 }, true, true)
  else if r && 1 < l.ec.toNat then ({ l with ec := l.ec - 1 }, false, true)
  else ({ l with ec := 0 }, false, false)
/-- `unext` (R235). -/
def execUnext (f : UL) (s : State) : Res :=
  s.microQ fun q =>
    let r := f.r == 1
    let (l, new, taken) := unextCount (q.ml.get {} f.n.toNat) r
    let q := { q with ml := q.ml.put {} f.n.toNat l, sp := if r then (q.sp <<< 1) ||| (if new then 1 else 0) else q.sp }
    if taken then q.hop s.cycle f.disp.toInt else q.go s.cycle

/-- `uadd` (R236). -/
def execUadd (f : UA) (s : State) : Res := s.microT f.d fun q => q.t f.a + q.t f.b
/-- `uaddi` (R236). -/
def execUaddi (f : UA) (s : State) : Res := s.microT f.d fun q => q.t f.a + imm72 f.imm
/-- `umuli` (R236). -/
def execUmuli (f : UA) (s : State) : Res := s.microT f.d fun q => q.t f.a * imm72 f.imm
/-- `ushli` (R236). -/
def execUshli (f : UA) (s : State) : Res := s.microT f.d fun q => q.t f.a <<< f.imm.toNat
/-- `uandi` (R236). -/
def execUandi (f : UA) (s : State) : Res := s.microT f.d fun q => q.t f.a &&& imm72 f.imm

/-- The value of `uldop` (R237). -/
def uldopVal (opw : BitVec 43) (f : UO) : W72 :=
  let n := f.n.toNat
  let v := (opw >>> f.lo.toNat).setWidth n
  if f.sx == 1 then v.signExtend 72 else v.setWidth 72
/-- `uldop` (R237). -/
def execUldop (f : UO) (s : State) : Res := s.microT f.d fun q => uldopVal (s.me.eng.captured q).1 f
/-- `uldmp` (R237). -/
def execUldmp (f : UP) (s : State) : Res := s.microT f.d fun q => (s.me.eng.captured q).2.1.getD f.mp.toNat 0

/-- `uacc` (R238). -/
def execUacc (f : UK) (s : State) : Res := s.microQ fun q => ({ q with abase := f.n.toNat, acnt := f.cnt.toNat, aoff := 0 } : Seq).go s.cycle
/-- `uaca` (R238). -/
def execUaca (f : UK) (s : State) : Res := s.microQ fun q => ({ q with aoff := (q.aoff + f.n.toNat) % q.acnt } : Seq).go s.cycle
/-- `uzero` (R238). -/
def execUzero (s : State) : Res := s.microAcc false fun q => .zero q.acc
/-- `ustep` (R239): its checks are made when the step binds. -/
def execUstep (f : UM) (s : State) : Res := s.microAcc true fun q => .stepVa q.acc (q.t f.t) (q.t f.a) (s.capShape q f.h)
/-- `udrain` (R241). -/
def execUdrain (f : UM) (s : State) : Res := s.microAcc false fun q => .drainM q.acc (q.t f.a) (q.t f.t) (s.capShape q f.h)
/-- `utopk` (R242). -/
def execUtopk (f : UM) (s : State) : Res := s.micro false fun q s => s.issueSub q (.topkSet f.t.toNat ((q.t f.a).extractLsb' 0 19).toNat)
/-- `utopkg` (R242). -/
def execUtopkg (f : UM) (s : State) : Res := s.micro false fun q s => s.issueSub q (.topkGetVa (q.t f.a))

/-- The rows of an activation block, by address and bytes (R240). -/
def actRows (h : BitVec 128) (base : W72) : List (W72 × Nat) :=
  (List.range 16).map fun m => (base + BitVec.ofNat 72 (64 * mAstride h * m), fmtRow (mAfmt h))
/-- Every block that holds a byte of some rows brought into the L2 (R240): none when a row does not translate. -/
def State.prefL2 (s : State) (c ev : Nat) (rows : List (W72 × Nat)) : State :=
  let segs := rows.map fun x => s.pipe c false .read x.1 x.2
  if segs.all fun x => match x with | .ok _ => true | .error _ => false then
    (segs.flatMap fun x => match x with | .ok l => l | .error _ => []).foldl (fun s g =>
      (List.range ((g.pa + g.n - 1) / 64 + 1 - g.pa / 64)).foldl (fun s i => (s.readHome c (g.pa / 64 + i) (min ev 3) true).2) s) s
  else s
/-- What an `upref` reads (R240): nothing for activations in scratchpad, and no L2 line for a class that allocates none. DESIGN CHOICE: under a shape that R197 calls illegal, which faults where a step uses it and which R240 lets pass, it reads nothing for aev 7, and rows as `fmtRow` sizes them for an illegal afmt (log entry 119). -/
def State.uprefRows (s : State) (q : Seq) (f : UM) : List (W72 × Nat) :=
  let h := s.capShape q f.h
  if mAspace h = 1 || mAev h = 5 || mAev h = 7 then [] else actRows h (q.t f.a)
/-- An `upref` that the sequencer has reached waits for a translation of the load pipes (R324). -/
def State.uprefWaits (s : State) (f : UM) : Option State :=
  match s.me.eng.seq with
  | some q => if q.st == .running && s.me.eng.frozen.isNone && !q.overruns false then s.pipeWaits s.cur (s.uprefRows q f) else none
  | none => none
/-- `upref` (R240): it never faults and takes no step-queue entry. -/
def execUpref (f : UM) (s : State) : Res :=
  match s.uprefWaits f with
  | some u => .next u
  | none => s.micro false fun q s =>
    let t := s.prefL2 s.cur (mAev (s.capShape q f.h)) (s.uprefRows q f)
    some ({ q.go s.cycle with sq := match t.me.eng.seq with | some x => x.sq | none => q.sq }, t)

/-- STITCH_STORE_ERROR (R247): the bank loses its valid bit, bank 0 is reloaded from the boot image, and the stitch cannot go on. -/
def execStitchStoreError (c : Nat) (s : State) : Res :=
  let k := s.core c
  match k.eng.seq with
  | some q =>
    if q.st == .running && k.eng.frozen.isNone then
      let s := s.modEng c fun e => match if q.bank0 then none else e.bankOf k.ctx with
        | some b => { e with banks := e.banks.put {} b { e.banks.get {} b with tag := none } }
        | none => e
      .next (s.freezeMatrix c ⟨0x13, 6, q.upc, 0, 0⟩ q.entry 0 true)
    else .next s
  | none => .next s

/-! ### The microstate block (R245) -/

/-- The 256 bytes of the microstate block; all zero when no stitch is saved. -/
def MEng.block (e : MEng) (ctx : Nat) : List Byte :=
  match e.seq with
  | none => List.replicate 256 0
  | some q =>
    let frozen := e.frozen.isSome
    (List.range 16).flatMap (fun i => leList 9 (q.mt.get 0 i).toNat) ++
    (List.range 4).flatMap (fun i => leList 8 (q.ml.get {} i).bits.toNat) ++
    leList 8 (e.captured q).1.toNat ++ leList 2 (q.upc + (if q.bank0 then 2 ^ 15 else 0)) ++ leList 1 q.sp.toNat ++
    leList 1 q.aoff ++ leList 1 q.abase ++ leList 1 q.acnt ++ leList 2 (if frozen then e.mrp.toNat else 0) ++
    leList 4 q.steps ++ leList 4 q.words ++ leList 2 q.depth ++ leList 2 ctx ++ leList 1 (if frozen then 3 else 1) ++
    leList 1 (if frozen then q.fstep else 0) ++ List.replicate 50 0

/-! ### The validator (R248) -/

/-- The codes that a word's own encoding raises (R248, codes 3 and 4). A backward `ujmp` or `ubz` has a displacement outside R234's 1 to 511, so code 4 comes before code 6, which also names it (log entry 94). -/
def wordCode (w : BitVec 64) : Option Nat :=
  match decodeOpU (w.extractLsb' 58 6).toNat (w.extractLsb' 0 53) with
  | none => some 3
  | some (i, z) =>
    if 8 < (w.extractLsb' 53 4).toNat then some 3
    else
      let ok := match i with
        | .unext f => wf (.unext f) && w.extractLsb' 53 5 == 0
        | i => wf i
      if z && ok then none else some 4
/-- A word's operation, where it has one. -/
def wordOp (w : BitVec 64) : Option Instr := (decodeOpU (w.extractLsb' 58 6).toNat (w.extractLsb' 0 53)).map (·.1)
/-- The word at index `i` of a record. -/
def wordAt (ws : List (BitVec 64)) (i : Nat) : BitVec 64 := ws.getD i 0
/-- The word indexes of a record. -/
def idxs (ws : List (BitVec 64)) : List Nat := List.range ws.length
/-- The paired loops of a record: index of `uloop`, index of `unext`, counter (R235). -/
def loopsOf (ws : List (BitVec 64)) : List (Nat × Nat × Nat) :=
  (idxs ws).filterMap fun i => match wordOp (wordAt ws i) with
    | some (.uloop f) =>
      let j := ((i : Int) + f.disp.toInt).toNat
      if 0 < f.disp.toInt && j < ws.length then
        match wordOp (wordAt ws j) with
        | some (.unext g) => if g.n == f.n && g.disp.toInt == (i : Int) + 1 - j then some (i, j, f.n.toNat) else none
        | _ => none
      else none
    | _ => none
/-- How many words of a record satisfy a test. -/
def countOps (ws : List (BitVec 64)) (p : Instr → Bool) : Nat :=
  (ws.filter fun w => match wordOp w with | some i => p i | none => false).length
/-- The loops that enclose index `i`. -/
def enclosing (ls : List (Nat × Nat × Nat)) (i : Nat) : List (Nat × Nat × Nat) := ls.filter fun (a, b, _) => a < i && i ≤ b
/-- Loops unpaired, badly nested, nested deeper than 4, or sharing a counter in one nest (R248, code 5). -/
def loopsBad (ws : List (BitVec 64)) : Bool :=
  let ls := loopsOf ws
  let nl := countOps ws fun i => match i with | .uloop _ => true | _ => false
  let nn := countOps ws fun i => match i with | .unext _ => true | _ => false
  ls.length != nl || nn != nl || !(ls.map fun x => x.2.1).Nodup ||
  ls.any fun (a, b, k) =>
    let outer := ls.filter fun (x, y, _) => x < a && b < y
    4 ≤ outer.length || outer.any (fun o => o.2.2 == k) || ls.any fun (x, y, _) => a < x && x < b && b < y
/-- The jumps of a record: index and target (R234). -/
def jumpsOf (ws : List (BitVec 64)) : List (Nat × Int) :=
  (idxs ws).filterMap fun i => match wordOp (wordAt ws i) with
    | some (.ujmp f) | some (.ubz f) => some (i, (i : Int) + f.disp.toInt)
    | _ => none
/-- A displacement that leaves the body, a backward jump, a jump into a loop (R248, code 6). -/
def jumpsBad (ws : List (BitVec 64)) : Bool :=
  let ls := loopsOf ws
  (jumpsOf ws).any fun (i, t) =>
    t ≤ i || (ws.length : Int) ≤ t || (enclosing ls t.toNat).any fun l => !(enclosing ls i).contains l
/-- A `uyield` that does not follow a `udrain` with the same predicate (R248, code 7). -/
def yieldsBad (ws : List (BitVec 64)) : Bool :=
  (idxs ws).any fun i => wordOp (wordAt ws i) == some .uyield &&
    !(match i with
      | 0 => false
      | p + 1 => (match wordOp (wordAt ws p) with | some (.udrain _) => true | _ => false) &&
          (wordAt ws p).extractLsb' 53 5 == (wordAt ws (p + 1)).extractLsb' 53 5)
/-- The lowest code whose refusal applies (R248): `lenBad` for a record whose length differs, `room` for free words in the image. -/
def validate (ws : List (BitVec 64)) (lenBad room : Bool) (depth budget : Nat) : Nat :=
  if ws.isEmpty || 512 < ws.length || lenBad then 1
  else if !room then 2
  else
    let cs := ws.filterMap wordCode
    if cs.contains 3 then 3
    else if cs.contains 4 then 4
    else if loopsBad ws then 5
    else if jumpsBad ws then 6
    else if yieldsBad ws then 7
    else if wordOp (wordAt ws (ws.length - 1)) != some .uend then 8
    else if depth = 0 || budget < depth then 9
    else 0
/-- The lowest offset with `n` free words after it (R223). -/
def freeOffset (placed : List Placed) (n : Nat) : Option Nat :=
  (List.range (1025 - n)).find? fun o => placed.all fun p => p.off + p.len ≤ o || o + n ≤ p.off

end Sys2Proof.Machine
end

