-- ==== Sys2Proof/Machine/Bounds.lean ====
section
/-! DEFINITION. Enclosures of 2^a, log2 a, sin πa, cos πa and tanh a in fixed point, and the choice of an FP32 result within a bound of R152 (log entry 9). -/
namespace Sys2Proof.Machine

/-! Fixed-point numbers count units of 2^-96. Every value below lies within 2^-80 of the exact one, or, for 2^a, within 2^-80 of it relatively. -/

/-- One, ln 2 and π in fixed point, truncated. -/
def fxOne : Nat := 2 ^ 96
def fxLn2 : Nat := 54916777467707473351141471128
def fxPi : Nat := 248902613312231085230521944622
/-- m × 2^e in fixed point, truncated. -/
def fxOf (m : Nat) (e : Int) : Nat := if -96 ≤ e then m * 2 ^ (e + 96).toNat else m / 2 ^ (-96 - e).toNat
/-- A signed fixed-point number as a value. -/
def fxVal (x : Int) : Val := .fin (x < 0) x.natAbs (-96)

/-- The terms of e^y from term k, which is `t`, on. -/
def fxExpTerms (y : Nat) : Nat → Nat → Nat → Nat
  | 0, _, _ => 0
  | n + 1, k, t => t + fxExpTerms y n (k + 1) (t * y / fxOne / (k + 1))
/-- e^y for y from 0 to 1. -/
def fxExp (y : Nat) : Nat := fxExpTerms y 32 0 fxOne
/-- The terms of artanh z from z^(2k+1), which is `t`, on; `z2` is z². -/
def fxArtanhTerms (z2 : Nat) : Nat → Nat → Nat → Nat
  | 0, _, _ => 0
  | n + 1, k, t => t / (2 * k + 1) + fxArtanhTerms z2 n (k + 1) (t * z2 / fxOne)
/-- The terms of sin t from the k-th, which is `u`, on; `t2` is t². -/
def fxSinTerms (t2 : Nat) : Nat → Nat → Int → Int
  | 0, _, _ => 0
  | n + 1, k, u => u + fxSinTerms t2 n (k + 1) (-(u * t2 / fxOne / ((2 * k + 2) * (2 * k + 3))))
/-- sin πx for x ≥ 0. -/
def fxSinPi (x : Nat) : Int :=
  let r := x % (2 * fxOne)
  let y := r % fxOne
  let y := if fxOne < 2 * y then fxOne - y else y
  let t := y * fxPi / fxOne
  let v := fxSinTerms (t * t / fxOne) 24 0 t
  if fxOne ≤ r then -v else v

/-- 2^a for a = ±m × 2^e below 128, with floor(log2) of it; far below the least FP32 number any value as small will do. -/
def exp2Val (s : Bool) (m : Nat) (e : Int) : Val × Int :=
  let x : Int := if s then -(fxOf m e : Int) else fxOf m e
  let n := x / (fxOne : Int)
  if n < -300 then (.fin false 1 (-300), -300) else (.fin false (fxExp ((x % (fxOne : Int)).toNat * fxLn2 / fxOne)) (n - 96), n)
/-- log2 of m × 2^e, m not zero. -/
def log2Fx (m : Nat) (e : Int) : Int :=
  let p := 2 ^ m.log2
  let z := (m - p) * fxOne / (m + p)
  finLog m e * (fxOne : Int) + (2 * fxArtanhTerms (z * z / fxOne) 40 0 z * fxOne / fxLn2 : Nat)
/-- tanh of m × 2^e below 9. -/
def tanhFx (m : Nat) (e : Int) : Nat :=
  let y := 2 * fxOf m e
  let n := y / fxLn2
  let x := fxExp (y - n * fxLn2) * 2 ^ n
  (x - fxOne) * fxOne / (x + fxOne)

/-- 2^k as a value. -/
def pow2Val (k : Int) : Val := .fin false 1 k
/-- The FP32 number `free` where it lies within `bound` of v, to within 2^`slack` of that bound; the nearest one to v where it does not. -/
def withinBound (free : BitVec 32) (v bound : Val) (slack : Int) : BitVec 32 :=
  if Val.lt (Val.add 0 (Val.abs (Val.add 0 (f32 free) v.negate)) (pow2Val slack)) bound then free else roundF32 v 0

end Sys2Proof.Machine
end

