-- ==== Sys2Proof/Machine/Vector.lean ====
section
/-! DEFINITION. The vector class: arithmetic, transcendentals, compares, predicates, lane moves, reductions, conversions and block quantisation (R144 to R159). -/
namespace Sys2Proof.Machine

/-! ### Sources and destinations -/

/-- Lane `i` of vector register `r` as it stands (R144). -/
def State.vLane (s : State) (w : Nat) (r : BitVec 10) (i : Nat) : Nat := lane w (s.me.vec.get 0 r.toNat) i
/-- The scalar second source of a VS form (R147). -/
def State.sLane (s : State) (w : Nat) (r : BitVec 6) : Nat := (s.me.regs.rs r.toNat).toNat % 2 ^ w
/-- A vector result of latency `lat` on the active lanes (R145, R148). -/
def State.vecRes (s : State) (lat : Nat) (p : BitVec 4) (w : Nat) (d : BitVec 10) (g : Nat → Nat) : Res :=
  .next (s.emit lat (.v d.toNat (govMask (s.me.regs.rp p.toNat) w) (vecLanes w ((List.range (laneCount w)).map g))))
/-- A vector result of latency `lat` that writes every byte. -/
def State.vecAll (s : State) (lat : Nat) (d : BitVec 10) (v : Vec) : Res := .next (s.emit lat (.v d.toNat allLanes v))
/-- A predicate result of latency 4, all 512 bits (R145, R148). -/
def State.predRes (s : State) (d : BitVec 10) (v : Pred) : Res := .next (s.emit 4 (.p d.toNat (BitVec.allOnes 512) v))
/-- A scalar result of latency 4 (R148). -/
def State.vecScalar (s : State) (d : Nat) (v : W64) : Res := .next (s.emit 4 (.s d v))

/-! ### Lane arithmetic (R150, R151) -/

/-- A floating type code (R62). -/
def isFloat (t : Nat) : Bool := decide (8 ≤ t)
/-- A signed integer type code (R62). -/
def isSigned (t : Nat) : Bool := decide (t < 4)
/-- An integer lane's value (R150). -/
def intLane (t x : Nat) : Int :=
  let w := tyWidth t
  if isSigned t && decide (2 ^ (w - 1) ≤ x) then (x : Int) - 2 ^ w else x
/-- An exact integer result in its lane: clamped with sat, else modulo 2^w (R150). -/
def intRes (t : Nat) (sat : Bool) (x : Int) : Nat :=
  let w := tyWidth t
  intBits w (if sat then max (intMin (isSigned t) w) (min (intMax (isSigned t) w) x) else x)
/-- An exact floating result rounded into its lane (R150). -/
def fltRes (t rm : Nat) (x : Val) : Nat := (encodeVal x (Fmt.ofType t) rm false none).bits

/-- The operations of R150. -/
inductive Arith where
  | add | sub | mul | fma | fms | fnma | div
  deriving DecidableEq, Repr

/-- The exact result on floating values (R150). -/
def Arith.flt (o : Arith) (rm : Nat) (a b c : Val) : Val :=
  match o with
  | .add => Val.add rm a b
  | .sub => Val.add rm a b.negate
  | .mul => Val.mul a b
  | .fma => Val.add rm (Val.mul a b) c
  | .fms => Val.add rm (Val.mul a b) c.negate
  | .fnma => Val.add rm c (Val.mul a b).negate
  | .div => Val.div a b
/-- The exact result on integers; a zero divisor gives −1, that is all ones (R150). -/
def Arith.int (o : Arith) (a b c : Int) : Int :=
  match o with
  | .add => a + b
  | .sub => a - b
  | .mul => a * b
  | .fma => a * b + c
  | .fms => a * b - c
  | .fnma => c - a * b
  | .div => if b = 0 then -1 else a.tdiv b
/-- One lane of R150. -/
def Arith.lane (o : Arith) (t rm : Nat) (sat : Bool) (a b c : Nat) : Nat :=
  if isFloat t then fltRes t rm (o.flt rm (laneVal t a) (laneVal t b) (laneVal t c))
  else intRes t sat (o.int (intLane t a) (intLane t b) (intLane t c))

/-- A VR form of R150. -/
def State.arithVR (s : State) (lat : Nat) (f : VR) (o : Arith) : Res :=
  let t := f.ty.toNat
  let w := tyWidth t
  s.vecRes lat f.p w f.vd fun i => o.lane t f.rm.toNat (f.sat == 1) (s.vLane w f.va i) (s.vLane w f.vb i) (s.vLane w f.vc i)
/-- A VS form of R150 (R147). -/
def State.arithVS (s : State) (lat : Nat) (f : VS) (o : Arith) : Res :=
  let t := f.ty.toNat
  let w := tyWidth t
  s.vecRes lat f.p w f.vd fun i => o.lane t f.rm.toNat (f.sat == 1) (s.vLane w f.va i) (s.sLane w f.s) (s.vLane w f.vc i)
/-- A VR form that combines two lanes (R151). -/
def State.lanesVR (s : State) (f : VR) (g : Nat → Nat → Nat) : Res :=
  let w := tyWidth f.ty.toNat
  s.vecRes 4 f.p w f.vd fun i => g (s.vLane w f.va i) (s.vLane w f.vb i)
/-- A VS form that combines a lane with the scalar (R147, R151). -/
def State.lanesVS (s : State) (f : VS) (g : Nat → Nat → Nat) : Res :=
  let w := tyWidth f.ty.toNat
  s.vecRes 4 f.p w f.vd fun i => g (s.vLane w f.va i) (s.sLane w f.s)
/-- A shift by the whole scalar (R147). -/
def State.shiftVS (s : State) (f : VS) (g : Nat → Nat → Nat) : Res :=
  let w := tyWidth f.ty.toNat
  s.vecRes 4 f.p w f.vd fun i => g (s.vLane w f.va i) (s.me.regs.rs f.s.toNat).toNat

/-- Minimum of two lanes (R151). -/
def minLane (t a b : Nat) : Nat :=
  if isFloat t then fltRes t 0 (Val.min2 (laneVal t a) (laneVal t b)) else if intLane t b < intLane t a then b else a
/-- Maximum of two lanes (R151). -/
def maxLane (t a b : Nat) : Nat :=
  if isFloat t then fltRes t 0 (Val.max2 (laneVal t a) (laneVal t b)) else if intLane t a < intLane t b then b else a
/-- Magnitude of a lane (R151). -/
def absLane (t : Nat) (sat : Bool) (a : Nat) : Nat :=
  if isFloat t then fltRes t 0 (laneVal t a).abs else intRes t sat (intLane t a).natAbs
/-- Negation of a lane (R151). -/
def negLane (t : Nat) (sat : Bool) (a : Nat) : Nat :=
  if isFloat t then fltRes t 0 (laneVal t a).negate else intRes t sat (-(intLane t a))
/-- Left shift of a lane (R151). -/
def shlLane (w a n : Nat) : Nat := if n < w then a * 2 ^ n % 2 ^ w else 0
/-- Logical right shift of a lane (R151). -/
def shrLane (w a n : Nat) : Nat := if n < w then a / 2 ^ n else 0
/-- Arithmetic right shift of a lane (R151). -/
def sarLane (w a n : Nat) : Nat :=
  let x : Int := if 2 ^ (w - 1) ≤ a then (a : Int) - 2 ^ w else a
  intBits w (x / 2 ^ (min n w))
/-- High half of a product (R151). -/
def mulhLane (t a b : Nat) : Nat := intBits (tyWidth t) (intLane t a * intLane t b / 2 ^ tyWidth t)

/-- `vadd` (R150). -/
def execVadd (f : VR) (s : State) : Res := s.arithVR 4 f .add
/-- `vsub` (R150). -/
def execVsub (f : VR) (s : State) : Res := s.arithVR 4 f .sub
/-- `vmul` (R150). -/
def execVmul (f : VR) (s : State) : Res := s.arithVR 4 f .mul
/-- `vfma` (R150). -/
def execVfma (f : VR) (s : State) : Res := s.arithVR 4 f .fma
/-- `vfms` (R150). -/
def execVfms (f : VR) (s : State) : Res := s.arithVR 4 f .fms
/-- `vfnma` (R150). -/
def execVfnma (f : VR) (s : State) : Res := s.arithVR 4 f .fnma
/-- `vdiv` (R148, R150). -/
def execVdiv (f : VR) (s : State) : Res := s.arithVR 8 f .div
/-- `vmin` (R151). -/
def execVmin (f : VR) (s : State) : Res := s.lanesVR f (minLane f.ty.toNat)
/-- `vmax` (R151). -/
def execVmax (f : VR) (s : State) : Res := s.lanesVR f (maxLane f.ty.toNat)
/-- `vand` (R151). -/
def execVand (f : VR) (s : State) : Res := s.lanesVR f (· &&& ·)
/-- `vor` (R151). -/
def execVor (f : VR) (s : State) : Res := s.lanesVR f (· ||| ·)
/-- `vxor` (R151). -/
def execVxor (f : VR) (s : State) : Res := s.lanesVR f (· ^^^ ·)
/-- `vandn` (R151). -/
def execVandn (f : VR) (s : State) : Res := s.lanesVR f (fun a b => a &&& (2 ^ tyWidth f.ty.toNat - 1 - b))
/-- `vshl` (R151). -/
def execVshl (f : VR) (s : State) : Res := s.lanesVR f (shlLane (tyWidth f.ty.toNat))
/-- `vshr` (R151). -/
def execVshr (f : VR) (s : State) : Res := s.lanesVR f (shrLane (tyWidth f.ty.toNat))
/-- `vsar` (R151). -/
def execVsar (f : VR) (s : State) : Res := s.lanesVR f (sarLane (tyWidth f.ty.toNat))
/-- `vmulh` (R151). -/
def execVmulh (f : VR) (s : State) : Res := s.lanesVR f (mulhLane f.ty.toNat)
/-- `vabs` (R151). -/
def execVabs (f : VR) (s : State) : Res := s.lanesVR f fun a _ => absLane f.ty.toNat (f.sat == 1) a
/-- `vneg` (R151). -/
def execVneg (f : VR) (s : State) : Res := s.lanesVR f fun a _ => negLane f.ty.toNat (f.sat == 1) a
/-! ### Scalar-operand forms (R147) -/
/-- `vadd` with a scalar operand (R147). -/
def execVaddScalar (f : VS) (s : State) : Res := s.arithVS 4 f .add
/-- `vsub` with a scalar operand (R147). -/
def execVsubScalar (f : VS) (s : State) : Res := s.arithVS 4 f .sub
/-- `vmul` with a scalar operand (R147). -/
def execVmulScalar (f : VS) (s : State) : Res := s.arithVS 4 f .mul
/-- `vfma` with a scalar operand (R147). -/
def execVfmaScalar (f : VS) (s : State) : Res := s.arithVS 4 f .fma
/-- `vfms` with a scalar operand (R147). -/
def execVfmsScalar (f : VS) (s : State) : Res := s.arithVS 4 f .fms
/-- `vfnma` with a scalar operand (R147). -/
def execVfnmaScalar (f : VS) (s : State) : Res := s.arithVS 4 f .fnma
/-- `vdiv` with a scalar operand (R147). -/
def execVdivScalar (f : VS) (s : State) : Res := s.arithVS 8 f .div
/-- `vmin` with a scalar operand (R147). -/
def execVminScalar (f : VS) (s : State) : Res := s.lanesVS f (minLane f.ty.toNat)
/-- `vmax` with a scalar operand (R147). -/
def execVmaxScalar (f : VS) (s : State) : Res := s.lanesVS f (maxLane f.ty.toNat)
/-- `vand` with a scalar operand (R147). -/
def execVandScalar (f : VS) (s : State) : Res := s.lanesVS f (· &&& ·)
/-- `vor` with a scalar operand (R147). -/
def execVorScalar (f : VS) (s : State) : Res := s.lanesVS f (· ||| ·)
/-- `vxor` with a scalar operand (R147). -/
def execVxorScalar (f : VS) (s : State) : Res := s.lanesVS f (· ^^^ ·)
/-- `vandn` with a scalar operand (R147). -/
def execVandnScalar (f : VS) (s : State) : Res := s.lanesVS f (fun a b => a &&& (2 ^ tyWidth f.ty.toNat - 1 - b))
/-- `vshl` with a scalar operand (R147). -/
def execVshlScalar (f : VS) (s : State) : Res := s.shiftVS f (shlLane (tyWidth f.ty.toNat))
/-- `vshr` with a scalar operand (R147). -/
def execVshrScalar (f : VS) (s : State) : Res := s.shiftVS f (shrLane (tyWidth f.ty.toNat))
/-- `vsar` with a scalar operand (R147). -/
def execVsarScalar (f : VS) (s : State) : Res := s.shiftVS f (sarLane (tyWidth f.ty.toNat))
/-- `vmulh` with a scalar operand (R147). -/
def execVmulhScalar (f : VS) (s : State) : Res := s.lanesVS f (mulhLane f.ty.toNat)
/-! ### Transcendentals (R152) -/

/-- Of the two FP32 neighbours of an exact value, the one of larger magnitude when `up`, the other when not; the value itself when it is FP32 (R152, faithful). DESIGN CHOICE: beyond the largest finite value, where `vrecip` of a subnormal can fall and R152 states no result, the neighbours are that value and infinity (log entry 116). -/
def neighbour (up : Bool) (x : Val) : BitVec 32 := if up then roundF32 x (if x.neg? then 3 else 2) else roundF32 x 1

/-- 1/√(m × 2^e), exact or truncated with a last bit set. -/
def rsqrtVal (m : Nat) (e : Int) : Val :=
  let m' := if e % 2 = 0 then m else 2 * m
  let e' := if e % 2 = 0 then e else e - 1
  let k := 64 + m'.log2
  let n := 2 ^ (2 * k) / m'
  let r := isqrt n (n.log2 / 2 + 1) 0
  .fin false (2 * r + (if r * r * m' = 2 ^ (2 * k) then 0 else 1)) (-(e' / 2) - k - 1)

/-- A finite magnitude as a whole number of halves, if it is one. -/
def halves? (m : Nat) (e : Int) : Option Nat :=
  if -1 ≤ e then some (m * 2 ^ (e + 1).toNat)
  else if m % 2 ^ (-1 - e).toNat = 0 then some (m / 2 ^ (-1 - e).toNat) else none

/-- ±1.0 and the other FP32 constants of R152. -/
def f32One (neg : Bool) : BitVec 32 := if neg then 0xBF800000 else 0x3F800000
def f32Inf (neg : Bool) : BitVec 32 := if neg then 0xFF800000 else 0x7F800000
def f32Nan : BitVec 32 := 0x7FC00000

/-- The functions of R152. -/
inductive Trans where
  | recip | rsqrt | exp2 | log2 | sin | cos | tanh
  deriving DecidableEq, Repr

/-- 2^a where no exact case holds, within 2 ulp (R152). -/
def exp2Res (a : BitVec 32) (s : Bool) (m : Nat) (e : Int) : BitVec 32 :=
  let (v, n) := exp2Val s m e
  withinBound (Config.exp2 a) v (pow2Val (max n (-126) - 22)) (n - 60)
/-- The f32 result for FP32 bits (R152): special cases and exact cases as its table gives them, the open bits as the implementation's constants where these keep the table's bound (log entry 9). -/
def Trans.eval (o : Trans) (a : BitVec 32) : BitVec 32 :=
  match o, f32 a with
  | _, .nan => f32Nan
  | .recip, .inf s => if s then 0x80000000 else 0
  | .recip, .fin s m e => if m = 0 then f32Inf s else neighbour (Config.recipUp a) (Val.div (.fin false 1 0) (.fin s m e))
  | .rsqrt, .inf s => if s then f32Nan else 0
  | .rsqrt, .fin s m e => if m = 0 then f32Inf s else if s then f32Nan else neighbour (Config.rsqrtUp a) (rsqrtVal m e)
  | .exp2, .inf s => if s then 0 else f32Inf false
  | .exp2, .fin s m e =>
    let x := Val.fin s m e
    if !Val.lt x (Val.ofInt 128) then f32Inf false
    else match halves? m e with
      | some h => if h % 2 = 0 ∧ (s = false ∨ h / 2 ≤ 149) then roundF32 (.fin false 1 (if s then -((h / 2 : Nat) : Int) else (h / 2 : Nat))) 0 else exp2Res a s m e
      | none => exp2Res a s m e
  | .log2, .inf s => if s then f32Nan else f32Inf false
  | .log2, .fin s m e =>
    let x := Val.fin s m e
    if m = 0 then f32Inf true
    else if s then f32Nan
    else if m = 2 ^ m.log2 then roundF32 (Val.ofInt (finLog m e)) 0
    else withinBound (Config.log2 a) (fxVal (log2Fx m e))
      (if Val.lt x (pow2Val (-1)) || Val.lt (Val.ofInt 2) x then pow2Val ((log2Fx m e).natAbs.log2 - 96 - 22) else pow2Val (-21)) (-70)
  | .sin, .inf _ => f32Nan
  | .sin, .fin s m e =>
    if m = 0 then a
    else match halves? m e with
      | some h => if h % 2 = 0 then 0 else f32One (s != (h % 4 == 3))
      | none => withinBound (Config.sinpi a) (fxVal (if s then -fxSinPi (fxOf m e) else fxSinPi (fxOf m e))) (pow2Val (-22)) (-70)
  | .cos, .inf _ => f32Nan
  | .cos, .fin _ m e =>
    match halves? m e with
    | some h => if h % 2 = 1 then 0 else f32One (h % 4 == 2)
    | none => withinBound (Config.cospi a) (fxVal (fxSinPi (fxOf m e + fxOne / 2))) (pow2Val (-22)) (-70)
  | .tanh, .inf s => f32One s
  | .tanh, .fin s m e =>
    if m = 0 then a
    else if Val.lt (.fin false m e) (Val.ofInt 9) then withinBound (Config.tanh a) (fxVal (if s then -(tanhFx m e : Int) else tanhFx m e)) (pow2Val (-21)) (-70)
    else f32One s

/-- One lane of a transcendental: the f32 result on the decoded input, rounded to the type (R152). -/
def Trans.lane (o : Trans) (t x : Nat) : Nat := fltRes t 0 (f32 (o.eval (roundF32 (laneVal t x) 0)))

/-- A transcendental of latency 8 (R148, R152). -/
def State.transVR (s : State) (f : VR) (o : Trans) : Res :=
  let w := tyWidth f.ty.toNat
  s.vecRes 8 f.p w f.vd fun i => o.lane f.ty.toNat (s.vLane w f.va i)

/-- `vrecip` (R152). -/
def execVrecip (f : VR) (s : State) : Res := s.transVR f .recip
/-- `vrsqrt` (R152). -/
def execVrsqrt (f : VR) (s : State) : Res := s.transVR f .rsqrt
/-- `vexp2` (R152). -/
def execVexp2 (f : VR) (s : State) : Res := s.transVR f .exp2
/-- `vlog2` (R152). -/
def execVlog2 (f : VR) (s : State) : Res := s.transVR f .log2
/-- `vsin` (R152). -/
def execVsin (f : VR) (s : State) : Res := s.transVR f .sin
/-- `vcos` (R152). -/
def execVcos (f : VR) (s : State) : Res := s.transVR f .cos
/-- `vtanh` (R152). -/
def execVtanh (f : VR) (s : State) : Res := s.transVR f .tanh
/-- `vsqrt` (R152): the exact root rounded once, by rm. -/
def execVsqrt (f : VR) (s : State) : Res :=
  let w := tyWidth f.ty.toNat
  s.vecRes 8 f.p w f.vd fun i => fltRes f.ty.toNat f.rm.toNat (Val.sqrt (laneVal f.ty.toNat (s.vLane w f.va i)))

/-! ### Compares and predicates (R153, R154) -/

/-- A compare: predicate p[vd] takes the condition of each active lane (R153). -/
def State.cmpVR (s : State) (f : VR) (g : Val → Val → Bool) : Res :=
  let t := f.ty.toNat
  let w := tyWidth t
  s.predRes f.vd (predResult (s.me.regs.rp f.p.toNat) w fun i => g (laneVal t (s.vLane w f.va i)) (laneVal t (s.vLane w f.vb i)))

/-- a ≤ b of two values that are no NaN (R153). -/
def Val.le (a b : Val) : Bool := Val.lt a b || Val.eqv a b

/-- `vceq` (R153). -/
def execVceq (f : VR) (s : State) : Res := s.cmpVR f Val.eqv
/-- `vcne` (R153). -/
def execVcne (f : VR) (s : State) : Res := s.cmpVR f (fun a b => !Val.eqv a b)
/-- `vclt` (R153). -/
def execVclt (f : VR) (s : State) : Res := s.cmpVR f Val.lt
/-- `vcle` (R153). -/
def execVcle (f : VR) (s : State) : Res := s.cmpVR f Val.le
/-- `vcgt` (R153). -/
def execVcgt (f : VR) (s : State) : Res := s.cmpVR f (fun a b => Val.lt b a)
/-- `vcge` (R153). -/
def execVcge (f : VR) (s : State) : Res := s.cmpVR f (fun a b => Val.le b a)
/-- `vcun` (R153). -/
def execVcun (f : VR) (s : State) : Res := s.cmpVR f (fun a b => a == .nan || b == .nan)
/-- `vclass` (R153): the mask stands in vc. -/
def execVclass (f : VR) (s : State) : Res :=
  let w := tyWidth f.ty.toNat
  s.predRes f.vd (predResult (s.me.regs.rp f.p.toNat) w fun i => f.vc.getLsbD (classBit f.ty.toNat (s.vLane w f.va i)))

/-- `pand` (R154). -/
def execPand (f : VR) (s : State) : Res := s.predRes f.vd (s.me.regs.rp f.va.toNat &&& s.me.regs.rp f.vb.toNat)
/-- `por` (R154). -/
def execPor (f : VR) (s : State) : Res := s.predRes f.vd (s.me.regs.rp f.va.toNat ||| s.me.regs.rp f.vb.toNat)
/-- `pxor` (R154). -/
def execPxor (f : VR) (s : State) : Res := s.predRes f.vd (s.me.regs.rp f.va.toNat ^^^ s.me.regs.rp f.vb.toNat)
/-- `pnot` (R154). -/
def execPnot (f : VR) (s : State) : Res := s.predRes f.vd (~~~s.me.regs.rp f.va.toNat)
/-- `pcnt` (R154). -/
def execPcnt (f : VR) (s : State) : Res := s.vecScalar f.vd.toNat (BitVec.ofNat 64 (predCount (s.me.regs.rp f.va.toNat) f.vc.toNat))

/-! ### Moving lanes (R155) -/

/-- `vsel` (R155): every lane is written. -/
def execVsel (f : VR) (s : State) : Res :=
  s.vecAll 4 f.vd (blend (govMask (s.me.regs.rp f.p.toNat) (tyWidth f.ty.toNat)) (s.me.vec.get 0 f.vb.toNat) (s.me.vec.get 0 f.va.toNat))
/-- `vperm` (R155). -/
def execVperm (f : VR) (s : State) : Res :=
  let w := tyWidth f.ty.toNat
  let n := laneCount w
  s.vecRes 4 f.p w f.vd fun i =>
    let j := s.vLane w f.vb i % (2 * n)
    if j < n then s.vLane w f.va j else s.vLane w f.vc (j - n)
/-- `vrot` (R155). -/
def execVrot (f : VI) (s : State) : Res :=
  let w := tyWidth f.ty.toNat
  s.vecRes 4 f.p w f.vd fun i => s.vLane w f.va ((i + f.imm.toNat) % laneCount w)
/-- `vbcast` (R155). -/
def execVbcast (f : VS) (s : State) : Res :=
  let w := tyWidth f.ty.toNat
  s.vecRes 4 f.p w f.vd fun _ => s.sLane w f.s
/-- A lane as a scalar: sign-extended for i types, else zero-extended (R155). -/
def laneScalar (t x : Nat) : W64 := if isSigned t then BitVec.ofInt 64 (intLane t x) else BitVec.ofNat 64 x
/-- `vext` (R155): the s field names the destination. -/
def execVext (f : VS) (s : State) : Res :=
  s.vecScalar f.s.toNat (laneScalar f.ty.toNat (s.vLane (tyWidth f.ty.toNat) f.va f.vc.toNat))
/-- `vins` (R155). -/
def execVins (f : VS) (s : State) : Res :=
  let w := tyWidth f.ty.toNat
  s.vecRes 4 f.p w f.vd fun i => if i = f.vc.toNat then s.sLane w f.s else s.vLane w f.va i
/-- `vmov` (R155). -/
def execVmov (f : VR) (s : State) : Res :=
  let w := tyWidth f.ty.toNat
  s.vecRes 4 f.p w f.vd fun i => s.vLane w f.va i
/-- The constant that a `vconst` immediate encodes (R155). -/
def constLane (t : Nat) (imm : BitVec 20) : Nat :=
  if t = 8 then imm.toNat * 4096 else if isFloat t then imm.toNat else intBits (tyWidth t) imm.toInt
/-- `vconst` (R155). -/
def execVconst (f : VI) (s : State) : Res := s.vecRes 4 f.p (tyWidth f.ty.toNat) f.vd fun _ => constLane f.ty.toNat f.imm

/-! ### Reductions (R96, R156) -/

/-- The tree of R96: halves combine lane by lane. -/
def redTree (op : Nat → Nat → Nat) : Nat → List Nat → Nat
  | 0, l => l.headD 0
  | k + 1, l => redTree op k (List.zipWith op (l.take (l.length / 2)) (l.drop (l.length / 2)))

/-- A reduction of latency 8 that writes every lane (R148, R156). -/
def State.redVR (s : State) (f : VR) (ident : Nat) (op : Nat → Nat → Nat) : Res :=
  let w := tyWidth f.ty.toNat
  let p := s.me.regs.rp f.p.toNat
  let r := redTree op (laneCount w).log2 ((List.range (laneCount w)).map fun i => if laneOn p w i then s.vLane w f.va i else ident)
  s.vecAll 8 f.vd (vecLanes w (List.replicate (laneCount w) r))

/-- The identity of a floating or integer addition (R96). -/
def addIdent (t : Nat) : Nat := if isFloat t then 2 ^ (tyWidth t - 1) else 0
/-- The identity of a maximum: −∞ or the type's minimum (R96). -/
def maxIdent (t : Nat) : Nat := if isFloat t then fltRes t 0 (.inf true) else intBits (tyWidth t) (intMin (isSigned t) (tyWidth t))
/-- The identity of a minimum: +∞ or the type's maximum (R96). -/
def minIdent (t : Nat) : Nat := if isFloat t then fltRes t 0 (.inf false) else intBits (tyWidth t) (intMax (isSigned t) (tyWidth t))

/-- `vradd` (R156). -/
def execVradd (f : VR) (s : State) : Res :=
  s.redVR f (addIdent f.ty.toNat) fun a b => Arith.add.lane f.ty.toNat f.rm.toNat (f.sat == 1) a b 0
/-- `vrmax` (R156). -/
def execVrmax (f : VR) (s : State) : Res := s.redVR f (maxIdent f.ty.toNat) (maxLane f.ty.toNat)
/-- `vrmin` (R156). -/
def execVrmin (f : VR) (s : State) : Res := s.redVR f (minIdent f.ty.toNat) (minLane f.ty.toNat)
/-- `vrand` (R156). -/
def execVrand (f : VR) (s : State) : Res := s.redVR f (2 ^ tyWidth f.ty.toNat - 1) (· &&& ·)
/-- `vror` (R156). -/
def execVror (f : VR) (s : State) : Res := s.redVR f 0 (· ||| ·)
/-- `vrxor` (R156). -/
def execVrxor (f : VR) (s : State) : Res := s.redVR f 0 (· ^^^ ·)

/-! ### Conversions and block quantisation (R157, R158) -/

/-- The source type of a conversion, vc[3:0] (R157). -/
def srcType (f : VR) : Nat := (f.vc.extractLsb' 0 4).toNat
/-- One converted lane (R157). -/
def cvtLane (src t rm : Nat) (sat : Bool) (x : Nat) : Nat := (encodeVal (laneVal src x) (Fmt.ofType t) rm sat none).bits
/-- `vcvt` (R157). -/
def execVcvt (f : VR) (s : State) : Res :=
  let w := tyWidth f.ty.toNat
  s.vecRes 4 f.p w f.vd fun i => cvtLane (srcType f) f.ty.toNat f.rm.toNat (f.sat == 1) (s.vLane w f.va i)
/-- `vwiden` (R157): the half bit vc[4] takes the upper source lanes. -/
def execVwiden (f : VR) (s : State) : Res :=
  let w := tyWidth f.ty.toNat
  let h := if f.vc.getLsbD 4 then laneCount w else 0
  s.vecRes 4 f.p w f.vd fun i => cvtLane (srcType f) f.ty.toNat 0 false (s.vLane (tyWidth (srcType f)) f.va (i + h))
/-- `vnarrow` (R157): the lower lanes come from va, the upper from vb. -/
def execVnarrow (f : VR) (s : State) : Res :=
  let w := tyWidth f.ty.toNat
  let n := laneCount w / 2
  s.vecRes 4 f.p w f.vd fun i =>
    cvtLane (srcType f) f.ty.toNat f.rm.toNat (f.sat == 1) (s.vLane (tyWidth (srcType f)) (if i < n then f.va else f.vb) (i % n))

/-- The largest magnitude of a list, with the element of lowest index that has it. -/
def maxMag : List Val → Val
  | [] => .zero false
  | [x] => x
  | x :: t => let y := maxMag t; if Val.lt x.abs y.abs then y else x

/-- One quantised group: its 64 data bytes as a number, and its descriptor (R158). -/
def quantise (rm : Nat) (xs : List Val) : Nat × BitVec 32 :=
  if xs.any fun x => x == .nan || x == .inf true || x == .inf false then (0, mkDesc 0x06 0xFF 0x00)
  else match maxMag xs with
    | .fin s m e =>
      let k : Int := if m = 0 then 0 else max (-127) (min 127 (finLog m e - 2))
      let sp : BitVec 8 := if m = 0 then 0 else BitVec.ofNat 8 (encodeVal (.fin s m (e - k)) .e4m3 0 true none).bits
      (packLanes 4 (xs.map fun x => (encodeVal (x.scale (-k)) .e2m1 rm true (some sp)).bits), mkDesc 0x06 (BitVec.ofInt 8 (k + 127)) sp)
    | _ => (0, mkDesc 0x06 0xFF 0x00)

/-- `vqblk` (R158): blocks from byte 0 on, descriptors from byte 256 on, every other byte zero. -/
def execVqblk (f : VR) (s : State) : Res :=
  let t := f.ty.toNat
  let w := tyWidth t
  let p := s.me.regs.rp f.p.toNat
  let group (g : Nat) : List Val := (List.range 128).map fun k =>
    if laneOn p w (128 * g + k) then laneVal t (s.vLane w f.va (128 * g + k)) else .zero false
  let n := (List.range (laneCount w / 128)).foldl (fun n g =>
    let (d, desc) := quantise f.rm.toNat (group g)
    n + d * 2 ^ (512 * g) + desc.toNat * 2 ^ (2048 + 32 * g)) 0
  s.vecAll 8 f.vd (BitVec.ofNat 4096 n)

end Sys2Proof.Machine
end

