-- ==== Sys2Proof/Machine/Copy.lean ====
section
/-! DEFINITION. The copy class: shapes and their checks, commands, channels piece by piece, stage buffers, static schedules, watermarks, sync words, remote puts and gets, and collectives (R251 to R277, R121 to R123). -/
namespace Sys2Proof.Machine

/-! ### The copy shape (R253, R254) -/

def kRowb (h : BitVec 128) : Nat := fieldOf 3 0 h
/-- Rows, from the field that holds one less. -/
def kRows (h : BitVec 128) : Nat := fieldOf 3 1 h + 1
def kDst (h : BitVec 128) : Int := (BitVec.ofNat 24 (fieldOf 3 2 h)).toInt
def kSst (h : BitVec 128) : Int := (BitVec.ofNat 32 (fieldOf 3 3 h)).toInt
/-- The destination, or the origin, is scratchpad. -/
def kDscr (h : BitVec 128) : Bool := fieldOf 3 4 h == 1
def kSscr (h : BitVec 128) : Bool := fieldOf 3 5 h == 1
def kEv (h : BitVec 128) : Nat := fieldOf 3 6 h
def kSyncen (h : BitVec 128) : Bool := fieldOf 3 7 h == 1
def kSyncoff (h : BitVec 128) : Nat := 16 * fieldOf 3 8 h
/-- Stage buffers B of `kloop` (R260). -/
def kBufs (h : BitVec 128) : Nat := fieldOf 3 9 h + 1
/-- Bytes E of one stage buffer (R260). -/
def kBufLen (h : BitVec 128) : Int := kRows h * kDst h

/-- An illegal shape value or operand in slot 7 (R254, R277). -/
def copyCause : Cause := cause0 0x01 (16 * 4 + 7)
/-- The bounding extent of rows from a base: lowest byte and end (R254). -/
def rowExtent (base : Int) (rows : Nat) (stride : Int) (rowb : Nat) : Int × Int :=
  let last := ((rows : Int) - 1) * stride
  (base + min 0 last, base + max 0 last + rowb)
/-- Two bounding extents share a byte. Device addresses are formed modulo 2^72, so extents are taken from their first byte on, past the end of the address space where they wrap (R254; log entry 109). -/
def overlap (e f : Int × Int) : Bool := (f.1 - e.1) % 2 ^ 72 < e.2 - e.1 || (e.1 - f.1) % 2 ^ 72 < f.2 - f.1
/-- A scratchpad side below the context's size (R254, R258). -/
def scrSide (size : Nat) (a : W72) (e : Int × Int) : Option Cause :=
  if 2 ^ 20 ≤ a.toNat || e.1 < 0 || (size : Int) < e.2 then some ⟨0x09, 7, 0, 0, a⟩ else none
/-- The checks of R254 for the local sides of a command: each an address and its bounding extent. `bad` is what the command's own entry forbids. -/
def copyCheck (size : Nat) (h : BitVec 128) (d o : Option (W72 × Int × Int)) (bad : Bool) : Option Cause :=
  let dev := (d.isSome && !kDscr h) || (o.isSome && !kSscr h)
  if kRowb h = 0 || (dev && 6 ≤ kEv h) || bad then some copyCause
  else
    let side (x : Option (W72 × Int × Int)) (scr : Bool) := match x with | some (a, e) => if scr then scrSide size a e else none | none => none
    orCause (side d (kDscr h)) <| orCause (side o (kSscr h)) <|
      match d, o with
      | some (a, e), some (_, f) => if kDscr h == kSscr h && overlap e f then some ⟨0x0F, 7, 0, 0, a⟩ else none
      | _, _ => none

/-! ### Commands from operands (R257 to R270) -/

/-- What a command captures besides its kind. -/
def copyCmd (op : COp) (f : KC) (h : BitVec 128) (d o : W72) (sup : Bool) (ctx : Nat) : CopyCmd :=
  ⟨op, f.scope.toNat, h, d, o, sup, ctx, 0, false, 0, 0, [], false, [], 0, 0⟩
/-- Where a command is formed: registers, scratchpad size, privilege and context. -/
structure KEnv where
  r : Regs
  size : Nat
  sup : Bool
  ctx : Nat
/-- The acting core's environment at issue. -/
def State.kenv (s : State) : KEnv := ⟨s.me.regs, s.me.scratchSize, s.me.sup, s.me.ctx⟩
/-- The shape, registers and sums that a K operation names (R258). -/
def KEnv.shape (e : KEnv) (f : KC) : BitVec 128 := e.r.shape 3 f.hs.toNat
def KEnv.da (e : KEnv) (f : KC) : W72 := e.r.ra f.da.toNat
def KEnv.oa (e : KEnv) (f : KC) : W72 := e.r.ra f.oa.toNat
def KEnv.s (e : KEnv) (f : KC) : W64 := e.r.rs f.s.toNat
def KEnv.daOff (e : KEnv) (f : KC) : W72 := e.da f + imm72 f.imm
/-- A check's answer with the command. -/
def checkedCmd (x : Option Cause) (c : CopyCmd) : Except Cause CopyCmd := match x with | some e => .error e | none => .ok c

/-- `kcopy` (R258, R259). -/
def KEnv.kcopy (e : KEnv) (f : KC) : Except Cause CopyCmd :=
  let h := e.shape f
  let d := e.daOff f
  let o := e.oa f + (e.s f).signExtend 72
  checkedCmd (copyCheck e.size h (some (d, rowExtent d.toNat (kRows h) (kDst h) (kRowb h))) (some (o, rowExtent o.toNat (kRows h) (kSst h) (kRowb h))) false)
    (copyCmd .copy f h d o e.sup e.ctx)
/-- `kloop` (R258, R260). -/
def KEnv.kloop (e : KEnv) (f : KC) : Except Cause CopyCmd :=
  let h := e.shape f
  let d := e.da f
  let o := e.oa f
  let n := f.imm.toNat
  let step := (e.s f).signExtend 72
  let bad := kDst h ≤ 0 || (if kDscr h then 2 ^ 20 else 2 ^ 72) < (kBufs h : Int) * kBufLen h
  let de := rowExtent d.toNat (kRows h) (kDst h) (kRowb h)
  let oe := rowExtent o.toNat (kRows h) (kSst h) (kRowb h)
  let span := ((n : Int) - 1) * step.toInt
  checkedCmd (copyCheck e.size h (some (d, (de.1, de.2 + ((min n (kBufs h) : Int) - 1) * kBufLen h))) (some (o, (oe.1 + min 0 span, oe.2 + max 0 span))) bad)
    (copyCmd (.loop n step) f h d o e.sup e.ctx)
/-- `kput` (R258, R269): the destination is remote. -/
def KEnv.kput (e : KEnv) (f : KC) : Except Cause CopyCmd :=
  let h := e.shape f
  let o := e.oa f
  checkedCmd (copyCheck e.size h none (some (o, rowExtent o.toNat (kRows h) (kSst h) (kRowb h))) false)
    (copyCmd (.put (e.s f).toNat) f h (e.daOff f) o e.sup e.ctx)
/-- `kget` (R258, R269): the origin is remote. -/
def KEnv.kget (e : KEnv) (f : KC) : Except Cause CopyCmd :=
  let h := e.shape f
  let d := e.daOff f
  checkedCmd (copyCheck e.size h (some (d, rowExtent d.toNat (kRows h) (kDst h) (kRowb h))) none false)
    (copyCmd (.get (e.s f).toNat) f h d (e.oa f) e.sup e.ctx)
/-- The watermark arm (R263): base and length, or the range fault. -/
def KEnv.wmRange (e : KEnv) (f : KC) : Except Cause (Nat × Nat) :=
  let b := e.daOff f
  let n := (e.s f).toNat
  if n = 0 then .ok (b.toNat, 0)
  else if 2 ^ 20 < n || e.size < b.toNat + n then .error ⟨0x09, 7, 0, 0, b⟩
  else .ok (b.toNat, n)
/-- A sync word's address (R267, R268). -/
def KEnv.syncWord (e : KEnv) (f : KC) : Except Cause W72 :=
  let x := e.daOff f
  if x.toNat % 16 ≠ 0 then .error ⟨0x06, 7, 0, 0, x⟩
  else if e.size < x.toNat + 16 then .error ⟨0x09, 7, 0, 0, x⟩
  else .ok x
/-- `kwm` as a command of its channel (R263). -/
def KEnv.kwm (e : KEnv) (f : KC) : Except Cause CopyCmd :=
  match e.wmRange f with
  | .error x => .error x
  | .ok (b, n) => .ok (copyCmd (.wm n) f 0 (BitVec.ofNat 72 b) 0 e.sup e.ctx)
/-- `ksync` as a command of its channel (R267). -/
def KEnv.ksync (e : KEnv) (f : KC) : Except Cause CopyCmd :=
  match e.syncWord f with
  | .error x => .error x
  | .ok x => .ok (copyCmd (.sync ((e.s f).setWidth 32)) f 0 x 0 e.sup e.ctx)

/-- The members of a collective group (R270, R361). -/
def Hub.group? (h : Hub) (ctx g : Nat) : Option Group := match h.ctx? ctx with | some c => c.groups.get none g | none => none
/-- Rows of a collective's destination and origin, in units of rowb (R270). -/
def collSizes (kind n : Nat) : Nat × Nat := if kind = 1 then (n, 1) else if kind = 2 then (1, n) else (1, 1)
/-- `kcoll` (R270): the group's size decides the larger buffer. A group that supervisor code has not made, and the root of a broadcast that is no rank of its group, are values outside the table. -/
def KEnv.kcoll (e : KEnv) (h : Hub) (f : KC) (kind : Nat) : Except Cause CopyCmd :=
  let k := e.shape f
  let v := e.s f
  let g := (v.extractLsb' 0 12).toNat
  let n := match h.group? e.ctx g with | some x => x.members.length | none => 1
  let ty := (f.imm.extractLsb' 8 4).toNat
  let root := (v.extractLsb' 16 12).toNat
  let bad := (h.group? e.ctx g).isNone || (kind = 3 && n ≤ root) || kRows k != 1 || v.extractLsb' 12 4 != 0 || v.extractLsb' 28 36 != 0 || kRowb k % (tyWidth ty / 8) != 0
  let (dn, sn) := collSizes kind n
  let d := e.da f
  let o := e.oa f
  checkedCmd (copyCheck e.size k (some (d, (d.toNat, d.toNat + dn * kRowb k))) (some (o, (o.toNat, o.toNat + sn * kRowb k))) bad)
    (copyCmd (.coll kind (f.imm.extractLsb' 4 4).toNat ty g root) f k d o e.sup e.ctx)

/-- A copy command of the acting core is withheld (R102, R251). -/
def State.copyOp (s : State) (f : KC) (x : Except Cause CopyCmd) : Res := s.passed x fun c => s.withhold (.copy f.ch.toNat c)
/-- `kcopy` (R259). -/
def execKcopy (f : KC) (s : State) : Res := s.copyOp f (s.kenv.kcopy f)
/-- `kloop` (R260). -/
def execKloop (f : KC) (s : State) : Res := s.copyOp f (s.kenv.kloop f)
/-- `kput` (R269). -/
def execKput (f : KC) (s : State) : Res := s.copyOp f (s.kenv.kput f)
/-- `kget` (R269). -/
def execKget (f : KC) (s : State) : Res := s.copyOp f (s.kenv.kget f)
/-- `kcoll` all-reduce (R270). -/
def execKcollAllReduce (f : KC) (s : State) : Res := s.copyOp f (s.kenv.kcoll s.hub f 0)
/-- `kcoll` all-gather (R270). -/
def execKcollAllGather (f : KC) (s : State) : Res := s.copyOp f (s.kenv.kcoll s.hub f 1)
/-- `kcoll` reduce-scatter (R270). -/
def execKcollReduceScatter (f : KC) (s : State) : Res := s.copyOp f (s.kenv.kcoll s.hub f 2)
/-- `kcoll` broadcast (R270, R272). -/
def execKcollBroadcast (f : KC) (s : State) : Res := s.copyOp f (s.kenv.kcoll s.hub f 3)

/-- The running command changed. -/
def Chan.modHead (x : Chan) (f : CopyCmd → CopyCmd) : Chan := { x with q := match x.q with | c :: t => f c :: t | [] => [] }
/-- A watermark arms for the stall rule, or disarms (R263). -/
def Chan.arm (x : Chan) (b n : Nat) : Chan := { x with wm := if n = 0 then none else some ⟨b, n, none, []⟩ }
/-- `kwm` (R263): the stall rule takes the arm at issue. -/
def execKwm (f : KC) (s : State) : Res :=
  s.passed (s.kenv.wmRange f) fun (b, n) =>
    match s.kenv.kwm f with
    | .ok c => (s.modChan s.cur f.ch.toNat fun x => x.arm b n).withhold (.copy f.ch.toNat c)
    | .error _ => s
/-- `ksync` (R267). -/
def execKsync (f : KC) (s : State) : Res := s.copyOp f (s.kenv.ksync f)
/-- `kstage chN` (R261). -/
def execKstage (f : KC) (s : State) : Res := .next (s.withhold (.kstage f.ch.toNat))
/-- `kstage sched` (R261, R262): registers and shapes as they stand at its issue. -/
def execKstageSched (_f : KC) (s : State) : Res := .next (s.withhold (.kstageSched s.me.regs s.me.sup))
/-- `kcancel chN` (R273). -/
def execKcancelChannel (f : KC) (s : State) : Res := .next (s.withhold (.kcancel 0 f.ch.toNat))
/-- `kcancel all` (R273). -/
def execKcancelAll (f : KC) (s : State) : Res := .next (s.withhold (.kcancel 1 f.ch.toNat))
/-- `kcancel flush` (R273). -/
def execKcancelFlush (f : KC) (s : State) : Res := .next (s.withhold (.kcancel 2 f.ch.toNat))

/-- A status result of the K slot, 4 cycles after issue (R265, R268, R274). -/
def State.kResult (s : State) (f : KC) (v : W64) : Res :=
  .next (s.modMe fun c => (c.addVar .status [.s f.s.toNat] [.s f.s.toNat v] (some (s.cycle + 4)) false none).2)
/-- The status word of a channel (R274). -/
def Chan.status (x : Chan) : W64 :=
  BitVec.ofNat 64 (x.q.length % 16 + (if x.frozen.isSome then 16 else 0) + x.released % 2 ^ 20 * 2 ^ 8 + x.filled % 2 ^ 20 * 2 ^ 28 + min x.nfail 65535 * 2 ^ 48)
/-- `kstat` (R274). -/
def execKstat (f : KC) (s : State) : Res := s.kResult f (s.me.chan f.ch.toNat).status
/-- `kwmrd` (R265): all ones when the channel is not armed. DESIGN CHOICE: from the issue of a `kwm` to its reaching the front, for which R263 gives wm[ch] no value, it reads the new arm's base, and the old arm is gone (log entry 110). -/
def execKwmrd (f : KC) (s : State) : Res :=
  s.kResult f (match (s.me.chan f.ch.toNat).wm with
    | some w => BitVec.ofNat 64 (w.reach.getD w.base)
    | none => BitVec.allOnes 64)
/-- `ksyncrd` (R268): the value is read when the read completes. -/
def execKsyncrd (f : KC) (s : State) : Res :=
  s.passed (s.kenv.syncWord f) fun x =>
    s.modMe fun c => (c.addVar (.sync x.toNat none) [.s f.s.toNat] [] (some (s.cycle + 4)) false none).2
/-- `ksyncrd` with wait (R268): it holds later bundles until gen reaches the threshold. -/
def execKsyncrdWait (f : KC) (s : State) : Res :=
  s.passed (s.kenv.syncWord f) fun x =>
    s.modMe fun c => (c.addVar (.sync x.toNat (some (s.kenv.s f))) [.s f.s.toNat] [] (some (s.cycle + 4)) true none).2

/-! ### Watermarks (R263, R264) -/

/-- Channel `i` has a command queued, running or withheld (R264). -/
def Core.chanWork (k : Core) (i : Nat) : Bool :=
  !(k.chan i).q.isEmpty || (k.rq ++ k.wb).any fun e => match e with | .copy c _ => c == i | _ => false
/-- WATERMARK_WAIT_RELEASE (R264): the watermark covers the bytes, and the bundle may issue. -/
def execWatermarkWaitRelease (c : Nat) (s : State) : Res :=
  let k := s.core c
  match k.iss.wmWait with
  | some (ch, _, off, hi) =>
    if (match (k.chan ch).wm with | some w => (w.waits off (hi - off)).isNone | none => true) then
      .next (s.modCore c fun k => { k with iss := { k.iss with wmWait := none } })
    else .next s
  | none => .next s
/-- COPY_UNDERRUN (R264, R309): nothing is left that could write the bytes. -/
def execCopyUnderrun (c : Nat) (s : State) : Res :=
  let k := s.core c
  match k.iss.wmWait with
  | some (ch, slot, off, hi) =>
    if k.chanWork ch || (match (k.chan ch).wm with | some w => (w.waits off (hi - off)).isNone | none => true) then .next s
    else .next ((s.modCore c fun k => { k with iss := { k.iss with wmWait := none } }).takeTrap c ⟨TrapKind.precise, ⟨0x10, slot, ch, 0, offAddr off⟩⟩)
  | none => .next s

/-! ### Pieces (R251, R256, R259, R266) -/

/-- How the copy engines translate: through the die's shared TLB (R255, R324). -/
def State.cpXlate (s : State) (c ctx : Nat) (sup : Bool) : Xlate := fun k va n =>
  s.translate (s.hub.stlb.get [] (c / 64)) ctx k sup va n (pageFuel n)
/-- Where the running iteration begins: destination and origin (R259, R260). -/
def CopyCmd.bases (m : CopyCmd) : W72 × W72 :=
  match m.op with
  | .loop _ step => (m.dst + BitVec.ofInt 72 ((m.iter % kBufs m.h : Nat) * kBufLen m.h), m.org + BitVec.ofNat 72 m.iter * step)
  | _ => (m.dst, m.org)
/-- Piece `k` of rows from `d` and `o`: destination, origin and bytes (R251). -/
def findPiece (h : BitVec 128) (d o : W72) : Nat → Nat → Option (W72 × W72 × Nat)
  | 0, _ => none
  | fuel + 1, k =>
    let a := d.toNat % 64
    let np := (a + kRowb h + 63) / 64
    if k < np then
      let j := if k = 0 then 0 else 64 * k - a
      some (d + BitVec.ofNat 72 j, o + BitVec.ofNat 72 j, min (kRowb h) (64 * (k + 1) - a) - j)
    else findPiece h (d + BitVec.ofInt 72 (kDst h)) (o + BitVec.ofInt 72 (kSst h)) fuel (k - np)
/-- The next piece of the running iteration. -/
def CopyCmd.next? (m : CopyCmd) : Option (W72 × W72 × Nat) := findPiece m.h m.bases.1 m.bases.2 (kRows m.h) m.piece

/-- A stop of a copy (R255, R309): its progress counts the pieces written. -/
def CopyCmd.stop (m : CopyCmd) (code : Nat) (a : W72) : Cause := ⟨code, 7, m.past + m.piece, 0, a⟩
/-- A failed translation of a copy. -/
def CopyCmd.xfault (m : CopyCmd) (f : TFault) : Cause := { f.cause 7 with prog := m.past + m.piece }

/-- Origin bytes of a device piece at their homes, with poison (R255); a remote line is forwarded once (R326). -/
def State.homeBytes (s : State) (c ev scope : Nat) (g : Seg) : List Byte × Bool × State :=
  ((List.range ((g.pa + g.n - 1) / 64 + 1 - g.pa / 64)).foldl (fun (acc : Option Nat × List Byte × Bool × State) i =>
    let (sent, bs, p, s) := acc
    let blk := g.pa / 64 + i
    let lo := max g.pa (64 * blk) - 64 * blk
    let hi := min (g.pa + g.n) (64 * blk + 64) - 64 * blk
    let s := if 2 ≤ scope then s.recall (blk / 2) else s
    let goes := isRemote (64 * blk) && !s.homeHas blk
    let (b, s) := s.readHome c blk (min ev 3) (ev < 5) (sent == some (blk / 2))
    (if goes then some (blk / 2) else sent, bs ++ ((leList 64 b.data.toNat).drop lo).take (hi - lo), p || b.poison, s)) (none, [], false, s)).2
/-- Bytes of a device run, segment by segment. -/
def State.homeRun (s : State) (c ev scope : Nat) (segs : List Seg) : List Byte × Bool × State :=
  segs.foldl (fun (acc : List Byte × Bool × State) g =>
    let (b, p, s) := acc.2.2.homeBytes c ev scope g
    (acc.1 ++ b, acc.2.1 || p, s)) ([], false, s)
/-- The descriptor that a whole copied block takes (R87): the origin block's, the default from the remote range, else unchanged. DESIGN CHOICE: where two rows of R87's table fit, 64 bytes of two blocks of the remote range take the default, and a mix of remote and device bytes leaves the descriptor (log entry 111). -/
def State.copyDesc (s : State) (segs : List Seg) (n : Nat) : Option (BitVec 32) :=
  match segs with
  | [g] => if n ≠ 64 then none else if isRemote g.pa then some defaultDesc
      else if g.pa % 64 = 0 then some (s.authBlock (g.pa / 64)).desc else none
  | l => if n = 64 ∧ l.all (fun g => isRemote g.pa) then some defaultDesc else none
/-- What a copy reads for one piece: bytes, poison, descriptor (R256). -/
def State.copyRead (s : State) (c : Nat) (m : CopyCmd) (o : W72) (n : Nat) : Except Cause (List Byte × Bool × Option (BitVec 32) × State) :=
  if kSscr m.h then .ok ((s.core c).scr.getList 0 o.toNat n, false, none, s)
  else match s.cpXlate c m.ctx m.sup .read o n with
    | .error f => .error (m.xfault f)
    | .ok segs =>
      let d := s.copyDesc segs n
      let (bs, p, s) := s.homeRun c (kEv m.h) m.scope segs
      .ok (bs, p, d, s)

/-- A sync word counts `n` bytes (R266). -/
def Core.syncCount (k : Core) (x n : Nat) : Core :=
  let target := leVal (k.scr.getList 0 x 4)
  if target = 0 then k
  else
    let total := leVal (k.scr.getList 0 (x + 4) 4) + n
    let gen := leVal (k.scr.getList 0 (x + 8) 8) + total / target
    { k with scr := (k.scr.putList 0 (x + 4) (leList 4 (total % target))).putList 0 (x + 8) (leList 8 gen) }
/-- Bytes count toward the shape's sync word (R253, R266). -/
def State.copySync (s : State) (c : Nat) (h : BitVec 128) (n : Nat) : State :=
  if kSyncen h then s.modCore c fun k => k.syncCount (kSyncoff h) n else s
/-- Scratchpad bytes written for a command of a channel: banks, watermark, sync word, meter (R256, R263, R266, R391). -/
def State.scrPiece (s : State) (c ch : Nat) (m : CopyCmd) (x : Nat) (bs : List Byte) : State :=
  ((s.modCore c fun k =>
    let k := { k with scr := k.scr.putList 0 x bs }
    let q := k.chan ch
    { k with ch := k.ch.put {} ch { q with wm := q.wm.map fun w => w.wrote x bs.length } }).copySync c m.h bs.length).meter c 5 bs.length
/-- Device bytes written for a command of a channel at their home, or given to the pool agent (R111, R256); the sync word counts them when they perform at the command's scope (R257, R266). The blocks are noted in the running command for its completion; with `front` false the command has left its channel, and they enter the signatures at once (R273). -/
def State.devPiece (s : State) (c ch : Nat) (m : CopyCmd) (front : Bool) (g : Seg) (bs : List Byte) (desc : Option (BitVec 32)) (poison : Bool) : State :=
  let n := bs.length
  let s :=
    if isRemote g.pa then
      let id := s.fresh
      let wait := 4 ≤ m.scope
      let s := (s.poolWrite c ⟨g.pa, bs, g.untr⟩ (if wait && kSyncen m.h then some (kSyncoff m.h, n) else none) poison).meter c 7 n
      if wait then (if front then s.modChan c ch fun x => x.modHead fun m => { m with acks := m.acks ++ [id] } else s) else s.copySync c m.h n
    else
      let s := (s.mergeDirect (some c) g.pa bs desc poison (min (kEv m.h) 3)).meter c 6 n
      (if kEv m.h = 5 then s.dropHome c (g.pa / 128) else s).copySync c m.h n
  if front then s.modChan c ch fun x => x.modHead fun m => { m with wrote := m.wrote ++ [(g.pa / 64, g.untr)] } else s.sign c (g.pa / 64) g.untr

/-- One piece written: read, then written (R256), or the stop that it meets (R255). -/
def State.copyPiece (s : State) (c ch : Nat) (m : CopyCmd) (d o : W72) (n : Nat) : Except Cause State :=
  match s.copyRead c m o n with
  | .error x => .error x
  | .ok (bs, p, desc, s) =>
    if kDscr m.h then
      if p then .error (m.stop 0x0B o) else .ok (s.scrPiece c ch m d.toNat bs)
    else match s.cpXlate c m.ctx m.sup .write d n with
      | .error f => .error (m.xfault f)
      | .ok [] => .error (m.stop 0x07 d)
      | .ok (g :: _) => .ok (s.devPiece c ch m true g bs (if n = 64 then desc else none) p)

/-! ### Remote puts and gets (R269) -/

/-- The endpoint of a context (R269). -/
def Hub.endpoint? (h : Hub) (ctx e : Nat) : Option Endpoint := match h.ctx? ctx with | some c => if e < 4096 then c.endpoints.get none e else none | none => none
/-- A put or get is refused before anything is sent (R269): no endpoint, a window too small, or a dead link. -/
def State.remoteBad (s : State) (m : CopyCmd) (ep : Nat) (base : W72) (stride : Int) : Option Nat :=
  match s.hub.endpoint? m.ctx ep with
  | none => some 2
  | some e =>
    let x := rowExtent base.toNat (kRows m.h) stride (kRowb m.h)
    if x.1 < 0 || (e.size : Int) < x.2 then some 2
    else if !s.hub.linkUp (ueLink (e.qp % 8)) then some 1 else none
/-- The task of a core and its launch. -/
def State.senderOf (s : State) (c : Nat) : Nat × Nat :=
  match (s.core c).job with
  | some j => (j.task, match s.hub.tasks.get none j.task with | some t => t.launch | none => 0)
  | none => (0, 0)
/-- A launch counts a failure (R275). -/
def State.launchFailure (s : State) (l : Nat) : State :=
  match s.hub.launches.get none l with
  | some x => { s with hub := { s.hub with launches := s.hub.launches.put none l (some { x with nfail := x.nfail + 1 }) } }
  | none => s
/-- A failed remote command or collective (R122, R274, R275): counts and cause bits. -/
def State.netFailure (s : State) (c ch bits : Nat) : State :=
  ((s.launchFailure (s.senderOf c).2).modCore c fun k => { k with netFail := k.netFail + 1, netCause := k.netCause ||| BitVec.ofNat 3 bits }).modChan c ch fun x => { x with nfail := x.nfail + 1 }
/-- The cause bits of a failed remote access (R122). -/
def causeBits : RemoteResult → Nat
  | .ok _ => 0 | .dead => 1 | .refused => 2 | .poison => 4
/-- The queue pair of an endpoint. -/
def State.qpOf (s : State) (ctx ep : Nat) : Option Nat := (s.hub.endpoint? ctx ep).map (·.qp)
/-- A put or get is sent: its entry of the in-flight table. -/
def State.sendNet (s : State) (c ch id : Nat) (put : Bool) (piece : Option (Bool × W72 × Nat)) (untr : Bool) (qp : Option Nat) (coll : Option CollOp) : State :=
  { s with fresh := id + 1
           hub := { s.hub with net := s.hub.net ++ [({ id := id, core := c, ch := ch, put := put, piece := piece, untr := untr, task := (s.senderOf c).1, launch := (s.senderOf c).2, qp := qp, coll := coll, meterRec := s.recOf c } : NetOp)] } }
/-- An operation of the in-flight table changed. -/
def State.modNet (s : State) (id : Nat) (f : NetOp → NetOp) : State := { s with hub := { s.hub with net := s.hub.net.map fun x => if x.id == id then f x else x } }
/-- One piece of a put sent (R269), or the poison that stops it (R255). Below net scope it has performed, and the sync word counts it; at net scope it counts once the put is acknowledged (R257, R266). -/
def State.putPiece (s : State) (c : Nat) (m : CopyCmd) (ep : Nat) (d o : W72) (n : Nat) : Except Cause State :=
  match s.copyRead c m o n with
  | .error x => .error x
  | .ok (bs, p, _, s) => if p then .error (m.stop 0x0B o)
      else
        let s := ((s.out (.uePut (m.acks.headD 0) ep d.toNat bs)).meter c 11 n).modNet (m.acks.headD 0) fun o =>
          { o with sent := o.sent + n, sync := if m.scope = 5 && kSyncen m.h then some (kSyncoff m.h) else none }
        .ok (if m.scope = 5 then s else s.copySync c m.h n)
/-- One piece of a get requested (R269): its destination is translated as the channel reaches it; a stop waits for the answers of the pieces before it, which are written (R255). -/
def State.getPiece (s : State) (c ch : Nat) (m : CopyCmd) (ep : Nat) (d o : W72) (n : Nat) : Option (Except Cause State) :=
  let send (a : W72) (untr : Bool) : State :=
    let id := s.fresh
    ((s.sendNet c ch id false (some (kDscr m.h, a, n)) untr (s.qpOf m.ctx ep) none).out (.ueGet id ep o.toNat n)).modChan c ch fun x => x.modHead fun q => { q with acks := q.acks ++ [id] }
  if kDscr m.h then some (.ok (send d false))
  else
    let stop (x : Cause) : Option (Except Cause State) := if m.acks.isEmpty then some (.error x) else none
    match s.cpXlate c m.ctx m.sup .write d n with
    | .error f => stop (m.xfault f)
    | .ok [] => stop (m.stop 0x07 d)
    | .ok (g :: _) => some (.ok (send (BitVec.ofNat 72 g.pa) g.untr))

/-! ### Collectives as they are sent (R123, R270) -/

/-- Bytes of a collective's destination and origin (R270). -/
def CopyCmd.collBytes (m : CopyCmd) (kind n : Nat) : Nat × Nat := ((collSizes kind n).1 * kRowb m.h, (collSizes kind n).2 * kRowb m.h)
/-- The physical pages of a device run of a command, or none for a scratchpad side. -/
def State.cmdSegs (s : State) (c : Nat) (m : CopyCmd) (scr : Bool) (kind : Acc) (a : W72) (n : Nat) : Except Cause (List Seg) :=
  if scr then .ok [] else match s.cpXlate c m.ctx m.sup kind a n with | .error f => .error (m.xfault f) | .ok l => .ok l
/-- The blocks of a list of pages. -/
def segBlocks (l : List Seg) : List Nat := l.flatMap fun g => (List.range ((g.pa + g.n - 1) / 64 + 1 - g.pa / 64)).map (· + g.pa / 64)
/-- The named buffers of a collective (R123): pages of origin and destination. -/
def State.collSegs (s : State) (c : Nat) (m : CopyCmd) (kind n : Nat) : Except Cause (List Seg × List Seg) :=
  match s.cmdSegs c m (kSscr m.h) .read m.org (m.collBytes kind n).2, s.cmdSegs c m (kDscr m.h) .write m.dst (m.collBytes kind n).1 with
  | .ok o, .ok d => .ok (o, d)
  | .error x, _ => .error x
  | _, .error x => .error x
/-- Lines with the blocks of a list. -/
def blockLines (l : List Nat) : List Nat := (l.map (· / 2)).eraseDups
/-- Lines of the issuing core's L1 written back and, where written, invalid (R256). -/
def State.flushBlocks (s : State) (c : Nat) (l : List Nat) : State := (blockLines l).foldl (fun s ln => s.flushLine c ln) s
def State.cleanBlocks (s : State) (c : Nat) (l : List Nat) : State := (blockLines l).foldl (fun s ln => s.writeBackLine c ln) s
/-- The wake of some blocks (R112, R123). -/
def wakeOf (blocks : List Nat) : Pred := blocks.foldl (fun w b => w ||| wakeHash b) 0
/-- A broadcast at net scope runs by chunks over the relay tree (R272). -/
def relays (kind scope : Nat) : Bool := kind = 3 && scope = 5
/-- A collective's own contribution (R270): its origin, which a broadcast reads at its root alone; poison stops it (R255). -/
def State.collOwn (s : State) (c : Nat) (m : CopyCmd) (kind root : Nat) (gr : Group) (os : List Seg) : Except Cause (List Byte × State) :=
  let n := (m.collBytes kind gr.members.length).2
  if kind = 3 && gr.rank != root then .ok ([], s)
  else if kSscr m.h then .ok ((s.core c).scr.getList 0 m.org.toNat n, s)
  else
    let (bs, p, s) := s.homeRun c (kEv m.h) m.scope os
    if p then .error (m.stop 0x0B m.org) else .ok (bs, s)
/-- Another member of a collective at net scope stands behind a port that is down (R403). -/
def State.memberDead (s : State) (m : CopyCmd) (gr : Group) : Bool :=
  m.scope = 5 && (gr.members.eraseIdx gr.rank).any fun e => match s.hub.endpoint? m.ctx e with | some x => !s.hub.linkUp (ueLink (x.qp % 8)) | none => false
/-- A collective that fails as it starts: one failure, and its completion with the Absorb (R122, R123). -/
def State.failColl (s : State) (c ch bits : Nat) (w : Pred) : State :=
  (s.netFailure c ch bits).modChan c ch fun x => x.modHead fun m => { m with iterOn := true, wake := w }
/-- A collective that reaches the front of its channel is sent (R123, R255, R270): the member's dirty bytes in its buffers go home, its contribution is read. It fails, dead, when a member's port is down (R403), and, refused, when its group is gone (R122; log entry 96). -/
def State.sendColl (s : State) (c ch : Nat) (m : CopyCmd) (kind g root : Nat) : Except Cause State :=
  match s.hub.group? m.ctx g with
  | none =>
    let w := match s.collSegs c m kind 1 with | .ok (o, d) => wakeOf (segBlocks o ++ segBlocks d) | .error _ => 0
    .ok (s.failColl c ch 2 w)
  | some gr => match s.collSegs c m kind gr.members.length with
    | .error x => .error x
    | .ok (os, ds) =>
      let blocks := segBlocks os ++ segBlocks ds
      match (s.cleanBlocks c blocks).collOwn c m kind root gr os with
      | .error x => .error x
      | .ok (own, s) =>
        if s.memberDead m gr then .ok (s.failColl c ch 1 (wakeOf blocks))
        else
        let id := s.fresh
        let s := s.sendNet c ch id false none false none (some { cmd := m, group := gr, own := own, dst := ds, blocks := blocks })
        let s := if relays kind m.scope then s else (s.out (.ueColl c ch own)).meter c 11 own.length
        .ok (s.modChan c ch fun x => x.modHead fun m => { m with acks := [id] })

/-! ### Channels (R251, R252, R260) -/

/-- The cycles that a translation adds to an access of core `c`'s copy engine which the die's shared TLB serves (R325). A walk adds its own time. -/
def State.sharedTime (s : State) (c ctx : Nat) (va : W72) : Nat := if (s.copyLacks c ctx va 1).isNone then 24 else 0
/-- The cycles before a command's first piece (R252, R325). -/
def State.firstPiece (s : State) (c : Nat) (m : CopyCmd) : Nat :=
  match m.op with
  | .get _ => 0
  | _ => if kSscr m.h then 6 + (if kDscr m.h then 0 else match m.op with | .put _ => 0 | _ => s.sharedTime c m.ctx m.dst)
    else match s.cpXlate c m.ctx m.sup .read m.org 1 with
      | .ok (g :: _) => s.homeLatency (clusterOf c) (g.pa / 64) + s.sharedTime c m.ctx m.org
      | _ => 0
/-- A later `kwm` of a channel, queued behind `t` or still to enter, arms the same range: the arm that stands is its own (R263). -/
def Core.kwmLater (k : Core) (ch : Nat) (t : List CopyCmd) (dst : W72) (n : Nat) : Bool :=
  let same (m : CopyCmd) : Bool := m.op == .wm n && m.dst == dst
  t.any same || (k.rq ++ k.wb).any fun e => match e with | .copy i m => i == ch && same m | _ => false
/-- The command at the front of a channel starts (R251). `kwm` and `ksync` act and leave; a refused put or get counts its failure and leaves; a `kloop` resets its counts. -/
def State.startFront (s : State) (c ch : Nat) : Nat → State
  | 0 => s
  | fuel + 1 =>
    let x := (s.core c).chan ch
    if x.running || x.frozen.isSome then s
    else match x.q with
      | [] => s
      | m :: t =>
        let run (s : State) (g : Chan → Chan) : State :=
          s.modChan c ch fun x => g ({ x with running := true }.modHead fun m => { m with from_ := s.cycle + s.firstPiece c m })
        let gone (s : State) : State := (s.modChan c ch fun x => { x with q := t }).startFront c ch fuel
        match m.op with
        | .wm n => gone (if (s.core c).kwmLater ch t m.dst n then s else
            s.modChan c ch fun x => { x with wm := x.wm.map fun w => if w.base = m.dst.toNat && w.len = n then { w with reach := some w.base, beyond := [] } else w })
        | .sync target => gone (s.modCore c fun k => { k with scr := k.scr.putList 0 m.dst.toNat (leList 4 target.toNat ++ leList 4 0) })
        | .put ep => match s.remoteBad m ep m.dst (kDst m.h) with
          | some b => gone (s.netFailure c ch b)
          | none =>
            let id := s.fresh
            run (s.sendNet c ch id true none false (s.qpOf m.ctx ep) none) fun x => x.modHead fun m => { m with acks := [id] }
        | .get ep => match s.remoteBad m ep m.org (kSst m.h) with
          | some b => gone (s.netFailure c ch b)
          | none => run s id
        | .loop _ _ => run s fun x => { x with filled := 0, released := 0 }
        | .copy => run s id
        | .coll _ _ _ _ _ => run s id
/-- Lets a channel go on to its next command. -/
def State.advanceChan (s : State) (c ch : Nat) : State := s.startFront c ch 10

/-- KLOOP_ITERATION_START (R260). -/
def execKloopIterationStart (c ch : Nat) (s : State) : Res :=
  let x := (s.core c).chan ch
  match x.q with
  | m :: _ =>
    match m.op with
    | .loop n _ =>
      if x.running && x.frozen.isNone && !m.iterOn && m.iter < n && x.filled = m.iter && (m.iter < kBufs m.h || m.iter + 1 ≤ x.released + kBufs m.h) then
        .next (s.modChan c ch fun x => x.modHead fun m => { m with iterOn := true })
      else .next s
    | _ => .next s
  | [] => .next s

/-- The entries that a partition holds of the network in-flight table: gets, and puts that have begun to send, not yet answered (R363). -/
def Hub.netOf (h : Hub) (p : Nat) : List NetOp :=
  h.net.filter fun o => o.answer.isNone && o.coll.isNone && (!o.put || 0 < o.sent) && match h.launches.get none o.launch with | some l => l.part == p | none => false
/-- The entries that a partition may hold (R363). -/
def Hub.netLimit (h : Hub) (p : Nat) : Nat := divLimit (h.parts'.map fun x => (x.1, x.2.cfg.netres, (h.netOf x.1).length)) 8192 1024 p
/-- A put or get must wait for an entry (R251, R363): a put takes one with its first piece. -/
def State.netFull (s : State) (m : CopyCmd) : Bool :=
  let p := s.hub.ctxPart m.ctx
  let l := s.hub.netOf p
  match m.op with
  | .put _ => s.hub.netLimit p ≤ l.length && !l.any fun o => m.acks.contains o.id
  | .get _ => s.hub.netLimit p ≤ l.length
  | _ => false
/-- The device runs that the next piece of a running command reads and writes. -/
def State.pieceRuns (s : State) (m : CopyCmd) : List (W72 × Nat) :=
  let side (scr : Bool) (a : W72) (n : Nat) : List (W72 × Nat) := if scr then [] else [(a, n)]
  match m.op, m.next? with
  | .coll kind _ _ g _, _ =>
    let n := match s.hub.group? m.ctx g with | some x => x.members.length | none => 1
    side (kSscr m.h) m.org (m.collBytes kind n).2 ++ side (kDscr m.h) m.dst (m.collBytes kind n).1
  | .put _, some (_, o, n) => side (kSscr m.h) o n
  | .get _, some (d, _, n) => side (kDscr m.h) d n
  | _, some (d, o, n) => side (kSscr m.h) o n ++ side (kDscr m.h) d n
  | _, none => []
/-- The running command may go on to its next piece now (R251, R252, R260, R363). -/
def State.pieceReady (s : State) (c ch : Nat) : Option CopyCmd :=
  let x := (s.core c).chan ch
  match x.q with
  | m :: _ =>
    if !x.running || x.frozen.isSome || s.cycle < m.from_ || s.netFull m then none
    else match m.op with
      | .copy | .put _ | .get _ => some m
      | .loop _ _ => if m.iterOn then some m else none
      | .coll _ _ _ _ _ => if m.iterOn || !m.acks.isEmpty then none else some m
      | .wm _ | .sync _ => none
  | [] => none
/-- The next piece of a channel's running command with what it does, or the stop that it meets. -/
def State.nextPiece (s : State) (c ch : Nat) : Option (Except Cause State) :=
  match s.pieceReady c ch with
  | none => none
  | some m => match m.op, m.next? with
    | .coll kind _ _ g root, _ => some (s.sendColl c ch m kind g root)
    | .copy, some (d, o, n) | .loop _ _, some (d, o, n) => some (s.copyPiece c ch m d o n)
    | .put ep, some (d, o, n) => some (s.putPiece c m ep d o n)
    | .get ep, some (d, o, n) => s.getPiece c ch m ep d o n
    | _, _ => none
/-- The next piece waits for a translation: the state with the miss taken (R255, R324, R325). -/
def State.pieceWaits (s : State) (c ch : Nat) : Option State :=
  match s.pieceReady c ch with
  | none => none
  | some m => ((s.pieceRuns m).findSome? fun x => s.copyLacks c m.ctx x.1 x.2).map fun a => s.miss .copy c m.ctx a
/-- A piece done: progress, pace (R252: two pieces a cycle), and a filled iteration (R260). -/
def Chan.pieceDone (x : Chan) (cycle : Nat) : Chan :=
  let x := x.modHead fun m => { m with piece := m.piece + 1, from_ := if (m.past + m.piece) % 2 = 0 then cycle else cycle + 1 }
  match x.q with
  | m :: _ => match m.op with
    | .loop _ _ => if m.next?.isNone then { x.modHead fun m => { m with iter := m.iter + 1, iterOn := false, past := m.past + m.piece, piece := 0 } with filled := m.iter + 1 } else x
    | _ => x
  | [] => x
/-- A channel freezes (R255): channel and position are the report's location. The failure of a schedule entry whose channel is frozen already is its next fault (R262). -/
def State.freezeChan (s : State) (c ch : Nat) (x : Cause) (pos : Nat) : State :=
  let f : Frozen := ⟨{ x with loc := ch % 16 * 16 + pos % 16 }, 0, (s.core c).iss.region, false, false, none⟩
  (s.modCore c fun k => k.walksSpent .copy).modChan c ch fun q => if q.frozen.isSome then { q with more := q.more ++ [f] } else { q with frozen := some f }
/-- COPY_PIECE_WRITE (R255, R256): a piece is written or sent, or its translation is asked for. -/
def execCopyPieceWrite (c ch : Nat) (s : State) : Res :=
  match s.pieceWaits c ch with
  | some u => .next u
  | none => match s.nextPiece c ch with
    | some (.ok s') => .next (s'.modChan c ch fun x => x.pieceDone s.cycle)
    | _ => .next s
/-- COPY_DEFERRED_FAULT (R255): the channel freezes at the piece that stops. -/
def execCopyDeferredFault (c ch : Nat) (s : State) : Res :=
  match s.nextPiece c ch with
  | some (.error x) => .next (s.freezeChan c ch x 0)
  | _ => .next s

/-! ### Completion (R256, R257) -/

/-- Every piece of a command is written or sent. -/
def CopyCmd.allSent (m : CopyCmd) : Bool :=
  match m.op with
  | .loop n _ => n ≤ m.iter
  | .copy | .put _ | .get _ => m.next?.isNone
  | .coll _ _ _ _ _ => m.iterOn
  | .wm _ | .sync _ => false
/-- No access that the command waits for is unanswered (R257). -/
def State.acked (s : State) (m : CopyCmd) : Bool :=
  let busy := m.acks.any fun i => s.mem.inflight.any (fun w => w.id == i) || s.hub.net.any fun o => o.id == i
  match m.op with
  | .put _ => m.scope != 5 || !busy
  | _ => !busy
/-- The front command leaves its channel at its completion (R256); a collective absorbs the wake of its buffers (R123). -/
def State.leaveChan (s : State) (c ch : Nat) (m : CopyCmd) : State :=
  let s := s.flushBlocks c (m.wrote.map (·.1))
  let s := s.signBlocks c m.wrote
  let s := match m.op with | .coll _ _ _ _ _ => s.absorb c m.wake | _ => s
  (s.modChan c ch fun x => { x with q := x.q.drop 1, running := false }).advanceChan c ch
/-- COPY_COMPLETE (R256, R257). -/
def execCopyComplete (c ch : Nat) (s : State) : Res :=
  let x := (s.core c).chan ch
  match x.q with
  | m :: _ => if x.running && x.frozen.isNone && m.allSent && s.acked m then .next (s.leaveChan c ch m) else .next s
  | [] => .next s

/-! ### Remote operations as they are answered (R122, R251, R269, R276) -/

/-- The core that sent a remote operation has stopped for a sever cut: what still comes is kept for it (R356, step 2). -/
def State.severed (s : State) (o : NetOp) : Bool :=
  (match s.hub.launches.get none o.launch with | some x => x.st == .cutting && !x.trace | none => false) &&
  (match (s.core o.core).job with | some j => j.task == o.task && (j.phase == Phase.halted || j.phase == Phase.stopped) | none => false)
/-- The task that sent a remote operation has cores saved, or stopped for a sever cut, and is not over (R276, R356). -/
def State.isAway (s : State) (o : NetOp) : Bool :=
  (o.away.isSome || s.severed o) && (match s.hub.tasks.get none o.task with | some t => t.st != .ended | none => false)
/-- The operation leaves the in-flight table. -/
def State.dropNet (s : State) (id : Nat) : State := { s with hub := { s.hub with net := s.hub.net.filter fun x => x.id != id } }
/-- What an operation counts for its task: on the core that runs it, else in the record it was sent for (R365). -/
def State.meterNet (s : State) (o : NetOp) (i n : Nat) : State :=
  if (s.senderOf o.core).1 == o.task && o.away.isNone then s.meter o.core i n else s.modHub fun h => h.note o.meterRec i n
/-- An answer takes effect on the sender's core: a get's bytes are written, what a put at net scope has sent counts at its sync word, a failure is counted once for its command (R122, R257, R266, R269). The data of a cancelled get are dropped (R273). -/
def State.answered (s : State) (o : NetOp) (r : RemoteResult) : State :=
  let head := ((s.core o.core).chan o.ch).q.head?.filter fun m => m.acks.contains o.id
  let s := s.dropNet o.id
  let s := match r, o.piece, head with
    | .ok data, some (scr, a, n), some m =>
      let bs := data.take n
      let s := s.meter o.core 12 bs.length
      if scr then s.scrPiece o.core o.ch m a.toNat bs
      else s.devPiece o.core o.ch m true ⟨a.toNat, n, o.untr⟩ bs (if n = 64 then some defaultDesc else none) false
    | .ok data, _, _ => if !o.put then s.meter o.core 12 data.length else match o.sync with
      | some x => s.modCore o.core fun k => k.syncCount x o.sent
      | none => s
    | e, _, some m => if m.failed then s else (s.netFailure o.core o.ch (causeBits e)).modChan o.core o.ch fun x => x.modHead fun m => { m with failed := true }
    | e, _, none => s.netFailure o.core o.ch (causeBits e)
  if head.isSome then s.modChan o.core o.ch fun x => x.modHead fun m => { m with acks := m.acks.filter fun i => i != o.id } else s
/-- The first operation whose answer may take effect: its task is there, and no earlier piece of a get of its channel still waits (R251). -/
def State.netDue (s : State) : Option (NetOp × RemoteResult) :=
  s.hub.net.findSome? fun o => match o.answer with
    | none => none
    | some r => if s.isAway o || (s.hub.net.takeWhile fun x => x.id != o.id).any (fun x => x.core == o.core && x.ch == o.ch && x.task == o.task && x.piece.isSome && x.answer.isNone) then none else some (o, r)
/-- Every answer that may take effect does, in the order in which the operations were sent. -/
def State.settleNet (s : State) : Nat → State
  | 0 => s
  | fuel + 1 => match s.netDue with
    | some (o, r) => (s.answered o r).settleNet fuel
    | none => s
/-- REMOTE_ACKNOWLEDGE (R122, R257, R269, R276): a put is answered when all of it has been sent. The outcome for a saved task, and for a piece of a get behind one not yet answered, is held; for a task that is over only a failure and the bytes received count (R365). -/
def execRemoteAcknowledge (id : Nat) (r : RemoteResult) (s : State) : Res :=
  match s.hub.net.find? fun o => o.id == id && o.answer.isNone && o.coll.isNone with
  | none => .next s
  | some o =>
    let sending := match ((s.core o.core).chan o.ch).q.head? with | some m => m.acks.contains id && !m.allSent | none => false
    if !s.isAway o && (s.senderOf o.core).1 != o.task then
      .next (match r with | .ok data => if o.put then s.dropNet id else (s.dropNet id).meterNet o 12 data.length | _ => (s.dropNet id).launchFailure o.launch)
    else if o.put && sending && o.away.isNone then .next s
    else .next ((s.modNet id fun x => { x with answer := some r }).settleNet (s.hub.net.length + 1))

/-! ### Collectives (R123, R270 to R272) -/

/-- Two elements combined (R271). -/
def collElem (op ty a b : Nat) : Nat :=
  match op with
  | 0 => Arith.add.lane ty 0 false a b 0
  | 1 => maxLane ty a b
  | _ => minLane ty a b
/-- Elements combined pairwise in an order that the spec leaves open (R271): at each step the two values taken are free choices. -/
def reduceElems (f : Nat → Nat → Nat) : Nat → Nat → List Nat → Nat
  | 0, _, l => l.headD 0
  | fuel + 1, seed, l =>
    match l with
    | [] => 0
    | [x] => x
    | l =>
      let i := Config.combinePick (2 * seed) % l.length
      let x := l.getD i 0
      let l := l.eraseIdx i
      let j := Config.combinePick (2 * seed + 1) % l.length
      reduceElems f fuel (seed + 1) (f x (l.getD j 0) :: l.eraseIdx j)
/-- A byte list as elements of `w` bytes. -/
def elemsOf (w n : Nat) (bs : List Byte) : List Nat := (List.range n).map fun i => leVal ((bs.drop (w * i)).take w)
/-- The members' buffers reduced element by element. -/
def reduceBytes (op ty seed : Nat) (l : List (List Byte)) (n : Nat) : List Byte :=
  let w := tyWidth ty / 8
  (List.range (n / w)).flatMap fun i =>
    leList w (reduceElems (collElem op ty) l.length (seed * 2 ^ 40 + i * 2 ^ 16) (l.map fun b => leVal ((b.drop (w * i)).take w)))
/-- What a member's destination receives (R270). -/
def collResult (kind op ty root rank rowb seed : Nat) (l : List (List Byte)) : List Byte :=
  match kind with
  | 0 => reduceBytes op ty seed l rowb
  | 1 => l.flatMap (fun b => b.take rowb)
  | 2 => ((reduceBytes op ty seed l (rowb * l.length)).drop (rowb * rank)).take rowb
  | _ => (l.getD root []).take rowb

/-- `n` bytes of some pages, from an offset on. -/
def segsFrom : List Seg → Nat → Nat → List Seg
  | [], _, _ => []
  | g :: t, off, n =>
    if g.n ≤ off then segsFrom t (off - g.n) n
    else
      let k := min n (g.n - off)
      if n = 0 then [] else ⟨g.pa + off, k, g.untr⟩ :: segsFrom t 0 (n - k)
/-- Bytes written at an offset of a collective's destination; a block written whole comes with the default descriptor (R87). DESIGN CHOICE: so do those of the member's own contribution and of a reduction's result, for which R87's table names no event (log entry 112). `front`: the command stands in its channel. -/
def State.collWrite (s : State) (c ch : Nat) (o : CollOp) (front : Bool) (off : Nat) (bs : List Byte) : State :=
  if kDscr o.cmd.h then s.scrPiece c ch o.cmd (o.cmd.dst.toNat + off) bs
  else (piecesOf (segsFrom o.dst off bs.length) bs).foldl (fun s p =>
    s.devPiece c ch o.cmd front ⟨p.pa, p.bytes.length, p.untr⟩ p.bytes (if p.bytes.length = 64 then some defaultDesc else none) false) s
/-- What a collective has brought takes effect on its member's core (R123, R273, R275): bytes are written, a failure is counted once, and at its end the command may complete, or, when it was cancelled, the Absorb runs at once. -/
def State.collEffect (s : State) (o : NetOp) (x : CollOp) : State :=
  let front := match ((s.core o.core).chan o.ch).q.head? with | some m => m.acks.contains o.id | none => false
  let s := x.due.foldl (fun s d => s.collWrite o.core o.ch x front d.1 d.2) s
  let s := if x.fail != 0 && !x.failed then s.netFailure o.core o.ch x.fail else s
  let x := { x with due := [], failed := x.failed || x.fail != 0, fail := 0 }
  if !x.ended then s.modNet o.id fun y => { y with coll := some x }
  else
    let s := s.dropNet o.id
    if front then s.modChan o.core o.ch fun q => q.modHead fun m => { m with iterOn := true, acks := m.acks.filter fun i => i != o.id, wake := wakeOf x.blocks }
    else s.absorb o.core (wakeOf x.blocks)
/-- A collective's state after something has come: held while its task is saved, dropped but for its failure when the task is over (R275, R276). -/
def State.settleColl (s : State) (o : NetOp) (x : CollOp) : State :=
  if s.isAway o then s.modNet o.id fun y => { y with coll := some x }
  else if (s.senderOf o.core).1 != o.task then
    let s := if x.fail != 0 && !x.failed then s.launchFailure o.launch else s
    if x.ended then s.dropNet o.id else s.modNet o.id fun y => { y with coll := some { x with due := [], failed := x.failed || x.fail != 0, fail := 0 } }
  else s.collEffect o x
/-- A collective that core `c` has sent and that has not ended. -/
def State.collOf (s : State) (c id : Nat) : Option (NetOp × CollOp × Nat × Nat × Nat × Nat) :=
  match s.hub.net.find? fun o => o.core == c && o.id == id with
  | some o => (match o.coll with
    | some x => if x.ended then none else (match x.cmd.op with | .coll kind op ty _ root => some (o, x, kind, op, ty, root) | _ => none)
    | none => none)
  | none => none
/-- The chunks of a buffer (R272). -/
def chunks (m : CopyCmd) : Nat := (kRowb m.h + 4095) / 4096

/-- COLLECTIVE_COMPLETE (R123, R270, R271): the members' contributions are combined into the destination, its own as it was sent; with cause bits the collective failed for every member (R122). A relayed broadcast completes once its last chunk has been passed on. -/
def execCollectiveComplete (c id : Nat) (contribs : List (List Byte)) (bits : BitVec 3) (s : State) : Res :=
  match s.collOf c id with
  | none => .next s
  | some (o, x, kind, op, ty, root) =>
    let m := x.cmd
    if bits ≠ 0 then .next (s.settleColl o { x with fail := bits.toNat, ended := true })
    else if relays kind m.scope then
      if x.chunk < chunks m then .next s else .next (s.settleColl o { x with ended := true })
    else
      let all := (List.range x.group.members.length).map fun i => if i = x.group.rank then x.own else contribs.getD i []
      let got := (List.range x.group.members.length).foldl (fun n i => if i = x.group.rank then n else n + (contribs.getD i []).length) 0
      let s' := ({ s with fresh := s.fresh + 1 } : State).meterNet o 12 got
      .next (s'.settleColl o { x with due := x.due ++ [(0, collResult kind op ty root x.group.rank (kRowb m.h) s.fresh all)], ended := true })

/-- RELAY_CHUNK_FORWARD (R272): the next chunk of a broadcast is held, sent to the member's children, and written to its own destination; a chunk that did not arrive is a failure here and at the children. -/
def execRelayChunkForward (c id chunk : Nat) (data : List Byte) (bits : BitVec 3) (s : State) : Res :=
  match s.collOf c id with
  | none => .next s
  | some (o, x, kind, _, _, root) =>
    let m := x.cmd
    if !relays kind m.scope || chunk != x.chunk || chunks m ≤ chunk then .next s
    else
      let n := x.group.members.length
      let rel := (x.group.rank + n - root % n) % n
      let off := 4096 * chunk
      let len := min 4096 (kRowb m.h - off)
      let kids := ((List.range 4).map fun i => 4 * rel + 1 + i).filter (· < n)
      let send (s : State) (bs : List Byte) : State := kids.foldl (fun s r => (s.out (.uePut 0 (x.group.members.getD ((r + root) % n) 0) off bs)).meterNet o 11 bs.length) s
      let x := { x with chunk := chunk + 1 }
      if rel = 0 then
        let bs := (x.own.drop off).take len
        .next ((send s bs).settleColl o { x with due := x.due ++ [(off, bs)] })
      else if bits ≠ 0 then .next ((send s []).settleColl o { x with fail := x.fail ||| bits.toNat })
      else .next ((send (s.meterNet o 12 len) (data.take len)).settleColl o { x with due := x.due ++ [(off, data.take len)] })

/-! ### At the head of RQ (R251, R256, R261, R262, R273) -/

/-- A device run cut at its 4 KiB pages. -/
def pageRuns (va : W72) (n : Nat) : List (W72 × Nat) :=
  let o := va.toNat % 4096
  (List.range ((o + n - 1) / 4096 + 1)).map fun i => (va + BitVec.ofNat 72 (4096 * i - o), min n (4096 * (i + 1) - o) - (4096 * i - o))
/-- The device blocks that a command's side touches, row by row and page by page; pages that do not translate are left to the running command (R256). -/
def State.sideBlocks (s : State) (c : Nat) (m : CopyCmd) (kind : Acc) (base : W72) (stride : Int) (rows len : Nat) : List Nat :=
  (List.range rows).flatMap fun (r : Nat) => (pageRuns (base + BitVec.ofInt 72 (r * stride)) len).flatMap fun x =>
    match s.cpXlate c m.ctx m.sup kind x.1 x.2 with
    | .ok l => segBlocks l
    | .error _ => []
/-- The blocks that a command reads and those that it writes on its device sides (R256). -/
def State.cmdBlocks (s : State) (c : Nat) (m : CopyCmd) : List Nat × List Nat :=
  let d (base : W72) := if kDscr m.h then [] else s.sideBlocks c m .write base (kDst m.h) (kRows m.h) (kRowb m.h)
  let o (base : W72) := if kSscr m.h then [] else s.sideBlocks c m .read base (kSst m.h) (kRows m.h) (kRowb m.h)
  match m.op with
  | .copy => (o m.org, d m.dst)
  | .loop n _ => ((List.range n).flatMap (fun i => o ({ m with iter := i } : CopyCmd).bases.2), (List.range (min n (kBufs m.h))).flatMap fun i => d ({ m with iter := i } : CopyCmd).bases.1)
  | .put _ => (o m.org, [])
  | .get _ => ([], d m.dst)
  | .coll kind _ _ g _ =>
    let n := match s.hub.group? m.ctx g with | some x => x.members.length | none => 1
    (if kSscr m.h then [] else s.sideBlocks c m .read m.org 0 1 (m.collBytes kind n).2, if kDscr m.h then [] else s.sideBlocks c m .write m.dst 0 1 (m.collBytes kind n).1)
  | .wm _ | .sync _ => ([], [])
/-- A command enters its channel (R251, R256); none while the channel is full. -/
def State.enterChan (s : State) (c ch : Nat) (m : CopyCmd) : Option State :=
  if 8 ≤ ((s.core c).chan ch).q.length then none
  else
    let (r, w) := s.cmdBlocks c m
    let s := (s.cleanBlocks c r).flushBlocks c w
    some ((s.modChan c ch fun x => { x with q := x.q ++ [m] }).advanceChan c ch)

/-- `kstage chN` performs (R261). -/
def State.performKstage (s : State) (c ch : Nat) : State :=
  s.modChan c ch fun x =>
    match x.q with
    | m :: _ => (match m.op with
      | .loop _ _ => if x.running && x.released < x.filled then { x with released := x.released + 1 } else x
      | _ => x)
    | [] => x

/-- The command of a schedule entry, in an environment (R262): the encoding of a K-slot operation without a guard. -/
def KEnv.entry (e : KEnv) (w : BitVec 64) : Option (Nat × Except Cause CopyCmd × Bool) :=
  match decodeOpK (w.toNat / 2 ^ 50) (w.extractLsb' 0 45) with
  | some (.kcopy f, _) => some (f.ch.toNat, e.kcopy f, false)
  | some (.kloop f, _) => some (f.ch.toNat, e.kloop f, false)
  | some (.kput f, _) => some (f.ch.toNat, e.kput f, false)
  | some (.kget f, _) => some (f.ch.toNat, e.kget f, false)
  | some (.ksync f, _) => some (f.ch.toNat, e.ksync f, false)
  | some (.kwm f, _) => some (f.ch.toNat, e.kwm f, true)
  | _ => none
/-- One entry of the schedule released (R262, R263): checked, then put into its channel as a command would be, a `kwm` arming its watermark for the stall rule at this moment; a failed check freezes the channel, or is its next fault where it is frozen already. None while the channel is full. -/
def State.releaseOne (s : State) (c : Nat) (x : Option (Nat × Except Cause CopyCmd × Bool)) : Option State :=
  match x with
  | none => some s
  | some (ch, .error x, _) => some (s.freezeChan c ch x ((s.core c).chan ch).q.length)
  | some (ch, .ok m, wm) =>
    if 8 ≤ ((s.core c).chan ch).q.length then none
    else
      let s := if wm then s.modChan c ch fun x => (match m.op with | .wm n => x.arm m.dst.toNat n | _ => x) else s
      s.enterChan c ch m
/-- Entries below the stage counter are released in order, up to one that finds its channel full (R262). -/
def State.releaseSched (s : State) (c : Nat) (e : KEnv) : Nat → State
  | 0 => s
  | fuel + 1 =>
    let k := s.core c
    let i := k.sched.next
    if k.sched.entries.length ≤ i || k.sched.sc ≤ i then s
    else match s.releaseOne c (e.entry (k.sched.entries.getD i 0)) with
      | none => s
      | some s => (s.modCore c fun k => { k with sched := { k.sched with next := i + 1 } }).releaseSched c e fuel
/-- Every entry below the stage counter is released. -/
def Sched.caughtUp (x : Sched) : Bool := x.entries.length ≤ x.next || x.sc ≤ x.next
/-- Entries released in an environment of registers and privilege. -/
def State.release (s : State) (c : Nat) (r : Regs) (sup : Bool) : State :=
  let k := s.core c
  s.releaseSched c ⟨r, k.scratchSize, sup, k.ctx⟩ (k.sched.entries.length + 1)
/-- The initial release goes on while it still waits for room (R262). -/
def State.initialRelease (s : State) (c : Nat) : State :=
  match (s.core c).sched.start with
  | none => s
  | some (r, sup) =>
    let s := s.release c r sup
    if (s.core c).sched.caughtUp then s.modCore c fun k => { k with sched := { k.sched with start := none } } else s
/-- The initial release of a stage task begins (R262). -/
def State.beginSched (s : State) (c : Nat) (r : Regs) (sup : Bool) : State :=
  (s.modCore c fun k => { k with sched := { k.sched with start := some (r, sup) } }).initialRelease c
/-- `kstage sched` performs at the head of RQ (R261, R262): the stage counter advances once, and the head stays until every entry that this releases has found room. -/
def State.performSched (s : State) (c : Nat) (r : Regs) (sup : Bool) : Option State :=
  let k := s.core c
  if k.sched.start.isSome then none
  else
    let s := if k.rqAt.isSome then s else s.modCore c fun k => { k with rqAt := some s.cycle, sched := { k.sched with sc := k.sched.sc + 1 } }
    let s := s.release c r sup
    some (if (s.core c).sched.caughtUp then s.modCore c fun k => { k with rq := k.rq.drop 1, rqAt := none } else s)

/-- `kcancel` performs (R273): a flush abandons the faulting command and the later ones of its channel. -/
def State.performKcancel (s : State) (c mode ch : Nat) : State :=
  match mode with
  | 0 => s.dropChan c ch
  | 1 => (List.range 16).foldl (fun s i => s.dropChan c i) s
  | _ => match ((s.core c).chan ch).frozen with
    | none => s
    | some f =>
      let n := f.cause.loc % 16
      if n = 0 then s.dropChan c ch else (s.modChan c ch fun x => { x with q := x.q.take n, frozen := none, more := [] }).advanceChan c ch
/-- A channel that a handler's return has let go goes on (R255, R312). -/
def State.advanceAll (s : State) (c : Nat) : State := (List.range 16).foldl (fun s i => s.advanceChan c i) s

end Sys2Proof.Machine
end

