-- ==== Sys2Proof/Machine/Sync.lean ====
section
/-! DEFINITION. The sync class: barrier lines of a gang, releases and acquires on beacons, fences, waiting on a line, on engines, and drains (R278 to R297, R121, R122). -/
namespace Sys2Proof.Machine

/-! ### Barrier lines (R281 to R285) -/

/-- The number of a core within its cluster, which barrier masks use (R281). -/
def coreBit (c : Nat) : Nat := c % 8
/-- The gang of a task, by number within its cluster. -/
def Task.gang (t : Task) : List Nat := t.cores.map coreBit
/-- The participants of a line: the whole gang until `bar.cfg` names others (R281). -/
def Task.mask (t : Task) (nb : Nat) : List Nat := t.masks.get t.gang nb
/-- The arrived flags of a line. -/
def Task.arrivals (t : Task) (nb : Nat) : List Nat := t.arrived.get [] nb
/-- The task that a core runs. -/
def State.taskOf (s : State) (c : Nat) : Option Task := match (s.core c).job with | some j => s.hub.tasks.get none j.task | none => none
/-- A task changed. -/
def State.modTask (s : State) (t : Nat) (f : Task → Task) : State :=
  match s.hub.tasks.get none t with
  | some x => s.modHub fun h => { h with tasks := h.tasks.put none t (some (f x)) }
  | none => s
/-- The task of a core changed. -/
def State.modTaskOf (s : State) (c : Nat) (f : Task → Task) : State := match (s.core c).job with | some j => s.modTask j.task f | none => s

/-- `bar.cfg` (R282): the mask governs from the next cycle; of two writes in one cycle the higher core's stands. An entry holds the writer first. -/
def execBarCfg (f : YB) (s : State) : Res :=
  let me := coreBit s.cur
  let nb := f.nb.toNat
  .next <| s.modTaskOf s.cur fun t =>
    let m := t.gang.filter fun i => f.imm.getLsbD i
    match t.pending.get [] nb with
    | w :: _ => if me < w then t else { t with pending := t.pending.put [] nb (me :: m) }
    | [] => { t with pending := t.pending.put [] nb (me :: m) }
/-- Masks written in this cycle take effect (R282). -/
def Task.newMasks (t : Task) : Task :=
  { t with masks := t.pending.foldl (fun b (nb, l) => b.put t.gang nb (l.drop 1)) t.masks, pending := [] }

/-- A core's arrived flag set (R281): a core outside the mask does not take part. -/
def Task.arrive (t : Task) (nb me : Nat) : Task :=
  if (t.mask nb).contains me && !(t.arrivals nb).contains me then { t with arrived := t.arrived.put [] nb (t.arrivals nb ++ [me]) } else t
/-- `bar.arrive` (R284). -/
def execBarArrive (f : YB) (s : State) : Res := .next (s.modTaskOf s.cur fun t => t.arrive f.nb.toNat (coreBit s.cur))
/-- The acting core's arrived flag on a line. -/
def State.hasArrived (s : State) (c nb : Nat) : Bool := match s.taskOf c with | some t => (t.arrivals nb).contains (coreBit c) | none => false
/-- A core takes part in a line (R281). -/
def State.takesPart (s : State) (c nb : Nat) : Bool := match s.taskOf c with | some t => (t.mask nb).contains (coreBit c) | none => false
/-- `bar.test` (R284): 1 when the flag is clear. -/
def execBarTest (f : YB) (s : State) : Res :=
  .next (s.emit 2 (.s f.s.toNat (if s.takesPart s.cur f.nb.toNat && s.hasArrived s.cur f.nb.toNat then 0 else 1)))

/-- A core's hold set. -/
def Core.setHold (k : Core) (h : Hold) : Core := { k with iss := { k.iss with hold := h } }
/-- `bsync` (R283): a core outside the mask goes on; any other arrives once RQ is empty, and waits. -/
def execBsync (f : YB) (s : State) : Res :=
  .next (if s.takesPart s.cur f.nb.toNat then s.modMe fun k => k.setHold (.bsync f.nb.toNat 0 false false) else s)
/-- `bsync …, wait` (R283): it waits only where the core has arrived. -/
def execBsyncWait (f : YB) (s : State) : Res :=
  .next (if s.takesPart s.cur f.nb.toNat && s.hasArrived s.cur f.nb.toNat then s.modMe fun k => k.setHold (.bsync f.nb.toNat 0 true true) else s)
/-- RQ holds no effect: nothing stands in it, and its last release is complete (R283, R317, R408). -/
def Core.rqDone (k : Core) (cycle : Nat) : Bool := k.rq.isEmpty && k.rqFrom ≤ cycle
/-- The arrival of a core that waits in `bsync`: the first cycle in which RQ holds no effect (R283). A core that its line no longer names goes on. -/
def State.bsyncArrive (s : State) (c : Nat) : State :=
  match (s.core c).iss.hold with
  | .bsync nb st arr w =>
    if !s.takesPart c nb then s.modCore c fun k => { k.setHold .none with iss := { (k.setHold .none).iss with elig := s.cycle + 1 + st } }
    else if !arr && (s.core c).rqDone s.cycle && (s.core c).wb.isEmpty then
      (s.modTaskOf c fun t => t.arrive nb (coreBit c)).modCore c fun k => k.setHold (.bsync nb st true w)
    else s
  | _ => s
/-- A line fires: its mask is not empty and every core it names has arrived (R281). -/
def Task.fires (t : Task) (nb : Nat) : Bool := !(t.mask nb).isEmpty && (t.mask nb).all fun i => (t.arrivals nb).contains i
/-- A core's wait in `bsync` is over: 3 cycles after the line fired, plus its stall count (R283). -/
def Core.freeAt (k : Core) (cycle stall : Nat) : Core := { k with iss := { k.iss with hold := .none, elig := cycle + 3 + stall } }
/-- A saved core that has not restarted, freed of its wait on a line that fires (R283, R285). -/
def Saved.freed (v : Saved) (cores m : List Nat) (nb cycle : Nat) : Saved :=
  match v.core.iss.hold, v.core.job with
  | .bsync n st true _, some j => (match cores[j.rank]? with
    | some c => if n = nb && m.contains (coreBit c) then { v with core := v.core.freeAt cycle st } else v
    | none => v)
  | _, _ => v
/-- BARRIER_FIRE (R281, R283): the arrived flags clear, and every waiting core restarts 3 cycles later plus its stall count. A core of the gang whose restart is still to come is freed where its state is saved (R285). -/
def execBarrierFire (task nb : Nat) (s : State) : Res :=
  match s.hub.tasks.get none task with
  | none => .next s
  | some t =>
    if !t.fires nb then .next s
    else
      let m := t.mask nb
      let s' := s.modTask task fun t => { t with
        arrived := t.arrived.put [] nb ((t.arrivals nb).filter fun i => !m.contains i), saved := t.saved.map fun v => v.freed t.cores m nb s.cycle }
      let free (s : State) (c : Nat) : State :=
        match (s.core c).iss.hold with
        | .bsync n st true _ => if n = nb && m.contains (coreBit c) then
            s.modCore c fun k => k.freeAt s.cycle st else s
        | _ => s
      .next (t.cores.foldl free s')

/-! ### Beacons and fences (R286 to R288) -/

/-- `rel.st` (R279, R286). -/
def execRelSt (f : YM) (s : State) : Res :=
  let va := s.me.regs.eaYM f
  s.checked (s.memFault 9 128 .write va 8)
    ((s.useTlb va 8).withhold (.relSt f.scope.toNat f.ev.toNat (s.paOf .write va) (s.me.regs.rs f.s.toNat) (s.untrOf .write va)))
/-- An acquire of format YM (R279, R287). -/
def State.acqYM (s : State) (f : YM) (all : Bool) : Res :=
  let va := s.me.regs.eaYM f
  s.checked (orCause (alignFault 9 va 8) (orCause (beaconFault 9 va) (s.memFault 9 8 .read va 8)))
    (s.loadAcq 9 f.scope.toNat va 8 f.ev.toNat (.s f.s.toNat) (fun bs => [.s f.s.toNat (BitVec.ofNat 64 (leVal bs))]) all false)
/-- `acq.ld` (R287). -/
def execAcqLd (f : YM) (s : State) : Res := s.acqYM f false
/-- `acq.ld.all` (R118, R287). -/
def execAcqLdAll (f : YM) (s : State) : Res := s.acqYM f true
/-- `rel.fence` (R288). -/
def execRelFence (f : YM) (s : State) : Res := .next (s.withhold (.relFence f.scope.toNat))
/-- `acq.fence` (R288): at core scope nothing; else every line of the L1 goes, and at pool scope the clean lines of the remote range too. -/
def execAcqFence (f : YM) (s : State) : Res :=
  let sc := f.scope.toNat
  .next (if sc = 0 then s else if 4 ≤ sc then (s.flushAll s.cur).dropRemote s.cur else s.flushAll s.cur)

/-! ### Waiting on a line (R289 to R292) -/

/-- `waitaddr` (R279, R290): it acts at the head of RQ. -/
def execWaitaddr (f : YM) (s : State) : Res :=
  let va := s.me.regs.eaYM f
  s.checked (orCause (alignFault 9 va 8) (orCause (beaconFault 9 va) (s.memFault 9 8 .read va 8)))
    (((s.useTlb va 8).withhold (.waitaddr (s.paOf .read va) f.s.toNat (s.me.regs.rs f.s.toNat))).modMe fun k => k.setHold (.effect 0))
/-- The stall count of the bundle that a hold belongs to. -/
def Hold.stall : Hold → Nat
  | .bsync _ st _ _ | .effect st | .parked st => st
  | .none | .idle => 0
/-- The stall count of the waiting bundle put into its hold. -/
def Hold.withStall (h : Hold) (n : Nat) : Hold :=
  match h with
  | .bsync nb _ a w => .bsync nb n a w
  | .effect _ => .effect n
  | .parked _ => .parked n
  | .none => .none
  | .idle => .idle
/-- A register write of a committed region that lands now, in the shadow too (R306). -/
def Core.landNow (k : Core) (w : Wr) : Core := { k with regs := k.regs.apply w, sh := k.sh.apply w }
/-- A hold ends: the next bundle is eligible in the following cycle, plus the stall count (R291). -/
def Core.release (k : Core) (cycle : Nat) : Core := { k with iss := { k.iss with hold := .none, elig := cycle + 1 + k.iss.hold.stall } }
/-- A `waitaddr` completes with a status (R292). -/
def State.endWait (s : State) (c reg status : Nat) : State :=
  s.modCore c fun k => (k.landNow (.s reg (BitVec.ofNat 64 status))).release s.cycle
/-- The head of RQ leaves. -/
def Core.popRq (k : Core) : Core := { k with rq := k.rq.drop 1, rqAt := none }

/-- A monitor of slice `h` beyond 64 displaces the oldest, which completes with status 3 (R290, R292). -/
def State.displace (s : State) (h : Nat) : State :=
  let l := s.mem.mons.filter fun m => homeOf m.line == h
  if l.length < 64 then s
  else match l with
    | [] => s
    | o :: _ => { s with mem := ({ s.mem with mons := s.mem.mons.erase o } : Mem).send s.cycle o.line 3 [o] }
/-- A `waitaddr` at the home (R290): ownership comes home, the bytes are compared, and the core parks. Status 0 reaches it after the way back (R408). -/
def State.register (s : State) (c pa reg : Nat) (v : W64) : State :=
  let ln := pa / 128
  let lat := s.homeLatency (clusterOf c) (2 * ln)
  let s := ((s.modCore c Core.popRq).recall ln).snoopExcl (pa / 64)
  let s := if s.mem.read64 pa != v then { s with mem := { s.mem with msgs := s.mem.msgs ++ [(⟨c, reg, 0, s.cycle + (lat - lat / 2)⟩ : WakeMsg)] } }
    else
      let s := s.displace (homeOf ln)
      { s with mem := { s.mem with mons := s.mem.mons ++ [(⟨ln, c, reg, s.cycle⟩ : Monitor)] } }
  s.modCore c fun k => k.setHold (.parked k.iss.hold.stall)
/-- The register of a parked `waitaddr`. -/
def State.parkedReg (s : State) (c : Nat) : Option Nat :=
  match s.mem.mons.find? fun m => m.core == c with
  | some m => some m.reg
  | none => (s.mem.msgs.find? fun m => m.core == c).map (·.reg)
/-- A parked core stops where it is (R292, R352): its monitor and its message go, and the `waitaddr` completes with status 5. -/
def State.stopParked (s : State) (c : Nat) : State :=
  match s.parkedReg c with
  | some r => ({ s with mem := { s.mem with mons := s.mem.mons.filter fun m => m.core != c, msgs := s.mem.msgs.filter fun m => m.core != c } } : State).endWait c r 5
  | none => s
/-- The core has stopped, or a hard stop of it is to come (R352); above level 0 the request is held (R311). -/
def Core.stopping (k : Core) : Bool := match k.job with | some j => j.phase == .halted || j.phase == .stopped || (j.due.isSome && k.sys.level == 0) | none => false
/-- WAITADDR_REGISTER (R290, R352, R408): half the L2 latency after the instruction reached the head of RQ. A core that is being stopped does not stay parked. -/
def execWaitaddrRegister (c : Nat) (s : State) : Res :=
  match (s.core c).rq, (s.core c).rqAt with
  | .waitaddr pa reg v :: _, some t => .next (if s.cycle < t then s else if (s.core c).stopping then (s.register c pa reg v).stopParked c else s.register c pa reg v)
  | _, _ => .next s
/-- WAKE_MESSAGE (R291, R292): the oldest message for the core that has travelled its time arrives. -/
def execWakeMessage (c : Nat) (s : State) : Res :=
  match s.mem.msgs.find? fun m => m.core == c && m.due ≤ s.cycle with
  | some m => .next (({ s with mem := { s.mem with msgs := s.mem.msgs.erase m } } : State).endWait c m.reg m.status)
  | none => .next s
/-- WAITADDR_TIMEOUT (R289, R292): the limit counts from the registration; 0 means none. -/
def execWaitaddrTimeout (c : Nat) (s : State) : Res :=
  match s.mem.mons.find? fun m => m.core == c with
  | some m =>
    let lim := (s.core c).sys.wtmo.toNat
    if lim ≠ 0 ∧ m.since + lim ≤ s.cycle then
      .next (({ s with mem := { s.mem with mons := s.mem.mons.filter fun x => x.core != c } } : State).endWait c m.reg 2)
    else .next s
  | none => .next s

/-! ### Waiting on engines, and drains (R293 to R295) -/

/-- `wait.m` (R293). -/
def execWaitM (f : YW) (s : State) : Res :=
  .next ((s.withhold (.waitM f.mask.toNat f.imm.toNat)).modMe fun k => k.setHold (.effect 0))
/-- `wait.k` (R294). -/
def execWaitK (f : YW) (s : State) : Res := .next ((s.withhold (.waitK f.mask.toNat)).modMe fun k => k.setHold (.effect 0))
/-- A frozen engine ends no wait at level 0, where its fault is delivered instead, and its work counts as done at levels 1 and 2 (R293, R312). -/
def Core.waitMDone (k : Core) (mask n : Nat) : Bool :=
  (mask % 2 = 0 || (if k.eng.frozen.isSome then k.sys.level != 0 else decide (k.eng.q.length ≤ n))) && (mask / 2 % 2 = 0 || k.eng.pfq.isEmpty)
/-- No named channel holds a command, a frozen one at levels 1 and 2 apart (R294, R312). -/
def Core.waitKDone (k : Core) (mask : Nat) : Bool :=
  (List.range 16).all fun i => mask / 2 ^ i % 2 = 0 || (if (k.chan i).frozen.isSome then k.sys.level != 0 else (k.chan i).q.isEmpty)
/-- `drain` (R295): its destination is pending, and it holds later memory operations until its word is written (R106). -/
def execDrain (f : YM) (s : State) : Res :=
  let (id, k) := s.me.addVar .status [.s f.s.toNat] [] none true none
  .next ((s.setCore s.cur k).withhold (.drain f.scope.toNat f.s.toNat id))
/-- What a drain waits for is done (R121). -/
def State.drained (s : State) (c scope : Nat) : Bool :=
  (scope < 4 || !s.poolBusy c) && (scope < 5 || !s.netBusy c)
/-- The fence status word (R122): the count saturates. -/
def fenceWord (n : Nat) (cause : BitVec 3) : W64 := BitVec.ofNat 64 (min n 0xFFFFFFFF * 2 ^ 32 + cause.toNat)
/-- The counts that a drain reports and resets (R122). -/
def Core.drainWord (k : Core) (scope : Nat) : W64 × Core :=
  match scope with
  | 4 => (fenceWord k.poolFail k.poolCause, { k with poolFail := 0, poolCause := 0 })
  | 5 => (fenceWord (k.poolFail + k.netFail) (k.poolCause ||| k.netCause), { k with poolFail := 0, poolCause := 0, netFail := 0, netCause := 0 })
  | _ => (0, k)
/-- DRAIN_COMPLETE (R121, R122): at the head of RQ, once its waits are done. -/
def execDrainComplete (c : Nat) (s : State) : Res :=
  match (s.core c).rq with
  | .drain scope d vid :: _ =>
    if s.drained c scope then
      .next <| s.modCore c fun k =>
        let (w, k) := k.popRq.drainWord scope
        (k.setVar vid [.s d w] s.cycle).finishVar s.cycle vid
    else .next s
  | _ => .next s

end Sys2Proof.Machine
end

