-- ==== Sys2Proof/Machine/System.lean ====
section
/-! DEFINITION. The system class: system registers, supervisor calls, trap return, the end of a task's part, and the hub commands with their completion; metering as its updates add it (R298 to R319, R333, R365, R366). -/
namespace Sys2Proof.Machine

/-! ### System registers (R300 to R303) -/

/-- The partition of a context. -/
def Hub.partOf (h : Hub) (ctx : Nat) : Nat := match h.ctx? ctx with | some c => c.part | none => 0
/-- tlvl (R302). -/
def Core.tlvl (k : Core) : W64 := BitVec.ofNat 64 (k.sys.level % 4 + (if k.sup then 4 else 0) + (if k.sys.svctx then 8 else 0))
/-- A register of a trap bank, by the low bits of its number (R300). -/
def TrapBank.read (b : TrapBank) (k : Nat) : W64 :=
  match k with
  | 0 => b.cause
  | 1 => b.tret
  | 2 => b.taddr
  | 3 => b.hscr
  | 4 => b.asave.setWidth 64
  | _ => (b.asave.extractLsb' 64 8).setWidth 64
/-- The value of a system register (R300). -/
def State.sysVal (s : State) (c n : Nat) : W64 :=
  let k := s.core c
  match n with
  | 0x000 => k.regs.ckcfg.setWidth 64
  | 0x001 => k.tlvl
  | 0x002 => BitVec.ofNat 64 (k.ctx % 4096 + s.hub.partOf k.ctx % 16 * 65536)
  | 0x003 => BitVec.ofNat 64 (match s.hub.part? (s.hub.partOf k.ctx) with | some p => p.cfg.budget % 65536 | none => 0)
  | 0x004 => k.sys.clock
  | 0x008 => k.sys.tsave
  | 0x009 => k.sys.tvec1
  | 0x00A => k.sys.tvec2
  | 0x010 | 0x011 | 0x012 | 0x013 | 0x014 | 0x015 => k.sys.bank1.read (n - 0x010)
  | 0x018 | 0x019 | 0x01A | 0x01B | 0x01C | 0x01D => k.sys.bank2.read (n - 0x018)
  | 0x020 => k.regs.lsave
  | 0x021 => k.regs.vfm.extractLsb' 0 64
  | 0x022 => k.regs.vfm.extractLsb' 64 64
  | 0x023 => k.sys.wtmo.setWidth 64
  | _ => 0
/-- Registers that user code may read, or write (R300). -/
def userReads (n : Nat) : Bool := n ≤ 0x004 || (0x020 ≤ n && n ≤ 0x023)
def userWrites (n : Nat) : Bool := n == 0x000 || n == 0x021 || n == 0x022 || n == 0x023
/-- `sysrd` (R314): the register as it stands at issue; its result is read from the next cycle on, the least of a result whose time the spec does not give (log entry 17). -/
def execSysrd (f : SY) (s : State) : Res :=
  let n := f.sysreg.toNat
  s.checked (if userReads n then none else s.supFault 1)
    (s.modMe fun c => (c.addVar .status [.s f.d.toNat] [.s f.d.toNat (s.sysVal s.cur n)] (some (s.cycle + 1)) false none).2)
/-- `syswr` (R314): the write lands at the end of its cycle. -/
def execSyswr (f : SY) (s : State) : Res :=
  let n := f.sysreg.toNat
  s.checked (if userWrites n then none else s.supFault 1) (s.emit 1 (.sys n (s.me.regs.rs f.d.toNat)))

/-! ### Trap, return, end (R315 to R317) -/

/-- `trap` (R309, R315): a boundary trap whose return address is the next bundle; what the bundle's sync slot holds is done first. -/
def execTrap (f : SI) (s : State) : Res :=
  let r : TrapReq := ⟨TrapKind.boundary, ⟨0x05, 1, 0, 0, f.imm.setWidth 72⟩⟩
  let s := s.modMe fun k => { k with iss := { k.iss with pc := k.iss.pc + 64 } }
  .next (if s.me.iss.hold == .none then s.takeTrap s.cur r else s.modMe fun k => { k with iss := { k.iss with trap := some r } })
/-- `tret` (R299, R316): at level 0 it raises the privilege trap. Channels that it lets go go on (R255, R312). -/
def execTret (_f : SR) (s : State) : Res :=
  s.checked (if s.me.sys.level = 0 then some (cause0 0x03 1) else none) ((s.modMe fun k => k.trapReturn s.cycle).advanceAll s.cur)
/-- `idle` (R299, R317): at levels 1 and 2 it raises the privilege trap. -/
def execIdle (_f : SR) (s : State) : Res :=
  s.checked (if s.me.sys.level = 0 then none else some (cause0 0x03 1)) (s.modMe fun k => k.setHold .idle)
/-- A core in `idle` has nothing left to do (R317): a frozen engine delivers its fault first, and the results that its bundles await have landed (log entry 97). -/
def Core.idleDone (k : Core) (cycle : Nat) : Bool :=
  k.iss.hold == .idle && k.wb.isEmpty && k.rqDone cycle && k.eng.q.isEmpty && k.eng.pfq.isEmpty && k.eng.frozen.isNone &&
  k.ch.all (fun (_, x) => x.q.isEmpty && x.frozen.isNone) && k.sched.start.isNone && k.iss.pend.isEmpty && k.iss.vpend.isEmpty &&
  k.iss.trap.isNone && k.iss.poisons.isEmpty && !k.iss.ckpt
/-- Its part of the task is over (R317). -/
def State.endIdle (s : State) (c : Nat) : State :=
  let k := s.core c
  if k.idleDone s.cycle then s.modCore c fun k => { k with job := k.job.map (fun j => if j.phase == .running then { j with phase := .done } else j), iss := { k.iss with clamp := false } } else s

/-! ### Hub commands at issue (R318) -/

/-- A hub command: its status is pending, and later memory operations wait for it. -/
def State.hubCmd (s : State) (d : BitVec 6) (op : HubOp) : Res :=
  let (id, k) := s.me.addVar .hub [.s d.toNat] [] none true none
  s.checked (s.supFault 1) ((s.setCore s.cur k).withhold (.hub op d.toNat id))
/-- The context that s[b] names, or the running one for s0. -/
def State.ctxArg (s : State) (b : BitVec 6) : Nat :=
  if b = 0 then s.me.ctx else ((s.me.regs.rs b.toNat).extractLsb' 0 12).toNat
/-- The context of s[n]. -/
def State.ctxOf (s : State) (n : BitVec 6) : Nat := ((s.me.regs.rs n.toNat).extractLsb' 0 12).toNat
/-- `tlbinv.va` (R318). -/
def execTlbinvVa (f : SR) (s : State) : Res := s.hubCmd f.d (.tlbinvVa (s.ctxArg f.b) (s.me.regs.ra f.a.toNat))
/-- `tlbinv.ctx` (R318). -/
def execTlbinvCtx (f : SR) (s : State) : Res := s.hubCmd f.d (.tlbinvCtx (s.ctxArg f.b))
/-- `tlbinv.all` (R318). -/
def execTlbinvAll (f : SR) (s : State) : Res := s.hubCmd f.d .tlbinvAll
/-- `bias.dev` (R318, R333). -/
def execBiasDev (f : SI) (s : State) : Res := s.hubCmd f.d (.bias ((s.me.regs.rs f.a.toNat) + imm64 f.imm).toNat false)
/-- `bias.host` (R318, R333). -/
def execBiasHost (f : SI) (s : State) : Res := s.hubCmd f.d (.bias ((s.me.regs.rs f.a.toNat) + imm64 f.imm).toNat true)
/-- `stitch.ins` (R318, R248). -/
def execStitchIns (f : SR) (s : State) : Res := s.hubCmd f.d (.stitchIns (s.ctxOf f.b) ((s.me.regs.rs f.a.toNat).setWidth 72))
/-- `stitch.bind` (R318, R249). -/
def execStitchBind (f : SR) (s : State) : Res :=
  s.hubCmd f.d (.stitchBind (s.ctxOf f.a) ((s.me.regs.rs f.a.toNat).extractLsb' 16 6).toNat ((s.me.regs.rs f.b.toNat).extractLsb' 0 10).toNat)
/-- `stitch.unbind` (R318, R249). -/
def execStitchUnbind (f : SR) (s : State) : Res := s.hubCmd f.d (.stitchUnbind (s.ctxOf f.a) ((s.me.regs.rs f.a.toNat).extractLsb' 16 6).toNat)
/-- `stitch.drop` (R318, R249). -/
def execStitchDrop (f : SR) (s : State) : Res := s.hubCmd f.d (.stitchDrop (s.ctxOf f.a) ((s.me.regs.rs f.b.toNat).extractLsb' 0 10).toNat)
/-- `ctx.end` (R318, R369). -/
def execCtxEnd (f : SR) (s : State) : Res := s.hubCmd f.d (.ctxEnd (s.ctxOf f.a))

/-! ### Metering (R365, R366) -/

/-- The key of the energy that a record has gathered in this second (R367), in the store of live counts. -/
def secondKey (r : Nat) : Nat := 2 ^ 20 + r
/-- One record's update (R366, R367): all 16 counters advance together, modulo 2^64. -/
def Hub.updateRec (h : Hub) (r : Nat) : Hub :=
  let n (i : Nat) := h.live.get 0 (16 * r + i)
  let e := n 13 + (List.range 16).foldl (fun e i => if i = 13 then e else e + n i * Config.energyCoeff i) 0
  let add (m : Bank Nat) (i v : Nat) : Bank Nat := m.put 0 (16 * r + i) ((m.get 0 (16 * r + i) + v) % 2 ^ 64)
  let meters := (List.range 16).foldl (fun m i => if i = 13 then add m 13 (e / 2 ^ 20) else add m i (n i)) h.meters
  let live := (List.range 16).foldl (fun l i => l.put 0 (16 * r + i) (if i = 13 then e % 2 ^ 20 else 0)) h.live
  { h with meters := meters, live := live.put 0 (secondKey r) (h.live.get 0 (secondKey r) + e / 2 ^ 20) }
/-- The records that have counts to add. -/
def Hub.liveRecs (h : Hub) : List Nat := ((h.live.filter fun (k, _) => k < 2 ^ 20).map fun (k, _) => k / 16).dedup
/-- The energy of the clusters that run nothing goes to the idle records of their partitions, or to the hub's (R365). The spec names no counter for idle and gated clusters, and R399's run shows that it is not the core counter: the model takes the energy, for the clusters that are idle at the update (log entry 103). -/
def State.meterIdle (s : State) : State :=
  (List.range 32).foldl (fun s cl =>
    if s.cores.any fun x => clusterOf x.1 == cl && x.2.job.isSome then s
    else s.modHub fun h => h.note (match h.partOfCluster cl with | some p => idleRec p | none => hubRec) 13 (40000 * Config.idleCoeff)) s
/-- Every count goes into the store (R366). -/
def State.updateMeters (s : State) : State :=
  let s := s.meterIdle.cores.foldl (fun s (c, _) => s.flushCounts c) s.meterIdle
  s.modHub fun h => { h.liveRecs.foldl Hub.updateRec h with updates := h.updates + 1 }

/-! ### Hub commands at the hub (R318) -/

/-- The page that a `tlbinv.va` covers: the largest among the cached translations of the address and its present leaf. -/
def State.pageSpan (s : State) (ctx : Nat) (va : W72) : Nat :=
  let ents := s.cores.flatMap (fun (_, k) => k.tlb ++ k.ptlb) ++ s.hub.stlb.flatMap (·.2)
  let hit := ents.filter fun e => e.ctx == ctx && va.toNat / 2 ^ e.size == e.vpn / 2 ^ (e.size - 12)
  let now := match s.walk ctx va with | some (_, n) => n | none => 12
  hit.foldl (fun m e => max m e.size) now
/-- The contexts of a partition. -/
def Hub.ctxsOf (h : Hub) (p : Nat) : List Nat := h.ctxs.filterMap fun (n, c) => match c with | some x => if x.part = p then some n else none | none => none
/-- The virtual ranges that a `tlbinv` covers: context, start, length. -/
def State.coverOf (s : State) (part : Nat) (op : HubOp) : List (Nat × Nat × Nat) :=
  match op with
  | .tlbinvVa ctx va => let n := s.pageSpan ctx va; [(ctx, va.toNat / 2 ^ n * 2 ^ n, 2 ^ n)]
  | .tlbinvCtx ctx => [(ctx, 0, 2 ^ 72)]
  | .tlbinvAll => (s.hub.ctxsOf part).map fun c => (c, 0, 2 ^ 72)
  | _ => []
/-- A cached translation, or a walk, within a cover. -/
def inCover (l : List (Nat × Nat × Nat)) (ctx lo n : Nat) : Bool := l.any fun (c, a, m) => c == ctx && lo < a + m && a < lo + n
/-- The virtual extents whose translation a matrix command has captured (R201, R208, R212, R215): a drain's row by row. -/
def MEntry.spans (m : MEntry) : List (Nat × Nat) :=
  match m.op with
  | .step _ _ fmt va _ _ | .write _ fmt _ va _ _ => [(va.toNat, tileBytes fmt)]
  | .stepVa _ ta _ _ => if m.st == .waiting then [] else [(ta.toNat, tileBytes m.fmt)]
  | .drain _ va dst _ _ h => if dst.isEmpty then [] else (drainRows h va).map fun a => (a.toNat, fmtRow (mOfmt h))
  | .topkGet va _ => [(va.toNat, 1024)]
  | _ => []
/-- The virtual extent of the tile that a direct command has captured (R214). -/
def MDirect.spans : MDirect → List (Nat × Nat)
  | .pin _ fmt _ va | .unpin _ fmt va | .inv _ fmt va | .repl _ fmt _ _ va => [(va.toNat, tileBytes fmt)]
  | .pref _ _ _ _ | .cancelId _ | .cancelAll | .flush => []
/-- The extents that a core's commands have captured, those withheld among them. -/
def Core.spans (k : Core) : List (Nat × Nat) :=
  k.eng.all.flatMap MEntry.spans ++ (k.rq ++ k.wb).flatMap fun e => match e with
    | .matrix o sup => (⟨0, o, sup, .waiting, 0, 0, 0, 0, 0⟩ : MEntry).spans
    | .direct o _ => o.spans
    | _ => []
/-- A captured translation or a walk within a cover is still in use (R318), in a core or in the saved state of one. -/
def State.coverBusy (s : State) (l : List (Nat × Nat × Nat)) : Bool :=
  let busy (k : Core) : Bool := k.spans.any fun (a, n) => inCover l k.ctx a n
  s.cores.any (fun (_, k) => busy k) || s.hub.tasks.any (fun (_, t) => match t with | some t => t.saved.any fun v => busy v.core | none => false) || s.hub.walks.any fun w => w.cancelled && inCover l w.ctx (w.vpn * 4096) 4096

/-- The exposed window of a partition: base and size. -/
def Hub.windowOf (h : Hub) (p : Nat) : Option (Nat × Nat) := match h.exposed with | some (b, n, o) => if o = p then some (b, n) else none | none => none
/-- The status with which a flip would end now, 0 for one that flips (R318). -/
def State.flipStatus (s : State) (part page : Nat) (host : Bool) : Nat :=
  match s.hub.windowOf part with
  | none => 1
  | some (b, n) => if n / 4096 ≤ page then 3 else if s.mem.bias.get false (b / 4096 + page) == host then 2 else 0
/-- The flip commands of a page, in order. -/
def Hub.flips (h : Hub) (page : Nat) : List HubCmd := h.cmds.filter fun x => x.answer.isNone && match x.op with | .bias p _ => p == page | _ => false
/-- The first flip of a page begins, when it flips anything: host requests to the page are held from now on (R333). -/
def State.beginFlip (s : State) (page : Nat) : State :=
  match s.hub.flips page with
  | x :: _ => (match x.op with
    | .bias p h =>
      let part := s.hub.partOf x.ctx
      if s.flipStatus part p h = 0 then
        match s.hub.windowOf part with
        | some (b, _) => { s with mem := { s.mem with flipping := s.mem.flipping ++ [b / 4096 + page] } }
        | none => s
      else s
    | _ => s)
  | [] => s

/-- The context that a command names. -/
def HubOp.ctx? : HubOp → Option Nat
  | .tlbinvVa c _ | .tlbinvCtx c | .stitchIns c _ | .stitchBind c _ _ | .stitchUnbind c _ | .stitchDrop c _ | .ctxEnd c => some c
  | .tlbinvAll | .bias _ _ => none
/-- A command names a context outside a partition, for which it does nothing (R318). -/
def Hub.foreign (h : Hub) (part : Nat) (o : HubOp) : Bool :=
  match o.ctx? with | some c => (match h.ctx? c with | some y => y.part != part || y.closed | none => true) | none => false
/-- A hub command at the head of RQ: the core's dirty bytes go home, then the hub takes the request (R318). -/
def State.performHub (s : State) (c : Nat) (op : HubOp) (d vid : Nat) : State :=
  let s := s.writeBackAll c
  let part := s.hub.partOf (s.core c).ctx
  let cover := if s.hub.foreign part op then [] else s.coverOf part op
  let s := s.tlbDrop (fun e => inCover cover e.ctx (e.vpn * 4096) (2 ^ e.size)) (fun w => inCover cover w.ctx (w.vpn * 4096) 4096)
  let first := match op with | .bias p _ => (s.hub.flips p).isEmpty | _ => false
  let s := s.modHub fun h => { h with cmds := h.cmds ++ [(⟨c, op, d, vid, s.cycle, (s.core c).ctx, cover, none, none⟩ : HubCmd)] }
  match op with
  | .bias p _ => if first then s.beginFlip p else s
  | _ => s

/-! ### Flips (R331, R333) -/

/-- A host read served at the home (R331). -/
def State.hostRead (s : State) (host pa : Nat) (want : HostWant) : State :=
  let blk := pa / 64
  let f := s.mem.fabric.get {} blk
  let hostBias := s.mem.bias.get false (pa / 4096)
  let s := if f.excl && !f.holders.contains host then s.snoopBlock blk else s
  let f := s.mem.fabric.get {} blk
  let mine (i : Nat) : Byte := match lastCell f.mods (64 * blk + i) with | some b => b | none => s.mem.byte (64 * blk + i)
  let data := (List.range 64).map fun i => if f.excl then mine i else s.mem.byte (64 * blk + i)
  let s := s.out (.hostData host data)
  if !hostBias then s
  else match want with
    | .none => s
    | .shared => { s with mem := { s.mem with fabric := s.mem.fabric.put {} blk (if f.excl then f else { f with holders := if f.holders.contains host then f.holders else f.holders ++ [host] }) } }
    | .exclusive =>
      let s := if f.holders.all (· == host) then s else s.snoopBlock blk
      { s with mem := { s.mem with fabric := s.mem.fabric.put {} blk { holders := [host], excl := true, mods := if f.excl then f.mods else [] } } }
/-- A host write served at the home (R331). -/
def State.hostWrite (s : State) (host pa : Nat) (data : List Byte) : State :=
  let blk := pa / 64
  let cells := (List.range data.length).zip data |>.map fun (i, b) => (pa + i, b)
  let f := s.mem.fabric.get {} blk
  if s.mem.bias.get false (pa / 4096) then
    if f.excl && f.holders == [host] then
      ({ s with mem := { s.mem with fabric := s.mem.fabric.put {} blk { f with mods := f.mods ++ cells, since := if f.mods.isEmpty then s.cycle else f.since } } } : State).out (.hostAck host)
    else ((s.snoopBlock blk).mergeDirect none pa data none false 3).out (.hostAck host)
  else
    let s := s.modEngines fun e => e.invalidate fun i => i.holds (2 * (blk / 2)) || i.holds (2 * (blk / 2) + 1)
    (s.mergeDirect none pa data none false 3).out (.hostAck host)
/-- A host that holds a sector exclusively writes its bytes back: they merge at the home as a Write-back, which first recalls the line's ownership, and the sector stays E (R109, R331; log entry 98). -/
def State.hostWriteBack (s : State) (blk : Nat) : State :=
  if (s.mem.fabric.get {} blk).mods.isEmpty then s
  else
    let s := s.recall (blk / 2)
    let f := s.mem.fabric.get {} blk
    if f.mods.isEmpty then s
    else
    let s : State := { s with mem := { s.mem.writeCells f.mods with fabric := s.mem.fabric.put {} blk { f with mods := [] } } }
    let s := s.l2Use none (blk / 2) 3 true
    { s with mem := s.mem.bump s.cycle (blk / 2) }
/-- The write-backs of hosts that come by themselves, once modified bytes have stood as long as the host lets them (R98, R331). -/
def State.hostWriteBacks (s : State) : State :=
  s.mem.fabric.foldl (fun s x => if !x.2.mods.isEmpty && x.2.since + Config.writeBackDelay ≤ s.cycle then s.hostWriteBack x.1 else s) s
/-- Requests held for a page served in arrival order (R333). -/
def State.serveHeld (s : State) (page : Nat) : State :=
  let mine (r : HostReq) : Bool := match r with | .read _ pa _ => pa / 4096 == page | .write _ pa _ => pa / 4096 == page
  let l := s.mem.held.filter mine
  let s := { s with mem := { s.mem with flipping := s.mem.flipping.filter fun p => p != page, held := s.mem.held.filter fun r => !mine r } }
  l.foldl (fun s r => match r with
    | .read h pa w => s.hostRead h pa w
    | .write h pa d => s.hostWrite h pa d) s
/-- A page's lines. -/
def pageLines (page : Nat) : List Nat := (List.range 32).map (· + 32 * page)
/-- Every core that holds a line writes its dirty bytes back; with `drop` the line goes too (R333). -/
def State.cleanPage (s : State) (page : Nat) (drop : Bool) : State :=
  (pageLines page).foldl (fun s ln =>
    let s := s.recall ln
    s.cores.foldl (fun s (c, _) => if drop then s.flushLine c ln else s.writeBackLine c ln) s) s
/-- The flip itself (R333): steps 2 to 5. -/
def State.flip (s : State) (page : Nat) (host : Bool) : State :=
  let s := if host then s.cleanPage page false
    else
      let s := (List.range 64).foldl (fun s i => s.snoopBlock (64 * page + i)) s
      let s := s.cleanPage page true
      s.modEngines fun e => e.invalidate fun i => i.pa < 4096 * (page + 1) && 4096 * page < i.pa + tileBytes i.fmt
  ({ s with mem := { s.mem with bias := s.mem.bias.put false page host } } : State).serveHeld page

/-! ### Stitches at the hub (R223 to R225, R248, R249) -/

/-- Bytes that the hub reads at a virtual address of a context, at their homes; none when a page does not translate or a block is poisoned. -/
def State.hubRead (s : State) (ctx : Nat) (va : W72) (n : Nat) : Option (List Byte) :=
  match s.translate [] ctx .read true va n (pageFuel n) with
  | .error _ => none
  | .ok segs =>
    if segs.any fun g => (List.range ((g.pa + g.n - 1) / 64 + 1 - g.pa / 64)).any fun i => s.mem.poisoned (g.pa / 64 + i) then none
    else some (segs.flatMap fun g => s.mem.read g.pa g.n)
/-- A 4-byte field. -/
def field4 (bs : List Byte) (o : Nat) : Nat := leVal ((bs.drop o).take 4)
/-- A context record changed. -/
def Hub.modCtx (h : Hub) (ctx : Nat) (f : Ctx → Ctx) : Hub :=
  match h.ctx? ctx with
  | some x => { h with ctxs := h.ctxs.put none ctx (some (f x)) }
  | none => h
/-- Words written to consecutive places of a bank. -/
def putWords (b : Bank (BitVec 64)) (off : Nat) (ws : List (BitVec 64)) : Bank (BitVec 64) := Bank.putList 0 b off ws
/-- A stitch placed (R223, R224): the image, then every bank of every core that holds a copy of it. -/
def State.placeStitch (s : State) (ctx off depth : Nat) (ws : List (BitVec 64)) : State :=
  let s := s.modHub fun h => h.modCtx ctx fun x => { x with image := putWords x.image off ws, placed := x.placed ++ [⟨off, ws.length, depth⟩] }
  s.modEngines fun e => { e with banks := e.banks.map fun (b, x) => (b, if x.tag == some ctx then { x with words := putWords x.words off ws } else x) }
/-- `stitch.ins` at the hub (R248, R318): the status, and the words that it validates. -/
def State.insert (s : State) (ctx run : Nat) (va : W72) : Nat × Nat × State :=
  let budget := match s.hub.part? (s.hub.partOf ctx) with | some p => p.cfg.budget | none => 0
  match s.hub.ctx? ctx, s.hubRead run va 24 with
  | some x, some hd =>
    let n := field4 hd 16
    if field4 hd 0 ≠ 2 then (0x10, 0, s)
    else if n = 0 ∨ 512 < n ∨ field4 hd 4 ≠ 24 + 8 * n then (1, 0, s)
    else match s.hubRead run (va + 24) (8 * n) with
      | none => (0x10, 0, s)
      | some bs =>
        let ws := (List.range n).map fun i => BitVec.ofNat 64 (leVal ((bs.drop (8 * i)).take 8))
        let off := freeOffset x.placed n
        let code := validate ws false off.isSome (field4 hd 12) budget
        let code := if field4 hd 20 ≠ 0 ∧ (code = 0 ∨ 4 < code) then 4 else code
        match code, off with
        | 0, some o => (o * 65536, n, s.placeStitch ctx o (field4 hd 12) ws)
        | c, _ => (c, n, s)
  | _, _ => (0x10, 0, s)
/-- A pattern-table entry written: the context's table, then the copies of the cores that run it (R225). -/
def State.setPattern (s : State) (ctx i : Nat) (f : BitVec 64 → BitVec 64) : State :=
  let s := s.modHub fun h => h.modCtx ctx fun x => { x with pattern := x.pattern.put 0 i (f (x.pattern.get 0 i)) }
  { s with cores := s.cores.map fun (n, k) => (n, if k.job.isSome && k.ctx == ctx then { k with eng := { k.eng with pattern := k.eng.pattern.put 0 i (f (k.eng.pattern.get 0 i)) } } else k) }
/-- The stitch at an offset (R223). -/
def Ctx.stitchAt (x : Ctx) (off : Nat) : Option Placed := x.placed.find? fun p => p.off == off
/-- A stitch entry of the context, queued, running, withheld or saved, has captured an offset within a range (R249). -/
def State.stitchUsed (s : State) (ctx off len : Nat) : Bool :=
  let hit (o : MOp) : Bool := match o with | .stitch false e _ _ _ _ => off ≤ e && e < off + len | _ => false
  let core (k : Core) : Bool := k.eng.q.any (fun m => hit m.op) || (k.rq ++ k.wb).any fun e => match e with | .matrix o _ => hit o | _ => false
  s.cores.any (fun (_, k) => k.job.isSome && k.ctx == ctx && core k) ||
  s.hub.tasks.any fun (_, t) => match t with | some t => t.saved.any fun v => v.core.ctx == ctx && core v.core | none => false
/-- The context has cores or queued work (R318). -/
def State.ctxBusy (s : State) (ctx : Nat) : Bool :=
  s.cores.any (fun (_, k) => match k.job with | some j => j.ctx == ctx | none => false) ||
  s.hub.launches.any fun (_, l) => match l with | some l => l.ctx == ctx && l.st != .ended | none => false
/-- `ctx.end` at the hub (R224, R318, R369). A core that ran it last passes to another context at its next task, whatever identifier that has (R345, R385). -/
def State.endCtx (s : State) (ctx : Nat) : State :=
  let s := s.updateMeters
  let s := s.tlbDrop (fun e => e.ctx == ctx) (fun w => w.ctx == ctx)
  let s := s.modEngines fun e => { e with banks := (e.banks.map fun (b, x) => (b, if x.tag == some ctx then { x with tag := none } else x)), reload := e.reload.filter fun x => x.2.1 != ctx }
  let s : State := { s with cores := s.cores.map fun (n, k) => (n, if k.lastCtx == some ctx then { k with lastCtx := none } else k) }
  s.modHub fun h => h.modCtx ctx fun x => { x with closed := true, image := [], placed := [], pattern := [] }

/-! ### Completion (R318) -/

/-- The unloaded time of a command, from its lowest bound: words to validate, and words written to each core's banks (R318). -/
def HubOp.time (o : HubOp) (words banks : Nat) : Nat :=
  match o with
  | .stitchIns _ _ => 400 + 2 * words + words * banks
  | .bias _ _ => 4000
  | _ => 200
/-- What a command answers and leaves, or none while it must wait (R318). -/
def State.hubDone (s : State) (x : HubCmd) : Option (Nat × State) :=
  let run := x.ctx
  let part := s.hub.partOf run
  let due (w b : Nat) : Bool := x.from_ + x.op.time w b ≤ s.cycle
  if s.hub.foreign part x.op then (if due 0 0 then some (1, s) else none)
  else match x.op with
    | .tlbinvVa _ _ | .tlbinvCtx _ | .tlbinvAll => if due 0 0 && !s.coverBusy x.cover then some (0, s) else none
    | .bias page host =>
      let mine := (s.hub.flips page).head? == some x
      if !mine then none
      else
        let st := s.flipStatus part page host
        let s1 := match st, s.hub.windowOf part with
          | 0, some (b, _) => s.flip (b / 4096 + page) host
          | _, _ => s
        if st ≠ 0 ∨ due 0 0 then some (st, s1) else none
    | .stitchIns ctx va =>
      let (st, n, s') := s.insert ctx run va
      let banks := (s.cores.filter fun (_, k) => k.eng.banks.any fun (_, b) => b.tag == some ctx).length
      if due n banks then some (st, s') else none
    | .stitchBind ctx i off =>
      if !due 0 0 then none
      else match s.hub.ctx? ctx with
        | none => some (1, s)
        | some y => match y.stitchAt off with
          | none => some (2, s)
          | some p =>
            if (match s.hub.part? part with | some q => q.cfg.budget | none => 0) < p.depth then some (3, s)
            else some (0, s.setPattern ctx i fun _ => BitVec.ofNat 64 (p.depth % 65536 * 65536 + 32768 + off % 1024))
    | .stitchUnbind ctx i => if due 0 0 then some (0, s.setPattern ctx i fun w => w &&& ~~~0x8000) else none
    | .stitchDrop ctx off =>
      if !due 0 0 then none
      else match s.hub.ctx? ctx with
        | none => some (1, s)
        | some y => match y.stitchAt off with
          | none => some (2, s)
          | some p =>
            if y.pattern.any fun (_, w) => w.getLsbD 15 && (w.extractLsb' 0 10).toNat == off then some (3, s)
            else if s.stitchUsed ctx p.off p.len then none
            else some (0, s.modHub fun h => h.modCtx ctx fun y => { y with placed := y.placed.filter fun q => q.off != off })
    | .ctxEnd ctx =>
      if !due 0 0 then none
      else if ctx = run then some (3, s)
      else if s.ctxBusy ctx then some (2, s)
      else some (0, s.endCtx ctx)
/-- HUB_COMMAND_COMPLETE (R318): the core's oldest command ends, and its status is written; the status of a saved core waits for its return. -/
def execHubCommandComplete (c : Nat) (s : State) : Res :=
  match s.hub.cmds.find? fun x => x.core == c && x.answer.isNone with
  | none => .next s
  | some x => match s.hubDone x with
    | none => .next s
    | some (st, s) =>
      let live : Bool := match x.away with
        | some (t, _) => (match s.hub.tasks.get none t with | some t => t.st != .ended | none => false)
        | none => false
      let s := s.modHub fun h => { h with cmds := if live then h.cmds.map fun z => if z == x then { z with answer := some st } else z else h.cmds.erase x }
      let s := match x.op with
        | .bias p _ => ((s.modHub fun h =>
            match h.flips p with
            | y :: _ => { h with cmds := h.cmds.map fun z => if z == y then { z with from_ := max z.from_ s.cycle } else z }
            | [] => h).beginFlip p)
        | _ => s
      .next (if x.away.isSome then s else s.modCore c fun k => (k.setVar x.vid [.s x.d (BitVec.ofNat 64 st)] s.cycle).finishVar s.cycle x.vid)

end Sys2Proof.Machine
end

