-- ==== Sys2Proof/Machine/Order.lean ====
section
/-! DEFINITION. The transitions that all cores share: commits, effects performing at the head of the release queue, the L1's own moves, remote writes, results landing, traps and deferred faults entering, and soft errors (R76, R78, R97 to R122, R164, R177 to R179, R203, R204, R310 to R312, R374, R375). -/
namespace Sys2Proof.Machine

/-! ### The head of RQ (R102, R117, R205, R211) -/

/-- A memory write of a drain or of a top-k command ahead in the queues has not performed (R211). -/
def MEng.drainsAhead (e : MEng) : Bool :=
  e.all.any fun m => match m.op with
    | .drain _ _ _ _ _ _ | .drainM _ _ _ _ | .topkGet _ _ | .topkGetVa _ => m.st == .waiting
    | .stitch _ _ _ _ _ _ => true
    | _ => false
/-- When the write-backs of core `c`'s L1, which leave together, are all acknowledged: the L2 latency to the farthest home (R408). -/
def State.writeBackTime (s : State) (c : Nat) : Nat :=
  (s.core c).l1.foldl (fun t x => if x.2.s0.isDirty || x.2.s1.isDirty then max t (s.homeLatency (clusterOf c) (2 * x.1)) else t) 0
/-- A release at the head of RQ goes on to what it does: its write-backs are acknowledged and the waits of its scope are over. It completes one L2 latency to its beacon's home later (R408). -/
def State.releaseNow (s : State) (c : Nat) (beacon : Option Nat) (go : State → State) : State :=
  let t := match beacon with | some ln => s.cycle + s.homeLatency (clusterOf c) (2 * ln) | none => s.cycle
  (go ((s.modCore c Core.popRq).writeBackAll c)).modCore c fun k => { k with rqFrom := max k.rqFrom t }
/-- A release at the head of RQ: write-backs and their acknowledgement, the waits of its scope, then what it does (R101, R117, R211, R408). -/
def State.releaseWith (s : State) (c scope : Nat) (beacon : Option Nat) (go : State → State) : Option State :=
  let k := s.core c
  if scope = 0 then some (go (s.modCore c Core.popRq))
  else if k.eng.drainsAhead then none
  else
    let busy := (4 ≤ scope && s.poolBusy c) || (5 ≤ scope && s.netBusy c)
    match k.rqAt with
    | some t => if s.cycle < t || busy then none else some (s.releaseNow c beacon go)
    | none =>
      let t := s.writeBackTime c
      if 0 < t || busy then some ((s.writeBackAll c).modCore c fun k => { k with rqAt := some (s.cycle + t) })
      else some (s.releaseNow c beacon go)
/-- The L2 class of a beacon or of a released line after its release (R286). -/
def State.releaseClass (s : State) (c ln ev : Nat) : State :=
  if ev = 5 then s.dropHome c ln else s.l2Take (some c) (2 * ln) (if ev < 4 then ev else 3) true
/-- `rel.st` performs (R117, R205, R286). At core scope it reads the generation, at class `ev`, from the core's own view of the line beneath its later stores; at any other scope from the home, once the owner and the hosts have given the line back. -/
def State.performRelSt (s : State) (c scope ev pa : Nat) (v : W64) (untr : Bool) : State :=
  let ln := pa / 128
  if scope = 0 then
    let (bs, _, s) := s.readPhysOver [] c (pa + 8) 8 ev
    s.performPiece c ev ⟨pa, leList 8 v.toNat ++ leList 8 ((leVal bs + 1) % 2 ^ 64), untr⟩
  else match s.deadWrite c ln with
  | some u => u
  | none =>
    let s := ((s.flushLine c ln).homeAll ln).storeTiles c pa 16
    let g := (s.mem.read64 (pa + 8)).toNat + 1
    let cells := ({ pa := pa, bytes := leList 8 v.toNat ++ leList 8 (g % 2 ^ 64), untr := untr } : Piece).cells
    (s.publishHere c ln scope true cells (if untr then none else some (pa / 64))).releaseClass c ln ev
/-- A store-release performs (R117, R172). -/
def State.performStoreRel (s : State) (c scope ev : Nat) (p : Piece) : State :=
  let ln := p.pa / 128
  if scope = 0 then s.performPiece c ev p
  else match s.deadWrite c ln with
  | some u => u
  | none =>
    let s := s.flushLine c ln
    ((s.storeTiles c p.pa p.bytes.length).publish c ln scope false p.cells (if p.untr then none else some (p.pa / 64))).releaseClass c ln ev
/-- `sdesc` performs (R175). -/
def State.performSdesc (s : State) (c pa : Nat) (d : BitVec 32) (untr : Bool) : State :=
  let ln := pa / 128
  let blk := pa / 64
  if isRemote pa then s
  else
    let s := s.writeBack c ln blk
    let s := s.modCore c fun k => k.setLine ln ((k.line ln).setSec blk {})
    let s := (s.recall ln).snoopBlock blk
    let s := ({ s with mem := s.mem.setDesc blk d } : State).l2Use (some c) ln 3 true
    let s := { s with mem := s.mem.bump s.cycle ln }
    (s.storeTiles c (64 * blk) 64).sign c blk untr
/-- `cwb` performs (R178). -/
def State.performCwb (s : State) (c pa scope : Nat) : State :=
  let s := (s.writeBackLine c (pa / 128)).scopeRecall scope [pa / 128]
  if 2 ≤ scope then s.cleanHome c (pa / 128) else s
/-- The memory write of `mwrite` performs (R115, R215): data and descriptors together; instances of the row still filling retire, and replica copies under way, which are Filling too (R193). Valid instances stay, and a remote row is written through, its lines forwarded once (R111, R326). -/
def State.performMwrite (s : State) (c : Nat) (ps : List Piece) (descs : List (Nat × BitVec 32)) : State :=
  (ps.foldl (fun (acc : Option Nat × State) p =>
    let s := acc.2.modCore c fun k => { k with eng := k.eng.retire fun i => i.st != .valid && i.holds (p.pa / 64) }
    let s := if isRemote p.pa then s.writeRemote c 0 p false (acc.1 == some (p.pa / 128))
      else s.dirtyL1 c p 0 ((descs.find? fun x => x.1 / 64 == p.pa / 64).map (·.2)) false
    (some (p.pa / 128), s.sign c (p.pa / 64) p.untr)) (none, s)).2
/-- Some piece of a store must wait for an earlier step (R205). -/
def State.piecesWait (s : State) (c : Nat) (ps : List Piece) : Bool := ps.any fun p => s.storeWaits c p.pa p.bytes.length
/-- Scratchpad bytes written (R102, R169). -/
def Core.writeScr (k : Core) (cells : List (Nat × Byte)) : Core := { k with scr := cells.foldl (fun b (x, v) => b.put 0 x v) k.scr }
/-- A wait on an engine is over. -/
def Core.endEffect (k : Core) (cycle : Nat) : Core := match k.iss.hold with | .effect _ => k.release cycle | _ => k

/-- The head of RQ performs, or waits (R102). A release first starts its write-backs, and a `waitaddr` its way to the home (R408). -/
def State.performHead (s : State) (c : Nat) : Option State :=
  let k := s.core c
  let t := s.modCore c Core.popRq
  match k.rq with
  | [] => none
  | e :: _ =>
    if s.cycle < k.rqFrom then none else
    match e with
    | .scratch cells => some (t.modCore c fun k => k.writeScr cells)
    | .store ps ev scope => if s.piecesWait c ps then none else some (t.performStore c ev scope ps)
    | .sdesc pa d untr _ => if s.storeWaits c (pa / 64 * 64) 64 then none else some (t.performSdesc c pa d untr)
    | .cwb pa scope => some (t.performCwb c pa scope)
    | .atomic o ord scope ev p x y d vid =>
      if s.storeWaits c p.pa o.size then none
      else if 2 ≤ ord then s.releaseWith c (effScope scope p.pa) (some (p.pa / 128)) fun t => t.performAtomic c o ord scope ev p x y d vid
      else some (t.performAtomic c o ord scope ev p x y d vid)
    | .relSt scope ev pa v untr =>
      if s.storeWaits c pa 16 then none else s.releaseWith c scope (some (pa / 128)) fun t => t.performRelSt c scope ev pa v untr
    | .storeRel scope ev p =>
      if s.piecesWait c [p] then none else s.releaseWith c scope (some (p.pa / 128)) fun t => t.performStoreRel c scope ev p
    | .relFence scope => s.releaseWith c scope none id
    | .waitM mask n => if k.waitMDone mask n then some (t.modCore c fun k => k.endEffect s.cycle) else none
    | .waitK mask => if k.waitKDone mask then some (t.modCore c fun k => k.endEffect s.cycle) else none
    | .waitaddr pa _ _ => if k.rqAt.isSome then none else some (s.modCore c fun k => { k with rqAt := some (s.cycle + s.homeLatency (clusterOf c) (pa / 64) / 2) })
    | .drain _ _ _ => none
    | .matrix o sup => if 32 ≤ k.eng.q.length then none else some (t.modEng c fun e => e.enqueue o sup)
    | .direct o sup => t.performDirect c o sup
    | .mwrite ps descs => if s.piecesWait c ps then none else some (t.performMwrite c ps descs)
    | .copy ch m => t.enterChan c ch m
    | .kstage ch => some (t.performKstage c ch)
    | .kstageSched r sup => s.performSched c r sup
    | .kcancel mode ch => some (t.performKcancel c mode ch)
    | .hub op d vid => some (t.performHub c op d vid)
/-- EFFECT_PERFORM (R102): only the head of RQ performs. -/
def execEffectPerform (c : Nat) (s : State) : Res := .next ((s.performHead c).getD s)

/-- COMMIT (R102, R304): at a checkpoint, and nowhere else. -/
def execCommit (c : Nat) (s : State) : Res := .next (if (s.core c).iss.ckpt then s.modCore c Core.commit else s)

/-! ### The L1's own moves (R108, R110, R177) -/

/-- WRITE_BACK (R108). -/
def execWriteBack (c line sec : Nat) (s : State) : Res := .next (s.writeBack c line (sec % 2))
/-- EVICT (R108): a clean line without ownership. -/
def execEvict (c line : Nat) (s : State) : Res :=
  let l := (s.core c).line line
  .next (if l.owned || l.s0.isDirty || l.s1.isDirty then s else s.modCore c fun k => k.setLine line {})
/-- FILL (R108): a missing sector, or the missing bytes of a partial one. It is no access: a line that the L1 holds keeps the class and the time of its last one (R173). -/
def execFill (c line sec : Nat) (s : State) : Res :=
  let l := (s.core c).line line
  .next (if (l.sec sec).valid || isReserved (128 * line) || s.evAt (2 * line + sec % 2) l.cls == 5 then s
    else (s.fillSector c line sec (min l.cls 3)).modCore c fun k => if l = {} then k else k.setLine line { k.line line with cls := l.cls, used := l.used })
/-- DIRECTORY_RECALL (R177): the oldest entry of a full directory goes home. -/
def execDirectoryRecall (cl : Nat) (s : State) : Res :=
  let d := s.mem.dirs.get [] cl
  .next (match d with
    | x :: _ => if 2048 ≤ d.length then s.recall x else s
    | [] => s)

/-! ### The L2 (R179) -/

/-- L2_COMPRESSION_EVICT (R179): a line that no longer compresses evicts the line that shares its entry, written to HBM first when it is dirty. -/
def execL2CompressionEvict (line : Nat) (s : State) : Res := .next (s.l2Unpair none line)

/-! ### Remote writes (R111, R122, R326) -/

/-- A remote write counts at its sync word when it performs, also where its command was cancelled or has completed since: while its core runs the task that sent it (R257, R266). -/
def State.poolSync (s : State) (w : PoolWrite) : State :=
  match w.sync with
  | some (off, n) => if s.jobTask w.core == w.task then s.modCore w.core fun k => k.syncCount off n else s
  | none => s
/-- The core for which a pool write counts now: the one that sent it, while it runs the same context (R365). -/
def State.sentBy (s : State) (w : PoolWrite) : Option Nat := if s.recOf w.core == w.meterRec then some w.core else none
/-- POOL_WRITE_PERFORM (R111): pool memory and any home copy take the bytes in one action, poisoned where they came so (R208, R255), and a home copy that no longer compresses leaves its entry alone (R179); or the write fails and changes nothing. -/
def execPoolWritePerform (id : Nat) (r : RemoteResult) (s : State) : Res :=
  match s.mem.inflight.find? fun w => w.id == id with
  | none => .next s
  | some w =>
    let s := { s with mem := { s.mem with inflight := s.mem.inflight.filter fun x => x.id != id } }
    match s.hub.remoteResult w.pa r with
    | .ok _ =>
      let cells := (List.range w.bytes.length).zip w.bytes |>.map fun (i, b) => (w.pa + i, b)
      let s := s.meterSent w
      let m := s.mem.writeCells cells
      let m := if w.bytes.length = 64 || w.poison then m.setPoison (w.pa / 64) w.poison else m
      .next ((({ s with mem := m.bump s.cycle (w.pa / 128) } : State).l2Unpair (s.sentBy w) (w.pa / 128)).poolSync w)
    | e => .next (s.modCore w.core fun k => k.poolFailure (causeBits e))

/-! ### Results (R76, R78, R268) -/

/-- The gen of a sync word as the core reads it (R266, R268). -/
def Core.syncGen (k : Core) (off : Nat) : W64 := BitVec.ofNat 64 (leVal (k.scrRead (off + 8) 8))
/-- A pending result may complete (R78, R268). -/
def Core.varDue (k : Core) (v : VarWrite) (cycle : Nat) : Bool :=
  (match v.ready with | some t => t ≤ cycle | none => false) &&
  (match v.kind with
   | .load | .atomic | .status => true
   | .sync off (some θ) => !(k.syncGen off - θ).msb
   | .sync _ none => true
   | .division | .engine | .hub => false)
/-- LOAD_COMPLETE (R78, R164): the destination is written, or the data-poison trap waits. -/
def execLoadComplete (c id : Nat) (s : State) : Res :=
  .next <| s.modCore c fun k =>
    match k.var? id with
    | none => k
    | some v =>
      if !k.varDue v s.cycle then k
      else match v.kind, v.regs with
        | .sync off _, .s d :: _ => (k.setVar id [.s d (k.syncGen off)] s.cycle).finishVar s.cycle id
        | _, _ => k.finishVar s.cycle id
/-- FIXED_LATENCY_WRITE (R76). -/
def execFixedLatencyWrite (c : Nat) (s : State) : Res := .next (s.modCore c fun k => k.retire s.cycle)

/-! ### Traps at a boundary (R164, R203, R255, R310 to R312) -/

/-- A core that runs its task. -/
def Core.runs (k : Core) : Bool := match k.job with | some j => j.phase == .running | none => false
/-- The instruction at the head of RQ waits on the matrix engine, or on channel `ch`; the next bundle waits for that channel's watermark, or stands interlocked on the result of a drain of the frozen matrix engine (R78, R208, R264, R293, R294, R317). -/
def Core.waitsEngine (k : Core) (ch : Option Nat) : Bool :=
  (ch.isNone && k.iss.onEngine) || match k.iss.hold, k.rq with
  | .idle, _ => true
  | .effect _, .waitM mask _ :: _ => ch.isNone && mask % 2 == 1
  | .effect _, .waitK mask :: _ => (match ch with | some i => mask / 2 ^ i % 2 == 1 | none => false)
  | .none, _ => (match k.iss.wmWait, ch with | some w, some i => w.1 == i | _, _ => false)
  | _, _ => false
/-- A frozen engine whose fault is still to be delivered, or a frozen channel `ch`, holds up the instruction that waits for it (R293, R294, R317). -/
def Core.heldUp (k : Core) : Bool :=
  k.sys.level == 0 &&
  ((match k.eng.frozen with | some f => !f.delivered && k.waitsEngine none | none => false) ||
   (List.range 16).any fun i => match (k.chan i).frozen with | some f => !f.delivered && k.waitsEngine (some i) | none => false)
/-- A boundary: nothing holds the next bundle, or the core stands in `idle`, or a frozen engine holds up what it waits for. -/
def Core.atBoundary (k : Core) : Bool := k.iss.hold == .none || k.iss.hold == .idle || k.heldUp
/-- The trap that waits for its entry and may enter now (R310, R311): a trap that was taken, then the data poison of the oldest completed load. -/
def Core.trapDue (k : Core) : Option (TrapReq × Core) :=
  if k.committedPending || !k.atBoundary || !k.runs then none
  else match k.iss.trap, k.iss.poisons with
    | some r, _ => some (r, { k with iss := { k.iss with trap := none } })
    | none, x :: t => some (⟨TrapKind.boundary, x⟩, { k with iss := { k.iss with poisons := t } })
    | none, [] => none
/-- TRAP_ENTRY (R311). -/
def execTrapEntry (c : Nat) (s : State) : Res :=
  match (s.core c).trapDue with
  | some (r, k) => .next ((s.setCore c k).enterTrap c r)
  | none => .next s

/-- A frozen engine's fault is the next thing that the core takes (R203, R255, R312): at level 0, at an instruction that waits on it or after a checkpoint that followed it. -/
def Core.faultNext (k : Core) (ch : Option Nat) (f : Frozen) : Bool :=
  !f.delivered && k.sys.level == 0 && k.runs && k.iss.trap.isNone && k.iss.poisons.isEmpty &&
  (k.waitsEngine ch || (k.iss.hold == .none && f.region < k.iss.region))
/-- That fault is due: nothing of a committed region is pending (R311). -/
def Core.faultDue (k : Core) (ch : Option Nat) (f : Frozen) : Bool := k.faultNext ch f && !k.committedPending
/-- An instruction that waits on engines gives up its wait when it delivers a fault (R293, R294). -/
def Core.dropWait (k : Core) : Core :=
  match k.rq with
  | .waitM _ _ :: _ | .waitK _ :: _ => k.popRq
  | _ => k
/-- The deferred fault to deliver (R310): the matrix engine first, then the channels in ascending order. -/
def Core.deferredDue (k : Core) : Option (Cause × Core) :=
  match k.eng.frozen.filter (k.faultDue none) with
  | some f => some (f.cause, { k.dropWait with eng := { k.eng with frozen := some { f with delivered := true } } })
  | none => (List.range 16).findSome? fun i => ((k.chan i).frozen.filter (k.faultDue (some i))).map fun f =>
      (f.cause, { k.dropWait with ch := k.ch.put {} i { k.chan i with frozen := some { f with delivered := true } } })
/-- DEFERRED_FAULT_DELIVERY (R203, R255, R312). -/
def execDeferredFaultDelivery (c : Nat) (s : State) : Res :=
  match (s.core c).deferredDue with
  | some (x, k) => .next ((s.setCore c k).takeTrap c ⟨TrapKind.deferred, x⟩)
  | none => .next s

/-! ### Soft errors (R204, R374, R375) -/

/-- A location's numbers. -/
def locNums : ErrLoc → List Nat
  | .hbmRow d s c b r => [0, d, s, c, b, r]
  | .sramColumn k o n => [1, match k with | .registerFile => 0 | .scratchpadBank => 1 | .l1 => 2 | .l2Slice => 3 | .stitchStore => 4 | .tagArray => 5, o, n]
  | .array c a => [2, c, a]
/-- The partition that owns a location (R375): that of its core's cluster, or of a frame that an HBM row holds; an L2 slice belongs to none. -/
def State.locPart (s : State) : ErrLoc → Option Nat
  | .array c _ => s.hub.partOfCluster (clusterOf c)
  | .hbmRow d t c b r => (s.hub.frameOwner.find? fun x => x.2 != 0 && Config.rowFrame [0, d, t, c, b, r] x.1).map fun x => x.2 - 1
  | .sramColumn .l2Slice _ _ => none
  | .sramColumn _ o _ => s.hub.partOfCluster (clusterOf o)
/-- The lines of a core's L1 that stand above its ways leave their sets, victims first (R173, R375). -/
def State.shrinkL1 (s : State) (c : Nat) : State :=
  (s.core c).lines.foldl (fun s ln => let ls := (s.core c).setLines ln
    if ls.length ≤ s.hub.l1Ways c then s else match victim ls with
      | some v => s.flushLine c v
      | none => s) s
/-- The data entries of a slice that stand above its ways are evicted, victims first (R173, R179, R375). -/
def State.shrinkL2 (s : State) (slice : Nat) : State :=
  ((s.mem.l2.filter fun x => homeOf x.1 == slice).map (·.1)).foldl (fun s ln =>
    let l := s.mem.l2.get {} ln
    let set := s.mem.l2SetLines ln
    if !l.here || entriesOf ((ln, l) :: set) ≤ s.hub.l2Ways slice then s
    else
      let v := set.foldl l2Worse (ln, l)
      let s := s.l2Evict none v.1
      match v.2.mate with
      | some o => s.l2Evict none o
      | none => s) s
/-- Retirement (R375): a spare takes over, or, with none left, the location is out of use from now on, a way of an L1 or of a slice at once; an array leaves the weight cache; the owner's capture buffer and the management controller are told. -/
def State.retireLoc (s : State) (loc : ErrLoc) (part : Option Nat) : State :=
  if s.hub.retired.contains loc then s
  else
    let s := s.modHub fun h => { h with retired := h.retired ++ [loc], noSpare := if Config.spareLeft (locNums loc) then h.noSpare else h.noSpare ++ [loc] }
    let s := match loc with
      | .array c a => s.modEng c fun e => e.retireArray s.cycle a
      | .sramColumn .l1 o _ => s.shrinkL1 o
      | .sramColumn .l2Slice o _ => s.shrinkL2 o
      | _ => s
    let s := match part with
      | some p => s.capture p (leList 2 3 ++ leList 2 20 ++ (List.range 16).map (Config.locationByte (locNums loc)))
      | none => s
    s.out (.mctl 2 (locNums loc))
/-- 60 seconds in cycles (R6, R374). -/
def window60 : Nat := 240000000000
/-- One corrected error counted (R374): of the 1,024 most recently counted locations, each with its times in the last 60 s; the third retires it. -/
def State.countError (s : State) (loc : ErrLoc) (part : Option Nat) : State :=
  let old := match s.hub.errs.find? fun e => e.loc == loc with | some e => e.times | none => []
  let times := (old.filter fun t => s.cycle < t + window60) ++ [s.cycle]
  let s := s.modHub fun h => { h with errs := ((⟨loc, times⟩ : ErrRec) :: h.errs.filter fun e => e.loc != loc).take 1024 }
  if 3 ≤ times.length then s.retireLoc loc part else s
/-- CORRECTED_ERROR (R374). -/
def execCorrectedError (loc : ErrLoc) (s : State) : Res := .next (s.countError loc (s.locPart loc))
/-- ARRAY_PARITY_ERROR (R204): the step's row boundary, a fresh tile, and one corrected error of the array. -/
def execArrayParityError (c arr : Nat) (s : State) : Res :=
  .next ((s.modEng c fun e => e.parity s.cycle arr).countError (.array c arr) (s.locPart (.array c arr)))
/-- The blocks of a list that a location can hold: those of lines stored in the row's stack, or homed at the slice (R13). -/
def locHolds (loc : ErrLoc) (blk : Nat) : Bool :=
  match loc with
  | .hbmRow d t _ _ _ => isHbm (64 * blk) && homeOf (blk / 2) / 16 == d && stackOf (blk / 2) == t
  | .sramColumn .l2Slice o _ => homeOf (blk / 2) == o
  | _ => true
/-- UNCORRECTABLE_ERROR (R164, R374): the data are poisoned and the location retires at once. -/
def execUncorrectableError (loc : ErrLoc) (blocks : List Nat) (s : State) : Res :=
  let blocks := blocks.filter (locHolds loc)
  let part := match s.locPart loc, blocks with
    | some p, _ => some p
    | none, b :: _ => (match s.hub.frameOwner.get 0 (b / 1024) with | 0 => none | o + 1 => some o)
    | none, [] => none
  .next (({ s with mem := blocks.foldl (fun m b => m.setPoison b true) s.mem } : State).retireLoc loc part)

end Sys2Proof.Machine
end

