-- ==== Sys2Proof/Machine/Pool.lean ====
section
/-! DEFINITION. Translation at work and the memory behind the hub: walks and the miss table, remote pages and their migration, frame reuse, the CXL ports, and Ultra Ethernet accesses to memory (R14, R111, R322 to R335). -/
namespace Sys2Proof.Machine

/-! ### Walks (R322 to R325, R363) -/

/-- TLB_WALK (R322, R324, R325): a core's miss is served by the die's shared TLB, joins an entry of the miss table, or takes one where the table has room. -/
def execTlbWalk (c : Nat) (va : BitVec 72) (s : State) : Res :=
  let k := s.core c
  if (tlbFind k.tlb k.ctx va).isSome then .next s else .next (s.miss .core c k.ctx va)
/-- TLB_WALK_COMPLETE (R322, R325): the result enters the shared TLB and the TLBs that wait; a walk without one leaves its fault to those that wait, and one that a `tlbinv` overtook leaves nothing. The walker takes the next entry that waits for one. -/
def execTlbWalkComplete (die ctx vpn : Nat) (s : State) : Res :=
  match s.hub.walks.find? fun w => w.die == die && w.ctx == ctx && w.vpn == vpn && w.ended s.cycle with
  | none => .next s
  | some w =>
    let s := s.modHub fun h => { h with walks := h.walks.erase w }
    let va : W72 := BitVec.ofNat 72 (4096 * vpn)
    let s := if w.cancelled then s else match s.walk ctx va with
      | none => s.walkNone w
      | some r => s.walkResult w (tlbEntry ctx va r)
    .next s.startWalks

/-! ### Remote pages and migration (R326, R327) -/

/-- The first page number of the page that holds an address. -/
def pageFirst (va : W72) (size : Nat) : Nat := va.toNat / 2 ^ size * 2 ^ (size - 12)
/-- REMOTE_FORWARD (R326): one line access to a remote-owned page with mig set raises its counter. -/
def execRemoteForward (ctx : Nat) (va : BitVec 72) (s : State) : Res :=
  match s.walk ctx va with
  | some (e, size) => .next (if pteRemote e && pteMig e then s.modHub fun h => h.countForward ctx (pageFirst va size) else s)
  | none => .next s
/-- Every migration counter halved (R326). -/
def State.halveCounters (s : State) : State := s.modHub fun h => { h with migr := h.migr.map fun (c, v, n) => (c, v, n / 2) }
/-- MIGRATION_COUNTER_HALVE (R326). -/
def execMigrationCounterHalve (s : State) : Res := .next s.halveCounters

/-- The entry that maps a level-6 page: its address (R320, R322). -/
def State.leafAddr (s : State) (ctx : Nat) (va : W72) : Option Nat :=
  match s.hub.ctx? ctx with
  | none => none
  | some c => (walkReads s va.toNat 1 c.root 6).getLast?
/-- Blocks of a remote page that nothing answers: they reach the frame poisoned, as a load of them would (R326, R403). DEDUCED: R327 names no outcome for such a copy (log entry 115). -/
def State.lostBlocks (s : State) (pa n : Nat) : List Nat :=
  (List.range (n / 64)).filter fun i => s.mem.poisoned (pa / 64 + i) || (s.hub.remoteDead (pa + 64 * i) && !s.homeHas (pa / 64 + i))
/-- The bytes of a page as device writes under way leave them: each is applied to the frame too (R327, step 2). -/
def State.pageBytes (s : State) (pa n : Nat) : List Byte :=
  let cells := s.mem.inflight.flatMap fun w => (List.range w.bytes.length).zip w.bytes |>.map fun (i, b) => (w.pa + i, b)
  (List.range n).map fun i => match lastCell cells (pa + i) with | some b => b | none => s.mem.byte (pa + i)
/-- Descriptors of a run of blocks back at their default, poison cleared (R84, R87). -/
def Mem.plainBlocks (m : Mem) (blk n : Nat) : Mem :=
  (List.range n).foldl (fun m i => (m.setDesc (blk + i) defaultDesc).setPoison (blk + i) false) m
/-- Every cached copy of a range of lines gone, dirty or clean, with the tiles that hold it (R327, R328). -/
def State.purgeLines (s : State) (ln n : Nat) : State :=
  let hit (x : Nat) : Bool := ln ≤ x && x < ln + n
  let s : State := { s with cores := s.cores.map fun ((i, k) : Nat × Core) => (i, { k with l1 := k.l1.filter (fun x => !hit x.1), icache := k.icache.filter fun x => !hit (x.1 / 128) }) }
  let s := s.modHub fun h => { h with budgetUsed := h.budgetUsed.filter fun x => !hit (x.2 / 2) }
  let m : Mem := { s.mem with owner := s.mem.owner.filter (fun x => !hit x.1), dirs := s.mem.dirs.map fun x => (x.1, x.2.filter fun y => !hit y) }
  let gone := (m.l2.filter fun x => hit x.1 && x.2.here).map fun x => x.1
  let s : State := { s with mem := gone.foldl (fun m x => m.l2Drop s.cycle x) m }
  s.modEngines fun e => e.invalidate fun i => i.pa < 128 * (ln + n) && 128 * ln < i.pa + tileBytes i.fmt
/-- A page's translations gone from every TLB (R327, R318). -/
def State.dropPage (s : State) (ctx lo n : Nat) : State :=
  s.tlbDrop (fun e => e.ctx == ctx && e.vpn * 4096 < lo + n && lo < e.vpn * 4096 + 2 ^ e.size) (fun w => w.ctx == ctx && w.vpn * 4096 < lo + n && lo < w.vpn * 4096 + 4096)
/-- A migrated leaf (R327): pa of the frame, remote and mig clear. -/
def movedLeaf (e : W64) (frame : Nat) : W64 :=
  ((e &&& ~~~(BitVec.ofNat 64 (2 ^ 45 - 1) <<< 12)) ||| (BitVec.ofNat 64 (frame * 16) <<< 12)) &&& ~~~0xA00
/-- The first entry of a leaf and their number: a 64 KiB page has 16 (R321). -/
def leafEntries (size la : Nat) : Nat × Nat := if size = 16 then (la - la % 128, 16) else (la, 1)
/-- The values of a leaf's entries as a walk reads them, at their home. -/
def State.homeVals (s : State) (la n : Nat) : List W64 := (List.range n).map fun i => s.mem.read64 (la + 8 * i)
/-- The values of a leaf's entries once their ownership has come home, which the compare-and-swap compares. -/
def State.leafVals (s : State) (la n : Nat) : List W64 :=
  (List.range n).map fun i => BitVec.ofNat 64 (leVal ((List.range 8).map fun j => (s.authBlock ((la + 8 * i) / 64)).data.extractLsb' (8 * ((la + 8 * i + j) % 64)) 8))

/-! ### What is captured in a physical range (R201, R327, R328) -/

/-- Two physical extents overlap. -/
def overlaps (lo n pa k : Nat) : Bool := pa < lo + n && lo < pa + k
/-- A cached translation into a range. -/
def TlbEntry.into (e : TlbEntry) (lo n : Nat) : Bool := overlaps lo n (ptePa e.leaf) (2 ^ e.size)
/-- A matrix command has captured an address in a physical range (R201). -/
def MEntry.captures (m : MEntry) (lo n : Nat) : Bool :=
  match m.op with
  | .step _ pa fmt _ _ _ | .write pa fmt _ _ _ _ => overlaps lo n pa (tileBytes fmt)
  | .stepVa _ _ _ _ => m.st != .waiting && overlaps lo n m.pa (tileBytes m.fmt)
  | .drain _ _ dst _ _ _ | .topkGet _ dst => dst.any fun g => overlaps lo n g.pa g.n
  | _ => false
/-- A direct command has captured a tile in a physical range (R214). -/
def MDirect.captures (lo n : Nat) : MDirect → Bool
  | .pin pa fmt _ _ | .unpin pa fmt _ | .inv pa fmt _ | .repl pa fmt _ _ _ => overlaps lo n pa (tileBytes fmt)
  | .pref _ _ _ _ | .cancelId _ | .cancelAll | .flush => false
/-- A withheld effect has captured an address in a physical range. -/
def Effect.captures (e : Effect) (lo n : Nat) : Bool :=
  let hit (pa : Nat) : Bool := lo ≤ pa && pa < lo + n
  match e with
  | .store ps _ _ | .mwrite ps _ => ps.any fun p => hit p.pa
  | .storeRel _ _ p | .atomic _ _ _ _ p _ _ _ _ => hit p.pa
  | .sdesc pa _ _ _ | .cwb pa _ | .relSt _ _ pa _ _ | .waitaddr pa _ _ => hit pa
  | .matrix o sup => (⟨0, o, sup, .waiting, 0, 0, 0, 0, 0⟩ : MEntry).captures lo n
  | .direct o _ => o.captures lo n
  | _ => false
/-- A core, or the saved state of one, has captured an address in a physical range: in a withheld effect, a matrix command, or an `mrepl` under way. -/
def Core.captures (k : Core) (lo n : Nat) : Bool :=
  k.eng.all.any (fun m => m.captures lo n) || k.eng.repl.any (fun (pa, fmt, _, _) => overlaps lo n pa (tileBytes fmt)) || (k.rq ++ k.wb).any fun e => e.captures lo n
/-- A remote operation under way writes to an address in a physical range. -/
def NetOp.captures (o : NetOp) (lo n : Nat) : Bool :=
  (match o.piece with | some (scr, a, k) => !scr && overlaps lo n a.toNat k | none => false) ||
  match o.coll with | some c => c.dst.any fun g => overlaps lo n g.pa g.n | none => false
/-- A captured translation into a physical range is still in use (R327, R328): in a core, in the saved state of one, or in a remote operation. -/
def State.rangeBusy (s : State) (lo n : Nat) : Bool :=
  s.cores.any (fun (_, k) => k.captures lo n) || s.hub.net.any (fun o => o.captures lo n) ||
  s.hub.tasks.any fun (_, t) => match t with | some t => t.saved.any fun v => v.core.captures lo n | none => false

/-! ### Frames freed (R328, R375) -/

/-- A frame freed: its owner loses it at once, and it waits for the scrub; its translations go (R328). -/
def State.freeFrame (s : State) (f p : Nat) : State :=
  let s := s.modHub fun h => { h with frameOwner := h.frameOwner.put 0 f 0, scrub := h.scrub ++ [(f, p)] }
  s.tlbDrop (fun e => e.into (65536 * f) 65536) (fun _ => false)
/-- A frame of an HBM row that has retired with no spare left (R375). -/
def Hub.frameOut (h : Hub) (f : Nat) : Bool :=
  h.noSpare.any fun l => match l with | .hbmRow d t c b r => Config.rowFrame [0, d, t, c, b, r] f | _ => false

/-! ### The migrator (R327) -/

/-- PAGE_MIGRATION begins (R327, steps 1 and 2): a frame is taken, the page marked. Without a free frame the counter is reset. The copy of n lines takes 1,120 + n cycles; the spec gives no time (log entry 99). -/
def State.startMove (s : State) (ctx vpn : Nat) : State :=
  let va : W72 := BitVec.ofNat 72 (4096 * vpn)
  let p := s.hub.partOf ctx
  match s.hub.part? p, s.walk ctx va, s.leafAddr ctx va, s.hub.migr.find? fun x => x.1 == ctx && x.2.1 == vpn with
  | some x, some (e, size), some la, some (_, _, n) =>
    if x.cfg.migthr = 0 ∨ n < x.cfg.migthr ∨ !pteRemote e ∨ !pteMig e ∨ 16 < size then s
    else match x.pool with
      | [] => s.modHub fun h => { h with migr := h.migr.map fun y => if y.1 == ctx && y.2.1 == vpn then (ctx, vpn, 0) else y }
      | f :: t =>
        let (first, k) := leafEntries size la
        let m : Move := ⟨ctx, p, pageFirst va size, size, ptePa e, f, first, s.homeVals first k, s.cycle + 1120 + 2 ^ size / 128, false⟩
        (s.modPart p fun x => { x with pool := t }).modHub fun h => { h with moves := h.moves ++ [m] }
  | _, _, _, _ => s
/-- The copy has ended (R327, steps 3 to 5): the frame holds the page at the default descriptor, the leaf is rewritten where it still holds what the walk read, and its translations go. Where it does not, the move is abandoned and the frame freed. -/
def State.rewriteLeaf (s : State) (m : Move) : State :=
  if (s.hub.ctx? m.ctx).isNone || s.leafVals m.la m.vals.length != m.vals then
    (s.modHub fun h => { h with moves := h.moves.erase m }).freeFrame m.frame m.part
  else
    let n := 2 ^ m.size
    let bad := s.lostBlocks m.old n
    let s := { s with mem := bad.foldl (fun x i => x.setPoison (1024 * m.frame + i) true) ((s.mem.write (65536 * m.frame) (s.pageBytes m.old n)).plainBlocks (1024 * m.frame) (n / 64)) }
    let s := ((List.range m.vals.length).zip m.vals).foldl (fun s (i, e) => s.mergeDirect none (m.la + 8 * i) (leList 8 (movedLeaf e m.frame).toNat) none false 3) s
    (s.dropPage m.ctx (4096 * m.vpn) n).modHub fun h => { h with moves := h.moves.map fun x => if x == m then { m with moved := true } else x }
/-- Nothing captured leads to the old lines any more (R327, steps 5 and 6): every copy of them is discarded, the mark cleared and the move recorded. -/
def State.endMove (s : State) (m : Move) : State :=
  let s := (s.purgeLines (m.old / 128) (2 ^ m.size / 128)).modHub fun h => { h with
    moves := h.moves.erase m, migr := h.migr.filter fun x => !(x.1 == m.ctx && x.2.1 == m.vpn) }
  s.modPart m.part fun x => { x with miglog := x.miglog ++ [(m.ctx, 4096 * m.vpn)] }
/-- PAGE_MIGRATION (R327): a page whose counter has reached the partition's threshold begins to move; a move goes on when its copy has ended, and ends when no captured translation to the old page is left. -/
def execPageMigration (ctx vpn : Nat) (s : State) : Res :=
  .next (match s.hub.moves.find? fun m => m.ctx == ctx && m.vpn == vpn with
    | none => s.startMove ctx vpn
    | some m => if s.cycle < m.due then s
        else if !m.moved then s.rewriteLeaf m
        else if s.rangeBusy m.old (2 ^ m.size) then s
        else s.endMove m)

/-! ### Frame reuse (R328) -/

/-- Zeros, default descriptors, no poison (R328, step 4). -/
def Mem.zeroFrame (m : Mem) (f : Nat) : Mem :=
  ({ m with bytes := m.bytes.filter fun (a, _) => a / 65536 != f } : Mem).plainBlocks (1024 * f) 1024
/-- FRAME_REUSE_SCRUB (R328): once no captured translation into the frame is left, it is purged, zeroed, and back in its partition's pool, or, where its row has retired with no spare left, off the free list for good (R375). -/
def execFrameReuseScrub (frame : Nat) (s : State) : Res :=
  match s.hub.scrub.find? fun x => x.1 == frame with
  | none => .next s
  | some (f, p) =>
    if s.rangeBusy (65536 * f) 65536 then .next s
    else
      let s := s.tlbDrop (fun e => e.into (65536 * f) 65536) (fun _ => false)
      let s := s.purgeLines (512 * f) 512
      let s := ({ s with mem := s.mem.zeroFrame f } : State).modHub fun h => { (h.note (idleRec p) 9 65536) with scrub := h.scrub.filter fun x => x.1 != frame }
      if s.hub.frameOut f then .next (s.modHub fun h => { h with lost := h.lost ++ [f] })
      else .next ((s.modHub fun h => { h with frameOwner := h.frameOwner.put 0 f (p + 1) }).modPart p fun x => { x with pool := x.pool ++ [f] })

/-! ### The CXL ports (R14, R111, R330, R331, R333) -/

/-- CXL_HOST_READ (R331, R333): within the exposed window; held while its page flips. -/
def execCxlHostRead (host pa : Nat) (want : HostWant) (s : State) : Res :=
  if !inWindow s.hub.exposed pa then .next s
  else if s.mem.flipping.contains (pa / 4096) then .next { s with mem := { s.mem with held := s.mem.held ++ [.read host pa want] } }
  else .next (s.hostRead host pa want)
/-- CXL_HOST_WRITE (R331, R333): within the exposed window and one sector; held while its page flips. The spec names no outcome for a write that falls into the ring of a command queue inside the window (R14 says that these ports never carry launch records): it merges like any other write of the window, by the model's choice (log entry 100). -/
def execCxlHostWrite (host pa : Nat) (data : List Byte) (s : State) : Res :=
  if !inWindow s.hub.exposed pa then .next s
  else
    let data := data.take (64 - pa % 64)
    if s.mem.flipping.contains (pa / 4096) then .next { s with mem := { s.mem with held := s.mem.held ++ [.write host pa data] } }
    else .next (s.hostWrite host pa data)
/-- CXL_BUDGET_CHANGE (R330): the module evicts down to a lowered budget before it acknowledges. -/
def execCxlBudgetChange (port budget : Nat) (s : State) : Res :=
  let s := s.evictPort port budget (s.hub.budgetUsed.length + 1)
  .next ((s.modHub fun h => { h with budgets := h.budgets.put 0 port budget }).out (.budgetAck port budget))
/-- CXL_IO_QUEUE_WRITE (R14): refused, as an unsupported request. -/
def execCxlIoQueueWrite (port _p _q : Nat) (s : State) : Res := .next (s.out (.ioUnsupported port))
/-- CXL_HOST_POOL_WRITE (R111, R292): the bytes of pool or host memory change, the home's copy is invalidated, no L1's is. -/
def execCxlHostPoolWrite (pa : Nat) (data : List Byte) (s : State) : Res :=
  if !isRemote pa then .next s
  else
    let data := data.take (64 - pa % 64)
    let cells := (List.range data.length).zip data |>.map fun (i, b) => (pa + i, b)
    let s := { s with mem := (s.mem.writeCells cells).l2Drop s.cycle (pa / 128) }
    .next (s.modHub fun h => { h with budgetUsed := h.budgetUsed.filter fun (x : Nat × Nat) => x.2 / 2 != pa / 128 })

/-! ### Ultra Ethernet (R334, R335, R371) -/

/-- The partition of a queue pair (R334, R358). -/
def Hub.partOfQp (h : Hub) (qp : Nat) : Option (Nat × Part) :=
  h.parts.findSome? fun (n, x) => match x with
    | some p => if p.cfg.qpFirst ≤ qp && qp < p.cfg.qpFirst + p.cfg.qpCount then some (n, p) else none
    | none => none
/-- An Ultra Ethernet port in service: queue pair `qp` uses port `qp` mod 8 (R403). -/
def Hub.qpUp (h : Hub) (qp : Nat) : Bool := h.linkUp (ueLink (qp % 8))
/-- The ring and doorbell region of a queue (R335). -/
def queueRegion (q : QueueRec) : Nat × Nat := (q.base, 256 * q.size + 64)
/-- A write to queue memory that R335 refuses: into a ring by another endpoint than the bound one, or into a doorbell block. -/
def Part.queueRefuses (p : Part) (qp pa n : Nat) : Bool :=
  p.queues.any fun q =>
    let (b, len) := queueRegion q.cfg
    pa < b + len && b < pa + n && (qp != p.cfg.qpFirst + q.cfg.ep || b + 256 * q.cfg.size < pa + n)
/-- RMA_WRITE (R334, R335, R371): at the homes of its lines as Write-backs, with no wake. -/
def execRmaWrite (qp pa : Nat) (data : List Byte) (s : State) : Res :=
  if !s.hub.qpUp qp then .next s
  else match s.hub.partOfQp qp with
    | none => .next (s.out (.rmaError qp))
    | some (n, p) =>
      if data.isEmpty || !s.hub.ownsFrames n pa data.length || p.st == .capturing || p.st == .resetting || p.queueRefuses qp pa data.length then .next (s.out (.rmaError qp))
      else .next (((s.mergeRun (some defaultDesc) pa data (data.length + 1)).modHub fun h => h.note (idleRec n) 12 data.length).out (.rmaDone qp))
/-- RMA_READ (R334, R371): the authoritative copy, also while a partition is captured. -/
def execRmaRead (qp pa n : Nat) (s : State) : Res :=
  if !s.hub.qpUp qp then .next s
  else match s.hub.partOfQp qp with
    | none => .next (s.out (.rmaError qp))
    | some (p, _) =>
      if n = 0 || !s.hub.ownsFrames p pa n then .next (s.out (.rmaError qp))
      else
        let bs := (List.range n).map fun i => (s.authBlock ((pa + i) / 64)).data.extractLsb' (8 * ((pa + i) % 64)) 8
        .next ((s.modHub fun h => h.note (idleRec p) 11 n).out (.rmaData qp bs))
/-- SEND (R334): it feeds a collective, or it is refused when it aims at a command queue. -/
def execSend (p q : Nat) (toQueue : Bool) (s : State) : Res :=
  .next (match toQueue, s.hub.part? p with
    | true, some x => s.out (.rmaError (x.cfg.qpFirst + (match x.queues[q]? with | some y => y.cfg.ep | none => 0)))
    | _, _ => s)

end Sys2Proof.Machine
end

