-- ==== Sys2Proof/Machine/Launch.lean ====
section
/-! DEFINITION. Command queues, launch records, completions, output queues and the ready tasks of a pipeline (R335 to R343, R346, R355 to R357, R362, R370). -/
namespace Sys2Proof.Machine

/-! ### Records of the hub -/

/-- A launch. -/
def Hub.launch? (h : Hub) (l : Nat) : Option Launch := h.launches.get none l
/-- A launch changed, where it exists. -/
def State.modLaunch (s : State) (l : Nat) (f : Launch → Launch) : State :=
  match s.hub.launch? l with
  | some x => s.modHub fun h => { h with launches := h.launches.put none l (some (f x)) }
  | none => s
/-- A task. -/
def Hub.task? (h : Hub) (t : Nat) : Option Task := h.tasks.get none t
/-- A stage of a launch changed. -/
def Launch.modStage (l : Launch) (k : Nat) (f : Stage → Stage) : Launch :=
  match l.stages[k]? with
  | some x => { l with stages := l.stages.set k (f x) }
  | none => l
/-- A queue of a partition. -/
def Hub.queue? (h : Hub) (p q : Nat) : Option (Part × Queue) :=
  match h.part? p with
  | some x => (x.queues[q]?).map fun y => (x, y)
  | none => none
/-- The live tasks of a launch. -/
def Hub.tasksOf (h : Hub) (l : Nat) : List (Nat × Task) :=
  h.tasks.filterMap fun (i, t) => match t with | some t => if t.launch == l && t.st != .ended then some (i, t) else none | none => none
/-- A task that runs on cores. -/
def Task.onCores (t : Task) : Bool := t.st == .running || t.st == .stopping
/-- The launches of a queue, oldest first. -/
def Hub.launchesOf (h : Hub) (p q : Nat) : List (Nat × Launch) :=
  h.launches.filterMap fun (i, l) => match l with | some l => if l.part == p && l.queue == q then some (i, l) else none | none => none

/-! ### Completions (R336, R341, R342) -/

/-- The 32 bytes of a completion record (R342). -/
def completion (tag : W64) (seq status detail nfail ntask time kctx : Nat) : List Byte :=
  leList 8 tag.toNat ++ leList 4 seq ++ leList 1 status ++ leList 1 detail ++ [0, 0] ++ leList 4 (min nfail 0xFFFFFFFF) ++
  leList 4 (min ntask 0xFFFFFFFF) ++ leList 4 (min time 0xFFFFFFFF) ++ leList 4 kctx
/-- A completion of a record that started nothing of its own. -/
def plainCompletion (tag : W64) (seq status detail : Nat) : List Byte := completion tag seq status detail 0 0 0 0xFFFFFFFF
/-- A completion written at cwr, which rises, and pushed to the host (R336, R342). -/
def State.post (s : State) (p q : Nat) (bs : List Byte) : State :=
  match s.hub.queue? p q with
  | none => s
  | some (x, y) =>
    let s := s.mergeRun none (y.cfg.cbase + 32 * (y.cwr.toNat % y.cfg.csize)) bs 3
    let s := s.modQueue p q fun y => { y with cwr := y.cwr + 1 }
    if y.cfg.chost = 0 then s
    else (s.modHub fun h => h.note (idleRec p) 11 32).out (.ueWrite (x.cfg.qpFirst + y.cfg.ep) y.cfg.chost bs)

/-! ### Queue checks (R335 to R338) -/

/-- A power of two from 1 to 65,536 (R336). -/
def ringSize (n : Nat) : Bool := 1 ≤ n && n ≤ 65536 && (List.range 17).any fun i => n == 2 ^ i
/-- Both ends of a range lie in frames of the partition (R338, code 1). -/
def Hub.ends (h : Hub) (p lo n : Nat) : Bool := h.frameOwner.get 0 (lo / 65536) == p + 1 && h.frameOwner.get 0 ((lo + n - 1) / 65536) == p + 1
/-- The completion ring passes codes 1 and 2 (R338). -/
def Hub.cringOk (h : Hub) (p : Nat) (c : QueueRec) : Bool := h.ends p c.cbase (32 * c.csize) && ringSize c.csize && c.cbase % 32 == 0
/-- The first failing code of R338 for a new write index, 0 for none. -/
def Hub.queueErr (h : Hub) (p : Nat) (y : Queue) (w : BitVec 32) : Nat :=
  let c := y.cfg
  if !h.ends p c.base (256 * c.size) || !h.ends p c.cbase (32 * c.csize) then 1
  else if !ringSize c.size || c.base % 256 != 0 || !ringSize c.csize || c.cbase % 32 != 0 then 2
  else if c.size < (w - y.rd).toNat then 3
  else if 2 ^ 31 ≤ (w - y.wr).toNat then 4
  else 0
/-- A queue in error (R338): state 2, and a completion with status 5, or a report when there is no ring to post in. -/
def State.queueFail (s : State) (p q : Nat) (y : Queue) (err : Nat) : State :=
  let s := s.modQueue p q fun y => { y with state := 2, err := err }
  if s.hub.cringOk p y.cfg then s.post p q (plainCompletion 0 y.rd.toNat 5 err) else s.out (.mctl 3 [p, q, err])
/-- DOORBELL (R335, R337, R338, R371). -/
def execDoorbell (p q qp : Nat) (w : BitVec 32) (s : State) : Res :=
  if !s.hub.qpUp qp then .next s
  else match s.hub.queue? p q with
    | none => .next (s.out (.rmaError qp))
    | some (x, y) =>
      if qp != x.cfg.qpFirst + y.cfg.ep then .next (s.out (.rmaError qp))
      else
        let s := s.out (.rmaDone qp)
        if x.st == .capturing || x.st == .resetting || y.state != 1 then .next s
        else match s.hub.queueErr p y w with
          | 0 => .next (s.modQueue p q fun y => { y with wr := w })
          | e => .next (s.queueFail p q y e)

/-! ### Launch records (R339, R340) -/

/-- A little-endian field of a record. -/
def fieldAt (bs : List Byte) (o n : Nat) : Nat := leVal ((bs.drop o).take n)
/-- Bytes of the authoritative copy (R100, R334). -/
def State.authBytes (s : State) (pa n : Nat) : List Byte :=
  (((List.range ((pa + n) / 64 + 1 - pa / 64)).flatMap fun i => leList 64 (s.authBlock (pa / 64 + i)).data.toNat).drop (pa % 64)).take n
/-- Stage entry `k` of a record (R340). -/
def stageAt (bs : List Byte) (k : Nat) : StageRec :=
  let o := 64 + 32 * k
  ⟨fieldAt bs o 8, fieldAt bs (o + 8) 1, fieldAt bs (o + 9) 1, fieldAt bs (o + 10) 2, fieldAt bs (o + 12) 4, fieldAt bs (o + 16) 2, fieldAt bs (o + 18) 2,
   fieldAt bs (o + 20) 2, fieldAt bs (o + 24) 4⟩
/-- A power of two from 1 to 32,768. -/
def depthOk (n : Nat) : Bool := (List.range 16).any fun i => n == 2 ^ i
/-- Bytes that must be zero, each under its own offset (R339, R340). -/
def zeroChecks (bs : List Byte) (o n : Nat) : List (Nat × Bool) := (List.range n).map fun i => (o + i, fieldAt bs (o + i) 1 == 0)
/-- The checks of a stage entry, by offset (R340). -/
def stageChecks (bs : List Byte) (nst k : Nat) : List (Nat × Bool) :=
  let o := 64 + 32 * k
  let e := stageAt bs k
  let last := k + 1 == nst
  if nst ≤ k then zeroChecks bs o 32
  else [(o, e.kernel % 64 == 0), (o + 8, 1 ≤ e.gang && e.gang ≤ 8), (o + 9, 1 ≤ e.accs && e.accs ≤ 32), (o + 10, 1 ≤ e.vregs && e.vregs ≤ 1024),
    (o + 12, decide (e.scratch ≤ 0x100000))] ++
    (if last then zeroChecks bs (o + 18) 4 else [(o + 18, depthOk e.qdep), (o + 20, 1 ≤ e.qent && e.qent ≤ 64)]) ++
    zeroChecks bs (o + 22) 2 ++ (if k = 0 then [(o + 24, e.tasks != 0)] else zeroChecks bs (o + 24) 4) ++ zeroChecks bs (o + 28) 4
/-- A schedule entry that the engine accepts (R262, R277). -/
def schedEntryOk (w : BitVec 64) : Bool :=
  w.extractLsb' 45 5 == 0 && match decodeOpK (w.toNat / 2 ^ 50) (w.extractLsb' 0 45) with
    | some (i, z) => z && wf i && (match i with | .kcopy _ | .kloop _ | .kput _ | .kget _ | .ksync _ | .kwm _ => true | _ => false)
    | none => false
/-- The schedule's entries, read through the context's pages; none when they cannot be read. -/
def State.schedOf (s : State) (ctx addr n : Nat) : Option (List (BitVec 64)) :=
  if n = 0 then some []
  else (s.hubRead ctx (BitVec.ofNat 72 addr) (8 * n)).map fun bs => (List.range n).map fun i => BitVec.ofNat 64 (fieldAt bs (8 * i) 8)
/-- The schedule of a record is one that R262 allows. -/
def State.schedOk (s : State) (ctx addr n : Nat) : Bool :=
  match s.schedOf ctx addr n with
  | some l => l.all schedEntryOk
  | none => false
/-- The checks of the fields that every op has, from ctx to nsched (R340). A stop, resume or abort may name a context that is closed, and R262's check of the schedule's entries is a launch's (log entry 66). -/
def State.headChecks (s : State) (p : Nat) (x : Part) (op : Nat) (bs : List Byte) : List (Nat × Bool) :=
  let ctx := fieldAt bs 4 2
  let sched := fieldAt bs 16 8
  let n := fieldAt bs 24 4
  let nOk := if sched = 0 then n == 0 else decide (n ≤ 4096)
  [(4, match s.hub.ctx? ctx with | some c => c.part == p && (op != 0 || !c.closed) | none => false), (7, fieldAt bs 7 1 == 0),
   (8, decide (fieldAt bs 8 2 ≤ x.cfg.epi)), (16, sched % 64 == 0 && (op != 0 || !nOk || s.schedOk ctx sched n))] ++
  (if sched = 0 then zeroChecks bs 24 4 else [(24, nOk)])
/-- The checks of a launch (op 0), by offset (R340). -/
def State.launchChecks (s : State) (p : Nat) (x : Part) (bs : List Byte) : List (Nat × Bool) :=
  let nst := fieldAt bs 2 1
  [(1, fieldAt bs 1 1 == 1), (2, 1 ≤ nst && nst ≤ 6), (3, decide (fieldAt bs 3 1 / 16 < nst))] ++ s.headChecks p x 0 bs ++
  zeroChecks bs 28 4 ++ zeroChecks bs 48 16 ++ (List.range 6).flatMap (stageChecks bs nst)
/-- The checks of the other ops (R340). -/
def State.opChecks (s : State) (p : Nat) (x : Part) (bs : List Byte) : List (Nat × Bool) :=
  [(0, decide (fieldAt bs 0 1 ≤ 3)), (1, fieldAt bs 1 1 == 1), (2, fieldAt bs 2 1 == 0)] ++ s.headChecks p x 1 bs ++
  zeroChecks bs 48 16 ++ (List.range 6).flatMap (stageChecks bs 0)
/-- The offset of the first check that fails (R339). -/
def firstFail (l : List (Nat × Bool)) : Option Nat := (l.find? fun x => !x.2).map (·.1)

/-! ### Output queues (R340, R343) -/

/-- Slots of an output queue in one frame; a slot never crosses a frame. -/
def slotsPerFrame (e : StageRec) : Nat := 65536 / (64 * e.qent)
/-- Frames of an output queue. -/
def StageRec.frames (e : StageRec) : Nat := if e.qdep = 0 then 0 else ceilDiv e.qdep (slotsPerFrame e)
/-- The slots of an output queue in its frames. -/
def StageRec.slots (e : StageRec) (frames : List Nat) : List OutSlot :=
  (List.range e.qdep).map fun j => ⟨65536 * frames.getD (j / slotsPerFrame e) 0 + j % slotsPerFrame e * (64 * e.qent), 0, .free⟩
/-- The stages of a record with their slots, taking frames in order. -/
def mkStages : List StageRec → List Nat → List Stage
  | [], _ => []
  | e :: t, fr => { cfg := e, slots := e.slots (fr.take e.frames) } :: mkStages t (fr.drop e.frames)

/-- The oldest published entry that no task has taken: slot and publication number (R343). -/
def Stage.entry? (x : Stage) : Option (Nat × Nat) :=
  ((List.range x.slots.length).zip x.slots).foldl (fun (r : Option (Nat × Nat)) (i, y) => match y.st, r with
    | .published n, some (_, m) => if n < m then some (i, n) else r
    | .published n, none => some (i, n)
    | _, _ => r) none
/-- Entries published and not taken. -/
def Stage.entries (x : Stage) : Nat := (x.slots.filter fun y => match y.st with | .published _ => true | _ => false).length
/-- Free slots. -/
def Stage.room (x : Stage) : Nat := (x.slots.filter fun y => y.st == .free).length
/-- The next output slot: the first free one from the count of started tasks on (R343). -/
def Stage.nextSlot (x : Stage) : Option Nat :=
  let n := x.slots.length
  ((List.range n).map fun i => (x.started + i) % n).find? fun j => match x.slots[j]? with | some y => y.st == .free | none => false
/-- A slot changed. -/
def Stage.modSlot (x : Stage) (j : Nat) (f : OutSlot → OutSlot) : Stage :=
  match x.slots[j]? with
  | some y => { x with slots := x.slots.set j (f y) }
  | none => x

/-! ### Ready tasks (R343) -/

/-- Tasks of a stage that are ready and have never run. -/
def Hub.fresh (h : Hub) (l k : Nat) : List (Nat × Task) := (h.tasksOf l).filter fun (_, t) => t.stage == k && t.st == .ready && t.saved.isEmpty
/-- Gangs of a stage that run. -/
def Hub.running (h : Hub) (l k : Nat) : Nat := ((h.tasksOf l).filter fun (_, t) => t.stage == k && t.onCores).length
/-- Units of work that a stage could start: tasks left in stage 0, else published entries (R343). -/
def Launch.units (x : Launch) (k : Nat) : Nat :=
  match k, x.stages[k]? with
  | 0, some y => y.cfg.tasks - y.started
  | j + 1, some _ => (match x.stages[j]? with | some z => z.entries | none => 0)
  | _, none => 0
/-- The stage has output room for `n` more tasks (R343). -/
def Launch.outRoom (x : Launch) (k n : Nat) : Bool :=
  match x.stages[k]? with
  | some y => k + 1 == x.stages.length || n < y.room
  | none => false
/-- A task number that no task has. -/
def Hub.newTask (h : Hub) : Nat := h.tasks.foldl (fun n y => max n y.1) h.nextTask + 1
/-- A unit becomes a ready task: the hub lists one at a time for each stage, besides those that wait for a waking cluster (R343, R347). -/
def State.listUnit (s : State) (l k : Nat) : State :=
  match s.hub.launch? l with
  | none => s
  | some x =>
    let fr := s.hub.fresh l k
    let cap := match x.stages[k]? with | some y => y.cfg.maxg | none => 0
    if x.st != .running && x.st != .cutting || fr.any (fun y => y.2.promised.isNone) || x.units k ≤ fr.length || !x.outRoom k fr.length ||
       (cap != 0 && cap ≤ s.hub.running l k + fr.length) then s
    else s.modHub fun h => { h with
      nextTask := h.newTask
      tasks := h.tasks.put none h.newTask (some ⟨l, k, 0, none, none, [], .ready, s.cycle, 0, 0, 0, [], [], [], [], none, none⟩) }
/-- Every stage of every launch lists its next unit. -/
def State.listUnits (s : State) : State :=
  s.hub.launches.foldl (fun s (l, x) => match x with
    | some x => (List.range x.stages.length).foldl (fun s k => s.listUnit l k) s
    | none => s) s

/-! ### Watchdog timers (R370) -/

/-- A launch that runs, for the timer (R370): stopped launches do not. -/
def Launch.runs (x : Launch) : Bool := x.st == .running || x.st == .cutting
/-- The oldest running launch of a queue. -/
def Hub.oldest (h : Hub) (p q : Nat) : Option (Nat × Launch) := (h.launchesOf p q).find? fun y => y.2.runs
/-- The timer counts from now on: a stage task of the queue has ended (R370, R399). -/
def State.armTimer (s : State) (p q : Nat) : State := s.modQueue p q fun y => { y with timer := some s.cycle }
/-- The timer after a fetch: it counts from now on when the fetch has made the queue hold a running launch (R399). -/
def State.fetched (s : State) (p q : Nat) (ran : Bool) : State := if !ran && (s.hub.oldest p q).isSome then s.armTimer p q else s
/-- The timer of a queue has reached the limit of its oldest running launch (R370). -/
def State.timerDue (s : State) (p q : Nat) (y : Queue) : Bool :=
  match y.timer, s.hub.oldest p q with
  | some t, some (_, x) => x.wdog != 0 && t + 4000 * x.wdog ≤ s.cycle
  | _, _ => false

/-! ### Cuts (R355 to R357) -/

/-- No gang of the launch runs. -/
def Hub.still (h : Hub) (l : Nat) : Bool := (h.tasksOf l).all fun y => !y.2.onCores
/-- A trace cut goes on: a stage halts once none of the stages before it runs (R357). -/
def advanceStages (run : Nat → Nat) : Nat → List Stage → List Stage
  | _, [] => []
  | k, x :: t => { x with halted := true } :: if run k = 0 then advanceStages run (k + 1) t else t
/-- The launch offers tasks of a stage for placement: it runs, or its trace cut has not halted the stage (R355, R357). -/
def Launch.offers (x : Launch) (k : Nat) : Bool :=
  x.st == .running || (x.st == .cutting && x.trace && match x.stages[k]? with | some y => !y.halted | none => false)
/-- The cut of a launch advanced. -/
def State.advanceCut (s : State) (l : Nat) : State :=
  match s.hub.launch? l with
  | some x => if x.st == .cutting && x.trace then s.modLaunch l fun x => { x with stages := advanceStages (s.hub.running l) 0 x.stages } else s
  | none => s
/-- A gang asked to stop, with its hard stop due at `due` for each bound, at once for a core that is parked (R292, R352). Stitches of a core above level 0 hear of it at the return to level 0 (R244, R311). -/
def State.askStop (s : State) (t : Nat) (due : Nat → Nat) (clamp : Bool) : State :=
  match s.hub.task? t with
  | none => s
  | some x =>
    let s := s.modTask t fun x => { x with st := .stopping }
    x.cores.foldl (fun s c => s.modCore c fun k => { k with
      job := k.job.map fun j => { j with due := some (match k.iss.hold with | .parked _ => s.cycle | _ => due j.budget), issued := 0 }
      iss := { k.iss with clamp := clamp || k.iss.clamp }
      eng := { k.eng with yieldReq := k.sys.level == 0 } }) s
/-- A sever cut begins (R356): every running gang's hard stop is due at once. -/
def State.sever (s : State) (l : Nat) : State :=
  (s.hub.tasksOf l).foldl (fun s (t, x) => if x.onCores then s.askStop t (fun _ => s.cycle) false else s) s
/-- Every gang of a launch is gone, as `kcancel` and `mcancel flush` end their work (R341). -/
def State.dropGangs (s : State) (l : Nat) : State :=
  (s.hub.tasksOf l).foldl (fun s (t, x) =>
    let s := x.cores.foldl (fun s c =>
      let s := (s.flushCounts c).abandon c
      let s : State := { s with mem := { s.mem with mons := s.mem.mons.filter fun m => m.core != c, msgs := s.mem.msgs.filter fun m => m.core != c } }
      let s := s.modHub fun h => { h with cmds := h.cmds.map fun y => if y.core == c && y.away.isNone then { y with away := some (t, 0) } else y }
      s.modCore c fun k => { k with job := none, iss := { nextId := k.iss.nextId, region := k.iss.region } }) s
    s.modTask t fun x => { x with st := .ended, cores := [], saved := [] }) s

/-! ### RECORD_FETCH and CUT_COMPLETE -/

/-- The cores that a launch could run at once (R362): every gang that its task counts and caps allow, in a partition of `cores` cores. -/
def couldRun (es : List StageRec) (cores : Nat) : Nat :=
  let tasks := match es with | e :: _ => e.tasks | [] => 0
  min cores (es.foldl (fun n e => n + e.gang * (if e.maxg = 0 then tasks else min e.maxg tasks)) 0)
/-- The save-area slots of a context that no launch but `l` has reserved (R362). -/
def Hub.slotsFor (h : Hub) (l ctx : Nat) : Nat :=
  (match h.ctx? ctx with | some c => c.slots | none => 0) -
    h.launches.foldl (fun n (i, x) => match x with | some x => if x.ctx == ctx && i != l && x.st != .ended then n + x.slots else n | none => n) 0
/-- A launch starts (R340, R362): it takes its frames and reserves its save-area slots, or it is not admitted. -/
def State.takeOp (s : State) (p q seq : Nat) (bs : List Byte) : State :=
  match s.hub.part? p with
  | none => s
  | some x =>
    let nst := fieldAt bs 2 1
    let es := (List.range nst).map (stageAt bs)
    let need := es.foldl (fun n e => n + e.frames) 0
    let flags := fieldAt bs 3 1
    let tag : W64 := BitVec.ofNat 64 (fieldAt bs 40 8)
    if x.pool.length < need then s.post p q (plainCompletion tag seq 7 1)
    else
      let fr := x.pool.take need
      let ctx := fieldAt bs 4 2
      let l : Launch := {
        part := p, queue := q, seq := seq, ctx := ctx, prio := flags % 4
        weight := if fieldAt bs 6 1 = 0 then 10 else fieldAt bs 6 1
        trace := flags / 4 % 2 == 1, keep := flags / 8 % 2 == 1, schedStage := flags / 16
        epi := if fieldAt bs 8 2 = 0 then x.cfg.epi else fieldAt bs 8 2
        sinit := fieldAt bs 10 2, wdog := fieldAt bs 12 4
        sched := (s.schedOf ctx (fieldAt bs 16 8) (fieldAt bs 24 4)).getD []
        slots := min (couldRun es (8 * (s.hub.clustersOf p))) (s.hub.slotsFor 0 ctx)
        args := BitVec.ofNat 72 (fieldAt bs 32 8), tag := tag, stages := mkStages es fr, frames := fr }
      let s := s.modPart p fun x => { x with pool := x.pool.drop need }
      let s := s.modHub fun h => { h with nextLaunch := h.nextLaunch + 1, launches := h.launches.put none (h.nextLaunch + 1) (some l) }
      s.listUnits
/-- The tasks of a launch that resumes are ready again from now on (R347, R355). DESIGN CHOICE: their time on the ready set counts anew (log entry 123). -/
def State.rejoin (s : State) (l : Nat) : State :=
  s.modHub fun h => { h with tasks := h.tasks.map fun x => (x.1, x.2.map fun t => if t.launch == l && t.st == .ready then { t with since := s.cycle, aged := 0 } else t) }
/-- The stop, resume and abort records (R341). -/
def State.launchOp (s : State) (p q seq op target : Nat) (tag : W64) : State :=
  let bad := s.post p q (plainCompletion tag seq 4 28)
  match (s.hub.launchesOf p q).find? fun y => y.2.seq == target with
  | none => bad
  | some (l, x) =>
    match op, x.st with
    | 1, .running =>
      let s := s.modLaunch l fun x => { x with st := .cutting, stopRec := some (seq, tag) }
      if x.trace then s.advanceCut l else s.sever l
    | 2, .stopped =>
      let s := (s.modLaunch l fun x => { x with st := .running, stages := x.stages.map fun y => { y with halted := false } }).rejoin l
      (s.post p q (plainCompletion tag seq 0 0)).listUnits
    | 3, .running | 3, .stopped | 3, .cutting =>
      let s := match x.stopRec with | some (n, t) => s.post p q (plainCompletion t n 2 0) | none => s
      let s := s.dropGangs l
      s.modLaunch l fun x => { x with st := .ending 2, stopRec := none, abortRec := some (seq, tag) }
    | _, _ => bad
/-- RECORD_FETCH (R337 to R341): a running queue reads its next record at its home. -/
def execRecordFetch (p q : Nat) (s : State) : Res :=
  match s.hub.queue? p q with
  | none => .next s
  | some (x, y) =>
    let busy := ((s.hub.launchesOf p q).filter fun z => z.2.st != .ended).length
    if x.st != .running || y.state != 1 || y.wr == y.rd || 16 ≤ busy then .next s
    else
      let seq := y.rd.toNat
      let bs := s.authBytes (y.cfg.base + 256 * (seq % y.cfg.size)) 256
      let s := s.modQueue p q fun y => { y with rd := y.rd + 1 }
      let op := fieldAt bs 0 1
      let tag : W64 := BitVec.ofNat 64 (fieldAt bs 40 8)
      match firstFail (if op = 0 then s.launchChecks p x bs else s.opChecks p x bs) with
      | some o => .next (s.post p q (plainCompletion tag seq 4 o))
      | none =>
        let ran := (s.hub.oldest p q).isSome
        .next ((if op = 0 then s.takeOp p q seq bs else s.launchOp p q seq op (fieldAt bs 28 4) tag).fetched p q ran)
/-- The cut of a launch is complete (R356, R357): no gang runs, and in a trace cut every stage has halted. -/
def Hub.cutDone (h : Hub) (l : Nat) (x : Launch) : Bool := x.st == .cutting && h.still l && (!x.trace || x.stages.all (·.halted))
/-- CUT_COMPLETE (R341, R355 to R357): a trace cut goes on to the next stages; a cut that is complete stops its launch. -/
def execCutComplete (l : Nat) (s : State) : Res :=
  match s.hub.launch? l with
  | none => .next s
  | some x =>
    if !s.hub.cutDone l x then .next (s.advanceCut l)
    else
      let s := s.modLaunch l fun x => { x with st := .stopped, stopRec := none }
      .next (match x.stopRec with | some (n, t) => s.post x.part x.queue (plainCompletion t n 1 0) | none => s)

/-! ### LAUNCH_END (R275, R346) -/

/-- Every task of every stage has ended (R346): each stage runs one task for each of stage 0. -/
def Launch.allEnded (x : Launch) : Bool :=
  match x.stages with
  | [] => true
  | y :: _ => x.stages.all fun z => y.cfg.tasks ≤ z.ended
/-- A remote operation that has not been answered, or a collective that has not ended (R275). -/
def NetOp.open_ (o : NetOp) : Bool := match o.coll with | some x => !x.ended | none => o.answer.isNone
/-- A remote operation whose failure has come and has not been counted (R275). -/
def NetOp.owes (o : NetOp) : Bool :=
  match o.coll, o.answer with
  | some x, _ => x.fail != 0 && !x.failed
  | none, some (.ok _) | none, none => false
  | none, some _ => true
/-- The status with which a launch ends now, or none (R275, R341, R346). -/
def Hub.endStatus (h : Hub) (l : Nat) (x : Launch) : Option Nat :=
  if !h.still l || (match h.part? x.part with | some p => p.st != .running | none => true) || h.net.any (fun o => o.launch == l && o.open_) then none
  else match x.st with
    | .ending n => some n
    | .running | .stopped => if x.allEnded then some 0 else none
    | .cutting | .ended => none
/-- The time of a launch in µs, from its first start (R342). -/
def Launch.time (x : Launch) (cycle : Nat) : Nat := match x.first with | some f => (cycle - f) / 4000 | none => 0
/-- LAUNCH_END (R275, R342, R346): the completion, then that of an abort, and the frames go back. -/
def execLaunchEnd (l : Nat) (s : State) : Res :=
  match s.hub.launch? l with
  | none => .next s
  | some x => match s.hub.endStatus l x with
    | none => .next s
    | some st =>
      let (p, q) := (x.part, x.queue)
      let ntask := x.stages.foldl (fun n y => n + y.ended) 0
      let (detail, kctx) := match st, x.killed with | 3, some (c, k) => (k, c) | _, _ => (0, 0xFFFFFFFF)
      let s := match x.stopRec with | some (n, t) => s.post p q (plainCompletion t n 1 0) | none => s
      let lost := (s.hub.net.filter fun o => o.launch == l && o.owes).length
      let s := s.post p q (completion x.tag x.seq st detail (x.nfail + lost) ntask (x.time s.cycle) kctx)
      let s := match x.abortRec with | some (n, t) => s.post p q (plainCompletion t n 0 0) | none => s
      let s := s.modHub fun h => { h with
        net := h.net.filter fun o => o.launch != l
        launches := h.launches.put none l none
        tasks := h.tasks.filter fun (_, t) => match t with | some t => t.launch != l | none => false }
      .next (x.frames.foldl (fun s f => s.freeFrame f p) s)

end Sys2Proof.Machine
end

