-- ==== Sys2Proof/Machine/Distributor.lean ====
section
/-! DEFINITION. The distributor: ready tasks in order, placement on gangs, core starts and task ends, wake and gating of clusters, pre-emption, save and resume (R281, R285, R343 to R354, R364). -/
namespace Sys2Proof.Machine

/-! ### Order (R347) -/

/-- The effective priority of a task (R347). -/
def Task.prio (t : Task) (x : Launch) : Nat := min 3 (x.prio + t.aged)
/-- Cores of a gang. -/
def Launch.gang (x : Launch) (k : Nat) : Nat := match x.stages[k]? with | some y => y.cfg.gang | none => 0
/-- A core that retirement has taken out of placement: no array is left, or its register file or a scratchpad bank has retired with no spare (R375). -/
def State.coreOut (s : State) (c : Nat) : Bool :=
  8 ≤ (s.core c).eng.dead.length || s.hub.noSpare.any fun x => match x with | .sramColumn .registerFile o _ | .sramColumn .scratchpadBank o _ => o == c | _ => false
/-- A core that a placement may take: no job, and not retired (R348, R375). -/
def State.coreFree (s : State) (c : Nat) : Bool := (s.core c).job.isNone && !s.coreOut c
/-- Cores that a launch holds, those of its saved gangs among them (R362). -/
def Hub.heldBy (h : Hub) (l : Nat) : Nat := (h.tasksOf l).foldl (fun n y => n + if y.2.onCores then y.2.cores.length else y.2.saved.length) 0
/-- Save-area slots of a context that a launch may use: all that no other launch has reserved or holds (R362). -/
def Hub.slotsOf (h : Hub) (l ctx : Nat) : Nat :=
  (match h.ctx? ctx with | some c => c.slots | none => 0) -
    h.launches.foldl (fun n (i, x) => match x with | some x => if x.ctx == ctx && i != l && x.st != .ended then n + max x.slots (h.heldBy i) else n | none => n) 0
/-- A task that the distributor may place (R343, R355, R357, R362, R371). -/
def State.placeable (s : State) (t : Task) : Bool :=
  match s.hub.launch? t.launch with
  | none => false
  | some x =>
    let cap := match x.stages[t.stage]? with | some y => y.cfg.maxg | none => 0
    t.st == .ready && x.offers t.stage &&
    (match s.hub.part? x.part with | some p => p.st == .running | none => false) &&
    (cap == 0 || s.hub.running t.launch t.stage < cap) && s.hub.heldBy t.launch + (if t.saved.isEmpty then x.gang t.stage else 0) ≤ s.hub.slotsOf t.launch x.ctx
/-- The place of a context in the round-robin order of a level of its partition (R347). -/
def Hub.turnOf (h : Hub) (p level ctx : Nat) : Nat := (h.turns.get {} (4 * p + level)).order.idxOf ctx
/-- The place of a stage in its launch's round-robin order, which begins with the highest (R347). -/
def Launch.turnOf (x : Launch) (k : Nat) : Nat :=
  let n := x.stages.length
  match x.lastStage with
  | none => n - 1 - k
  | some l => (l + 2 * n - 1 - k) % n
/-- The key by which ready tasks are taken, smallest first (R347, R352). -/
def State.taskKey (s : State) (id : Nat) (t : Task) : List Nat :=
  match s.hub.launch? t.launch with
  | none => []
  | some x => [3 - t.prio x, s.hub.turnOf x.part (t.prio x) x.ctx, if t.saved.isEmpty then 0 else t.order, x.seq, t.launch, x.turnOf t.stage, id]
/-- Keys compared from their first number on. -/
def keyLt : List Nat → List Nat → Bool
  | a :: s, b :: t => a < b || (a == b && keyLt s t)
  | [], _ :: _ => true
  | _, [] => false
/-- A ready task put into the order. -/
def insertKey (x : List Nat × Nat × Task) : List (List Nat × Nat × Task) → List (List Nat × Nat × Task)
  | [] => [x]
  | y :: t => if keyLt x.1 y.1 then x :: y :: t else y :: insertKey x t
/-- The tasks that may be placed, in the distributor's order (R347). -/
def State.readyOrder (s : State) : List (Nat × Task) :=
  ((s.hub.tasks.filterMap fun (i, t) => match t with | some t => if s.placeable t then some (s.taskKey i t, i, t) else none | none => none).foldr insertKey []).map fun x => (x.2.1, x.2.2)

/-! ### Room (R348) -/

/-- A cluster. -/
def Hub.cluster (h : Hub) (cl : Nat) : ClusterSt := h.clusters.get {} cl
/-- A cluster changed. -/
def State.modCluster (s : State) (cl : Nat) (f : ClusterSt → ClusterSt) : State := s.modHub fun h => { h with clusters := h.clusters.put {} cl (f (h.cluster cl)) }
/-- A cluster's free cores, lowest first. -/
def State.freeCores (s : State) (cl : Nat) : List Nat := ((List.range 8).map (· + 8 * cl)).filter s.coreFree
/-- Its busy cores. -/
def State.busyCores (s : State) (cl : Nat) : Nat := (((List.range 8).map (· + 8 * cl)).filter fun c => (s.core c).job.isSome).length
/-- The clusters of a partition. -/
def Hub.clusterList (h : Hub) (p : Nat) : List Nat := match h.part? p with | some x => (List.range 32).filter fun k => x.cfg.clusters.getLsbD k | none => []
/-- Among awake clusters with room, the one with the most busy cores, the lowest number on a tie (R348). -/
def State.roomFor (s : State) (p n : Nat) : Option Nat :=
  ((s.hub.clusterList p).filter fun cl => (s.hub.cluster cl).awake && n ≤ (s.freeCores cl).length).foldl
    (fun (r : Option Nat) cl => match r with | some b => if s.busyCores b < s.busyCores cl then some cl else r | none => some cl) none
/-- The cluster of a task that was pre-empted: its own, where that has room (R352, step 5). -/
def State.homeRoom (s : State) (p n : Nat) (t : Task) : Option Nat :=
  match t.saved with
  | v :: _ => let cl := clusterOf v.flat
    if (s.hub.clusterList p).contains cl && (s.hub.cluster cl).awake && n ≤ (s.freeCores cl).length then some cl else none
  | [] => none
/-- Where a task goes now (R348, R352). -/
def State.roomOf (s : State) (t : Task) : Option Nat :=
  match s.hub.launch? t.launch with
  | none => none
  | some x => match s.homeRoom x.part (x.gang t.stage) t with
    | some cl => some cl
    | none => s.roomFor x.part (x.gang t.stage)
/-- The cores of a waking cluster that nothing waits for yet. -/
def State.wakingRoom (s : State) (cl : Nat) : Nat :=
  8 - s.hub.tasks.foldl (fun n (_, t) => match t with
    | some t => if t.promised == some cl then n + (match s.hub.launch? t.launch with | some x => x.gang t.stage | none => 0) else n
    | none => n) 0
/-- A die whose core supply is up (R404). -/
def Hub.powered (h : Hub) (cl : Nat) : Bool := cl / 8 < h.boot.diesUp && !h.boot.off
/-- The cluster that a task without room waits for: one that wakes already, else the lowest gated one (R348). -/
def State.wakeFor (s : State) (p n : Nat) : Option Nat :=
  let cls := s.hub.clusterList p
  match cls.find? fun cl => (s.hub.cluster cl).waking.isSome && n ≤ s.wakingRoom cl with
  | some cl => some cl
  | none => cls.find? fun cl => !(s.hub.cluster cl).awake && (s.hub.cluster cl).waking.isNone && s.hub.powered cl

/-! ### Placement (R343, R347, R348, R350) -/

/-- The latest first start of a run in another cluster (R350). -/
def Hub.otherRun (h : Hub) (cl : Nat) : Option Nat :=
  h.clusters.foldl (fun (r : Option Nat) (k, x) => if k == cl then r else match r, x.runStart with
    | some a, some b => some (max a b)
    | none, b => b
    | a, none => a) none
/-- The earliest start of a core in a cluster from cycle `t` on, entered in the cluster's record (R350). -/
def State.startCycle (s : State) (cl t : Nat) : Nat × State :=
  let x := s.hub.cluster cl
  let t := match x.lastStart with | some l => max t (l + 32) | none => t
  if x.lastStart.map (· + 32) == some t then (t, s.modCluster cl fun x => { x with lastStart := some t })
  else
    let t := match s.hub.otherRun cl with | some r => max t (r + 1000) | none => t
    (t, s.modCluster cl fun x => { x with lastStart := some t, runStart := some t })
/-- The core passes from another context (R345). -/
def Core.passes (k : Core) (ctx : Nat) : Bool := k.lastCtx != some ctx
/-- A gang's cores assigned, in rank order, to start from a cycle on (R348, R350). -/
def State.assign (s : State) (id cl : Nat) (x : Launch) (e : StageRec) (from_ rank : Nat) : List Nat → State
  | [] => s
  | c :: t =>
    let s := s.flushCounts c
    let (at_, s) := s.startCycle cl (from_ + if (s.core c).passes x.ctx then 1024 else 0)
    let s := s.modCore c fun k => { k with job := some ⟨x.ctx, x.part, id, rank, e.vregs, e.accs, e.scratch, x.epi, .starting at_, none, 0⟩ }
    s.assign id cl x e from_ (rank + 1) t
/-- Core numbers of barrier masks carried from the cores that a gang left to those it takes, rank by rank (R285). -/
def carryBits (old new : List Nat) (l : List Nat) : List Nat := l.filterMap fun i => new[old.idxOf i]?
/-- A task takes its input entry and its output slot, when it has none (R343). -/
def State.takeUnits (s : State) (id : Nat) (t : Task) : State :=
  if !t.saved.isEmpty then s
  else match s.hub.launch? t.launch with
    | none => s
    | some x =>
      let k := t.stage
      let input := match k with | 0 => none | j + 1 => (match x.stages[j]? with | some y => y.entry? | none => none)
      let index := match k, input, x.stages[k]? with | 0, _, some y => y.started | _, some (_, n), _ => n | _, none, _ => 0
      let output := match x.stages[k]? with | some y => if k + 1 == x.stages.length then none else y.nextSlot | none => none
      let s := s.modLaunch t.launch fun x =>
        let x := match k, input with | j + 1, some (i, _) => x.modStage j fun y => y.modSlot i fun z => { z with st := .taken } | _, _ => x
        x.modStage k fun y =>
          let y := match output with | some o => y.modSlot o fun z => { z with st := .reserved } | none => y
          { y with started := y.started + 1 }
      s.modTask id fun t => { t with index := index, inSlot := input.map (·.1), outSlot := output }
/-- Contexts that wait for their turn and do not stand in the order yet come at its end (R347). -/
def Turn.join (t : Turn) (ctxs : List Nat) : Turn := { t with order := t.order ++ (ctxs.filter fun c => !t.order.contains c).eraseDups }
/-- A context's turn after a placement: those before it in the order have been passed over; when it has had its weight, the next context leads (R347). -/
def Turn.took (t : Turn) (ctx weight : Nat) : Turn :=
  let i := t.order.idxOf ctx
  let l := t.order.drop i ++ t.order.take i
  let n := if i == 0 then t.used + 1 else 1
  if weight ≤ n then ⟨l.drop 1 ++ l.take 1, 0⟩ else ⟨l, n⟩
/-- A placement counts in the round robin of its partition and level, in which every context with a ready task there has its turn (R347). -/
def Hub.took (h : Hub) (p level ctx weight : Nat) (ready : List Nat) : Hub :=
  { h with turns := h.turns.put {} (4 * p + level) (((h.turns.get {} (4 * p + level)).join (ready ++ [ctx])).took ctx weight) }
/-- The contexts with ready tasks at a level of a partition, in the distributor's order (R347). -/
def State.readyCtxs (s : State) (p level : Nat) : List Nat :=
  s.readyOrder.filterMap fun y => match s.hub.launch? y.2.launch with
    | some x => if x.part == p && y.2.prio x == level then some x.ctx else none
    | none => none
/-- A task placed in a cluster (R343, R347, R348): its first core may start within 256 cycles (R354). -/
def State.startTask (s : State) (id cl : Nat) (t : Task) : State :=
  match s.hub.launch? t.launch with
  | none => s
  | some x => match x.stages[t.stage]? with
    | none => s
    | some y =>
      let flats := (s.freeCores cl).take y.cfg.gang
      let ready := s.readyCtxs x.part (t.prio x)
      let from_ := s.cycle + Config.startDelay s.fresh % 257
      let s := ({ s with fresh := s.fresh + 1 } : State).takeUnits id t
      let old := t.saved.map fun v => coreBit v.flat
      let new := flats.map coreBit
      let s := s.modTask id fun t => { t with
        st := .running, cores := flats, promised := none, aged := 0, sliceFrom := s.cycle
        masks := t.masks.map fun z => (z.1, carryBits old new z.2)
        arrived := t.arrived.map fun z => (z.1, carryBits old new z.2)
        pending := t.pending.map fun z => (z.1, carryBits old new z.2) }
      let s := (s.modHub fun h => h.took x.part (t.prio x) x.ctx x.weight ready).modLaunch t.launch fun x => { x with lastStage := some t.stage }
      (s.assign id cl x y.cfg from_ 0 flats).listUnits
/-- The first thing that the distributor can do for a task of a list: place it, or let it wait for a cluster (R348). -/
def State.placeFirst (s : State) : List (Nat × Task) → Option State
  | [] => none
  | (id, t) :: l =>
    match s.roomOf t with
    | some cl => some (s.startTask id cl t)
    | none =>
      if t.promised.isSome then s.placeFirst l
      else match s.hub.launch? t.launch with
        | none => s.placeFirst l
        | some x => match s.wakeFor x.part (x.gang t.stage) with
          | some cl =>
            let s := if (s.hub.cluster cl).waking.isSome then s else s.modCluster cl fun y => { y with waking := some (s.cycle + 8000) }
            some ((s.modTask id fun t => { t with promised := some cl }).listUnits)
          | none => s.placeFirst l
/-- PLACEMENT (R343, R347, R348). -/
def execPlacement (s : State) : Res := .next ((s.placeFirst s.readyOrder).getD s)

/-! ### Clusters (R349) -/

/-- CLUSTER_WAKE (R348, R349): the wake is over; what waited for it is placed in its order. -/
def execClusterWake (cl : Nat) (s : State) : Res :=
  match (s.hub.cluster cl).waking with
  | some t =>
    if s.cycle < t then .next s
    else
      let s := s.modCluster cl fun x => { x with awake := true, waking := none, busyAt := s.cycle }
      .next (s.modHub fun h => { h with tasks := h.tasks.map fun (i, t) => (i, t.map fun t => if t.promised == some cl then { t with promised := none } else t) })
  | none => .next s
/-- A core of a gated cluster: its L1 written back and empty, its weight cache and stitch banks lost (R349). Its TLBs stay (R324), and so does the built-in image, which is never written again after bring-up (R222; log entry 105). -/
def State.gateCore (s : State) (c : Nat) : State :=
  (s.flushAll c).modCore c fun k => { k with lastCtx := none, l1 := [], eng := { dead := k.eng.dead, nextId := k.eng.nextId, bank0 := k.eng.bank0 } }
/-- CLUSTER_GATE (R349): no busy core for 50 µs. -/
def execClusterGate (cl : Nat) (s : State) : Res :=
  let x := s.hub.cluster cl
  if !x.awake || s.busyCores cl != 0 || s.cycle < x.busyAt + 200000 then .next s
  else
    let s := ((List.range 8).map (· + 8 * cl)).foldl State.gateCore s
    .next (s.modCluster cl fun x => { x with awake := false, throttle := 0, holdSteps := false })

/-! ### Starts (R281, R344, R345, R352) -/

/-- What a core clears when it passes to another context (R345, R385). No bundle of the other context stays cached (log entry 18). -/
def Core.clear (k : Core) : Core :=
  { k with
    vec := [], acc := [], accPoison := [], ts := [], tsNew := [], scr := [], ch := [], icache := [], poolFail := 0, poolCause := 0, netFail := 0, netCause := 0
    eng := { k.eng with insts := [], pins := [], repl := [], fillcount := 0, topk := {}, pfLost := 0 } }
/-- The registers at the start of a stage task (R344). -/
def startRegs (args a1 a2 : W72) (index stage rank gang : Nat) : Regs :=
  let a : Bank W72 := Bank.put 0 (Bank.put 0 (Bank.put 0 [] 0 args) 1 a1) 2 a2
  let v (n : Nat) : W64 := BitVec.ofNat 64 n
  { a := a, s := Bank.put 0 (Bank.put 0 (Bank.put 0 (Bank.put 0 [] 1 (v index)) 2 (v stage)) 3 (v rank)) 4 (v gang) }
/-- Every tile of a core invalid and every L1 line gone, dirty bytes home first (R118, R344). -/
def State.refresh (s : State) (c : Nat) : State := (s.flushAll c).modEng c fun e => e.invalidate fun _ => true
/-- The slot of a stage. -/
def Launch.slot? (x : Launch) (k : Nat) (j : Option Nat) : Option OutSlot :=
  match x.stages[k]?, j with
  | some y, some j => y.slots[j]?
  | _, _ => none
/-- The input slot of a task, in the stage before its own. -/
def Launch.input? (x : Launch) (t : Task) : Option OutSlot := match t.stage with | 0 => none | k + 1 => x.slot? k t.inSlot
/-- A slot's address, 0 where there is none. -/
def slotAddr (o : Option OutSlot) : W72 := match o with | some y => BitVec.ofNat 72 y.addr | none => 0
/-- A stitch bank is reloaded when a context with stitches starts on a core that holds none of it (R224). -/
def State.wantBank (s : State) (c ctx : Nat) : State :=
  let has := match s.hub.ctx? ctx with | some x => !x.placed.isEmpty | none => false
  s.modEng c fun e => if has then e.startReload ctx s.cycle else e
/-- A core starts a stage task afresh (R262, R281, R344, R345). -/
def State.startFresh (s : State) (c : Nat) (j : Job) (t : Task) (x : Launch) (e : StageRec) : State :=
  let cx := s.hub.ctx? j.ctx
  let inp := x.input? t
  let regs := startRegs x.args (slotAddr inp) (slotAddr (x.slot? t.stage t.outSlot)) t.index t.stage j.rank e.gang
  let sup := match cx with | some y => y.sup | none => false
  let sched := if t.stage == x.schedStage then x.sched else []
  let sc := if t.stage == x.schedStage then x.sinit else 0
  let pc : W72 := BitVec.ofNat 72 e.kernel
  let s := s.modCore c fun k =>
    let k := if k.passes j.ctx then k.clear else k
    { k with
      job := some { j with phase := .running, issued := 0 }, lastCtx := some j.ctx, regs := regs, sh := regs, sys := { svctx := sup }
      iss := { pc := pc, regionStart := pc, region := k.iss.region + 1, nextId := k.iss.nextId, elig := s.cycle }
      wb := [], rq := [], rqAt := none, sched := ⟨sched, 0, sc, none⟩
      eng := { k.eng with pattern := match cx with | some y => y.pattern | none => [], yieldReq := j.due.isSome } }
  let s := s.absorb c (match inp with | some o => o.wake | none => 0)
  let s := if x.keep || x.seen.contains c then s else s.refresh c
  let s := s.beginSched c regs sup
  (s.modLaunch t.launch fun x => { x with seen := if x.seen.contains c then x.seen else x.seen ++ [c] }).wantBank c j.ctx

/-! ### The save area (R220, R244, R245, R276, R364) -/

/-- The header of a slot (R364). -/
def saveHeader (flat index : Nat) (j : Job) : List Byte :=
  leList 2 flat ++ leList 2 j.rank ++ leList 4 (Config.saveSizes j.vregs j.accs (ceilDiv j.scratch 4096)).toNat ++ leList 8 index ++ List.replicate 48 0
/-- The bytes of a slot (R364); what lies from 320 to 4,095 is private to the device. -/
def saveBytes (v : Saved) : List Byte :=
  let k := v.core
  match k.job with
  | none => []
  | some j =>
    saveHeader v.flat v.index j ++ k.eng.block j.ctx ++ (List.range 3776).map (fun i => Config.saveByte v.seed i) ++
    (List.range j.vregs).flatMap (fun n => leList 512 (k.vec.get 0 n).toNat) ++
    (List.range (16 * j.accs)).flatMap (fun n => leList 512 (k.acc.get 0 n).toNat) ++ k.scr.getList 0 0 j.scratch
/-- The physical address of a slot (R364). -/
def Hub.slotPa (h : Hub) (ctx slot : Nat) : Nat := (match h.ctx? ctx with | some x => x.save | none => 0) + 2097152 * slot
/-- The slots of a context that hold saved cores. -/
def Hub.usedSlots (h : Hub) (ctx : Nat) : List Nat :=
  h.tasks.flatMap fun (_, t) => match t with | some t => (t.saved.filter fun v => v.core.ctx == ctx).map (·.slot) | none => []
/-- The lowest slot that holds nothing. -/
def Hub.freeSlot (h : Hub) (ctx : Nat) : Nat := ((List.range (h.usedSlots ctx).length.succ).find? fun j => !(h.usedSlots ctx).contains j).getD 0
/-- Blocks of poisoned accumulator rows keep their poison in the slot (R364). -/
def State.savePoison (s : State) (v : Saved) (pa : Nat) : State :=
  match v.core.job with
  | none => s
  | some j => { s with mem := (List.range (16 * j.accs)).foldl (fun m n =>
      if v.core.accPoison.get false n then (List.range 8).foldl (fun m i => m.setPoison ((pa + 4096 + 512 * j.vregs + 512 * n) / 64 + i) true) m else m) s.mem }
/-- The slot still holds what the save wrote (R364). -/
def State.slotIntact (s : State) (v : Saved) : Bool :=
  let pa := s.hub.slotPa v.core.ctx v.slot
  let bs := saveBytes v
  s.mem.read pa bs.length == bs
/-- Free choice `i` of a core whose slot software changed. -/
def freeOf (seed i : Nat) : W64 := Config.freeWord (seed * 2 ^ 24 + i)
/-- A free value of any width up to 4,096 bits, from choice `i` on. -/
def freeWide (seed i w : Nat) : BitVec w := (List.range (ceilDiv w 64)).foldl (fun (x : BitVec w) j => x ||| (freeOf seed (i + j)).setWidth w <<< (64 * j)) 0
/-- `n` free values of a register file from number `lo` on. -/
def freeBank {α : Type} [DecidableEq α] (d : α) (lo n : Nat) (f : Nat → α) : Bank α := ((List.range n).map fun i => (lo + i, f i)).filter fun x => x.2 != d
/-- Every register that a slot holds, free (R364). -/
def freeRegs (seed : Nat) : Regs :=
  { s := freeBank 0 1 63 fun i => freeOf seed i
    a := freeBank 0 0 32 fun i => freeWide seed (100 + 2 * i) 72
    g := freeBank false 1 15 fun i => (freeOf seed (200 + i)).getLsbD 0
    b := freeBank 0 0 16 fun i => (freeOf seed (220 + i)).setWidth 20
    lc := freeBank {} 0 4 fun i => LoopCtr.ofBits (freeOf seed (240 + i))
    mp := freeBank 0 0 8 fun i => freeWide seed (250 + 2 * i) 72
    ix := freeBank 0 0 16 fun i => freeOf seed (280 + i)
    p := freeBank 0 0 16 fun i => freeWide seed (300 + 8 * i) 512
    shAct := (List.range 16).map fun i => (i, freeWide seed (500 + 2 * i) 128)
    shShd := (List.range 16).map fun i => (i, freeWide seed (540 + 2 * i) 128)
    lsave := freeOf seed 580, vfm := freeWide seed 582 128, ckcfg := (freeOf seed 584).setWidth 3 }
/-- A trap bank with free contents. -/
def freeTrap (seed i : Nat) : TrapBank := ⟨freeOf seed i, freeOf seed (i + 1), freeOf seed (i + 2), freeOf seed (i + 3), freeWide seed (i + 4) 72⟩
/-- Of a list that a slot holds, each element is there or not, by the free choices from `i` on (R364). -/
def freeList {α : Type} (seed i : Nat) (l : List α) : List α := ((List.range l.length).zip l).filterMap fun x => if (freeOf seed (i + x.1)).getLsbD 0 then some x.2 else none
/-- The same of something that may be absent. -/
def freeOpt {α : Type} (seed i : Nat) (x : Option α) : Option α := if (freeOf seed i).getLsbD 0 then x else none
/-- A channel that comes back from a slot that software changed: each command there or not, with a free progress, free counts, and its fault or its watermark there or not (R276, R364). -/
def Chan.scrambled (x : Chan) (seed i : Nat) : Chan :=
  let n (j b : Nat) : Nat := (freeOf seed (i + j)).toNat % 2 ^ b
  { x with
    q := (freeList seed i x.q).map fun m => { m with iter := n 10 16, iterOn := (freeOf seed (i + 11)).getLsbD 0, piece := n 12 32 }
    running := x.running && (freeOf seed i).getLsbD 0, filled := n 13 16, released := n 14 16, nfail := n 15 32
    frozen := freeOpt seed (i + 16) x.frozen, more := freeList seed (i + 20) x.more
    wm := (freeOpt seed (i + 17) x.wm).map fun w => { w with reach := some (w.base + n 18 20), beyond := [] } }
/-- The running stitch that comes back so, with a free micro-state, where its entry is there (R245, R364). What bounds it, its depth, stays. -/
def Seq.scrambled (q : Seq) (seed : Nat) : Seq :=
  { q with
    upc := (freeOf seed 800).toNat % 1024, mt := freeBank 0 0 16 fun i => freeWide seed (810 + 2 * i) 72, ml := freeBank {} 0 4 fun i => LoopCtr.ofBits (freeOf seed (850 + i))
    sp := (freeOf seed 860).setWidth 8, abase := (freeOf seed 861).toNat % 32, acnt := (freeOf seed 862).toNat % 32 + 1, aoff := (freeOf seed 863).toNat % 32
    steps := (freeOf seed 864).toNat % 65536, words := (freeOf seed 865).toNat % 2 ^ 24, fstep := (freeOf seed 866).toNat % 16, sq := freeList seed 870 q.sq }
/-- A core whose slot software changed comes back in a free state (R364): its registers and system registers, what it declared, its unperformed effects, pending results and engines' queues, of which each is there or not, the progress of its commands, its faults, its running stitch. Its privilege, its signatures and what it has sent stay, and no address comes in that the context had not translated. -/
def Core.scrambled (k : Core) (seed : Nat) : Core :=
  let n := match k.job with | some j => (j.vregs, 16 * j.accs, j.scratch) | none => (0, 0, 0)
  let r := freeRegs seed
  let pc : W72 := freeWide seed 590 72 &&& ~~~0x3F
  let q := (freeList seed 700 k.eng.q).map fun m => { m with rows := (freeOf seed (740 + m.id % 32)).toNat % 16 }
  let seq := (freeOpt seed 784 k.eng.seq).filter fun x => q.any fun m => m.id == x.entry
  { k with
    wb := freeList seed 2500 k.wb, rq := freeList seed 2700 k.rq, rqAt := none
    regs := r, sh := r, vec := freeBank 0 0 n.1 fun i => freeWide seed (4096 + 64 * i) 4096, acc := freeBank 0 0 n.2.1 fun i => freeWide seed (131072 + 64 * i) 4096
    accPoison := freeBank false 0 n.2.1 fun i => (freeOf seed (262144 + i)).getLsbD 0
    scr := freeBank 0 0 n.2.2 fun i => (freeOf seed (524288 + i)).setWidth 8
    ts := freeBank 0 0 32 fun i => freeOf seed (600 + i)
    sys := { k.sys with tsave := freeOf seed 640, tvec1 := freeOf seed 641, tvec2 := freeOf seed 642, wtmo := (freeOf seed 643).setWidth 48, bank1 := freeTrap seed 650, bank2 := freeTrap seed 660 }
    iss := { k.iss with pc := pc, regionStart := pc, hold := .none, wmWait := none, vpend := freeList seed 2900 k.iss.vpend, poisons := freeList seed 2960 k.iss.poisons }
    ch := k.ch.map fun x => (x.1, x.2.scrambled seed (3100 + 40 * x.1))
    eng := { k.eng with
      q := if seq.isSome then q else q.map fun m => if m.op.isStitch then { m with st := .waiting } else m
      seq := seq.map fun x => x.scrambled seed
      frozen := freeOpt seed 785 k.eng.frozen, mrp := (freeOf seed 780).setWidth 16, pfq := freeList seed 790 k.eng.pfq, pins := freeList seed 1000 k.eng.pins
      topk := { k.eng.topk with rows := freeList seed 2000 k.eng.topk.rows } }
    sched := { k.sched with next := (freeOf seed 781).toNat % 4097, sc := (freeOf seed 782).toNat % 4097 } }

/-! ### Resume (R142, R195, R220, R276, R285, R352) -/

/-- A register file with the declared part of a saved one, and its own contents beyond (R352). -/
def Bank.over {α : Type} (n : Nat) (saved own : Bank α) : Bank α := saved.filter (fun x => x.1 < n) ++ own.filter fun x => n ≤ x.1
/-- The core's state put back: what the save holds, over the caches, banks and undeclared registers of the core that takes it. -/
def Core.restore (k : Core) (v : Core) (j : Job) (cycle : Nat) (pattern : Bank (BitVec 64)) : Core :=
  let tiles := if k.passes j.ctx then [] else k.eng.insts
  let ph := match v.job with | some x => (match x.phase with | .halted => .running | p => p) | none => .running
  { v with
    job := some { j with phase := ph }, lastCtx := some j.ctx
    l1 := k.l1, tlb := k.tlb, ptlb := k.ptlb, pipeFrom := k.pipeFrom, count := k.count, recent := k.recent, icache := k.icache
    vec := Bank.over j.vregs v.vec k.vec, acc := Bank.over (16 * j.accs) v.acc k.acc
    accPoison := Bank.over (16 * j.accs) v.accPoison k.accPoison, scr := Bank.over j.scratch v.scr k.scr
    ws := ⟨k.ws.p ||| v.ws.p, k.ws.l ||| v.ws.l, k.ws.n ||| v.ws.n⟩, as_ := ⟨k.as_.p ||| v.as_.p, k.as_.l ||| v.as_.l, k.as_.n ||| v.as_.n⟩
    iss := { v.iss with elig := max cycle v.iss.elig, nextId := max v.iss.nextId k.iss.nextId, clamp := false }
    eng := { v.eng with
      insts := tiles, bank0 := k.eng.bank0, banks := k.eng.banks, reload := k.eng.reload, dead := k.eng.dead, pattern := pattern, yieldReq := j.due.isSome
      fillcount := if k.passes j.ctx then 0 else k.eng.fillcount, nextId := max v.eng.nextId k.eng.nextId
      pins := v.eng.pins.map fun p => { p with want := true } } }
/-- Remote accesses, collectives and hub commands come back to the core, and the outcomes held for it take effect in order (R251, R276). -/
def State.claim (s : State) (c task rank : Nat) : State :=
  let mine (o : NetOp) : Bool := o.task == task && o.away == some rank
  let ids := (s.hub.net.filter mine).map fun o => o.id
  let cmds := s.hub.cmds.filter fun x => x.away == some (task, rank)
  let s := s.modHub fun h => { h with
    net := h.net.map fun o => if mine o then { o with core := c, away := none } else o
    cmds := (h.cmds.filter fun x => !(x.away == some (task, rank) && x.answer.isSome)).map fun x => if x.away == some (task, rank) then { x with core := c, away := none } else x }
  let s := s.settleNet (s.hub.net.length + 1)
  let s := ids.foldl (fun s i => match s.hub.net.find? fun o => o.id == i with
    | some o => (match o.coll with | some x => s.settleColl o x | none => s)
    | none => s) s
  cmds.foldl (fun s x => match x.answer with
    | some st => s.modCore c fun k => (k.setVar x.vid [.s x.d (BitVec.ofNat 64 st)] s.cycle).finishVar s.cycle x.vid
    | none => s) s
/-- A core of a pre-empted gang comes back (R352). On another core it first gives up the lines that core held. -/
def State.startSaved (s : State) (c : Nat) (j : Job) (v : Saved) : State :=
  let kk := if s.slotIntact v then v.core else v.core.scrambled v.seed
  let s := if c = v.flat then s else s.flushAll c
  let pat := match s.hub.ctx? j.ctx with | some y => y.pattern | none => []
  let s := s.modCore c fun k => (if k.passes j.ctx then k.clear else k).restore kk j s.cycle pat
  let s := s.modTask j.task fun t => { t with saved := t.saved.filter fun y => y.slot != v.slot }
  (((s.claim c j.task j.rank).advanceAll c).modEng c fun e => e.servePins s.cycle).wantBank c j.ctx
/-- The rank of a saved core. -/
def Saved.rank (v : Saved) : Option Nat := v.core.job.map (·.rank)
/-- CORE_START (R262, R281, R344, R345, R352): the core's clearing counts for its partition. The gang's slice counts from its last core's start (R351; log entry 101). -/
def execCoreStart (c : Nat) (s : State) : Res :=
  match (s.core c).job with
  | none => .next s
  | some j => match j.phase with
    | .starting t =>
      if s.cycle < t then .next s
      else match s.hub.task? j.task with
        | none => .next s
        | some x => match s.hub.launch? x.launch with
          | none => .next s
          | some l => match l.stages[x.stage]? with
            | none => .next s
            | some y =>
              let s := if (s.core c).passes j.ctx then s.modHub fun h => h.note (idleRec j.part) 0 1024 else s
              let s := s.modLaunch x.launch fun l => { l with first := some (match l.first with | some f => min f s.cycle | none => s.cycle) }
              let s := s.modTask j.task fun t => { t with sliceFrom := s.cycle }
              .next (match x.saved.find? fun v => v.rank == some j.rank with
                | some v => s.startSaved c j v
                | none => s.startFresh c j x l y.cfg)
    | _ => .next s

/-! ### Ends (R346) -/

/-- The core's Release at the end of a task (R117, R346): its dirty lines go home, its wake goes to the output slot, whose first line takes a new version and wakes its monitors, and its signatures clear. A task of the last stage has no slot. -/
def State.releaseCore (s : State) (c : Nat) (slot : Option Nat) : Pred × State :=
  let s := (s.writeBackAll c).flushCounts c
  let s := match slot with | some a => (let s := s.recall (a / 128); { s with mem := s.mem.bump s.cycle (a / 128) }) | none => s
  let k := s.core c
  (k.ws.p ||| k.as_.p, s.modCore c fun k => { k with job := none, ws := {}, as_ := {}, sched := {}, iss := { nextId := k.iss.nextId, region := k.iss.region } })
/-- Every core's part of the task is over (R346). -/
def State.partsDone (s : State) (t : Task) : Bool :=
  t.onCores && !t.cores.isEmpty && t.cores.all fun c => match (s.core c).job with | some j => j.phase == Phase.done | none => false
/-- TASK_END (R343, R346, R370): the cores release onto the output slot, which is published; the input entry is gone. -/
def execTaskEnd (id : Nat) (s : State) : Res :=
  match s.hub.task? id with
  | none => .next s
  | some t =>
    if !s.partsDone t then .next s
    else match s.hub.launch? t.launch with
      | none => .next s
      | some x =>
        let slot := (x.slot? t.stage t.outSlot).map fun o => o.addr
        let (w, s) := t.cores.foldl (fun (a : Pred × State) c => let (w, s) := a.2.releaseCore c slot; (a.1 ||| w, s)) (0, s)
        let s := s.modHub fun h => { h with tasks := h.tasks.put none id none }
        let s := s.modLaunch t.launch fun x =>
          let x := match t.stage, t.inSlot with | k + 1, some i => x.modStage k fun y => y.modSlot i fun z => { z with st := .free, wake := 0 } | _, _ => x
          x.modStage t.stage fun y =>
            let y := { y with ended := y.ended + 1 }
            match t.outSlot with
            | some o => { y.modSlot o fun z => { z with st := .published y.published, wake := z.wake ||| w } with published := y.published + 1 }
            | none => y
        .next (((s.armTimer x.part x.queue).advanceCut t.launch).listUnits)

/-! ### Ageing and pre-emption (R347, R351, R352) -/

/-- PRIORITY_AGING (R347): one level for every 100 ms that the task has been ready; a task of a stopped launch is off the ready set (R355). -/
def execPriorityAging (id : Nat) (s : State) : Res :=
  match s.hub.task? id with
  | none => .next s
  | some t =>
    if t.st == .ready && (match s.hub.launch? t.launch with | some x => x.offers t.stage | none => false) && t.aged < 3 && t.since + 400000000 * (t.aged + 1) ≤ s.cycle then .next (s.modTask id fun t => { t with aged := t.aged + 1 }) else .next s

/-- The first task in the order that finds no room and waits for no cluster (R351). -/
def State.starved (s : State) : List (Nat × Task × Launch) :=
  s.readyOrder.filterMap fun (i, t) => match s.hub.launch? t.launch with
    | some x => if t.promised.isNone && (s.roomOf t).isNone && (s.wakeFor x.part (x.gang t.stage)).isNone then some (i, t, x) else none
    | none => none
/-- The running gangs of a cluster. -/
def State.gangsIn (s : State) (cl : Nat) : List (Nat × Task) :=
  s.hub.tasks.filterMap fun (i, t) => match t with
    | some t => if t.onCores && (match t.cores with | c :: _ => clusterOf c == cl | [] => false) then some (i, t) else none
    | none => none
/-- The priority of a running gang. -/
def State.gangPrio (s : State) (t : Task) : Nat := match s.hub.launch? t.launch with | some x => t.prio x | none => 0
/-- Cores of a cluster that are free, or that a gang about to stop will leave. -/
def State.soonFree (s : State) (cl : Nat) : Nat :=
  (s.freeCores cl).length + ((s.gangsIn cl).filter fun y => y.2.st == .stopping).foldl (fun n y => n + y.2.cores.length) 0
/-- Room for `n` cores comes without a further pre-emption. -/
def State.relieved (s : State) (p n : Nat) : Bool := (s.hub.clusterList p).any fun cl => (s.hub.cluster cl).awake && n ≤ s.soonFree cl
/-- Gangs in the order in which R351 takes them: the lowest priority first, then the most recently started. -/
def State.victimOrder (s : State) (l : List (Nat × Task)) : List (Nat × Task) :=
  (l.foldr (fun y acc => insertKey ([s.gangPrio y.2, 2 ^ 64 - y.2.sliceFrom, y.1], y.1, y.2) acc) []).map fun x => (x.2.1, x.2.2)
/-- The fewest gangs, taken in order, that free `need` cores, or none. -/
def takeVictims : Nat → List (Nat × Task) → Option (List Nat)
  | 0, _ => some []
  | _ + 1, [] => none
  | need + 1, y :: t => (takeVictims (need + 1 - y.2.cores.length) t).map fun l => y.1 :: l
/-- The gangs that a starved task of priority `prio` pre-empts: in the cluster where the fewest must go (R351). -/
def State.victims (s : State) (p n prio : Nat) : List Nat :=
  let opts := (s.hub.clusterList p).filterMap fun cl =>
    if (s.hub.cluster cl).awake then
      takeVictims (n - s.soonFree cl) (s.victimOrder ((s.gangsIn cl).filter fun y => y.2.st == .running && s.gangPrio y.2 < prio))
    else none
  (opts.foldl (fun (r : Option (List Nat)) l => match r with | some b => if l.length < b.length then some l else r | none => some l) none).getD []
/-- Every core of the gang has started. -/
def State.started (s : State) (t : Task) : Bool := t.cores.all fun c => match (s.core c).job with | some j => (match j.phase with | .starting _ => false | _ => true) | none => false
/-- A gang that must go for a task of higher priority, or whose stage halts in a trace cut (R351, R357). -/
def State.mustGo (s : State) (id : Nat) (t : Task) : Bool :=
  t.st == .running && s.started t &&
  ((match s.hub.launch? t.launch with
    | some x => x.st == .cutting && x.trace && (match x.stages[t.stage]? with | some y => y.halted | none => false)
    | none => false) ||
   s.starved.any fun (_, r, x) => !s.relieved x.part (x.gang r.stage) && (s.victims x.part (x.gang r.stage) (r.prio x)).contains id)
/-- The forced epilogue of a gang begins (R352): clamp, the stitch's yield, the bounds of the hard stop. -/
def State.preempt (s : State) (id : Nat) : State :=
  match s.hub.task? id with
  | none => s
  | some t =>
    let s := match s.hub.launch? t.launch with | some x => s.modHub fun h => h.note x.ctx 15 1 | none => s
    s.askStop id (fun b => s.cycle + 4 * b) true
/-- PREEMPT_GANG (R351, R352, R357). -/
def execPreemptGang (id : Nat) (s : State) : Res :=
  match s.hub.task? id with
  | some t => .next (if s.mustGo id t then s.preempt id else s)
  | none => .next s
/-- SLICE_END (R351): the gang's slice has ended, and a ready task of another context at its priority or above finds no room. -/
def execSliceEnd (id : Nat) (s : State) : Res :=
  match s.hub.task? id with
  | none => .next s
  | some t => match s.hub.launch? t.launch with
    | none => .next s
    | some x =>
      let slice := match s.hub.part? x.part with | some p => p.cfg.slice | none => 0
      let wanted := s.starved.any fun (_, r, y) => y.part == x.part && y.ctx != x.ctx && t.prio x ≤ r.prio y && !s.relieved y.part (y.gang r.stage)
      .next (if t.st == .running && s.started t && t.sliceFrom + 4000 * slice ≤ s.cycle && wanted then s.preempt id else s)

/-! ### Stops and saves (R292, R307, R313, R352) -/

/-- The hard stop of a core is due (R352): at level 0, with no trap waiting for its entry that the stop could not take back. A parked core stops at once. -/
def State.hardDue (s : State) (c : Nat) : Bool :=
  let k := s.core c
  match k.job with
  | some j => j.phase == Phase.running && (match j.due, k.iss.hold with | some _, .parked _ => true | some d, _ => decide (d ≤ s.cycle) | none, _ => false) && k.sys.level == 0 &&
      (match k.iss.trap with | some r => r.kind == TrapKind.precise | none => true)
  | none => false
/-- HARD_STOP (R292, R307, R352): the core rolls back and stops; a parked core stops where it is, with status 5. -/
def execHardStop (c : Nat) (s : State) : Res :=
  if !s.hardDue c then .next s
  else
    let s := s.meter c 15 1
    let s := match (s.core c).iss.hold with
      | .parked _ => s.stopParked c
      | _ => s.modCore c fun k => (if k.iss.ckpt then k.commit else k).rollback
    .next (s.modCore c fun k => { k with
      job := k.job.map fun j => { j with phase := .halted }
      iss := { k.iss with clamp := false, wmWait := none, trap := none, next := none } })
/-- STUCK_HANDLER_KILL (R313, R352): above level 0 8,192 cycles after the hard stop was due. -/
def execStuckHandlerKill (c : Nat) (s : State) : Res :=
  let k := s.core c
  match k.job with
  | some j => (match j.due with
    | some d => if j.phase == .running && k.sys.level != 0 && d + 8192 ≤ s.cycle then .next (s.contextKill c 1 0 0) else .next s
    | none => .next s)
  | none => .next s

/-- A result that need not have arrived before a core is saved: it waits for an engine, the hub or a withheld effect. -/
def VarWrite.keeps (v : VarWrite) : Bool :=
  match v.kind with
  | .engine | .hub | .sync _ _ => true
  | .status | .load | .atomic => v.ready.isNone
  | .division => false
/-- The core has stopped, and its engines have come to their stops (R220, R244, R276, R352). -/
def State.quiet (s : State) (c : Nat) : Bool :=
  let k := s.core c
  (match k.job with | some j => j.phase == Phase.stopped || j.phase == Phase.halted || j.phase == Phase.done | none => false) &&
  k.iss.pend.isEmpty && k.iss.vpend.all VarWrite.keeps && !s.poolBusy c && (s.performHead c).isNone && k.rqFrom ≤ s.cycle && k.rqAt.all (· ≤ s.cycle) &&
  k.eng.all.all (fun m => match m.st with | .ending _ => false | _ => true) &&
  (match k.eng.seq with | some q => (q.st == .yielding || k.eng.frozen.isSome) && k.eng.runs.isEmpty | none => true)
/-- An engine at its stops (R195, R220): steps bind again later and go on at their rows. A stitch's steps have completed by then (R244, R246). -/
def MEng.parked (e : MEng) : MEng :=
  let back (m : MEntry) : MEntry := match m.st with | .bound => { m with st := .waiting } | .running => if m.op.isStep then { m with st := .waiting } else m | _ => m
  { e with q := e.q.map back, runs := [], seq := e.seq.map fun q => { q with sq := q.sq.map back } }
/-- A `waitaddr` that has started its way to the home starts again when its core resumes. -/
def Core.rqParked (k : Core) : Option Nat := match k.rq with | .waitaddr _ _ _ :: _ => none | _ => k.rqAt
/-- What a save keeps of a core (R352, R364): of its vector registers, accumulators and scratchpad what the task declared; no cache. -/
def Core.savedPart (k : Core) (j : Job) : Core :=
  { k with
    eng := k.eng.parked, l1 := [], tlb := [], ptlb := [], count := [], recent := [], icache := [], rqAt := k.rqParked, vec := Bank.over j.vregs k.vec [], acc := Bank.over (16 * j.accs) k.acc []
    accPoison := Bank.over (16 * j.accs) k.accPoison [], scr := Bank.over j.scratch k.scr [] }
/-- One core of a gang saved into its context's save area and freed (R352, R364). Tile instances stay in its cache; those that nothing uses any more are free (R193, R387). -/
def State.saveCore (s : State) (c : Nat) : Option Saved × State :=
  let s := (s.writeBackAll c).flushCounts c
  let k := s.core c
  match k.job with
  | none => (none, s)
  | some j =>
    let index := match s.hub.task? j.task with | some t => t.index | none => 0
    let v : Saved := ⟨k.savedPart j, c, index, s.hub.freeSlot j.ctx, s.fresh⟩
    let pa := s.hub.slotPa j.ctx v.slot
    let bs := saveBytes v
    let s := (({ s with fresh := s.fresh + 1 } : State).mergeRun none pa bs (bs.length + 1)).savePoison v pa
    let s := s.modHub fun h => { h with
      net := h.net.map fun o => if o.core == c && o.task == j.task then { o with away := some j.rank } else o
      cmds := h.cmds.map fun x => if x.core == c && x.away.isNone then { x with away := some (j.task, j.rank) } else x }
    (some v, s.modCore c fun k => { k with
      job := none, wb := [], rq := [], rqAt := none, ws := {}, as_ := {}, ch := [], sched := {}
      iss := { nextId := k.iss.nextId, region := k.iss.region }
      eng := ({ k.eng with q := [], runs := [], seq := none, pins := [], frozen := none, mrp := 0, pfq := [], repl := [], yieldReq := false } : MEng).settle })
/-- The cores of a gang saved in rank order. -/
def State.saveCores (s : State) (id : Nat) : List Nat → State
  | [] => s
  | c :: t =>
    let (v, s) := s.saveCore c
    (s.modTask id fun x => { x with saved := x.saved ++ v.toList }).saveCores id t
/-- The cycles that the save of a gang takes (R352): 256 bytes a cycle for its cluster. -/
def State.saveTime (s : State) (t : Task) : Nat :=
  ceilDiv (t.cores.foldl (fun n c => match (s.core c).job with | some j => n + 4096 + 512 * j.vregs + 8192 * j.accs + j.scratch | none => n) 0) 256
/-- GANG_STATE_SAVE (R352): once every core has stopped, the save of the gang begins; at its end the task is ready again, at the tail of its context. -/
def execGangStateSave (id : Nat) (s : State) : Res :=
  match s.hub.task? id with
  | none => .next s
  | some t =>
    if t.st != .stopping || s.partsDone t || t.cores.isEmpty || !t.cores.all s.quiet then .next s
    else if (match t.saveAt with | some d => decide (s.cycle < d) | none => true) then
      .next (if t.saveAt.isSome then s else s.modTask id fun t => { t with saveAt := some (s.cycle + s.saveTime t) })
    else
      let s := s.saveCores id t.cores
      let s := s.modHub fun h => { h with nextTask := h.nextTask + 1 }
      let s := s.modTask id fun x => { x with st := .ready, cores := [], saveAt := none, since := s.cycle, aged := 0, order := s.hub.nextTask }
      .next ((s.advanceCut t.launch).listUnits)

end Sys2Proof.Machine
end

