-- ==== Sys2Proof/Machine/Partition.lean ====
section
/-! DEFINITION. Partitions and their control rings, meters, watchdogs, capture and reset (R358 to R373, R397 to R399). -/
namespace Sys2Proof.Machine

/-! ### Creation (R329, R358, R359, R402, R403) -/

/-- The image has booted: its five stages have run (R401, R402). -/
def Boot.finished (b : Boot) : Bool := b.stage == 5 && !b.failed
/-- The links have trained too, as they do after stage 5 (R403, R404). -/
def Boot.trained (b : Boot) : Bool := b.finished && b.group == 4
/-- A die in service (R403): its link to the hub and both its stacks trained, and the link within its pair, which counts against the higher-numbered die. -/
def Boot.dieOk (b : Boot) (d : Nat) : Bool :=
  let up (l : Nat) : Bool := b.links.get .down l == .up
  up d && up (6 + 2 * d) && up (7 + 2 * d) && (d % 2 == 0 || up (4 + d / 2))
/-- Frames of HBM (R6, R328). -/
def hbmFrames : Nat := 6291456
/-- A frame that no partition owns, no scrub holds, and retirement has not taken (R328, R375). -/
def Hub.unowned (h : Hub) (f : Nat) : Bool := h.frameOwner.get 0 f == 0 && !h.lost.contains f && !h.scrub.any fun x => x.1 == f
/-- The lowest `n` unowned frames from `f` on, outside a range that is spoken for. -/
def Hub.lowest (h : Hub) (lo hi : Nat) : Nat → Nat → Nat → List Nat
  | 0, _, _ => []
  | _, 0, _ => []
  | fuel + 1, n + 1, f =>
    if h.unowned f && !(lo ≤ f && f < hi) then f :: h.lowest lo hi fuel n (f + 1) else h.lowest lo hi fuel (n + 1) (f + 1)
/-- The partitions that exist. -/
def Hub.partList (h : Hub) : List (Nat × Part) := h.parts.filterMap fun (i, p) => p.map fun x => (i, x)
/-- The frames of a byte range. -/
def framesOf (lo n : Nat) : List Nat := if n = 0 then [] else (List.range ((lo + n - 1) / 65536 + 1 - lo / 65536)).map (· + lo / 65536)
/-- The window's frame range. -/
def winFrames (w : Option (Nat × Nat)) : Nat × Nat := match w with | some (b, n) => (b / 65536, (b + n) / 65536) | none => (0, 0)
/-- The places in its frames that a record names for the hub's own use: control ring, command and completion rings, the supervisor's root and save area. -/
def recordPlaces (r : PartRec) : List (Nat × Nat) :=
  [(r.ctlbase, 4096 + 128), (r.supRoot, 262144), (r.supSave, 2097152 * r.supSlots)] ++
  r.queues.flatMap fun q => [(q.base, 256 * q.size + 64), (q.cbase, 32 * q.csize)]
/-- Ranges that do not meet. -/
def apart (a m b n : Nat) : Bool := a + m ≤ b || b + n ≤ a
/-- The signed configuration names a window (R401). -/
def Boot.names (b : Boot) (w : Window) : Bool := b.windows.any fun x => x.base == w.base && x.size == w.size && x.port == w.port && x.kind == w.kind
/-- The windows of a record keep the limits of R329 and are those that the signed configuration names: R401 lets configuration come from there alone (log entry 104). -/
def Hub.windowsOk (h : Hub) (r : PartRec) : Bool :=
  let all := h.windows ++ r.windows
  all.length ≤ 16 && r.windows.all h.boot.names && (r.exposed.isNone || r.exposed == h.boot.exposed) && r.windows.all (fun w => w.size % 2 ^ 30 == 0 && w.size != 0 && w.port < 4 && isRemote w.base && isRemote (w.base + w.size - 1)) &&
  all.Pairwise (fun a b => apart a.base a.size b.base b.size) &&
  (match r.exposed with
   | none => true
   | some (b, n) => h.exposed.isNone && n ≤ 2 ^ 36 && n % 2 ^ 21 == 0 && b % 2 ^ 21 == 0 && n != 0 && b + n ≤ 65536 * hbmFrames &&
      (framesOf b n).all h.unowned)
/-- The reservations of partition `p`'s record keep R359: entries only on dies where it holds a cluster, none owned twice, 8 of each ring unowned. Entries that the partition owns already are free for it. -/
def Hub.ringsOk (h : Hub) (p : Nat) (r : PartRec) : Bool :=
  let taken (i e : Nat) : Bool := match h.ring.get none (64 * i + e) with | some o => o != p | none => false
  r.ring.length == 8 && (r.ring.zip (List.range 8)).all fun (m, i) =>
    (m == 0 || (List.range 8).any fun k => r.clusters.getLsbD (8 * (i / 2) + k)) &&
    (List.range 64).all (fun e => !m.getLsbD e || !taken i e) &&
    ((List.range 64).filter fun e => m.getLsbD e || taken i e).length ≤ 56
/-- The shares of every path sum to at most 56 (R358). -/
def Hub.sharesOk (h : Hub) (r : PartRec) : Bool :=
  r.share.length == 8 && (List.range 8).all fun i => r.share.getD i 0 + h.partList.foldl (fun n (_, x) => n + x.cfg.share.getD i 0) 0 ≤ 56
/-- The frames that a record names for the hub's own use. -/
def recordNamed (r : PartRec) : List Nat := (recordPlaces r).flatMap fun x => framesOf x.1 x.2
/-- The frames that a record would get. -/
def Hub.framesFor (h : Hub) (r : PartRec) : List Nat := let w := winFrames r.exposed; h.lowest w.1 w.2 hbmFrames r.frames 0
/-- A record breaks no limit (R358, R359, R402, R403): its capture frames are besides those that it names. -/
def Hub.recordOk (h : Hub) (p : Nat) (r : PartRec) : Bool :=
  let ps := h.partList
  let fr := h.framesFor r
  let own (f : Nat) : Bool := fr.contains f || (winFrames r.exposed).1 ≤ f && f < (winFrames r.exposed).2
  h.boot.finished && p < 16 && (h.part? p).isNone && r.clusters != 0 &&
  (List.range 32).all (fun k => !r.clusters.getLsbD k || (h.boot.dieOk (k / 8) && ps.all fun (_, x) => !x.cfg.clusters.getLsbD k)) &&
  h.ringsOk p r && h.sharesOk r && fr.length == r.frames && 1 ≤ r.capbuf && r.capbuf ≤ 256 && r.capbuf ≤ (fr.filter fun f => !(recordNamed r).contains f).length &&
  ps.all (fun (_, x) => apart r.qpFirst r.qpCount x.cfg.qpFirst x.cfg.qpCount) &&
  r.netres + ps.foldl (fun n (_, x) => n + x.cfg.netres) 0 ≤ 8192 && r.ctxmax + ps.foldl (fun n (_, x) => n + x.cfg.ctxmax) 0 ≤ 4096 && 1 ≤ r.ctxmax &&
  1 ≤ r.epi && r.epi ≤ 8192 && 1 ≤ r.budget && r.budget ≤ 65535 && 100 ≤ r.slice && r.slice ≤ 1000000 && r.migthr ≤ 255 &&
  r.ctlbase % 4096 == 0 && r.queues.length ≤ 16 && r.supRoot % 262144 == 0 && r.supSave % 2097152 == 0 && h.windowsOk r &&
  ([(r.ctlbase, 4096 + 128), (r.supRoot, 262144), (r.supSave, 2097152 * r.supSlots)].flatMap fun x => framesOf x.1 x.2).all own
/-- The lowest context identifier that is free. -/
def Hub.newCtx (h : Hub) : Option Nat := (List.range 4096).find? fun c => (h.ctxs.get none c).isNone
/-- A partition's slot-table entries as masks, one for each ring (R11, R358): what it owned before is unowned. -/
def Hub.writeRing (h : Hub) (p : Nat) (ring : List (BitVec 64)) : Bank (Option Nat) :=
  let free : Bank (Option Nat) := h.ring.filter fun x => x.2 != some p
  (ring.zip (List.range 8)).foldl (fun b (m, i) => (List.range 64).foldl (fun b e => if m.getLsbD e then Bank.put none b (64 * i + e) (some p) else b) b) free
/-- No gang of the partition runs (R359). -/
def Hub.gangless (h : Hub) (p : Nat) : Bool :=
  !h.tasks.any fun x => match x.2 with | some t => t.onCores && (match h.launch? t.launch with | some l => l.part == p | none => false) | none => false
/-- The record of an existing partition with nothing but its slot-table entries changed, which the hub may write now (R11, R359). -/
def Hub.reringOk (h : Hub) (p : Nat) (r : PartRec) : Bool :=
  match h.part? p with
  | some x => { r with ring := x.cfg.ring } == x.cfg && h.gangless p && h.ringsOk p r
  | none => false
/-- The head of an empty capture ring (R373). -/
def State.capHead (s : State) (p : Nat) : State :=
  match s.hub.part? p with
  | some x => if x.capFrames.isEmpty then s else s.mergeDirect none (x.capAddr 0) (leList 4 x.capOff ++ leList 4 x.capCount) none false 3
  | none => s
/-- PARTITION_CREATE (R11, R358, R359): refused with nothing changed when the record breaks a limit. The record of an existing partition that differs in its slot-table entries alone reprograms them, unless a gang of the partition runs. -/
def execPartitionCreate (p : Nat) (r : PartRec) (s : State) : Res :=
  let h := s.hub
  if h.reringOk p r then .next ((({ s with hub := { h with ring := h.writeRing p r.ring } } : State).modPart p fun x => { x with cfg := r }).out (.mctl 10 [p]))
  else match h.recordOk p r, h.newCtx with
  | true, some c =>
    let fr := h.framesFor r
    let wf := match r.exposed with | some (b, n) => framesOf b n | none => []
    let rest := fr.filter fun f => !(recordNamed r).contains f
    let q0 : QueueRec := ⟨0, 0, 0, 0, 0, 0⟩
    let x : Part := { cfg := r, queues := (List.range 16).map (fun i => { cfg := r.queues.getD i q0 }), pool := rest.drop r.capbuf, capFrames := rest.take r.capbuf }
    let own := (fr ++ wf).foldl (fun b f => Bank.put 0 b f (p + 1)) h.frameOwner
    let cx : Ctx := { part := p, sup := true, root := r.supRoot, save := r.supSave, slots := r.supSlots }
    .next (((s.modHub fun h => { h with
      parts := h.parts.put none p (some x), frameOwner := own, ring := h.writeRing p r.ring, ctxs := h.ctxs.put none c (some cx)
      windows := h.windows ++ r.windows.map fun w => { w with owner := p }
      exposed := match r.exposed with | some (b, n) => some (b, n, p) | none => h.exposed }).capHead p).out (.mctl 4 [p, c, 1]))
  | _, _ => .next (s.out (.mctl 4 [p, 0, 0]))

/-! ### The control ring (R360, R361) -/

/-- The record that the hub processes next: its address and bytes (R360). -/
def State.ctlNext (s : State) (p : Nat) : Option (Part × Nat × List Byte) :=
  match s.hub.part? p with
  | none => none
  | some x =>
    if x.st != .running || x.ctlStop then none
    else if (s.mem.read64 (x.cfg.ctlbase + 4096)).toNat = x.ctlDone then none
    else
      let a := x.cfg.ctlbase + 64 * (x.ctlDone % 64)
      some (x, a, s.mem.read a 64)
/-- A write index more than 64 ahead (R360). -/
def State.ctlOverrun (s : State) (x : Part) : Bool := 64 < (BitVec.ofNat 64 ((s.mem.read64 (x.cfg.ctlbase + 4096)).toNat + 2 ^ 64 - x.ctlDone)).toNat
/-- A record answered: status and result into the record, then the done index rises (R360). -/
def State.ctlAnswer (s : State) (p a : Nat) (x : Part) (status : Nat) (ctx : Option Nat) : State :=
  let s := s.mergeDirect none (a + 1) (leList 1 status) none false 3
  let s := match ctx with | some c => s.mergeDirect none (a + 4) (leList 2 c) none false 3 | none => s
  let s := s.mergeDirect none (x.cfg.ctlbase + 4096 + 16) (leList 8 (x.ctlDone + 1)) none false 3
  s.modPart p fun x => { x with ctlDone := (x.ctlDone + 1) % 2 ^ 64 }
/-- What an op answers: its status, a new identifier, and the state that it leaves when the status is 0. -/
abbrev CtlDone := Nat × Option Nat × State
/-- One control record with op `op` processed (R360): `f` gives what it does. -/
def State.ctlOp (s : State) (p : Nat) (mine : Nat → Bool) (f : Part → List Byte → CtlDone) : Res :=
  match s.ctlNext p with
  | none => .next s
  | some (x, a, bs) =>
    if s.ctlOverrun x then .next (s.modPart p fun x => { x with ctlStop := true })
    else if !mine (fieldAt bs 0 1) then .next s
    else
      let (st, id, s') := if fieldAt bs 2 2 = 0 then f x bs else (1, none, s)
      .next (if st = 0 then s'.ctlAnswer p a x 0 id else s.ctlAnswer p a x st none)
/-- The context that a record names, when the partition holds it open. -/
def Hub.ctlCtx (h : Hub) (p : Nat) (bs : List Byte) : Option (Nat × Ctx) :=
  let c := fieldAt bs 4 2
  match h.ctx? c with
  | some x => if x.part = p && !x.closed then some (c, x) else none
  | none => none
/-- The context has running or stopped launches (R361). -/
def Hub.ctxLaunches (h : Hub) (c : Nat) : Bool := h.launches.any fun (_, l) => match l with | some l => l.ctx == c && l.st != .ended | none => false
/-- CREATE_CONTEXT (R361, R363, R369): also the answer to a record whose op is none of the six. -/
def execCreateContext (p : Nat) (s : State) : Res :=
  s.ctlOp p (fun op => op < 2 || 6 < op) fun x bs =>
    let root := fieldAt bs 8 8
    let save := fieldAt bs 16 8
    let slots := fieldAt bs 24 2
    if fieldAt bs 0 1 ≠ 1 || root % 262144 != 0 || save % 2097152 != 0 || !s.hub.ownsFrames p root 262144 || (slots != 0 && !s.hub.ownsFrames p save (2097152 * slots)) then (1, none, s)
    else match (if x.cfg.ctxmax ≤ (s.hub.ctxsOf p).length then none else s.hub.newCtx) with
      | none => (2, none, s)
      | some c => (0, some c, s.modHub fun h => { h with ctxs := h.ctxs.put none c (some { part := p, sup := false, root := root, save := save, slots := slots }) })
/-- SET_ROOT (R361). -/
def execSetRoot (p : Nat) (s : State) : Res :=
  s.ctlOp p (· == 2) fun _ bs =>
    let root := fieldAt bs 8 8
    match s.hub.ctlCtx p bs with
    | none => (1, none, s)
    | some (c, _) =>
      if root % 262144 != 0 || !s.hub.ownsFrames p root 262144 then (1, none, s)
      else if s.hub.ctxLaunches c then (3, none, s)
      else (0, none, (s.modHub fun h => h.modCtx c fun y => { y with root := root }).tlbDrop (fun e => e.ctx == c) fun w => w.ctx == c)
/-- BIND_ENDPOINT (R269, R361). -/
def execBindEndpoint (p : Nat) (s : State) : Res :=
  s.ctlOp p (· == 3) fun x bs =>
    let e := fieldAt bs 8 2
    let qp := fieldAt bs 10 2
    match s.hub.ctlCtx p bs with
    | none => (1, none, s)
    | some (c, _) =>
      if 4096 ≤ e || qp < x.cfg.qpFirst || x.cfg.qpFirst + x.cfg.qpCount ≤ qp then (1, none, s)
      else (0, none, s.modHub fun h => h.modCtx c fun y => { y with endpoints := y.endpoints.put none e (some ⟨qp, fieldAt bs 16 8, fieldAt bs 24 8⟩) })
/-- MAKE_GROUP (R270, R361). -/
def execMakeGroup (p : Nat) (s : State) : Res :=
  s.ctlOp p (· == 4) fun _ bs =>
    let g := fieldAt bs 8 2
    let n := fieldAt bs 10 2
    let rank := fieldAt bs 12 2
    match s.hub.ctlCtx p bs with
    | none => (1, none, s)
    | some (c, _) =>
      if 4096 ≤ g || n = 0 || n ≤ rank then (1, none, s)
      else match s.hubRead c (BitVec.ofNat 72 (fieldAt bs 16 8)) (2 * n) with
        | none => (1, none, s)
        | some l =>
          let mem := (List.range n).map fun i => fieldAt l (2 * i) 2
          if mem.any (4096 ≤ ·) then (1, none, s) else (0, none, s.modHub fun h => h.modCtx c fun y => { y with groups := y.groups.put none g (some ⟨rank, mem⟩) })
/-- A list of 8-byte values written at a virtual address of a context, at their homes. -/
def State.hubWrite (s : State) (ctx : Nat) (va : W72) (bs : List Byte) : Option State :=
  match s.translate [] ctx .write true va bs.length (pageFuel bs.length) with
  | .error _ => none
  | .ok segs => some ((segs.foldl (fun (a : List Byte × State) g => (a.1.drop g.n, a.2.mergeRun none g.pa (a.1.take g.n) (g.n + 1))) (bs, s)).2)
/-- TAKE_FRAMES (R361): frames leave the pool, zero and with default descriptors. -/
def execTakeFrames (p : Nat) (s : State) : Res :=
  s.ctlOp p (· == 5) fun x bs =>
    let n := fieldAt bs 8 8
    match s.hub.ctlCtx p bs with
    | none => (1, none, s)
    | some (c, _) =>
      if x.pool.length < n then (2, none, s)
      else
        let fr := x.pool.take n
        if n = 0 then (0, none, s)
        else match s.hubWrite c (BitVec.ofNat 72 (fieldAt bs 16 8)) (fr.flatMap fun f => leList 8 (65536 * f)) with
          | none => (1, none, s)
          | some s => (0, none, s.modPart p fun x => { x with pool := x.pool.drop n })
/-- A frame that supervisor code of the partition has taken: owned, and in none of the hub's own uses. -/
def Hub.takenFrame (h : Hub) (p : Nat) (x : Part) (f : Nat) : Bool :=
  h.frameOwner.get 0 f == p + 1 && !x.pool.contains f && !x.capFrames.contains f && !((recordPlaces x.cfg).any fun y => (framesOf y.1 y.2).contains f) &&
  !(h.launches.any fun (_, l) => match l with | some l => l.part == p && l.frames.contains f | none => false) &&
  !(match h.exposed with | some (b, n, _) => b / 65536 ≤ f && f < (b + n) / 65536 | none => false)
/-- A frame that holds a context's root or save area. -/
def Ctx.uses (c : Ctx) (f : Nat) : Bool := (framesOf c.root 262144).contains f || (framesOf c.save (2097152 * c.slots)).contains f
/-- FREE_FRAMES (R328, R361). -/
def execFreeFrames (p : Nat) (s : State) : Res :=
  s.ctlOp p (· == 6) fun x bs =>
    let n := fieldAt bs 8 8
    match s.hub.ctlCtx p bs with
    | none => (1, none, s)
    | some (c, cx) =>
      if n = 0 then (0, none, s)
      else match s.hubRead c (BitVec.ofNat 72 (fieldAt bs 16 8)) (8 * n) with
        | none => (1, none, s)
        | some l =>
          let pas := (List.range n).map fun i => fieldAt l (8 * i) 8
          let fr := pas.map (· / 65536)
          if pas.any (fun a => a % 65536 != 0) || !fr.all (s.hub.takenFrame p x) || !fr.Nodup then (1, none, s)
          else if s.hub.ctxLaunches c && fr.any cx.uses then (3, none, s)
          else (0, none, fr.foldl (fun s f => s.freeFrame f p) s)

/-! ### Meters (R366 to R369) -/

/-- METER_UPDATE (R366). -/
def execMeterUpdate (s : State) : Res := .next s.updateMeters
/-- One record's energy of the last second scaled (R367). -/
def scaleEnergy (num den : Nat) (h : Hub) (k : Nat × Nat) : Hub :=
  let r := k.1 - 2 ^ 20
  { h with meters := h.meters.put 0 (16 * r + 13) ((h.meters.get 0 (16 * r + 13) + k.2 * num / den + 2 ^ 64 - k.2 % 2 ^ 64) % 2 ^ 64), live := h.live.put 0 k.1 0 }
/-- The second's estimates of all records together (R367), in mJ. -/
def Hub.estimated (h : Hub) : Nat := (h.live.filter fun x => 2 ^ 20 ≤ x.1).foldl (fun n x => n + x.2) 0
/-- The second's estimates scaled so that their sum over all records is the sensors' energy, num / den mJ (R367). -/
def Hub.scaleAll (h : Hub) (num den : Nat) : Hub :=
  if den * h.estimated = 0 then h else (h.live.filter fun x => 2 ^ 20 ≤ x.1).foldl (scaleEnergy num (den * h.estimated)) h
/-- ENERGY_SCALE (R367): the sensors give num / den mJ for the second. -/
def execEnergyScale (num den : Nat) (s : State) : Res := .next (s.modHub fun h => h.scaleAll num den)
/-- The counters of a record. -/
def Hub.counters (h : Hub) (r : Nat) : List Nat := (List.range 16).map fun i => h.meters.get 0 (16 * r + i)
/-- The partition and label of a record (R368). -/
def Hub.recPart (h : Hub) (r : Nat) : Option (Nat × Nat) :=
  let lab (p : Nat) : Option (Nat × Nat) := (h.part? p).map fun x => (p, x.cfg.label.toNat)
  if r < 4096 then (match h.ctx? r with | some c => lab c.part | none => none)
  else if r < hubRec then lab (r - 4096)
  else if r = hubRec then some (0, 0) else none
/-- METER_READING (R368, R369): without an operator session nothing is read. A closed context that has been read is gone. -/
def execMeterReading (r : Nat) (s : State) : Res :=
  match s.hub.boot.session, s.hub.recPart r with
  | true, some (p, l) =>
    let s := s.out (.meter r p l s.hub.updates (s.hub.counters r))
    match s.hub.ctx? r with
    | some c => if c.closed then .next (s.modHub fun h => { h with
        ctxs := h.ctxs.put none r none
        meters := h.meters.filter fun x => x.1 / 16 != r
        live := h.live.filter fun x => (2 ^ 20 ≤ x.1 || x.1 / 16 != r) && x.1 != secondKey r }) else .next s
    | none => .next s
  | _, _ => .next s

/-! ### Capture and reset (R370 to R373, R398, R399) -/

/-- The cores of a partition, lowest first. -/
def Part.cores (x : Part) : List Nat := ((List.range 32).filter fun k => x.cfg.clusters.getLsbD k).flatMap fun k => (List.range 8).map (· + 8 * k)
/-- The freeze (R372, step 1): no core of the partition issues from here on. -/
def State.beginCapture (s : State) (p trigger : Nat) : State :=
  match s.hub.part? p with
  | none => s
  | some x =>
    if x.st != .running then s
    else
      let s := x.cores.foldl (fun s c => s.modCore c fun k => { k with job := k.job.map fun j => { j with phase := .frozen } }) s
      s.modPart p fun x => { x with st := .capturing, trigger := trigger, frozenAt := s.cycle, frozenUpd := s.hub.updates, frozenQueues := x.queues, queues := x.queues.map fun q => { q with timer := none } }
/-- WATCHDOG_EXPIRY (R370, R371). -/
def execWatchdogExpiry (p q : Nat) (s : State) : Res :=
  match s.hub.queue? p q with
  | some (_, y) => .next (if s.timerDue p q y then s.beginCapture p q else s)
  | none => .next s
/-- OPERATOR_CAPTURE_REQUEST (R371). -/
def execOperatorCaptureRequest (p : Nat) (s : State) : Res := .next (s.beginCapture p 0xFF)

/-- A core's entry in the dump (R373, R398). -/
def State.coreEntry (s : State) (c : Nat) : List Byte :=
  let k := s.core c
  match k.job with
  | none => leList 2 c ++ leList 2 0xFFFF ++ List.replicate 252 0
  | some j =>
    let b (x : TrapBank) : List Byte := leList 8 x.cause.toNat ++ leList 8 x.tret.toNat ++ leList 8 x.taddr.toNat
    leList 2 c ++ leList 2 j.ctx ++ leList 4 k.tlvl.toNat ++ leList 8 k.iss.pc.toNat ++ leList 8 k.iss.regionStart.toNat ++ b k.sys.bank1 ++ b k.sys.bank2 ++
    leList 8 k.regs.ckcfg.toNat ++ leList 8 k.eng.mrp.toNat ++ leList 8 k.eng.statEngine.toNat ++ (List.range 16).flatMap (fun i => leList 8 (k.chan i).status.toNat) ++
    leList 8 k.regs.lsave.toNat ++ leList 8 (match s.hub.task? j.task with | some t => t.index | none => 0) ++ List.replicate 16 0
/-- A queue's entry of the queue table (R336). -/
def Queue.bytes (q : Queue) : List Byte :=
  leList 8 q.cfg.base ++ leList 4 q.cfg.size ++ leList 4 q.rd.toNat ++ leList 4 q.wr.toNat ++ leList 1 q.state ++ leList 1 q.err ++ leList 2 q.cfg.ep ++
  leList 8 q.cfg.cbase ++ leList 4 q.cfg.csize ++ leList 4 q.cwr.toNat ++ leList 8 q.cfg.chost ++ List.replicate 16 0
/-- The dump record (R398). -/
def State.dump (s : State) (p : Nat) (x : Part) : List Byte :=
  let n := x.cores.length
  leList 2 2 ++ leList 2 (min (4 + 64 + 256 * n + 1024) 0xFFFF) ++ leList 1 x.trigger ++ leList 1 p ++ leList 2 0 ++ leList 8 x.frozenUpd ++
  leList 8 (x.frozenAt / 4000) ++ leList 4 n ++ List.replicate 40 0 ++ x.cores.flatMap s.coreEntry ++ x.frozenQueues.flatMap Queue.bytes
/-- The cycles that the capture engine takes for a record (R397): 96 for each block of the buffer that it writes. DESIGN CHOICE: R397 bounds a request's wait by 64 cycles and names no time; with this one the dump of R399 takes the 1.2 µs that its table shows (log entry 124). -/
def dumpTime (off n : Nat) : Nat := 96 * ((off + n - 1) / 64 + 1 - off / 64)
/-- CAPTURE_DUMP_COMPLETE (R371, R372, steps 2 and 3): the dump stands in the buffer; what the cores had not performed is abandoned. -/
def execCaptureDumpComplete (p : Nat) (s : State) : Res :=
  match s.hub.part? p with
  | none => .next s
  | some x =>
    if x.st != .capturing || s.cycle < x.frozenAt + dumpTime x.capOff (s.dump p x).length then .next s
    else
      let s := s.capture p (s.dump p x)
      let s := x.cores.foldl State.abandon s
      .next (s.modPart p fun x => { x with st := .resetting, drainBy := some (s.cycle + 40000000) })
/-- A remote access or collective sent by a launch of the partition, still without an answer or its end. -/
def Hub.netOwed (h : Hub) (p : Nat) (o : NetOp) : Bool := o.open_ && match h.launch? o.launch with | some l => l.part == p | none => false
/-- CAPTURE_DRAIN_TIMEOUT (R275, R372, step 3). -/
def execCaptureDrainTimeout (p : Nat) (s : State) : Res :=
  match s.hub.part? p with
  | none => .next s
  | some x =>
    match x.st, x.drainBy with
    | .resetting, some t =>
      if s.cycle < t then .next s
      else
        let owed := s.hub.net.filter (s.hub.netOwed p)
        let s := (owed.filter fun o => match o.coll with | some x => !x.failed | none => true).foldl (fun s o => s.launchFailure o.launch) s
        .next ((s.modHub fun h => { h with net := h.net.filter fun o => !owed.contains o }).modPart p fun x => { x with drainBy := none })
    | _, _ => .next s
/-- A core after the reset of its partition (R372, step 4). -/
def Core.cleared (k : Core) : Core :=
  { lastCtx := none, l1 := k.l1, tlb := k.tlb, ptlb := k.ptlb, count := k.count
    iss := { nextId := k.iss.nextId, region := k.iss.region }, recent := k.recent, icache := k.icache, eng := { dead := k.eng.dead, nextId := k.eng.nextId, bank0 := k.eng.bank0 } }
/-- One core of a partition reset: its dirty bytes go home first. -/
def State.resetCore (s : State) (p c : Nat) : State :=
  let s := ((s.writeBackAll c).flushCounts c).modHub fun h => { (h.note (idleRec p) 0 1024) with
    cmds := h.cmds.map fun x => if x.core == c && x.away.isNone then { x with away := some (0, 0) } else x }
  let s : State := { s with mem := { s.mem with mons := s.mem.mons.filter fun m => m.core != c, msgs := s.mem.msgs.filter fun m => m.core != c } }
  s.modCore c Core.cleared
/-- An unfinished launch of a partition that is reset (R372, step 4). -/
def State.resetLaunch (s : State) (p trigger l : Nat) (x : Launch) : State :=
  let lost := (s.hub.net.filter fun o => o.launch == l && o.owes).length
  let ntask := x.stages.foldl (fun n y => n + y.ended) 0
  let s := s.post p x.queue (completion x.tag x.seq 6 trigger (x.nfail + lost) ntask (x.time s.cycle) 0xFFFFFFFF)
  x.frames.foldl (fun s f => s.freeFrame f p) s
/-- A cluster loses its power: its cores run nothing (R349, R407). -/
def State.powerOff (s : State) (cl : Nat) : State :=
  if s.busyCores cl != 0 then s
  else (((List.range 8).map (· + 8 * cl)).foldl State.gateCore s).modCluster cl fun x => { x with awake := false, waking := none }
/-- A shutdown ends when no partition is captured or reset any more (R407): every compute die loses its power, and the management controller is told the cause. -/
def State.endShutdown (s : State) : State :=
  match s.hub.boot.closing with
  | none => s
  | some cause =>
    if s.hub.partList.any fun x => x.2.st == .capturing || x.2.st == .resetting then s
    else (((List.range 32).foldl State.powerOff s).modHub fun h => { h with boot := { h.boot with off := true, closing := none } }).out (.mctl 9 [cause])
/-- PARTITION_RESET (R345, R371, R372, steps 4 and 5): once nothing sent is left unanswered and what had begun to perform is done, the clearing runs, and at its end, 1,024 cycles later, the partition is halted. The last one of a shutdown ends that (R407). -/
def execPartitionReset (p : Nat) (s : State) : Res :=
  match s.hub.part? p with
  | none => .next s
  | some x =>
    if x.st != .resetting || s.hub.net.any (s.hub.netOwed p) || x.cores.any (fun c => !(s.core c).rq.isEmpty) then .next s
    else match x.resetBy with
    | none => .next (s.modPart p fun x => { x with resetBy := some (s.cycle + 1024) })
    | some d => if s.cycle < d then .next s else
      let ls := s.hub.launches.filterMap fun (i, l) => match l with | some l => if l.part == p then some (i, l) else none | none => none
      let s := x.cores.foldl (fun s c => s.resetCore p c) s
      let s := ls.foldl (fun s y => s.resetLaunch p x.trigger y.1 y.2) s
      let gone (l : Nat) : Bool := ls.any fun y => y.1 == l
      let s := s.modHub fun h => { h with
        launches := h.launches.filter fun y => !gone y.1
        net := h.net.filter fun o => !gone o.launch
        tasks := h.tasks.filter fun (_, t) => match t with | some t => !gone t.launch | none => false }
      let cs := s.hub.ctxsOf p
      let s := s.tlbDrop (fun e => cs.contains e.ctx) fun w => cs.contains w.ctx
      .next ((s.modPart p fun x => { x with st := .halted, drainBy := none, resetBy := none, queues := x.queues.map fun q => { q with state := 0, err := 0, timer := none } }).out (.mctl 5 [p])).endShutdown
/-- A control ring that an overrun stopped is reset: its done index, here and in its beacon, is the write index (R360). -/
def State.ctlReset (s : State) (p : Nat) (x : Part) : State :=
  let w := (s.mem.read64 (x.cfg.ctlbase + 4096)).toNat
  (s.mergeDirect none (x.cfg.ctlbase + 4096 + 16) (leList 8 w) none false 3).modPart p fun x => { x with ctlStop := false, ctlDone := w }
/-- PARTITION_ENABLE (R371), which resets a stopped control ring (R360). -/
def execPartitionEnable (p : Nat) (s : State) : Res :=
  match s.hub.part? p with
  | none => .next s
  | some x =>
    if x.st != .halted then .next s
    else .next ((if x.ctlStop then s.ctlReset p x else s).modPart p fun x => { x with st := .running })
/-- QUEUE_RECOVER (R338): the management controller sets rd and wr equal and the queue's state to 1; the hub checks it. -/
def execQueueRecover (p q : Nat) (idx : BitVec 32) (s : State) : Res :=
  match s.hub.queue? p q with
  | none => .next s
  | some (_, y) =>
    if y.state == 1 then .next s
    else
      let s := s.modQueue p q fun y => { y with rd := idx, wr := idx, state := 1, err := 0 }
      match s.hub.queueErr p { y with rd := idx, wr := idx } idx with
      | 0 => .next s
      | e => .next (s.queueFail p q { y with rd := idx } e)

end Sys2Proof.Machine
end

