-- ==== Sys2Proof/Machine/Boot.lean ====
section
/-! DEFINITION. Bring-up and power: the signed stages, attestation, link training, staged supplies, capping, shutdown, and the module's reset (R11, R122, R345, R375, R401 to R407). -/
namespace Sys2Proof.Machine

/-- The boot record changed. -/
def State.modBoot (s : State) (f : Boot → Boot) : State := s.modHub fun h => { h with boot := f h.boot }

/-! ### Stages and attestation (R401, R402) -/

/-- Arrays of core `c` that are retired. -/
def retiredArrays (l : List ErrLoc) : List (Nat × Nat) := l.filterMap fun e => match e with | .array c a => some (c, a) | _ => none
/-- What a stage does when it runs (R401): the hub reads the signed configuration at stage 3, with the health record that goes with it (R375), and stage 4 puts the vendor's image into bank 0 of every core (R222). -/
def State.runStage (s : State) (stage : Nat) (cfg : BootCfg) : State :=
  match stage with
  | 3 =>
    let x := s.hub.boot.health
    let s := s.modHub fun h => { h with retired := x.retired, noSpare := x.noSpare, lost := x.lost, boot := { h.boot with windows := cfg.windows, exposed := cfg.exposed, health := {} } }
    (retiredArrays x.retired).foldl (fun s y => s.modEng y.1 fun e => { e with dead := e.dead ++ [y.2] }) s
  | 4 => (List.range 256).foldl (fun s c => s.modEng c fun e => { e with bank0 := true }) s
  | _ => s
/-- BOOT_STAGE_VERIFY (R401, R402): the next stage runs when its signature verifies, and its digest enters the measurement block of its index; else boot stops. `sig` is what the signed configuration says, none where the signature does not verify. -/
def execBootStageVerify (digest : BitVec 384) (sig : Option BootCfg) (s : State) : Res :=
  let b := s.hub.boot
  if b.failed || 5 ≤ b.stage then .next s
  else match sig with
    | some cfg => .next ((s.modBoot fun b => { b with stage := b.stage + 1, digests := b.digests.put 0 (b.stage + 1) digest }).runStage (b.stage + 1) cfg)
    | none => .next ((s.modBoot fun b => { b with failed := true }).out (.mctl 6 [b.stage + 1]))
/-- GET_VERSION (R402): SPDM 1.2. -/
def execGetVersion (s : State) : Res := .next (s.out (.mgmt [0x12]))
/-- GET_CAPABILITIES (R402). -/
def execGetCapabilities (s : State) : Res := .next (s.out (.mgmt Config.capabilities))
/-- GET_CERTIFICATE (R402). -/
def execGetCertificate (s : State) : Res := .next (s.out (.mgmt Config.certificate))
/-- The five measurement blocks; those of stages that did not run are zero (R402). -/
def Boot.blocks (b : Boot) : List Byte := (List.range 5).flatMap fun i => leList 48 (b.digests.get 0 (i + 1)).toNat
/-- GET_MEASUREMENTS (R402): signed once the module has finished booting. -/
def execGetMeasurements (s : State) : Res :=
  let b := s.hub.boot
  if b.finished then .next ((s.modBoot fun b => { b with attested := true }).out (.mgmt (b.blocks ++ Config.measurementSignature b.blocks)))
  else .next (s.out (.mgmt b.blocks))
/-- KEY_EXCHANGE (R368, R402): the operator session, after the attestation. -/
def execKeyExchange (s : State) : Res := .next (if s.hub.boot.finished && s.hub.boot.attested then s.modBoot fun b => { b with session := true } else s)

/-! ### Links (R122, R403) -/

/-- The links of a training group: first and count (R403). -/
def linkGroup (g : Nat) : Nat × Nat := match g with | 0 => (0, 6) | 1 => (6, 8) | 2 => (14, 4) | _ => (18, 8)
/-- A link's result as a number, for the report. -/
def linkCode : LinkState → Nat | .down => 0 | .degraded => 1 | .up => 2
/-- The state of a link by its training's result (R403): a CXL port below ×16 or 64 GT/s is degraded, and below ×4 or 32 GT/s down; any other link must reach its target. -/
def linkState (link : Nat) (r : LinkResult) : LinkState :=
  match r with
  | .fail => .down
  | .full => .up
  | .port w g => if link < 14 || 18 ≤ link || w < 4 || g < 32 then .down else if w < 16 || g < 64 then .degraded else .up
/-- LINK_TRAINING (R403): the next group finishes; a link with no result is down. After the last group the supplies may come up (R404). -/
def execLinkTraining (results : List LinkResult) (s : State) : Res :=
  let b := s.hub.boot
  if b.failed || b.stage != 5 || 4 ≤ b.group then .next s
  else
    let (lo, n) := linkGroup b.group
    let st (i : Nat) : LinkState := linkState (lo + i) (results.getD i .fail)
    let links := (List.range n).foldl (fun l i => Bank.put LinkState.down l (lo + i) (st i)) b.links
    .next ((s.modBoot fun b => { b with links := links, group := b.group + 1, upAt := s.cycle }).out (.mctl 7 (b.group :: (List.range n).map fun i => linkCode (st i))))
/-- LINK_RETRY_UP (R403): a port that trains later, once its group has been through training. -/
def execLinkRetryUp (link : Nat) (r : LinkResult) (s : State) : Res :=
  let st := linkState link r
  if s.hub.boot.group < (if link < 18 then 3 else 4) || link < 14 || 26 ≤ link || st == .down then .next s
  else .next ((s.modBoot fun b => { b with links := b.links.put .down link st }).out (.mctl 8 [link, linkCode st]))
/-- LINK_DOWN (R122). -/
def execLinkDown (link : Nat) (s : State) : Res := .next ((s.modBoot fun b => { b with links := b.links.put .down link .down }).out (.mctl 8 [link, 0]))

/-! ### Power (R404 to R407) -/

/-- STAGED_POWER_UP (R404): the next die's supply, 100 µs after the last. -/
def execStagedPowerUp (s : State) : Res :=
  let b := s.hub.boot
  .next (if b.trained && b.diesUp < 4 && b.upAt ≤ s.cycle && !b.off then s.modBoot fun b => { b with diesUp := b.diesUp + 1, upAt := s.cycle + 400000 } else s)
/-- A cluster's throttle for the next microsecond from its estimated draw, in units of 2^−20 W (R405, R407): on a hot die both thresholds fall with the budget. -/
def ClusterSt.cap (x : ClusterSt) (w : Nat) : ClusterSt :=
  let top := (if x.hot then 50 else 70) * 2 ^ 20
  { x with
    throttle := if top < w then min 8 (x.throttle + 1) else if 10 * w < 9 * top then x.throttle - 1 else x.throttle
    holdSteps := x.throttle == 8 && top < w }
/-- The estimated draw of a cluster over the last microsecond, in units of 2^−20 W (R405): its cores' counts weighted with the metering coefficients, which are in mJ per 2^20 events (R367). -/
def State.draw (s : State) (cl : Nat) : Nat :=
  1000 * (s.cores.filter fun x => clusterOf x.1 == cl).foldl (fun n x => x.2.recent.foldl (fun n y => n + y.2 * Config.energyCoeff y.1) n) 0
/-- A cluster's throttle set for the next microsecond from its estimated draw, and its counts begin anew (R405). -/
def State.powerTick (s : State) (cl : Nat) : State :=
  let t := s.modCluster cl fun x => x.cap (s.draw cl)
  { t with cores := t.cores.map fun x => (x.1, if clusterOf x.1 == cl then { x.2 with recent := [] } else x.2) }
/-- POWER_MANAGER_TICK (R405): of one cluster. -/
def execPowerManagerTick (cl : Nat) (s : State) : Res := .next (s.powerTick cl)
/-- THERMAL_CAP (R407). -/
def execThermalCap (die : Nat) (hot : Bool) (s : State) : Res :=
  .next ((List.range 8).foldl (fun s k => s.modCluster (8 * die + k) fun x => { x with hot := hot }) s)
/-- SHUTDOWN (R372, R407): every running partition is captured; when the last has been, the compute dies lose their power and the management controller is told the cause: a die temperature of 105 °C, or, where the sensors say so, a coolant flow that is too low. -/
def execShutdown (s : State) : Res :=
  let s := s.hub.partList.foldl (fun s (p, _) => s.beginCapture p 0xFF) s
  .next (s.modBoot fun b => { b with closing := some (if Config.flowLow s.cycle then 1 else 0) }).endShutdown

/-! ### Reset (R11, R345, R375, R401) -/

/-- The health record as it stands (R375): before stage 3 has been read, what the controller still keeps. -/
def Hub.healthNow (h : Hub) : Health := if h.boot.stage < 3 then h.boot.health else ⟨h.retired, h.noSpare, h.lost⟩
/-- MODULE_RESET (R11, R13, R345, R375, R401): the module as it is after reset; the controller keeps the health record, and what has left the module has left. -/
def execModuleReset (s : State) : Res :=
  .next { State.reset with outbox := s.outbox, fresh := s.fresh, agenda := s.agenda, hub := { State.reset.hub with boot := { State.reset.hub.boot with health := s.hub.healthNow } } }

end Sys2Proof.Machine
end

