-- ==== Sys2Proof/Machine/Scalar.lean ====
section
/-! DEFINITION. The scalar class: integer arithmetic, divisions, immediates, compares and guards, address registers, special registers and branches (R124 to R143). -/
namespace Sys2Proof.Machine

/-! ### Shared forms -/

/-- A scalar result with latency 1 (R125, R127). -/
def State.scalar (s : State) (d : BitVec 6) (v : W64) : Res := .next (s.emit 1 (.s d.toNat v))
/-- Format SR: s[d] from s[a] and s[b] (R127). -/
def State.opSR (s : State) (f : SR) (g : W64 → W64 → W64) : Res := s.scalar f.d (g (s.me.regs.rs f.a.toNat) (s.me.regs.rs f.b.toNat))
/-- Format SR of a multiply, with latency 3 (R125, R127). -/
def State.opMul (s : State) (f : SR) (g : W64 → W64 → W64) : Res :=
  .next (s.emit 3 (.s f.d.toNat (g (s.me.regs.rs f.a.toNat) (s.me.regs.rs f.b.toNat))))
/-- Format SI: s[d] from s[a] and the sign-extended immediate (R128). -/
def State.opSI (s : State) (f : SI) (g : W64 → W64 → W64) : Res := s.scalar f.d (g (s.me.regs.rs f.a.toNat) (imm64 f.imm))
/-- A guard result with latency 1 (R132). -/
def State.guardRes (s : State) (d : BitVec 6) (b : Bool) : Res := .next (s.emit 1 (.g d.toNat b))
/-- A compare of format SR (R132). -/
def State.cmpSR (s : State) (f : SR) (g : W64 → W64 → Bool) : Res := s.guardRes f.d (g (s.me.regs.rs f.a.toNat) (s.me.regs.rs f.b.toNat))
/-- A compare of format SI (R132). -/
def State.cmpSI (s : State) (f : SI) (g : W64 → W64 → Bool) : Res := s.guardRes f.d (g (s.me.regs.rs f.a.toNat) (imm64 f.imm))
/-- A combination of two guards (R133). -/
def State.opG (s : State) (f : SR) (g : Bool → Bool → Bool) : Res := s.guardRes f.d (g (s.me.regs.rg f.a.toNat) (s.me.regs.rg f.b.toNat))
/-- An address result with latency 1 (R134). -/
def State.addrRes (s : State) (d : BitVec 6) (v : W72) : Res := .next (s.emit 1 (.a d.toNat v))

/-- `nop` in any slot (R56, R58): nothing. -/
def execNop (s : State) : Res := .next s

/-! ### Integer arithmetic (R127) -/

/-- `add` (R127). -/
def execAdd (f : SR) (s : State) : Res := s.opSR f (· + ·)
/-- `sub` (R127). -/
def execSub (f : SR) (s : State) : Res := s.opSR f (· - ·)
/-- `and` (R127). -/
def execAnd (f : SR) (s : State) : Res := s.opSR f (· &&& ·)
/-- `or` (R127). -/
def execOr (f : SR) (s : State) : Res := s.opSR f (· ||| ·)
/-- `xor` (R127). -/
def execXor (f : SR) (s : State) : Res := s.opSR f (· ^^^ ·)
/-- `andn` (R127). -/
def execAndn (f : SR) (s : State) : Res := s.opSR f fun a b => a &&& ~~~b
/-- `shl` (R127): count b[5:0]. -/
def execShl (f : SR) (s : State) : Res := s.opSR f fun a b => a <<< (b.toNat % 64)
/-- `shr` (R127). -/
def execShr (f : SR) (s : State) : Res := s.opSR f fun a b => a >>> (b.toNat % 64)
/-- `sar` (R127). -/
def execSar (f : SR) (s : State) : Res := s.opSR f fun a b => a.sshiftRight (b.toNat % 64)
/-- `rotl` (R127). -/
def execRotl (f : SR) (s : State) : Res := s.opSR f fun a b => a.rotateLeft (b.toNat % 64)
/-- `min.i64` (R127). -/
def execMinI64 (f : SR) (s : State) : Res := s.opSR f fun a b => if ltI b a then b else a
/-- `max.i64` (R127). -/
def execMaxI64 (f : SR) (s : State) : Res := s.opSR f fun a b => if ltI a b then b else a
/-- `min.n64` (R127). -/
def execMinN64 (f : SR) (s : State) : Res := s.opSR f fun a b => if ltN b a then b else a
/-- `max.n64` (R127). -/
def execMaxN64 (f : SR) (s : State) : Res := s.opSR f fun a b => if ltN a b then b else a
/-- `mul` (R127). -/
def execMul (f : SR) (s : State) : Res := s.opMul f (· * ·)
/-- `mulh.i64` (R127). -/
def execMulhI64 (f : SR) (s : State) : Res := s.opMul f fun a b => BitVec.ofInt 64 (a.toInt * b.toInt / 2 ^ 64)
/-- `mulh.n64` (R127). -/
def execMulhN64 (f : SR) (s : State) : Res := s.opMul f fun a b => BitVec.ofNat 64 (a.toNat * b.toNat / 2 ^ 64)

/-! ### Division (R129, R130) -/

/-- The low w bits of a division's result in its register form (R129). -/
def divExtend (sgn : Bool) (w : Nat) (x : Nat) : W64 :=
  if w = 32 then (if sgn then (BitVec.ofNat 32 x).signExtend 64 else (BitVec.ofNat 32 x).setWidth 64) else BitVec.ofNat 64 x

/-- Quotient and remainder as w-bit values (R129). -/
def divide (sgn : Bool) (w : Nat) (a b : W64) : Nat × Nat :=
  let ua := a.toNat % 2 ^ w
  let ub := b.toNat % 2 ^ w
  if ub = 0 then (2 ^ w - 1, ua)
  else if sgn then
    let x : Int := (BitVec.ofNat w ua).toInt
    let y : Int := (BitVec.ofNat w ub).toInt
    if x = -(2 ^ (w - 1) : Int) ∧ y = -1 then (2 ^ (w - 1), 0)
    else (intBits w (x.tdiv y), intBits w (x.tmod y))
  else (ua / ub, ua % ub)

/-- A division by zero that traps: dze set and dzo clear (R129, R301). -/
def divTraps (w : Nat) (b : W64) (ckcfg : BitVec 3) : Bool := b.toNat % 2 ^ w == 0 && ckcfg.getLsbD 1 && !ckcfg.getLsbD 2
/-- The check of a division at issue (R129, R309 code 0x04). -/
def State.divFault (s : State) (w : Nat) (f : SR) : Option Cause :=
  if divTraps w (s.me.regs.rs f.b.toNat) s.me.regs.ckcfg then some (cause0 0x04 1) else none

/-- The divisor is zero at the width. -/
def zeroDivisor (w : Nat) (b : W64) : Bool := b.toNat % 2 ^ w == 0
/-- The cycles of a division: 2 at a zero divisor, else the least of R130's ranges (log entry 17). -/
def divTime (zero : Bool) : Nat := if zero then 2 else 6
/-- A division issued: its result is pending for 2 cycles at a zero divisor, else for the least of its range (R129, R130). A division that dzo covers clears dzo (R301). -/
def State.division (s : State) (sgn : Bool) (w : Nat) (f : SR) (rem : Bool) : State :=
  let r := s.me.regs
  let a := r.rs f.a.toNat
  let b := r.rs f.b.toNat
  let (q, m) := divide sgn w a b
  let zero := zeroDivisor w b
  let s := s.modMe fun c => (c.addVar .division [.s f.d.toNat] [.s f.d.toNat (divExtend sgn w (if rem then m else q))]
    (some (s.cycle + divTime zero)) false none).2
  if zero && r.ckcfg.getLsbD 1 && r.ckcfg.getLsbD 2 then s.emit 1 (.sys 0x000 ((r.ckcfg &&& 0b011).setWidth 64)) else s

/-- Any division (R129). -/
def State.opDiv (s : State) (sgn : Bool) (w : Nat) (f : SR) (rem : Bool) : Res := s.checked (s.divFault w f) (s.division sgn w f rem)

/-- `div.i32` (R129). -/
def execDivI32 (f : SR) (s : State) : Res := s.opDiv true 32 f false
/-- `div.n32` (R129). -/
def execDivN32 (f : SR) (s : State) : Res := s.opDiv false 32 f false
/-- `div.i64` (R129). -/
def execDivI64 (f : SR) (s : State) : Res := s.opDiv true 64 f false
/-- `div.n64` (R129). -/
def execDivN64 (f : SR) (s : State) : Res := s.opDiv false 64 f false
/-- `rem.i32` (R129). -/
def execRemI32 (f : SR) (s : State) : Res := s.opDiv true 32 f true
/-- `rem.n32` (R129). -/
def execRemN32 (f : SR) (s : State) : Res := s.opDiv false 32 f true
/-- `rem.i64` (R129). -/
def execRemI64 (f : SR) (s : State) : Res := s.opDiv true 64 f true
/-- `rem.n64` (R129). -/
def execRemN64 (f : SR) (s : State) : Res := s.opDiv false 64 f true

/-- DIVISION_COMPLETE: the divider's result is written once its cycles have run (R130). -/
def execDivisionComplete (c : Nat) (s : State) : Res :=
  match (s.core c).iss.vpend.find? fun v => v.kind == .division with
  | some v => .next (if v.ready.all (· ≤ s.cycle) then s.modCore c fun k => k.finishVar s.cycle v.id else s)
  | none => .next s

/-! ### Immediate forms (R128, R131) -/

/-- `addi` (R128). -/
def execAddi (f : SI) (s : State) : Res := s.opSI f (· + ·)
/-- `andi` (R128). -/
def execAndi (f : SI) (s : State) : Res := s.opSI f (· &&& ·)
/-- `ori` (R128). -/
def execOri (f : SI) (s : State) : Res := s.opSI f (· ||| ·)
/-- `xori` (R128). -/
def execXori (f : SI) (s : State) : Res := s.opSI f (· ^^^ ·)
/-- `shli` (R128). -/
def execShli (f : SI) (s : State) : Res := s.opSI f fun a b => a <<< (b.toNat % 64)
/-- `shri` (R128). -/
def execShri (f : SI) (s : State) : Res := s.opSI f fun a b => a >>> (b.toNat % 64)
/-- `sari` (R128). -/
def execSari (f : SI) (s : State) : Res := s.opSI f fun a b => a.sshiftRight (b.toNat % 64)
/-- `muli` (R128), with the latency of a multiply (R125). -/
def execMuli (f : SI) (s : State) : Res := .next (s.emit 3 (.s f.d.toNat (s.me.regs.rs f.a.toNat * imm64 f.imm)))
/-- `mini.i64` (R128). -/
def execMiniI64 (f : SI) (s : State) : Res := s.opSI f fun a b => if ltI b a then b else a
/-- `maxi.i64` (R128). -/
def execMaxiI64 (f : SI) (s : State) : Res := s.opSI f fun a b => if ltI a b then b else a
/-- The low `n` bits of `a`, n from 1 to 64, with bit n − 1 copied above (R128). -/
def sextBits (n : Nat) (a : W64) : W64 := (a <<< (64 - n)).sshiftRight (64 - n)
/-- The low `n` bits of `a` with zeros above (R128). -/
def zextBits (n : Nat) (a : W64) : W64 := (a <<< (64 - n)) >>> (64 - n)
/-- `sexti` (R128). -/
def execSexti (f : SI) (s : State) : Res := s.opSI f fun a b => sextBits b.toNat a
/-- `zexti` (R128). -/
def execZexti (f : SI) (s : State) : Res := s.opSI f fun a b => zextBits b.toNat a
/-- `li` (R131). -/
def execLi (f : SW) (s : State) : Res := s.scalar f.d (imm64 f.imm)
/-- `lih` (R131). -/
def execLih (f : SW) (s : State) : Res := s.scalar f.d (f.imm.extractLsb' 0 19 ++ (s.me.regs.rs f.d.toNat).extractLsb' 0 45)
/-- `ali` (R131). -/
def execAli (f : SW) (s : State) : Res := s.addrRes f.d (imm72 f.imm)
/-- `alih` (R131). -/
def execAlih (f : SW) (s : State) : Res := s.addrRes f.d (f.imm.extractLsb' 0 27 ++ (s.me.regs.ra f.d.toNat).extractLsb' 0 45)

/-! ### Compares and guards (R132, R133) -/

/-- `ceq` (R132). -/
def execCeq (f : SR) (s : State) : Res := s.cmpSR f (· == ·)
/-- `cne` (R132). -/
def execCne (f : SR) (s : State) : Res := s.cmpSR f (· != ·)
/-- `clt.i64` (R132). -/
def execCltI64 (f : SR) (s : State) : Res := s.cmpSR f ltI
/-- `clt.n64` (R132). -/
def execCltN64 (f : SR) (s : State) : Res := s.cmpSR f ltN
/-- `cle.i64` (R132). -/
def execCleI64 (f : SR) (s : State) : Res := s.cmpSR f leI
/-- `cle.n64` (R132). -/
def execCleN64 (f : SR) (s : State) : Res := s.cmpSR f leN
/-- `ctst` (R132). -/
def execCtst (f : SR) (s : State) : Res := s.cmpSR f fun a b => a &&& b != 0
/-- `cnz` (R132). -/
def execCnz (f : SR) (s : State) : Res := s.guardRes f.d (s.me.regs.rs f.a.toNat != 0)
/-- `ceqi` (R132). -/
def execCeqi (f : SI) (s : State) : Res := s.cmpSI f (· == ·)
/-- `cnei` (R132). -/
def execCnei (f : SI) (s : State) : Res := s.cmpSI f (· != ·)
/-- `clti.i64` (R132). -/
def execCltiI64 (f : SI) (s : State) : Res := s.cmpSI f ltI
/-- `clti.n64` (R132). -/
def execCltiN64 (f : SI) (s : State) : Res := s.cmpSI f ltN
/-- `clei.i64` (R132). -/
def execCleiI64 (f : SI) (s : State) : Res := s.cmpSI f leI
/-- `clei.n64` (R132). -/
def execCleiN64 (f : SI) (s : State) : Res := s.cmpSI f leN
/-- `ctsb` (R132). -/
def execCtsb (f : SI) (s : State) : Res := s.guardRes f.d ((s.me.regs.rs f.a.toNat).getLsbD f.imm.toNat)
/-- `gand` (R133). -/
def execGand (f : SR) (s : State) : Res := s.opG f (· && ·)
/-- `gor` (R133). -/
def execGor (f : SR) (s : State) : Res := s.opG f (· || ·)
/-- `gxor` (R133). -/
def execGxor (f : SR) (s : State) : Res := s.opG f (· != ·)
/-- `gandn` (R133). -/
def execGandn (f : SR) (s : State) : Res := s.opG f fun a b => a && !b
/-- `gtos` (R133). -/
def execGtos (f : SR) (s : State) : Res := s.scalar f.d s.me.regs.guardBits
/-- `stog` (R133). -/
def execStog (f : SR) (s : State) : Res := .next (s.emits 1 (guardWrites (s.me.regs.rs f.a.toNat)))

/-! ### Address registers (R134) -/

/-- `aadd` (R134). -/
def execAadd (f : SR) (s : State) : Res := s.addrRes f.d (s.me.regs.ra f.a.toNat + imm72 (s.me.regs.rs f.b.toNat))
/-- `aaddi` (R134). -/
def execAaddi (f : SI) (s : State) : Res := s.addrRes f.d (s.me.regs.ra f.a.toNat + imm72 f.imm)
/-- `asub` (R134). -/
def execAsub (f : SR) (s : State) : Res := s.addrRes f.d (s.me.regs.ra f.a.toNat - imm72 (s.me.regs.rs f.b.toNat))
/-- A signed value clamped to 64 bits (R134). -/
def clamp64 (x : Int) : W64 := BitVec.ofInt 64 (max (intMin true 64) (min (intMax true 64) x))
/-- `adiff` (R134). -/
def execAdiff (f : SR) (s : State) : Res := s.scalar f.d (clamp64 (s.me.regs.ra f.a.toNat - s.me.regs.ra f.b.toNat).toInt)
/-- `amov` (R134). -/
def execAmov (f : SR) (s : State) : Res := s.addrRes f.d ((s.me.regs.rs f.b.toNat).setWidth 72)
/-- `atos` (R134). -/
def execAtos (f : SR) (s : State) : Res :=
  let a := s.me.regs.ra f.a.toNat
  s.scalar f.d (if f.b = 0 then a.setWidth 64 else (a.extractLsb' 64 8).setWidth 64)

/-! ### Special registers and shape fields (R135, R136) -/

/-- `bset` (R135). -/
def execBset (f : SI) (s : State) : Res := .next (s.emit 1 (.b f.d.toNat ((s.me.regs.rs f.a.toNat + imm64 f.imm).setWidth 20)))
/-- `bget` (R135). -/
def execBget (f : SI) (s : State) : Res := s.scalar f.d ((s.me.regs.rb f.a.toNat).setWidth 64)
/-- `lcset` (R135). -/
def execLcset (f : SI) (s : State) : Res := .next (s.emit 1 (.lc f.d.toNat (LoopCtr.ofBits (s.me.regs.rs f.a.toNat + imm64 f.imm))))
/-- `lcget` (R135). -/
def execLcget (f : SI) (s : State) : Res := s.scalar f.d (s.me.regs.rlc f.a.toNat).bits
/-- `mpset` (R135). -/
def execMpset (f : SI) (s : State) : Res := .next (s.emit 1 (.mp f.d.toNat (s.me.regs.ra f.a.toNat + imm72 f.imm)))
/-- `mpget` (R135). -/
def execMpget (f : SI) (s : State) : Res := s.addrRes f.d (s.me.regs.rmp f.a.toNat)
/-- `tsrd` (R135): ts as it stands at issue. -/
def execTsrd (f : SR) (s : State) : Res := s.scalar f.d (s.me.ts.get 0 f.a.toNat)
/-- `shset` (R136): one field of the shadow copy. -/
def execShset (f : SF) (s : State) : Res :=
  let (lo, w) := shapeField f.eng.toNat f.fld.toNat
  .next (s.emit 1 (.shadow (4 * f.eng.toNat + f.h.toNat) lo w (s.me.regs.rs f.s.toNat + imm64 f.imm)))

/-! ### Branches (R137 to R142) -/

/-- The address of a bundle `n` bundles from `p` (R52, R137). -/
def bundleAt (p : W72) (n : BitVec 39) : W72 := p + imm72 n * 64
/-- The acting core's next bundle is `t`, `p` cycles later than in sequence (R137, R139). -/
def State.jump (s : State) (t : W72) (p : Nat) : State := s.modMe fun c => { c with iss := { c.iss with next := some (t, p) } }
/-- The link write of a call (R137). -/
def State.link (s : State) : State := s.emit 1 (.a 31 (s.me.iss.pc + 64))
/-- A register target must be a multiple of 64 (R138). -/
def targetFault (t : W72) : Option Cause := alignFault 1 t 64

/-- `br` (R137). -/
def execBr (f : SB) (s : State) : Res := .next (s.jump (bundleAt s.me.iss.pc f.target) 1)
/-- `call` (R137). -/
def execCall (f : SB) (s : State) : Res := .next ((s.jump (bundleAt s.me.iss.pc f.target) 1).link)
/-- `ret` (R137, R138). -/
def execRet (f : SB) (s : State) : Res := let t := s.me.regs.ra f.a.toNat; s.checked (targetFault t) (s.jump t 3)
/-- `brs` (R137, R138). -/
def execBrs (f : SB) (s : State) : Res := let t := bundleAt (s.me.regs.ra f.a.toNat) f.target; s.checked (targetFault t) (s.jump t 3)
/-- `calls` (R137, R138). -/
def execCalls (f : SB) (s : State) : Res := let t := bundleAt (s.me.regs.ra f.a.toNat) f.target; s.checked (targetFault t) ((s.jump t 3).link)

/-- lsave's bits (R303). -/
def lsaveWord (n : Nat) (l : LoopCtr) : W64 := BitVec.ofNat 64 (2 ^ 63 + n % 4 * 2 ^ 36 + l.ec.toNat * 2 ^ 32 + l.cnt.toNat)
/-- lsave holds a forced stop of loop counter `n` (R140, R303). -/
def lsaveNames (v : W64) (n : Nat) : Bool := v.getLsbD 63 && (v.extractLsb' 36 2).toNat == n

/-- The loop counter after an `lbr`, the new stage predicate, and whether the branch is taken (R140). -/
def lbrCount (l : LoopCtr) : LoopCtr × Bool × Bool :=
  if l.cnt ≠ 0 then ({ l with cnt := l.cnt - 1 }, true, true)
  else if 1 < l.ec.toNat then ({ l with ec := l.ec - 1 }, false, true)
  else ({ l with ec := 0 }, false, false)

/-- The rotation of g8 to g15 and b8 to b15 (R140). -/
def lbrRotate (r : Regs) (new : Bool) : List Wr :=
  (List.range 7).flatMap (fun i => [.g (i + 9) (r.rg (i + 8)), .b (i + 9) (r.rb (i + 8))]) ++ [.g 8 new, .b 8 (r.rb 15)]

/-- `lbr` (R140): it counts, rotates and branches; a fall-through under a forced stop of its own counter stops the context at the loop's head (R142). Above level 0 the request is held: a handler's `lbr` neither honours nor ends it (R311, R352). -/
def execLbr (f : SB) (s : State) : Res :=
  let n := f.lc.toNat
  let k := s.me
  let l := k.regs.rlc n
  let forced := l.cnt ≠ 0 ∧ k.iss.clamp ∧ k.sys.level = 0
  let lsave := if forced then lsaveWord n l else k.regs.lsave
  let (l', new, taken) := lbrCount (if forced then { l with cnt := 0 } else l)
  let s := if forced then
      (s.modMe fun c => { c with iss := { c.iss with clamp := false } }).emit 1 (.sys 0x020 lsave)
    else s
  let s := s.emits 1 (.lc n l' :: lbrRotate k.regs new)
  let top := bundleAt k.iss.pc f.target
  if taken then .next (s.jump top 0)
  else if lsaveNames lsave n && k.sys.level == 0 then
    .next ((s.jump top 0).modMe fun c => { c with job := c.job.map fun j => { j with phase := .stopped } })
  else .next s

/-- The core takes its loop counter and stage predicates from lsave, whose valid bit is cleared (R142). The region is still open: the shadow keeps what it holds, as with any write (R304, R307). -/
def Core.resumeLoop (k : Core) : Core :=
  let v := k.regs.lsave
  if v.getLsbD 63 then
    let l := LoopCtr.ofBits v
    let wr : List Wr := [.lc (v.extractLsb' 36 2).toNat { l with cnt := l.cnt - 1 }, .sys 0x020 (v &&& ~~~(1#64 <<< 63))] ++
      (List.range 8).map fun i => .g (i + 8) (i == 0)
    { k with regs := wr.foldl Regs.apply k.regs }
  else k
/-- The core stands at a pre-emption point of a task that runs again, and the writes of its `lbr` have landed. -/
def State.resumes (s : State) (c : Nat) : Bool :=
  match (s.core c).job with
  | some j => j.phase == Phase.stopped && (s.core c).iss.pend.isEmpty && (match s.hub.tasks.get none j.task with | some (t : Task) => t.st == TaskSt.running | none => false)
  | none => false
/-- FORCED_STOP_RESUME (R142): on resume the loop counter and the stage predicates are set from lsave, and the core issues again. -/
def execForcedStopResume (c : Nat) (s : State) : Res :=
  .next (if s.resumes c then s.modCore c fun k => Core.resumeLoop { k with job := k.job.map fun j => { j with phase := Phase.running } } else s)

end Sys2Proof.Machine
end

