-- ==== Sys2Proof/Machine/Dispatch.lean ====
section
/-! DEFINITION. The meaning of every transition: one arm for each constructor of Instr, in the order of Syntax. -/
namespace Sys2Proof.Machine

def exec (i : Instr) (s : State) : Host.Outcome State Fault Refusal :=
  match i with
  | .nop => Sys2Proof.Machine.execNop s
  | .add f => Sys2Proof.Machine.execAdd f s
  | .sub f => Sys2Proof.Machine.execSub f s
  | .and f => Sys2Proof.Machine.execAnd f s
  | .or f => Sys2Proof.Machine.execOr f s
  | .xor f => Sys2Proof.Machine.execXor f s
  | .andn f => Sys2Proof.Machine.execAndn f s
  | .shl f => Sys2Proof.Machine.execShl f s
  | .shr f => Sys2Proof.Machine.execShr f s
  | .sar f => Sys2Proof.Machine.execSar f s
  | .rotl f => Sys2Proof.Machine.execRotl f s
  | .minI64 f => Sys2Proof.Machine.execMinI64 f s
  | .maxI64 f => Sys2Proof.Machine.execMaxI64 f s
  | .minN64 f => Sys2Proof.Machine.execMinN64 f s
  | .maxN64 f => Sys2Proof.Machine.execMaxN64 f s
  | .mul f => Sys2Proof.Machine.execMul f s
  | .mulhI64 f => Sys2Proof.Machine.execMulhI64 f s
  | .mulhN64 f => Sys2Proof.Machine.execMulhN64 f s
  | .divI32 f => Sys2Proof.Machine.execDivI32 f s
  | .divN32 f => Sys2Proof.Machine.execDivN32 f s
  | .divI64 f => Sys2Proof.Machine.execDivI64 f s
  | .divN64 f => Sys2Proof.Machine.execDivN64 f s
  | .remI32 f => Sys2Proof.Machine.execRemI32 f s
  | .remN32 f => Sys2Proof.Machine.execRemN32 f s
  | .remI64 f => Sys2Proof.Machine.execRemI64 f s
  | .remN64 f => Sys2Proof.Machine.execRemN64 f s
  | .addi f => Sys2Proof.Machine.execAddi f s
  | .andi f => Sys2Proof.Machine.execAndi f s
  | .ori f => Sys2Proof.Machine.execOri f s
  | .xori f => Sys2Proof.Machine.execXori f s
  | .shli f => Sys2Proof.Machine.execShli f s
  | .shri f => Sys2Proof.Machine.execShri f s
  | .sari f => Sys2Proof.Machine.execSari f s
  | .muli f => Sys2Proof.Machine.execMuli f s
  | .miniI64 f => Sys2Proof.Machine.execMiniI64 f s
  | .maxiI64 f => Sys2Proof.Machine.execMaxiI64 f s
  | .sexti f => Sys2Proof.Machine.execSexti f s
  | .zexti f => Sys2Proof.Machine.execZexti f s
  | .li f => Sys2Proof.Machine.execLi f s
  | .lih f => Sys2Proof.Machine.execLih f s
  | .ali f => Sys2Proof.Machine.execAli f s
  | .alih f => Sys2Proof.Machine.execAlih f s
  | .ceq f => Sys2Proof.Machine.execCeq f s
  | .cne f => Sys2Proof.Machine.execCne f s
  | .cltI64 f => Sys2Proof.Machine.execCltI64 f s
  | .cltN64 f => Sys2Proof.Machine.execCltN64 f s
  | .cleI64 f => Sys2Proof.Machine.execCleI64 f s
  | .cleN64 f => Sys2Proof.Machine.execCleN64 f s
  | .ctst f => Sys2Proof.Machine.execCtst f s
  | .cnz f => Sys2Proof.Machine.execCnz f s
  | .ceqi f => Sys2Proof.Machine.execCeqi f s
  | .cnei f => Sys2Proof.Machine.execCnei f s
  | .cltiI64 f => Sys2Proof.Machine.execCltiI64 f s
  | .cltiN64 f => Sys2Proof.Machine.execCltiN64 f s
  | .cleiI64 f => Sys2Proof.Machine.execCleiI64 f s
  | .cleiN64 f => Sys2Proof.Machine.execCleiN64 f s
  | .ctsb f => Sys2Proof.Machine.execCtsb f s
  | .gand f => Sys2Proof.Machine.execGand f s
  | .gor f => Sys2Proof.Machine.execGor f s
  | .gxor f => Sys2Proof.Machine.execGxor f s
  | .gandn f => Sys2Proof.Machine.execGandn f s
  | .gtos f => Sys2Proof.Machine.execGtos f s
  | .stog f => Sys2Proof.Machine.execStog f s
  | .aadd f => Sys2Proof.Machine.execAadd f s
  | .aaddi f => Sys2Proof.Machine.execAaddi f s
  | .asub f => Sys2Proof.Machine.execAsub f s
  | .adiff f => Sys2Proof.Machine.execAdiff f s
  | .amov f => Sys2Proof.Machine.execAmov f s
  | .atos f => Sys2Proof.Machine.execAtos f s
  | .bset f => Sys2Proof.Machine.execBset f s
  | .bget f => Sys2Proof.Machine.execBget f s
  | .lcset f => Sys2Proof.Machine.execLcset f s
  | .lcget f => Sys2Proof.Machine.execLcget f s
  | .mpset f => Sys2Proof.Machine.execMpset f s
  | .mpget f => Sys2Proof.Machine.execMpget f s
  | .tsrd f => Sys2Proof.Machine.execTsrd f s
  | .shset f => Sys2Proof.Machine.execShset f s
  | .br f => Sys2Proof.Machine.execBr f s
  | .call f => Sys2Proof.Machine.execCall f s
  | .ret f => Sys2Proof.Machine.execRet f s
  | .brs f => Sys2Proof.Machine.execBrs f s
  | .calls f => Sys2Proof.Machine.execCalls f s
  | .lbr f => Sys2Proof.Machine.execLbr f s
  | .sysrd f => Sys2Proof.Machine.execSysrd f s
  | .syswr f => Sys2Proof.Machine.execSyswr f s
  | .trap f => Sys2Proof.Machine.execTrap f s
  | .tret f => Sys2Proof.Machine.execTret f s
  | .idle f => Sys2Proof.Machine.execIdle f s
  | .tlbinvVa f => Sys2Proof.Machine.execTlbinvVa f s
  | .tlbinvCtx f => Sys2Proof.Machine.execTlbinvCtx f s
  | .tlbinvAll f => Sys2Proof.Machine.execTlbinvAll f s
  | .biasDev f => Sys2Proof.Machine.execBiasDev f s
  | .biasHost f => Sys2Proof.Machine.execBiasHost f s
  | .stitchIns f => Sys2Proof.Machine.execStitchIns f s
  | .stitchBind f => Sys2Proof.Machine.execStitchBind f s
  | .stitchUnbind f => Sys2Proof.Machine.execStitchUnbind f s
  | .stitchDrop f => Sys2Proof.Machine.execStitchDrop f s
  | .ctxEnd f => Sys2Proof.Machine.execCtxEnd f s
  | .ldI8 f => Sys2Proof.Machine.execLdI8 f s
  | .ldI16 f => Sys2Proof.Machine.execLdI16 f s
  | .ldI32 f => Sys2Proof.Machine.execLdI32 f s
  | .ldN8 f => Sys2Proof.Machine.execLdN8 f s
  | .ldN16 f => Sys2Proof.Machine.execLdN16 f s
  | .ldN32 f => Sys2Proof.Machine.execLdN32 f s
  | .ldN64 f => Sys2Proof.Machine.execLdN64 f s
  | .lda f => Sys2Proof.Machine.execLda f s
  | .ldAcq k f => Sys2Proof.Machine.execLdAcq k f s
  | .vld f => Sys2Proof.Machine.execVld f s
  | .vldx f => Sys2Proof.Machine.execVldx f s
  | .stN8 f => Sys2Proof.Machine.execStN8 f s
  | .stN16 f => Sys2Proof.Machine.execStN16 f s
  | .stN32 f => Sys2Proof.Machine.execStN32 f s
  | .stN64 f => Sys2Proof.Machine.execStN64 f s
  | .sta f => Sys2Proof.Machine.execSta f s
  | .stRel k f => Sys2Proof.Machine.execStRel k f s
  | .vst f => Sys2Proof.Machine.execVst f s
  | .vstx f => Sys2Proof.Machine.execVstx f s
  | .svld f => Sys2Proof.Machine.execSvld f s
  | .svlds f => Sys2Proof.Machine.execSvlds f s
  | .svgth f => Sys2Proof.Machine.execSvgth f s
  | .sld f => Sys2Proof.Machine.execSld f s
  | .svst f => Sys2Proof.Machine.execSvst f s
  | .svsts f => Sys2Proof.Machine.execSvsts f s
  | .svsct f => Sys2Proof.Machine.execSvsct f s
  | .sst f => Sys2Proof.Machine.execSst f s
  | .ldesc f => Sys2Proof.Machine.execLdesc f s
  | .sdesc f => Sys2Proof.Machine.execSdesc f s
  | .pref f => Sys2Proof.Machine.execPref f s
  | .cinv f => Sys2Proof.Machine.execCinv f s
  | .cflush f => Sys2Proof.Machine.execCflush f s
  | .cwb f => Sys2Proof.Machine.execCwb f s
  | .atmAdd f => Sys2Proof.Machine.execAtmAdd f s
  | .atmAnd f => Sys2Proof.Machine.execAtmAnd f s
  | .atmOr f => Sys2Proof.Machine.execAtmOr f s
  | .atmXor f => Sys2Proof.Machine.execAtmXor f s
  | .atmMinI64 f => Sys2Proof.Machine.execAtmMinI64 f s
  | .atmMaxI64 f => Sys2Proof.Machine.execAtmMaxI64 f s
  | .atmMinN64 f => Sys2Proof.Machine.execAtmMinN64 f s
  | .atmMaxN64 f => Sys2Proof.Machine.execAtmMaxN64 f s
  | .atmSwp f => Sys2Proof.Machine.execAtmSwp f s
  | .atmCas f => Sys2Proof.Machine.execAtmCas f s
  | .atmFaddF32 f => Sys2Proof.Machine.execAtmFaddF32 f s
  | .xadd f => Sys2Proof.Machine.execXadd f s
  | .xsub f => Sys2Proof.Machine.execXsub f s
  | .xand f => Sys2Proof.Machine.execXand f s
  | .xshl f => Sys2Proof.Machine.execXshl f s
  | .xshr f => Sys2Proof.Machine.execXshr f s
  | .xpopc f => Sys2Proof.Machine.execXpopc f s
  | .xaddi f => Sys2Proof.Machine.execXaddi f s
  | .xcmp f => Sys2Proof.Machine.execXcmp f s
  | .xsel f => Sys2Proof.Machine.execXsel f s
  | .xadv f => Sys2Proof.Machine.execXadv f s
  | .xexp f => Sys2Proof.Machine.execXexp f s
  | .xld f => Sys2Proof.Machine.execXld f s
  | .xfroms f => Sys2Proof.Machine.execXfroms f s
  | .xtos f => Sys2Proof.Machine.execXtos f s
  | .xtov f => Sys2Proof.Machine.execXtov f s
  | .mstep f => Sys2Proof.Machine.execMstep f s
  | .mzero f => Sys2Proof.Machine.execMzero f s
  | .mdrain f => Sys2Proof.Machine.execMdrain f s
  | .mdrainV f => Sys2Proof.Machine.execMdrainV f s
  | .mpin f => Sys2Proof.Machine.execMpin f s
  | .munpin f => Sys2Proof.Machine.execMunpin f s
  | .minv f => Sys2Proof.Machine.execMinv f s
  | .mrepl f => Sys2Proof.Machine.execMrepl f s
  | .mwrite f => Sys2Proof.Machine.execMwrite f s
  | .mpref f => Sys2Proof.Machine.execMpref f s
  | .mcancelId f => Sys2Proof.Machine.execMcancelId f s
  | .mcancelAll f => Sys2Proof.Machine.execMcancelAll f s
  | .mcancelFlush f => Sys2Proof.Machine.execMcancelFlush f s
  | .mtopkSet f => Sys2Proof.Machine.execMtopkSet f s
  | .mtopkGet f => Sys2Proof.Machine.execMtopkGet f s
  | .mstatTile f => Sys2Proof.Machine.execMstatTile f s
  | .mstatEngine f => Sys2Proof.Machine.execMstatEngine f s
  | .mcall f => Sys2Proof.Machine.execMcall f s
  | .mtsclr f => Sys2Proof.Machine.execMtsclr f s
  | .stitchOpcode idx opw => Sys2Proof.Machine.execStitchOpcode idx opw s
  | .unop => Sys2Proof.Machine.execUnop s
  | .uend => Sys2Proof.Machine.execUend s
  | .uyield => Sys2Proof.Machine.execUyield s
  | .uwait => Sys2Proof.Machine.execUwait s
  | .ujmp f => Sys2Proof.Machine.execUjmp f s
  | .ubz f => Sys2Proof.Machine.execUbz f s
  | .uloop f => Sys2Proof.Machine.execUloop f s
  | .unext f => Sys2Proof.Machine.execUnext f s
  | .uring f => Sys2Proof.Machine.execUring f s
  | .uadd f => Sys2Proof.Machine.execUadd f s
  | .uaddi f => Sys2Proof.Machine.execUaddi f s
  | .umuli f => Sys2Proof.Machine.execUmuli f s
  | .ushli f => Sys2Proof.Machine.execUshli f s
  | .uandi f => Sys2Proof.Machine.execUandi f s
  | .uldop f => Sys2Proof.Machine.execUldop f s
  | .uldmp f => Sys2Proof.Machine.execUldmp f s
  | .uacc f => Sys2Proof.Machine.execUacc f s
  | .uaca f => Sys2Proof.Machine.execUaca f s
  | .uzero => Sys2Proof.Machine.execUzero s
  | .ustep f => Sys2Proof.Machine.execUstep f s
  | .upref f => Sys2Proof.Machine.execUpref f s
  | .udrain f => Sys2Proof.Machine.execUdrain f s
  | .utopk f => Sys2Proof.Machine.execUtopk f s
  | .utopkg f => Sys2Proof.Machine.execUtopkg f s
  | .kcopy f => Sys2Proof.Machine.execKcopy f s
  | .kloop f => Sys2Proof.Machine.execKloop f s
  | .kstage f => Sys2Proof.Machine.execKstage f s
  | .kstageSched f => Sys2Proof.Machine.execKstageSched f s
  | .kwm f => Sys2Proof.Machine.execKwm f s
  | .ksync f => Sys2Proof.Machine.execKsync f s
  | .kput f => Sys2Proof.Machine.execKput f s
  | .kget f => Sys2Proof.Machine.execKget f s
  | .kcollAllReduce f => Sys2Proof.Machine.execKcollAllReduce f s
  | .kcollAllGather f => Sys2Proof.Machine.execKcollAllGather f s
  | .kcollReduceScatter f => Sys2Proof.Machine.execKcollReduceScatter f s
  | .kcollBroadcast f => Sys2Proof.Machine.execKcollBroadcast f s
  | .kcancelChannel f => Sys2Proof.Machine.execKcancelChannel f s
  | .kcancelAll f => Sys2Proof.Machine.execKcancelAll f s
  | .kcancelFlush f => Sys2Proof.Machine.execKcancelFlush f s
  | .kstat f => Sys2Proof.Machine.execKstat f s
  | .kwmrd f => Sys2Proof.Machine.execKwmrd f s
  | .ksyncrd f => Sys2Proof.Machine.execKsyncrd f s
  | .ksyncrdWait f => Sys2Proof.Machine.execKsyncrdWait f s
  | .bsync f => Sys2Proof.Machine.execBsync f s
  | .bsyncWait f => Sys2Proof.Machine.execBsyncWait f s
  | .barCfg f => Sys2Proof.Machine.execBarCfg f s
  | .barArrive f => Sys2Proof.Machine.execBarArrive f s
  | .barTest f => Sys2Proof.Machine.execBarTest f s
  | .relSt f => Sys2Proof.Machine.execRelSt f s
  | .acqLd f => Sys2Proof.Machine.execAcqLd f s
  | .acqLdAll f => Sys2Proof.Machine.execAcqLdAll f s
  | .relFence f => Sys2Proof.Machine.execRelFence f s
  | .acqFence f => Sys2Proof.Machine.execAcqFence f s
  | .waitaddr f => Sys2Proof.Machine.execWaitaddr f s
  | .waitM f => Sys2Proof.Machine.execWaitM f s
  | .waitK f => Sys2Proof.Machine.execWaitK f s
  | .drain f => Sys2Proof.Machine.execDrain f s
  | .vadd f => Sys2Proof.Machine.execVadd f s
  | .vsub f => Sys2Proof.Machine.execVsub f s
  | .vmul f => Sys2Proof.Machine.execVmul f s
  | .vfma f => Sys2Proof.Machine.execVfma f s
  | .vfms f => Sys2Proof.Machine.execVfms f s
  | .vfnma f => Sys2Proof.Machine.execVfnma f s
  | .vdiv f => Sys2Proof.Machine.execVdiv f s
  | .vmin f => Sys2Proof.Machine.execVmin f s
  | .vmax f => Sys2Proof.Machine.execVmax f s
  | .vabs f => Sys2Proof.Machine.execVabs f s
  | .vneg f => Sys2Proof.Machine.execVneg f s
  | .vand f => Sys2Proof.Machine.execVand f s
  | .vor f => Sys2Proof.Machine.execVor f s
  | .vxor f => Sys2Proof.Machine.execVxor f s
  | .vandn f => Sys2Proof.Machine.execVandn f s
  | .vshl f => Sys2Proof.Machine.execVshl f s
  | .vshr f => Sys2Proof.Machine.execVshr f s
  | .vsar f => Sys2Proof.Machine.execVsar f s
  | .vmulh f => Sys2Proof.Machine.execVmulh f s
  | .vaddScalar f => Sys2Proof.Machine.execVaddScalar f s
  | .vsubScalar f => Sys2Proof.Machine.execVsubScalar f s
  | .vmulScalar f => Sys2Proof.Machine.execVmulScalar f s
  | .vfmaScalar f => Sys2Proof.Machine.execVfmaScalar f s
  | .vfmsScalar f => Sys2Proof.Machine.execVfmsScalar f s
  | .vfnmaScalar f => Sys2Proof.Machine.execVfnmaScalar f s
  | .vminScalar f => Sys2Proof.Machine.execVminScalar f s
  | .vmaxScalar f => Sys2Proof.Machine.execVmaxScalar f s
  | .vandScalar f => Sys2Proof.Machine.execVandScalar f s
  | .vorScalar f => Sys2Proof.Machine.execVorScalar f s
  | .vxorScalar f => Sys2Proof.Machine.execVxorScalar f s
  | .vandnScalar f => Sys2Proof.Machine.execVandnScalar f s
  | .vshlScalar f => Sys2Proof.Machine.execVshlScalar f s
  | .vshrScalar f => Sys2Proof.Machine.execVshrScalar f s
  | .vsarScalar f => Sys2Proof.Machine.execVsarScalar f s
  | .vmulhScalar f => Sys2Proof.Machine.execVmulhScalar f s
  | .vdivScalar f => Sys2Proof.Machine.execVdivScalar f s
  | .vrecip f => Sys2Proof.Machine.execVrecip f s
  | .vrsqrt f => Sys2Proof.Machine.execVrsqrt f s
  | .vsqrt f => Sys2Proof.Machine.execVsqrt f s
  | .vexp2 f => Sys2Proof.Machine.execVexp2 f s
  | .vlog2 f => Sys2Proof.Machine.execVlog2 f s
  | .vsin f => Sys2Proof.Machine.execVsin f s
  | .vcos f => Sys2Proof.Machine.execVcos f s
  | .vtanh f => Sys2Proof.Machine.execVtanh f s
  | .vceq f => Sys2Proof.Machine.execVceq f s
  | .vcne f => Sys2Proof.Machine.execVcne f s
  | .vclt f => Sys2Proof.Machine.execVclt f s
  | .vcle f => Sys2Proof.Machine.execVcle f s
  | .vcgt f => Sys2Proof.Machine.execVcgt f s
  | .vcge f => Sys2Proof.Machine.execVcge f s
  | .vcun f => Sys2Proof.Machine.execVcun f s
  | .vclass f => Sys2Proof.Machine.execVclass f s
  | .pand f => Sys2Proof.Machine.execPand f s
  | .por f => Sys2Proof.Machine.execPor f s
  | .pxor f => Sys2Proof.Machine.execPxor f s
  | .pnot f => Sys2Proof.Machine.execPnot f s
  | .pcnt f => Sys2Proof.Machine.execPcnt f s
  | .vsel f => Sys2Proof.Machine.execVsel f s
  | .vperm f => Sys2Proof.Machine.execVperm f s
  | .vrot f => Sys2Proof.Machine.execVrot f s
  | .vbcast f => Sys2Proof.Machine.execVbcast f s
  | .vext f => Sys2Proof.Machine.execVext f s
  | .vins f => Sys2Proof.Machine.execVins f s
  | .vmov f => Sys2Proof.Machine.execVmov f s
  | .vconst f => Sys2Proof.Machine.execVconst f s
  | .vradd f => Sys2Proof.Machine.execVradd f s
  | .vrmax f => Sys2Proof.Machine.execVrmax f s
  | .vrmin f => Sys2Proof.Machine.execVrmin f s
  | .vrand f => Sys2Proof.Machine.execVrand f s
  | .vror f => Sys2Proof.Machine.execVror f s
  | .vrxor f => Sys2Proof.Machine.execVrxor f s
  | .vcvt f => Sys2Proof.Machine.execVcvt f s
  | .vwiden f => Sys2Proof.Machine.execVwiden f s
  | .vnarrow f => Sys2Proof.Machine.execVnarrow f s
  | .vqblk f => Sys2Proof.Machine.execVqblk f s
  | .divisionComplete c => Sys2Proof.Machine.execDivisionComplete c s
  | .forcedStopResume c => Sys2Proof.Machine.execForcedStopResume c s
  | .hubCommandComplete c => Sys2Proof.Machine.execHubCommandComplete c s
  | .loadComplete c id => Sys2Proof.Machine.execLoadComplete c id s
  | .matrixEntryReady c id => Sys2Proof.Machine.execMatrixEntryReady c id s
  | .tileFillEnd c iid => Sys2Proof.Machine.execTileFillEnd c iid s
  | .earlyFill c id => Sys2Proof.Machine.execEarlyFill c id s
  | .replicaCopy c iid => Sys2Proof.Machine.execReplicaCopy c iid s
  | .stepDispatch c id => Sys2Proof.Machine.execStepDispatch c id s
  | .stepRowWrite c arr => Sys2Proof.Machine.execStepRowWrite c arr s
  | .matrixCommandComplete c id => Sys2Proof.Machine.execMatrixCommandComplete c id s
  | .matrixDeferredFault c id => Sys2Proof.Machine.execMatrixDeferredFault c id s
  | .arrayParityError c arr => Sys2Proof.Machine.execArrayParityError c arr s
  | .prefetchService c => Sys2Proof.Machine.execPrefetchService c s
  | .stitchStart c => Sys2Proof.Machine.execStitchStart c s
  | .stitchBankReload c => Sys2Proof.Machine.execStitchBankReload c s
  | .stitchBankReloadEnd c => Sys2Proof.Machine.execStitchBankReloadEnd c s
  | .stitchStoreError c => Sys2Proof.Machine.execStitchStoreError c s
  | .copyPieceWrite c ch => Sys2Proof.Machine.execCopyPieceWrite c ch s
  | .copyComplete c ch => Sys2Proof.Machine.execCopyComplete c ch s
  | .kloopIterationStart c ch => Sys2Proof.Machine.execKloopIterationStart c ch s
  | .copyDeferredFault c ch => Sys2Proof.Machine.execCopyDeferredFault c ch s
  | .watermarkWaitRelease c => Sys2Proof.Machine.execWatermarkWaitRelease c s
  | .copyUnderrun c => Sys2Proof.Machine.execCopyUnderrun c s
  | .remoteAcknowledge id r => Sys2Proof.Machine.execRemoteAcknowledge id r s
  | .collectiveComplete c id contribs bits => Sys2Proof.Machine.execCollectiveComplete c id contribs bits s
  | .relayChunkForward c id chunk data bits => Sys2Proof.Machine.execRelayChunkForward c id chunk data bits s
  | .barrierFire task nb => Sys2Proof.Machine.execBarrierFire task nb s
  | .waitaddrRegister c => Sys2Proof.Machine.execWaitaddrRegister c s
  | .wakeMessage c => Sys2Proof.Machine.execWakeMessage c s
  | .waitaddrTimeout c => Sys2Proof.Machine.execWaitaddrTimeout c s
  | .drainComplete c => Sys2Proof.Machine.execDrainComplete c s
  | .commit c => Sys2Proof.Machine.execCommit c s
  | .effectPerform c => Sys2Proof.Machine.execEffectPerform c s
  | .writeBack c line sec => Sys2Proof.Machine.execWriteBack c line sec s
  | .evict c line => Sys2Proof.Machine.execEvict c line s
  | .fill c line sec => Sys2Proof.Machine.execFill c line sec s
  | .directoryRecall cl => Sys2Proof.Machine.execDirectoryRecall cl s
  | .l2CompressionEvict line => Sys2Proof.Machine.execL2CompressionEvict line s
  | .poolWritePerform id r => Sys2Proof.Machine.execPoolWritePerform id r s
  | .trapEntry c => Sys2Proof.Machine.execTrapEntry c s
  | .deferredFaultDelivery c => Sys2Proof.Machine.execDeferredFaultDelivery c s
  | .tlbWalk c va => Sys2Proof.Machine.execTlbWalk c va s
  | .tlbWalkComplete die ctx vpn => Sys2Proof.Machine.execTlbWalkComplete die ctx vpn s
  | .remoteForward ctx va => Sys2Proof.Machine.execRemoteForward ctx va s
  | .migrationCounterHalve => Sys2Proof.Machine.execMigrationCounterHalve s
  | .pageMigration ctx vpn => Sys2Proof.Machine.execPageMigration ctx vpn s
  | .frameReuseScrub frame => Sys2Proof.Machine.execFrameReuseScrub frame s
  | .cxlHostRead host pa want => Sys2Proof.Machine.execCxlHostRead host pa want s
  | .cxlHostWrite host pa data => Sys2Proof.Machine.execCxlHostWrite host pa data s
  | .cxlBudgetChange port budget => Sys2Proof.Machine.execCxlBudgetChange port budget s
  | .cxlIoQueueWrite port p q => Sys2Proof.Machine.execCxlIoQueueWrite port p q s
  | .cxlHostPoolWrite pa data => Sys2Proof.Machine.execCxlHostPoolWrite pa data s
  | .rmaWrite qp pa data => Sys2Proof.Machine.execRmaWrite qp pa data s
  | .rmaRead qp pa n => Sys2Proof.Machine.execRmaRead qp pa n s
  | .doorbell p q qp w => Sys2Proof.Machine.execDoorbell p q qp w s
  | .recordFetch p q => Sys2Proof.Machine.execRecordFetch p q s
  | .cutComplete launch => Sys2Proof.Machine.execCutComplete launch s
  | .placement => Sys2Proof.Machine.execPlacement s
  | .clusterWake cl => Sys2Proof.Machine.execClusterWake cl s
  | .clusterGate cl => Sys2Proof.Machine.execClusterGate cl s
  | .coreStart c => Sys2Proof.Machine.execCoreStart c s
  | .taskEnd task => Sys2Proof.Machine.execTaskEnd task s
  | .launchEnd launch => Sys2Proof.Machine.execLaunchEnd launch s
  | .priorityAging task => Sys2Proof.Machine.execPriorityAging task s
  | .sliceEnd task => Sys2Proof.Machine.execSliceEnd task s
  | .preemptGang task => Sys2Proof.Machine.execPreemptGang task s
  | .hardStop c => Sys2Proof.Machine.execHardStop c s
  | .stuckHandlerKill c => Sys2Proof.Machine.execStuckHandlerKill c s
  | .gangStateSave task => Sys2Proof.Machine.execGangStateSave task s
  | .partitionCreate p r => Sys2Proof.Machine.execPartitionCreate p r s
  | .createContext p => Sys2Proof.Machine.execCreateContext p s
  | .setRoot p => Sys2Proof.Machine.execSetRoot p s
  | .bindEndpoint p => Sys2Proof.Machine.execBindEndpoint p s
  | .makeGroup p => Sys2Proof.Machine.execMakeGroup p s
  | .takeFrames p => Sys2Proof.Machine.execTakeFrames p s
  | .freeFrames p => Sys2Proof.Machine.execFreeFrames p s
  | .meterUpdate => Sys2Proof.Machine.execMeterUpdate s
  | .energyScale num den => Sys2Proof.Machine.execEnergyScale num den s
  | .meterReading r => Sys2Proof.Machine.execMeterReading r s
  | .watchdogExpiry p q => Sys2Proof.Machine.execWatchdogExpiry p q s
  | .operatorCaptureRequest p => Sys2Proof.Machine.execOperatorCaptureRequest p s
  | .captureDumpComplete p => Sys2Proof.Machine.execCaptureDumpComplete p s
  | .captureDrainTimeout p => Sys2Proof.Machine.execCaptureDrainTimeout p s
  | .partitionReset p => Sys2Proof.Machine.execPartitionReset p s
  | .partitionEnable p => Sys2Proof.Machine.execPartitionEnable p s
  | .queueRecover p q idx => Sys2Proof.Machine.execQueueRecover p q idx s
  | .correctedError loc => Sys2Proof.Machine.execCorrectedError loc s
  | .uncorrectableError loc blocks => Sys2Proof.Machine.execUncorrectableError loc blocks s
  | .bootStageVerify digest sig => Sys2Proof.Machine.execBootStageVerify digest sig s
  | .getVersion => Sys2Proof.Machine.execGetVersion s
  | .getCapabilities => Sys2Proof.Machine.execGetCapabilities s
  | .getCertificate => Sys2Proof.Machine.execGetCertificate s
  | .getMeasurements => Sys2Proof.Machine.execGetMeasurements s
  | .keyExchange => Sys2Proof.Machine.execKeyExchange s
  | .linkTraining results => Sys2Proof.Machine.execLinkTraining results s
  | .linkRetryUp link st => Sys2Proof.Machine.execLinkRetryUp link st s
  | .stagedPowerUp => Sys2Proof.Machine.execStagedPowerUp s
  | .powerManagerTick cl => Sys2Proof.Machine.execPowerManagerTick cl s
  | .thermalCap die hot => Sys2Proof.Machine.execThermalCap die hot s
  | .shutdown => Sys2Proof.Machine.execShutdown s
  | .fixedLatencyWrite c => Sys2Proof.Machine.execFixedLatencyWrite c s
  | .moduleReset => Sys2Proof.Machine.execModuleReset s
  | .linkDown link => Sys2Proof.Machine.execLinkDown link s
  | .send p q toQueue => Sys2Proof.Machine.execSend p q toQueue s

end Sys2Proof.Machine
end

