-- ==== Sys2Proof/Machine/Issue.lean ====
section
/-! DEFINITION. How a core issues: fetch, the checks of a whole bundle in their order, the issue cycle, the slots' effects, commits, and the words of a stitch (R51 to R59, R72 to R79, R104, R106, R138, R149, R168, R233, R264, R304, R305, R310, R405). -/
namespace Sys2Proof.Machine

/-! ### Misses of the core's TLB (R324, R325) -/

/-- The state that a transition answers, where it differs from the state before. -/
def State.moved (s : State) (r : Res) : Option State :=
  match r with
  | .next t => if t = s then none else some t
  | _ => none
/-- A page that the acting core's TLB lacks, and for which no walk has just found nothing. -/
def State.pageMissing (s : State) (va : W72) : Bool := (tlbFind s.me.tlb s.me.ctx va).isNone && !s.me.walkedOut .core s.me.ctx va
/-- The acting core waits on a walk of that page. -/
def State.onWalk (s : State) (va : W72) : Bool :=
  s.hub.walks.any fun w => w.die == s.cur / 64 && w.ctx == s.me.ctx && w.vpn == va.toNat / 4096 && w.cores.contains s.cur && !w.cancelled
/-- A miss served: from the shared TLB, by a walk under way, or by a new walk (TLB_WALK); none while the core can only wait. -/
def State.serveMiss (s : State) (va : W72) : Option State := if s.onWalk va then none else s.moved (execTlbWalk s.cur va s)

/-! ### Fetch (R51, R138, R300, R302) -/

/-- The physical address of the bundle at the acting core's pc. -/
def State.fetchPa (s : State) : Nat := match s.segs .exec s.me.iss.pc 64 with | g :: _ => g.pa | [] => 0
/-- The authoritative copy of its 64 bytes. -/
def State.codeAt (s : State) (pa : Nat) : BitVec 512 := (s.authBlock (pa / 64)).data
/-- The copy of it in the instruction cache (R16). -/
def Core.cached? (k : Core) (pa : Nat) : Option (BitVec 512) := (k.icache.find? fun x => x.1 == pa).map (·.2)
/-- The instruction cache serves an older copy: no rule says when a store reaches a cached bundle, so that it is a free choice (log entry 18). -/
def State.fetchStale (s : State) : Bool :=
  match s.me.cached? s.fetchPa with | some w => w != s.codeAt s.fetchPa && Config.staleFetch s.fresh | none => false
/-- The bundle at the acting core's pc. -/
def State.fetchWord (s : State) : BitVec 512 := if s.fetchStale then (s.me.cached? s.fetchPa).getD 0 else s.codeAt s.fetchPa
/-- The bundle at a physical address cannot be read: no cached copy is left, and its block is poisoned, or its window's port is down (R164, R403). -/
def State.fetchLost (s : State) (pa : Nat) : Bool :=
  (s.me.cached? pa).isNone && ((s.authBlock (pa / 64)).poison || (s.hub.remoteDead pa && !s.homeHas (pa / 64)))
/-- The pc names no bundle: above 2^64, or in a page that may not be fetched from (R138). DESIGN CHOICE: a bundle that cannot be read raises the same fault, since the spec names none (log entry 114). -/
def State.fetchFault (s : State) : Bool :=
  2 ^ 64 ≤ s.me.iss.pc.toNat || (match s.xlate .exec s.me.iss.pc 64 with | .error _ => true | .ok _ => s.fetchLost s.fetchPa)
/-- A bundle enters the instruction cache, which holds 1,024; the least recently fetched leaves (R16). -/
def Core.cache (k : Core) (pa : Nat) (w : BitVec 512) : Core := { k with icache := ((pa, w) :: k.icache.filter fun x => x.1 != pa).take 1024 }
/-- A state `t` that the acting core of `s` has reached with its fetch: the bundle is cached, and the free choice of the fetch is spent. -/
def State.fetchedTo (s t : State) : State := { (t.modCore s.cur fun k => k.cache s.fetchPa s.fetchWord) with fresh := t.fresh + 1 }

/-! ### Shapes and swaps (R55) -/

/-- The engine whose shape registers a slot names (R61). -/
def slotEngine (slot : Nat) : Nat := match slot with | 4 => 1 | 5 => 2 | 6 => 0 | 7 => 3 | _ => 4
/-- The shape register of one operation exchanged, when the slot's swap bit is set. -/
def swapOf (h : Header) (r : Regs) (o : SlotOp) : Regs :=
  if h.swap o.slot then (match hsField o.op with | some n => r.swap (slotEngine o.slot) n | none => r) else r
/-- The acting core as an operation sees it after its own exchange. -/
def State.seenBy (s : State) (h : Header) (o : SlotOp) : State := s.modMe fun k => { k with regs := swapOf h k.regs o }
/-- Every exchange of a bundle, whatever the guards hold. -/
def State.swapAll (s : State) (b : Bundle) : State := s.modMe fun k => { k with regs := b.ops.foldl (swapOf b.hdr) k.regs }

/-! ### The encoding checks that the core's state decides (R72, R187, R197, R208, R254) -/

/-- A copy command's illegal value. -/
def copyReason {α : Type} (x : Except Cause α) : Option Nat := match x with | .error c => if c.code = 1 then some 4 else none | .ok _ => none
/-- Reasons 3 and 4 that a captured shape or register decides, whatever the guard holds (R57). -/
def State.dynReason (s : State) (h : Header) (o : SlotOp) : Option Nat :=
  let t := s.seenBy h o
  let on (b : Bool) : Option Nat := if b then some 4 else none
  match o.op with
  | .mcall f => on (t.budgetNow < mcallDepth f)
  | .mdrainV f =>
    let lim := match s.me.job with | some j => min j.vregs 1024 | none => 1024
    if (drainRegs (t.mhOf f.hs) (f.imm.extractLsb' 0 10).toNat).any (lim ≤ ·) then some 3 else on (drainShapeBad (t.mhOf f.hs))
  | .mstep f => on (stepShapeBad (t.mhOf f.hs))
  | .mdrain f => on (drainShapeBad (t.mhOf f.hs))
  | .mpin f | .munpin f | .minv f | .mrepl f | .mwrite f => on (!opFmt (mWfmt (t.mhOf f.hs)))
  | .kcopy f => copyReason (t.kenv.kcopy f)
  | .kloop f => copyReason (t.kenv.kloop f)
  | .kput f => copyReason (t.kenv.kput f)
  | .kget f => copyReason (t.kenv.kget f)
  | .kcollAllReduce f => copyReason (t.kenv.kcoll s.hub f 0)
  | .kcollAllGather f => copyReason (t.kenv.kcoll s.hub f 1)
  | .kcollReduceScatter f => copyReason (t.kenv.kcoll s.hub f 2)
  | .kcollBroadcast f => copyReason (t.kenv.kcoll s.hub f 3)
  | .kwm f => copyReason (t.kenv.kwm f)
  | .ksync f => copyReason (t.kenv.ksync f)
  | .xld f => on (fieldOf 4 5 (t.xhOf f.hs) == 7)
  | _ => none
/-- The registers that an `mdrain.v` writes under the shape that it captures (R74, R208). -/
def State.dynRange (s : State) (h : Header) (o : SlotOp) : List (RC × Nat) :=
  match o.op with
  | .mdrainV f => (drainRegs ((s.seenBy h o).mhOf f.hs) (f.imm.extractLsb' 0 10).toNat).map fun n => (.v, n)
  | _ => []
/-- What the decoder needs of the acting core (R59, R70, R72). -/
def State.decEnv (s : State) (h : Header) : DecEnv :=
  { vregs := match s.me.job with | some j => j.vregs | none => 1024
    accs := match s.me.job with | some j => j.accs | none => 32
    bound := s.patBound, dyn := s.dynReason h, range := s.dynRange h }

/-! ### Interlocks (R78, R106, R130) -/

/-- The operations that a bundle's slots name, legal or not. -/
noncomputable def rawOps (w : BitVec 512) : List SlotOp :=
  [1, 2, 3, 4, 5, 6, 7, 8, 9].filterMap fun n => match rawDecode n (slotWord n w) with
    | some (i, _) => if i == .nop then none else some ⟨n, slotGuard n (slotWord n w), i⟩
    | none => none
/-- A register of a pending variable-latency result as an operand names it. -/
def RegName.key : RegName → RC × Nat
  | .s n => (.s, n) | .a n => (.a, n) | .v n => (.v, n) | .ix n => (.ix, n)
/-- An integer division. -/
def isDiv : Instr → Bool
  | .divI32 _ | .divN32 _ | .divI64 _ | .divN64 _ | .remI32 _ | .remN32 _ | .remI64 _ | .remN64 _ => true
  | _ => false
/-- An index load (R102). -/
def isXld : Instr → Bool
  | .xld _ => true
  | _ => false
/-- Operations that an acquire or a drain holds back (R106): those of the L, W, M, K and Y slots, and `xld`. -/
def SlotOp.held (o : SlotOp) : Bool := [4, 5, 6, 7, 9].contains o.slot || isXld o.op
/-- A bundle names a register of a pending result that `p` accepts (R78). -/
def State.namesPending (s : State) (h : Header) (ops : List SlotOp) (p : VarWrite → Bool) : Bool :=
  let pend := ((s.me.iss.vpend.filter p).flatMap fun v => v.regs.map RegName.key).filter fun x => x != (.s, 0)
  ops.any fun o => ((operands o.op).map (fun x => (x.rc, x.n)) ++ s.dynRange h o).any pend.contains
/-- A bundle waits (R78, R106, R130): a register that it names is pending, the divider is busy, or an acquire holds it. s0 is never pending. -/
def State.interlocked (s : State) (h : Header) (ops : List SlotOp) : Bool :=
  s.namesPending h ops (fun _ => true) ||
  (s.me.iss.vpend.any (fun v => v.kind == .division) && ops.any fun o => isDiv o.op) ||
  (s.me.iss.vpend.any (·.hold) && ops.any SlotOp.held)

/-- An interlocked bundle waits on a drain of an engine that is frozen: the fault comes to be delivered there (R203, R208). -/
def State.engineWait (s : State) (h : Header) (ops : List SlotOp) : Option State :=
  if !s.me.iss.onEngine && s.me.eng.frozen.isSome && s.namesPending h ops (fun v => v.kind == .engine) then some (s.modMe fun k => { k with iss := { k.iss with onEngine := true } })
  else none

/-! ### The scoreboard (R76, R79) -/

/-- The latency of an operation's fixed-latency writes (R76, R148, R280), none for one that has none. -/
def fixedLat (o : SlotOp) : Option Nat :=
  match o.slot with
  | 1 => (match o.op with
    | .mul _ | .mulhI64 _ | .mulhN64 _ | .muli _ => some 3
    | .divI32 _ | .divN32 _ | .divI64 _ | .divN64 _ | .remI32 _ | .remN32 _ | .remI64 _ | .remN64 _ | .sysrd _ | .tlbinvVa _ | .tlbinvCtx _
    | .tlbinvAll _ | .biasDev _ | .biasHost _ | .stitchIns _ | .stitchBind _ | .stitchUnbind _ | .stitchDrop _ | .ctxEnd _ => none
    | _ => some 1)
  | 2 | 3 => (match o.op with
    | .vdiv _ | .vdivScalar _ | .vrecip _ | .vrsqrt _ | .vsqrt _ | .vexp2 _ | .vlog2 _ | .vsin _ | .vcos _ | .vtanh _ | .vradd _ | .vrmax _
    | .vrmin _ | .vrand _ | .vror _ | .vrxor _ | .vqblk _ => some 8
    | _ => some 4)
  | 4 => (match o.op with | .svld _ | .svlds _ | .svgth _ | .sld _ => some 6 | _ => none)
  | 6 => (match o.op with | .mstatTile _ | .mstatEngine _ => some 4 | _ => none)
  | 8 => (match o.op with | .xld _ => none | _ => some 2)
  | 9 => (match o.op with | .barTest _ => some 2 | _ => none)
  | _ => none
/-- The register of a write in flight, as an operand names it. Shadow copies and system registers are none. -/
def Wr.key : Wr → Option (RC × Nat)
  | .s n _ => some (.s, n) | .a n _ => some (.a, n) | .g n _ => some (.g, n) | .b n _ => some (.b, n) | .lc n _ => some (.lc, n)
  | .mp n _ => some (.mp, n) | .ix n _ => some (.ix, n) | .p n _ _ => some (.p, n) | .v n _ _ => some (.v, n)
  | .shadow _ _ _ _ | .sys _ _ => none
/-- The predicate that governs the lanes of a gather or scatter (R166, R167), as the captured load or store shape names it. -/
def Core.lanePred (k : Core) (i : Instr) : List (RC × Nat) :=
  match i with
  | .svgth f => [(.p, fieldOf 1 4 (k.regs.shape 1 f.hs.toNat))]
  | .svsct f => [(.p, fieldOf 2 4 (k.regs.shape 2 f.hs.toNat))]
  | _ => []
/-- The latency of an operation's writes as its issue fixes it: of the results of variable latency, those that can complete no later than a write of fixed latency in flight (R78, R79). Loads and atomics take longer, and when a `drain` or a `waitaddr` will answer is not known at issue (log entry 17). -/
def Core.leastLat (k : Core) (o : SlotOp) : Option Nat :=
  match o.op with
  | .sysrd _ => some 1
  | .divI32 f | .divN32 f | .remI32 f | .remN32 f => some (divTime (zeroDivisor 32 (k.regs.rs f.b.toNat)))
  | .divI64 f | .divN64 f | .remI64 f | .remN64 f => some (divTime (zeroDivisor 64 (k.regs.rs f.b.toNat)))
  | .kstat _ | .kwmrd _ | .ksyncrd _ | .ksyncrdWait _ => some 4
  | .xld f => (match Machine.xldPlan (k.regs.shape 4 f.hs.toNat) (k.regs.rix f.a.toNat) f.imm with | .past _ => some 2 | _ => none)
  | _ => fixedLat o
/-- An operation reads a register before a write in flight is visible, or writes one no later than a write that issued before (R79). -/
def Core.stale (k : Core) (cycle : Nat) (o : SlotOp) : Bool :=
  let ops := operands o.op
  let src := (RC.g, o.guard.n.toNat) :: (ops.filter fun x => !x.w).map (fun x => (x.rc, x.n)) ++ k.lanePred o.op
  let dst := (ops.filter fun x => x.w && !(x.rc == .s && x.n == 0)).map fun x => (x.rc, x.n)
  k.iss.pend.any fun w => match w.wr.key with
    | none => false
    | some r => (src.contains r && r != (.s, 0)) || (match k.leastLat o with | some l => dst.contains r && cycle + l - 1 ≤ w.due | none => false)
/-- The lowest slot that fails the scoreboard's check, when ckcfg enables it. -/
def State.staleSlot (s : State) (ops : List SlotOp) : Option Nat :=
  if s.me.regs.ckcfg.getLsbD 0 then (ops.find? (s.me.stale s.cycle)).map (·.slot) else none

/-! ### Pages, watermarks, bank conflicts -/

/-- The device bytes that an operation accesses at issue: address and count (R162, R201, R208). -/
def State.accesses (s : State) (i : Instr) : List (W72 × Nat) :=
  let r := s.me.regs
  let tile (f : MD) (toff : W72) : List (W72 × Nat) := [(s.tileAddr f.mp toff (s.mhOf f.hs), tileBytes (mWfmt (s.mhOf f.hs)))]
  match i with
  | .ldI8 f | .ldN8 f | .ldesc f | .pref f | .cinv f | .cflush f | .stN8 f | .sdesc f | .cwb f => [(r.eaMA f, 1)]
  | .ldI16 f | .ldN16 f | .stN16 f => [(r.eaMA f, 2)]
  | .ldI32 f | .ldN32 f | .stN32 f => [(r.eaMA f, 4)]
  | .ldN64 f | .stN64 f => [(r.eaMA f, 8)]
  | .lda f | .sta f => [(r.eaMA f, 16)]
  | .ldAcq k f => [(r.eaMA f, ldSize k)]
  | .stRel k f => [(r.eaMA f, stSize k)]
  | .vld f | .vst f => [(r.eaMA f, 512)]
  | .vldx f | .vstx f => [(r.eaMX f, 512)]
  | .atmAdd f | .atmAnd f | .atmOr f | .atmXor f | .atmMinI64 f | .atmMaxI64 f | .atmMinN64 f | .atmMaxN64 f | .atmSwp f | .atmCas f
  | .atmFaddF32 f => [(r.eaMT f, 8)]
  | .relSt f | .acqLd f | .acqLdAll f | .waitaddr f => [(r.eaYM f, 8)]
  | .xld f => (match s.xldPlan f with | .global va n _ => [(va, n)] | _ => [])
  | .mstep f => [(s.tileAddr f.mt (f.toff.setWidth 72) (s.mhOf f.hs), tileBytes (mWfmt (s.mhOf f.hs)))]
  | .mpin f | .munpin f | .minv f => tile f (imm72 f.imm)
  | .mrepl f => tile f (imm72 (f.imm.extractLsb' 4 19))
  | .mwrite f => tile f (imm72 (f.imm.extractLsb' 8 15))
  | .mstatTile f => tile f (imm72 (f.imm.extractLsb' 0 15))
  | .mdrain f =>
    let h := s.mhOf f.hs
    if mDfl h 2 then [] else (drainRows h (s.drainBase f)).map fun va => (va, fmtRow (mOfmt h))
  | .mtopkGet f => [(s.drainBase f, 1024)]
  | _ => []
/-- The first page that a bundle's operations lack in the core's TLB (R324). -/
def State.missOf (s : State) (ops : List SlotOp) : Option W72 :=
  (ops.flatMap fun o => (s.accesses o.op).flatMap fun x => pagesOf x.1 x.2).find? s.pageMissing
/-- The scratchpad bytes that an operation touches at issue: offset and count, lane by lane for a gather or scatter (R167, R169, R187). -/
def State.scrAccesses (s : State) (i : Instr) : List (Nat × Nat) :=
  let lanes (f : MG) (h : BitVec 128) : List (Nat × Nat) :=
    (s.lanesMG f h).filterMap fun x => if laneOut s.me.scratchSize (laneBytes h) x.2 then none else some (x.2, laneBytes h)
  match i with
  | .svld f | .svst f => [(s.me.regs.scrMP f, 512)]
  | .svlds f => stridedRows (s.me.regs.scrMP f) (s.lhOf f.hs)
  | .svsts f => stridedRows (s.me.regs.scrMP f) (s.shOf f.hs)
  | .sld f | .sst f => [(s.me.regs.scrMP f, 8)]
  | .svgth f => lanes f (s.lhOf f.hs)
  | .svsct f => lanes f (s.shOf f.hs)
  | .xld f => (match s.xldPlan f with | .scratch x n _ => [(x, n)] | _ => [])
  | _ => []
/-- The watermark that a bundle waits for (R264): channel, slot, first byte that waits, end of the access. -/
def State.watermarkOf (s : State) (ops : List SlotOp) : Option (Nat × Nat × Nat × Nat) :=
  ops.findSome? fun o => (s.scrAccesses o.op).findSome? fun x => (s.me.wmWaits x.1 x.2).map fun w => (w.1, o.slot, w.2.1, w.2.2)
/-- The 32-bit words of scratchpad accesses. -/
def wordsOf (l : List (Nat × Nat)) : List Nat := l.flatMap fun x => (List.range ((x.1 + x.2 - 1) / 4 + 1 - x.1 / 4)).map (· + x.1 / 4)
/-- The words that a bundle's L and W slots access (R168): a word that the L slot reads counts once, one that the W slot writes once per lane. -/
def State.bankWords (s : State) (ops : List SlotOp) : List Nat :=
  let of (n : Nat) : List (Nat × Nat) := (ops.filter fun o => o.slot == n).flatMap fun o => s.scrAccesses o.op
  (wordsOf (of 4)).dedup ++ wordsOf (of 5)
/-- Those of one of the 256 banks. -/
def bankCount (ws : List Nat) (b : Nat) : Nat := (ws.filter fun w => w % 256 == b).length
/-- The cycles that a bundle's scratchpad accesses stall it (R168): the most words of one bank, less one. -/
def State.conflicts (s : State) (ops : List SlotOp) : Nat := ((List.range 256).foldl (fun m b => max m (bankCount (s.bankWords ops) b)) 0) - 1

/-! ### Faults of the slots (R57, R72, R309) -/

/-- A transition has made a core take a trap. -/
def Core.trapped (a b : Core) : Bool := a.sys.level < b.sys.level || (a.iss.trap.isNone && b.iss.trap.isSome) || b.job.isNone
/-- What an operation leaves when it faults, none when it does not. A `trap` is no fault of its bundle. -/
def State.faultOf (s : State) (i : Instr) : Option State :=
  match i with
  | .trap _ => none
  | _ => match exec i s with
    | .next t => if s.me.trapped (t.core s.cur) then some t else none
    | _ => none
/-- The fault of the lowest slot. -/
def State.firstFault (s : State) (ops : List SlotOp) : Option State := ops.findSome? fun o => s.faultOf o.op

/-! ### What a bundle does -/

/-- Write-log entries of an operation (R149, R305). -/
def State.logCount (s : State) (o : SlotOp) : Nat :=
  ((operands o.op).filter fun x => x.w && x.rc == .v).length +
  (match o.op with | .mdrainV f => (drainRegs (s.mhOf f.hs) (f.imm.extractLsb' 0 10).toNat).length | _ => 0)
/-- Withheld memory writes of an operation (R163, R305). -/
def storeCount (o : SlotOp) : Nat :=
  match o.op with
  | .relSt _ | .mwrite _ => 1
  | _ => if o.slot == 5 then 1 else 0
/-- Withheld engine commands of an operation (R198, R251, R305). -/
def cmdCount (o : SlotOp) : Nat :=
  match o.op with
  | .mstatTile _ | .mstatEngine _ | .kstat _ | .kwmrd _ | .ksyncrd _ | .ksyncrdWait _ => 0
  | _ => if o.slot == 6 || o.slot == 7 then 1 else 0
/-- Operations whose bundle commits a checkpoint, whatever their guard holds (R104, R251, R280). -/
def commits : Instr → Bool
  | .atmAdd _ | .atmAnd _ | .atmOr _ | .atmXor _ | .atmMinI64 _ | .atmMaxI64 _ | .atmMinN64 _ | .atmMaxN64 _ | .atmSwp _ | .atmCas _
  | .atmFaddF32 _ | .drain _ | .waitM _ | .waitK _ | .bsync _ | .bsyncWait _ | .barCfg _ | .barArrive _ | .waitaddr _ | .kstat _ | .kwmrd _
  | .ksyncrd _ | .ksyncrdWait _ => true
  | _ => false
/-- Operations of the system class, after which a bundle commits when their guard is true (R304). -/
def isSystem : Instr → Bool
  | .sysrd _ | .syswr _ | .trap _ | .tret _ | .idle _ | .tlbinvVa _ | .tlbinvCtx _ | .tlbinvAll _ | .biasDev _ | .biasHost _ | .stitchIns _
  | .stitchBind _ | .stitchUnbind _ | .stitchDrop _ | .ctxEnd _ => true
  | _ => false
/-- A `trap` or a `tret`, which acts after the other slots (R315, R316). -/
def isLast : Instr → Bool
  | .trap _ | .tret _ => true
  | _ => false
/-- The order in which a bundle's operations act: those that write nothing but registers and read memory, then those whose effects are withheld, in slot order (R102), then a trap or a return from one. -/
def runOrder (ops : List SlotOp) : List SlotOp :=
  (ops.filter fun o => o.slot < 5 && !isLast o.op) ++ (ops.filter fun o => o.slot == 8) ++
  (ops.filter fun o => [5, 6, 7, 9].contains o.slot) ++ ops.filter fun o => isLast o.op
/-- Operations taken one after another. -/
def State.runOps (s : State) (ops : List SlotOp) : State := ops.foldl (fun s o => match exec o.op s with | .next t => t | _ => s) s
/-- The limits of R305 would be passed. -/
def Issue.full (i : Issue) (nv nm nc : Nat) : Bool := 64 < i.nv + nv || 128 < i.nm + nm || 16 < i.nc + nc
/-- A core after its bundle has issued (R75, R139, R304): the next pc, the next eligible cycle, the region's counts, and the checkpoint, whose Commit stands next. -/
def Core.issued (k : Core) (cycle stall nv nm nc : Nat) (ckpt : Bool) : Core :=
  let (pc, pen) : W72 × Nat := match k.iss.next with | some x => x | none => (if k.iss.trap.isSome then k.iss.pc else k.iss.pc + 64, 0)
  { k.walksSpent .core with iss := { k.iss with
    pc := pc, next := none, paid := false, onEngine := false, elig := cycle + 1 + stall + pen, hold := k.iss.hold.withStall stall
    nv := k.iss.nv + nv, nm := k.iss.nm + nm, nc := k.iss.nc + nc, nb := k.iss.nb + 1, ckpt := k.iss.ckpt || ckpt || k.iss.nb + 1 = 256 } }
/-- A bundle counted towards the hard stop (R352). -/
def Job.count (j : Job) (cycle : Nat) : Job :=
  match j.due with
  | none => j
  | some d => { j with issued := j.issued + 1, due := some (if j.budget ≤ j.issued + 1 then min d cycle else d) }
/-- What a bundle adds to its region: write-log entries, withheld memory writes, withheld commands (R149, R305). -/
def State.regionCounts (s : State) (b : Bundle) (live : List SlotOp) : Nat × Nat × Nat :=
  let t := s.swapAll b
  (live.foldl (fun n o => n + t.logCount o) 0, live.foldl (fun n o => n + storeCount o) 0, live.foldl (fun n o => n + cmdCount o) 0)
/-- A pending result that has still to read its banks in a cycle waits for as long as `f` gives for the most held of them (R188). It reads 8 cycles before its result is ready. -/
def Core.waitBanks (k : Core) (cycle : Nat) (f : Nat → Nat) : Core :=
  if k.iss.xlds.isEmpty then k
  else { k with iss := { k.iss with vpend := k.iss.vpend.map fun v => match k.iss.xlds.find? fun x => x.1 == v.id, v.ready with
    | some x, some r => if cycle + 8 ≤ r then { v with ready := some (r + x.2.foldl (fun m b => max m (f b)) 0) } else v
    | _, _ => v } }
/-- The L and W accesses of a bundle begin, on the words `ws`: each holds its banks for a cycle a word, and earlier scratchpad reads of the X slot wait (R168, R188). -/
def State.holdBanks (s : State) (ws : List Nat) : State := s.modMe fun k => k.waitBanks s.cycle (bankCount ws)
/-- A bundle's own scratchpad reads of the X slot, issued in this cycle: one waits a cycle where the bundle's L and W accesses still hold its bank (R188). `s` is the state before the bundle's operations. -/
def State.ownReads (s t : State) (ops : List SlotOp) (stalled : Nat) : State :=
  let plan (o : SlotOp) : List (Nat × List Nat) := match o.op with
    | .xld f => (match s.xldPlan f, t.me.iss.vpend.find? fun v => s.me.iss.nextId ≤ v.id && v.regs == [.ix f.d.toNat] with
      | .scratch x n _, some v => [(v.id, (wordsOf [(x, n)]).map (· % 256))]
      | _, _ => [])
    | _ => []
  let own := ops.flatMap plan
  if own.isEmpty then t
  else
    let ws := s.bankWords ops
    t.modMe fun k =>
      let old := k.iss.xlds.filter fun x => k.iss.vpend.any fun v => v.id == x.1
      let j : Core := { k with iss := { k.iss with xlds := own } }
      let j := j.waitBanks s.cycle fun b => bankCount ws b - stalled
      { j with iss := { j.iss with xlds := old ++ own } }
/-- A bundle that issues now, with its operations whose guard is true (R57, R102, R304). -/
def State.runBundle (s : State) (b : Bundle) (live : List SlotOp) : State :=
  let (nv, nm, nc) := s.regionCounts b live
  let s := (s.meter s.cur 4 (live.filter fun o => o.slot == 2 || o.slot == 3).length).modMe fun k => { k with
    job := k.job.map fun j => j.count s.cycle, iss := { k.iss with next := none } }
  let c := s.cur
  let t := s.swapAll b
  let t := if s.me.iss.paid then t else t.holdBanks (t.bankWords live)
  let s := t.ownReads (t.runOps (runOrder live)) live (t.conflicts live)
  let ckpt := b.hdr.ckpt || b.ops.any (fun o => commits o.op) || live.any fun o => isSystem o.op
  if live.any (fun o => match o.op with | .trap _ => true | _ => false) && (s.core c).iss.trap.isNone then s
  else s.modCore c fun k => k.issued s.cycle b.hdr.stall nv nm nc ckpt

/-! ### Issue -/

/-- The region is full for a bundle: it commits before the bundle issues (R149, R305). -/
def State.mustCommit (s : State) (b : Bundle) (live : List SlotOp) : Bool :=
  let (nv, nm, nc) := s.regionCounts b live
  s.me.iss.full nv nm nc && s.me.iss.nv + s.me.iss.nm + s.me.iss.nc != 0
/-- The cluster's cap stops a bundle that holds a vector operation, whatever its guard, in this cycle (R405). -/
def State.capped (s : State) (b : Bundle) : Bool :=
  b.ops.any (fun o => o.slot == 2 || o.slot == 3) && s.cycle % 8 < (s.hub.clusters.get {} (clusterOf s.cur)).throttle
/-- A legal bundle at the acting core: the commit that a full region needs, then what it waits for, then, in its issue cycle, the scoreboard's check, its faults and watermark waits, lowest slot first, and its effects (R57, R75, R79, R149, R168, R264, R305, R309, R310, R324, R405; log entry 19); none while it waits with nothing to do. -/
def State.issueBundle (s : State) (b : Bundle) : Option State :=
  let t := s.swapAll b
  let live := b.ops.filter fun o => s.me.guardOn o.guard
  if s.mustCommit b live then some (s.modMe Core.commit)
  else match t.missOf live with
    | some va => s.serveMiss va
    | none =>
      let n := t.conflicts live
      if s.capped b then none
      else if 0 < n && !s.me.iss.paid then some ((s.holdBanks (t.bankWords live)).modMe fun k => { k with iss := { k.iss with paid := true, elig := s.cycle + n } })
      else match t.staleSlot b.ops with
        | some n => some (s.precise (cause0 0x02 n))
        | none =>
          let w := t.watermarkOf live
          match t.firstFault (live.filter fun o => match w with | some x => o.slot ≤ x.2.1 | none => true) with
          | some u => some u
          | none => match w with
            | some w => some (s.modMe fun k => { k.commit with iss := { k.commit.iss with wmWait := some w } })
            | none => some (s.runBundle b live)
/-- The acting core issues the bundle whose bits are `w`, or waits. -/
noncomputable def State.issueWord (s : State) (w : BitVec 512) : Option State :=
  if s.interlocked (decodeHeader w) (rawOps w) then s.engineWait (decodeHeader w) (rawOps w)
  else match decodeBundleIn (s.decEnv (decodeHeader w)) w with
    | .error (r, n) => some (s.precise (cause0 0x01 (16 * r + n)))
    | .ok b => s.issueBundle b
/-- The acting core fetches and issues (R16, R138). -/
noncomputable def State.issueHere (s : State) : Option State :=
  if s.me.iss.pc.toNat < 2 ^ 64 && s.pageMissing s.me.iss.pc then s.serveMiss s.me.iss.pc
  else if s.fetchFault then some (s.takeTrap s.cur ⟨TrapKind.boundary, ⟨0x0A, 0, 0, 0, s.me.iss.pc⟩⟩)
  else (s.issueWord s.fetchWord).map s.fetchedTo
/-- A deferred fault comes before the next bundle (R312). -/
def Core.faultWaits (k : Core) : Bool :=
  (match k.eng.frozen with | some f => k.faultNext none f | none => false) ||
  (List.range 16).any fun i => match (k.chan i).frozen with | some f => k.faultNext (some i) f | none => false
/-- A core that may issue in this cycle: it runs, nothing holds it, its commit has been taken, and no trap comes first. -/
def Core.mayIssue (k : Core) (cycle : Nat) : Bool :=
  k.runs && k.iss.elig ≤ cycle && k.iss.hold == .none && k.iss.wmWait.isNone && !k.iss.ckpt && k.iss.trap.isNone && k.iss.poisons.isEmpty && !k.faultWaits
/-- Core `c` acting. -/
def State.at_ (s : State) (c : Nat) : State := { s with cur := c }
/-- Core `c` issues a bundle, or does what its next bundle needs first. -/
noncomputable def State.issue (s : State) (c : Nat) : Option State := if (s.core c).mayIssue s.cycle then (s.at_ c).issueHere else none

/-! ### Micro-words (R230, R233, R247) -/

/-- The sequencer of core `c` takes its next word, or waits, as it does until a bank holds its context (R224). -/
def State.microStep (s : State) (c : Nat) : Option State :=
  let s := s.at_ c
  match s.me.eng.seq with
  | none => none
  | some q =>
    if q.st != .running || s.me.isFrozen || s.me.eng.frozen.isSome || s.cycle < q.elig || s.me.eng.runsBare s.me.ctx then none
    else match decodeMicro (s.me.eng.word s.me.ctx q) with
      | .error _ => s.moved (execStitchStoreError c s)
      | .ok m =>
        if q.pred m.inv m.pc then s.moved (exec m.op s)
        else match m.op with
          | .uloop f => s.moved (s.skipLoop f)
          | _ => s.moved (execUnop s)

end Sys2Proof.Machine
end

