-- ==== Sys2Proof/Machine/Auto.lean ====
section
/-! DEFINITION. What the module does by itself: the automatic transitions, each as early as its rule allows, in one fixed order; the end of a cycle; and the choice of what acts next (log entries 1 and 15). -/
namespace Sys2Proof.Machine

/-! ### What may act (R97, R220, R372)

A slot operation acts when its bundle issues, a micro-operation when its sequencer takes it, and some transitions only within an access or at the end of a cycle. Every other transition may be chosen at any time, and changes nothing where its own condition does not hold. -/

/-- The core whose transition it is, for one that a capture's freeze holds (R372). -/
def actorOf : Instr → Option Nat
  | .commit c | .effectPerform c | .trapEntry c | .deferredFaultDelivery c | .divisionComplete c | .loadComplete c _ | .waitaddrRegister c | .wakeMessage c
  | .waitaddrTimeout c | .drainComplete c | .watermarkWaitRelease c | .copyUnderrun c | .forcedStopResume c | .hardStop c | .stuckHandlerKill c | .coreStart c
  | .matrixEntryReady c _ | .tileFillEnd c _ | .earlyFill c _ | .replicaCopy c _ | .stepDispatch c _ | .stepRowWrite c _ | .matrixCommandComplete c _
  | .matrixDeferredFault c _ | .prefetchService c | .stitchStart c | .stitchBankReload c | .stitchBankReloadEnd c | .stitchStoreError c | .copyPieceWrite c _
  | .copyComplete c _ | .kloopIterationStart c _ | .copyDeferredFault c _ => some c
  | _ => none
/-- The task whose gang a transition moves. -/
def gangOf : Instr → Option Nat
  | .barrierFire t _ | .taskEnd t | .preemptGang t | .sliceEnd t | .gangStateSave t => some t
  | _ => none
/-- Transitions of the memory system, the hub and the outside world, which no core's freeze holds. -/
def isOuter : Instr → Bool
  | .hubCommandComplete _ | .remoteAcknowledge _ _ | .collectiveComplete _ _ _ _ | .relayChunkForward _ _ _ _ _ | .writeBack _ _ _ | .evict _ _ | .fill _ _ _
  | .directoryRecall _ | .l2CompressionEvict _ | .poolWritePerform _ _ | .tlbWalkComplete _ _ _ | .pageMigration _ _ | .frameReuseScrub _ | .cxlHostRead _ _ _
  | .cxlHostWrite _ _ _ | .cxlBudgetChange _ _ | .cxlIoQueueWrite _ _ _ | .cxlHostPoolWrite _ _ | .rmaWrite _ _ _ | .rmaRead _ _ _ | .doorbell _ _ _ _ | .send _ _ _
  | .recordFetch _ _ | .cutComplete _ | .placement | .clusterWake _ | .clusterGate _ | .launchEnd _ | .priorityAging _ | .partitionCreate _ _ | .createContext _
  | .setRoot _ | .bindEndpoint _ | .makeGroup _ | .takeFrames _ | .freeFrames _ | .meterReading _ | .watchdogExpiry _ _ | .operatorCaptureRequest _
  | .captureDumpComplete _ | .captureDrainTimeout _ | .partitionReset _ | .partitionEnable _ | .queueRecover _ _ _ | .arrayParityError _ _ | .correctedError _
  | .uncorrectableError _ _ | .bootStageVerify _ _ | .getVersion | .getCapabilities | .getCertificate | .getMeasurements | .keyExchange | .linkTraining _
  | .linkRetryUp _ _ | .linkDown _ | .stagedPowerUp | .thermalCap _ _ | .shutdown | .moduleReset => true
  | _ => false
/-- Transitions by which an engine or a channel begins something new. -/
def begins : Instr → Bool
  | .matrixEntryReady _ _ | .earlyFill _ _ | .replicaCopy _ _ | .stepDispatch _ _ | .prefetchService _ | .stitchStart _ | .stitchBankReload _
  | .copyPieceWrite _ _ | .kloopIterationStart _ _ => true
  | _ => false
/-- Every core of the gang has stopped, and no stitch runs on: the engines of core `c` begin nothing more (R220, R244, R276, R352). -/
def State.engineStopped (s : State) (c : Nat) : Bool :=
  match (s.core c).job with
  | none => false
  | some j => match s.hub.task? j.task with
    | none => false
    | some t => t.st == .stopping && t.cores.all (fun x => match (s.core x).job with | some y => y.phase == .stopped || y.phase == .halted || y.phase == .done | none => true) &&
        (match (s.core c).eng.seq with | some q => q.st == .yielding || (s.core c).eng.frozen.isSome | none => true)
/-- A core that a capture has frozen takes no transition, but for an effect at the head of its RQ that has begun (R372); one whose gang has stopped begins nothing in its engines. -/
def State.coreAdmits (s : State) (c : Nat) (i : Instr) : Bool :=
  (!(s.core c).isFrozen || (match i with | .effectPerform _ => (s.core c).rqAt.isSome | _ => false)) && !(begins i && s.engineStopped c)
/-- A transition that may be chosen now. -/
def State.admits (s : State) (i : Instr) : Bool :=
  match actorOf i, gangOf i with
  | some c, _ => s.coreAdmits c i
  | none, some t => (match s.hub.task? t with | some t => t.cores.all fun c => !(s.core c).isFrozen | none => false)
  | none, none => isOuter i

/-! ### Automatic transitions

A transition whose condition does not hold answers the state unchanged, so the first of a list that changes the state is the first that is enabled. -/

/-- The first transition of a list that is enabled. -/
noncomputable def State.tryAll (s : State) : List Instr → Option State
  | [] => none
  | i :: t => match s.moved (exec i s) with | some u => some u | none => s.tryAll t
/-- A step of the model's own, where it changes something. -/
def State.changed (s t : State) : Option State := if t = s then none else some t

/-- Transitions listed only under a condition. -/
def onlyIf (b : Bool) (l : List Instr) : List Instr := if b then l else []
/-- A pending result that may be due (R78, R130, R268). -/
noncomputable def resultEvent (s : State) (c : Nat) (k : Core) (v : VarWrite) : List Instr :=
  match v.kind with
  | .division => [Instr.divisionComplete c]
  | .load | .atomic | .status | .sync _ _ => onlyIf (k.varDue v s.cycle) [Instr.loadComplete c v.id]
  | .engine | .hub => []
/-- Results, traps and waits of core `c` that may be due (R78, R203, R264, R290 to R292, R311). -/
noncomputable def resultEvents (s : State) (c : Nat) (k : Core) : List (List Instr) :=
  [k.iss.vpend.flatMap (resultEvent s c k),
   onlyIf (k.iss.trap.isSome || !k.iss.poisons.isEmpty) [Instr.trapEntry c],
   onlyIf (k.eng.frozen.isSome || k.ch.any fun x => x.2.frozen.isSome) [Instr.deferredFaultDelivery c],
   onlyIf k.iss.wmWait.isSome [Instr.watermarkWaitRelease c, Instr.copyUnderrun c],
   onlyIf (s.mem.msgs.any fun m => m.core == c) [Instr.wakeMessage c],
   onlyIf (s.mem.mons.any fun m => m.core == c) [Instr.waitaddrTimeout c]]
/-- The head of core `c`'s RQ (R102, R122, R290). -/
noncomputable def headEvents (c : Nat) (k : Core) : List (List Instr) :=
  [onlyIf (!k.rq.isEmpty) [Instr.effectPerform c, Instr.drainComplete c], onlyIf (!k.rq.isEmpty && k.runs) [Instr.waitaddrRegister c]]
/-- The matrix engine and the sequencer of core `c` (R196 to R204, R217, R224, R227). -/
noncomputable def engineEvents (c : Nat) (k : Core) : List (List Instr) :=
  [k.eng.all.flatMap fun m => [Instr.matrixCommandComplete c m.id, Instr.matrixDeferredFault c m.id],
   k.eng.insts.map fun i => Instr.tileFillEnd c i.id,
   k.eng.runs.map fun r => Instr.stepRowWrite c r.arr,
   k.eng.all.flatMap fun m => [Instr.matrixEntryReady c m.id, Instr.stepDispatch c m.id],
   k.eng.insts.map fun i => Instr.replicaCopy c i.id,
   onlyIf (!k.eng.pfq.isEmpty) [Instr.prefetchService c],
   onlyIf (!k.eng.q.isEmpty) [Instr.stitchStart c, Instr.stitchBankReload c],
   onlyIf (!k.eng.reload.isEmpty) [Instr.stitchBankReloadEnd c]]
/-- The copy channels of core `c` (R255, R256, R260). -/
noncomputable def copyEvents (c : Nat) (k : Core) : List (List Instr) :=
  k.ch.map fun x => onlyIf (!x.2.q.isEmpty) [Instr.copyPieceWrite c x.1, Instr.kloopIterationStart c x.1, Instr.copyComplete c x.1, Instr.copyDeferredFault c x.1]
/-- A job whose start is placed and has not come (R350). -/
def Job.isStarting (j : Job) : Bool := match j.phase with | .starting _ => true | _ => false
/-- The distributor's transitions on core `c` (R142, R344, R352). -/
noncomputable def stopEvents (s : State) (c : Nat) (k : Core) : List (List Instr) :=
  match k.job with
  | none => []
  | some j => [onlyIf j.due.isSome [Instr.hardStop c, Instr.stuckHandlerKill c], onlyIf j.isStarting [Instr.coreStart c], onlyIf (s.resumes c) [Instr.forcedStopResume c]]
/-- Every transition of core `c` that may be enabled: the Commit of a checkpoint comes first (R104). -/
noncomputable def coreEvents (s : State) (c : Nat) (k : Core) : List Instr :=
  [onlyIf k.iss.ckpt [Instr.commit c], (stopEvents s c k).flatten, (resultEvents s c k).flatten, (headEvents c k).flatten, (engineEvents c k).flatten, (copyEvents c k).flatten].flatten
/-- A core's own moves that are no row of the opcode table: its arrival at a barrier, the schedule's initial release, the end of its part (R262, R283, R317). -/
noncomputable def State.ownMoves (s : State) (c : Nat) : Option State :=
  match s.changed (s.bsyncArrive c) with
  | some u => some u
  | none => match s.changed (s.initialRelease c) with
    | some u => some u
    | none => s.changed (s.endIdle c)
/-- What is enabled at core `c`; a frozen core makes no move of its own (R372). -/
noncomputable def State.coreAuto (s : State) (c : Nat) : Option State :=
  let k := s.core c
  match s.tryAll ((coreEvents s c k).filter s.admits) with
  | some u => some u
  | none => if k.isFrozen then none else s.ownMoves c

/-- Captures and resets of a partition (R370 to R372): a freeze is followed by its dump. -/
noncomputable def captureEvent (p : Nat) (x : Part) : List Instr :=
  match x.st with
  | .capturing => [Instr.captureDumpComplete p]
  | .resetting => [Instr.captureDrainTimeout p, Instr.partitionReset p]
  | .running => (List.range x.queues.length).map fun q => Instr.watchdogExpiry p q
  | .halted => []
/-- Those of every partition. -/
noncomputable def captureEvents (s : State) : List Instr := s.hub.partList.flatMap fun x => captureEvent x.1 x.2
/-- The Write-backs of a core's L1 that come by themselves, once a line has held dirty bytes as long as the device lets it (R98, R108; log entry 15). -/
noncomputable def staleSectors (s : State) (c : Nat) (k : Core) : List Instr :=
  k.l1.flatMap fun x => onlyIf ((x.2.s0.isDirty || x.2.s1.isDirty) && x.2.since + Config.writeBackDelay ≤ s.cycle) [Instr.writeBack c x.1 0, Instr.writeBack c x.1 1]
/-- What becomes of a remote operation whose port is down (R122, R403): it fails, dead. -/
noncomputable def deadNet (s : State) (o : NetOp) : List Instr :=
  match o.coll with
  | some x => onlyIf (!x.ended && s.memberDead x.cmd x.group) [Instr.collectiveComplete o.core o.id [] 1]
  | none => onlyIf (o.answer.isNone && o.qp.any fun q => !s.hub.qpUp q) [Instr.remoteAcknowledge o.id .dead]
/-- Write-backs, walks, frames, remote operations and hub commands (R98, R108, R111, R318, R325, R327, R328, R408). A remote write performs when its unloaded time has passed; the answers of a peer module come by the agenda. -/
noncomputable def memoryEvents (s : State) : List (List Instr) :=
  [s.cores.flatMap fun x => staleSectors s x.1 x.2,
   s.hub.net.flatMap (deadNet s),
   s.hub.moves.map fun m => Instr.pageMigration m.ctx m.vpn,
   s.hub.walks.map fun w => Instr.tlbWalkComplete w.die w.ctx w.vpn,
   s.hub.cmds.map fun x => Instr.hubCommandComplete x.core,
   s.mem.inflight.flatMap fun w => onlyIf (w.since + 1120 ≤ s.cycle) [Instr.poolWritePerform w.id (RemoteResult.ok [])],
   s.hub.migr.map fun x => Instr.pageMigration x.1 x.2.1,
   s.hub.scrub.map fun x => Instr.frameReuseScrub x.1]
/-- The control rings (R360): the next record's own op, or the overrun that stops the ring. -/
noncomputable def controlEvents (s : State) : List Instr :=
  s.hub.partList.flatMap fun x => onlyIf (s.ctlNext x.1).isSome
    [Instr.createContext x.1, Instr.setRoot x.1, Instr.bindEndpoint x.1, Instr.makeGroup x.1, Instr.takeFrames x.1, Instr.freeFrames x.1]
/-- A task's transitions (R281, R346 to R352). -/
noncomputable def taskEvent (id : Nat) (t : Task) : List Instr :=
  List.append (t.arrived.map fun y => Instr.barrierFire id y.1)
    [Instr.taskEnd id, Instr.gangStateSave id, Instr.priorityAging id, Instr.preemptGang id, Instr.sliceEnd id]
/-- Launches, tasks and clusters (R281, R337 to R357, R404). -/
noncomputable def launchEvents (s : State) : List (List Instr) :=
  [s.hub.partList.flatMap fun x => (List.range x.2.queues.length).map fun q => Instr.recordFetch x.1 q,
   s.hub.tasks.flatMap fun x => match x.2 with | some t => taskEvent x.1 t | none => [],
   s.hub.launches.flatMap fun x => [Instr.cutComplete x.1, Instr.launchEnd x.1],
   s.hub.clusters.map fun x => Instr.clusterWake x.1,
   onlyIf (!s.hub.tasks.isEmpty) [Instr.placement],
   s.hub.clusters.map fun x => Instr.clusterGate x.1,
   onlyIf s.hub.boot.trained [Instr.stagedPowerUp]]
/-- The first enabled transition: captures, then core by core, then the hub. -/
noncomputable def State.auto (s : State) : Option State :=
  match s.tryAll (captureEvents s) with
  | some u => some u
  | none => match (s.cores.map (·.1)).findSome? s.coreAuto with
    | some u => some u
    | none => s.tryAll ([(memoryEvents s).flatten, controlEvents s, (launchEvents s).flatten].flatten.filter s.admits)

/-! ### Issue of all cores -/

/-- The first core whose sequencer or issue can act in this cycle. -/
noncomputable def State.act (s : State) : Option State :=
  (s.cores.map (·.1)).findSome? fun c => match s.microStep c with
    | some u => some u
    | none => s.issue c

/-! ### The end of a cycle -/

/-- A core that counts cycles (R300, R391): its task has started and is not frozen. -/
def Core.counts (k : Core) : Bool := match k.job with
  | some j => (match j.phase with | .starting _ | .frozen => false | _ => true)
  | none => false
/-- Drain statuses that become visible to `tsrd` (R209, R210): they are sticky. -/
def Core.statuses (k : Core) (cycle : Nat) : Core :=
  { k with
    ts := (k.tsNew.filter fun x => x.2.1 ≤ cycle).foldl (fun b x => b.put 0 x.1 (b.get 0 x.1 ||| x.2.2)) k.ts
    tsNew := k.tsNew.filter fun x => !(x.2.1 ≤ cycle) }
/-- A core at the end of a cycle: fixed-latency writes land (FIXED_LATENCY_WRITE, R76), statuses appear, the clock and the cycle meter go on (R300, R391, R405). -/
def Core.tick (k : Core) (cycle : Nat) : Core :=
  let k := (k.retire cycle).statuses cycle
  if k.counts then { k with sys := { k.sys with clock := k.sys.clock + 1 }, count := k.count.put 0 0 (k.count.get 0 0 + 1), recent := k.recent.put 0 0 (k.recent.get 0 0 + 1) } else k
/-- A barrier configuration counts from the next cycle on (R281). -/
def Hub.newMasks (h : Hub) : Hub := { h with tasks := h.tasks.map fun x => (x.1, x.2.map fun t => t.newMasks) }
/-- A cluster with a busy core is not idle (R349). -/
def Hub.markBusy (h : Hub) (cores : Bank Core) (cycle : Nat) : Hub :=
  { h with clusters := h.clusters.map fun x => (x.1, if cores.any fun y => clusterOf y.1 == x.1 && y.2.job.isSome then { x.2 with busyAt := cycle } else x.2) }
/-- The engine of a core at the end of a cycle: the rows that must wait come later, and one block goes through the fill port (R199, R264); a frozen one stands (R372). -/
def State.engineTick (s : State) (c : Nat) : State :=
  let k := s.core c
  if k.isFrozen then s
  else
    let s := s.holdRows c
    if k.eng.insts.isEmpty && k.eng.pins.isEmpty && k.eng.repl.isEmpty then s else s.fillBlock c
/-- What the hub does at fixed times: throttles each microsecond, meters every 10 µs, migration counters each millisecond, the energy scale each second (R326, R366, R367, R405). -/
def State.timed (s : State) : State :=
  let s := if s.cycle % 4000 = 0 then (List.range 32).foldl State.powerTick s else s
  let s := if s.cycle % 40000 = 0 then s.updateMeters else s
  let s := if s.cycle % 4000000 = 0 then s.halveCounters else s
  if s.cycle % 4000000000 = 0 then s.modHub fun h => h.scaleAll (Config.packageEnergy s.cycle) 1 else s
/-- The cycle ends: every core's engine and writes, the hosts' write-backs, and what the hub does at fixed times (R199, R281, R331, R349). -/
def State.tick (s : State) : State :=
  let s := (s.cores.map (·.1)).foldl State.engineTick s
  let s : State := { s with
    cores := s.cores.map fun x => (x.1, x.2.tick s.cycle)
    hub := (s.hub.newMasks).markBusy s.cores s.cycle
    cycle := s.cycle + 1 }
  s.hostWriteBacks.timed

/-- What the module does next by itself: an automatic transition, else one micro-word or bundle, else the cycle ends. -/
noncomputable def State.advance (s : State) : State :=
  match s.auto with
  | some u => u
  | none => match s.act with
    | some u => u
    | none => s.tick

end Sys2Proof.Machine
end

