-- ==== Sys2Proof/Machine/Step.lean ====
section
/-! DEFINITION. One step of the module, and a state in which a given instruction is the next that a step runs (log entries 1 and 14). -/
namespace Sys2Proof.Machine

/-- One step: the head of the agenda when it holds a transition, which acts if a rule admits it (R97) and else is dropped; with an empty agenda, what the module does next by itself. -/
noncomputable def step (s : State) : Host.Outcome State Fault Refusal :=
  match s.agenda with
  | i :: t => if s.admits i then exec i { s with agenda := t } else .next { s with agenda := t }
  | [] => .next s.advance

/-- Core `c` stands at a bundle whose 64 bytes hold `w`: it runs a task with every resource declared, and its TLB maps the page of its pc to the second frame of memory. -/
def State.placeBundle (s : State) (c w : Nat) : State :=
  let k := s.core c
  let j : Job := match k.job with | some j => { j with phase := Phase.running } | none => ⟨0, 0, 0, 0, 1024, 32, 0x100000, 8192, Phase.running, none, 0⟩
  let va := k.iss.pc.toNat
  let pa := 65536 + va % 4096
  let e : TlbEntry := ⟨j.ctx, va / 4096, 12, BitVec.ofNat 64 (65536 + 0x73)⟩
  let s := s.setCore c { k with
    job := some j
    tlb := e :: k.tlb
    icache := k.icache.filter fun x => x.1 != pa
    iss := { k.iss with elig := s.cycle, hold := Hold.none, wmWait := none, trap := none, poisons := [], ckpt := false } }
  { s with agenda := [], mem := s.mem.write pa (leList 64 w) }
/-- Core `c`'s sequencer stands at a micro-word: a stitch of bank 0 runs, whose only word is `w`. -/
def State.placeMicro (s : State) (c w : Nat) : State :=
  let m : MEntry := ⟨0, MOp.stitch true 0 65535 0 [] [], false, MSt.running, 0, 0, 0, 0, 0⟩
  let s := s.modCore c fun k => { k with eng := { k.eng with q := [m], seq := some { entry := 0, bank0 := true, upc := 0, depth := 65535, elig := s.cycle, prog := [BitVec.ofNat 64 w] }, nextId := max 1 k.eng.nextId } }
  { s with agenda := [] }
/-- The state in which the next step runs the instruction whose bits are `w`: a 64-bit one is a micro-word, any other a bundle (log entry 14). -/
def State.withFetchWord (s : State) (nbits w : Nat) : State := if nbits = 64 then s.placeMicro 0 w else s.placeBundle 0 w

end Sys2Proof.Machine
end

