-- ==== Sys2Proof/Safety.lean ====
section
/-! DEFINITION. What counts as a safe run, and the frames in which claims say what stays unchanged. -/
namespace Sys2Proof.Machine

/-- The invariant that every step keeps: device memory is in its canonical form, so that equal memories are equal data. -/
def State.sound (s : State) : Prop := s.mem.wf = true
/-- A state from which the module goes on: it is sound, and its step ends neither in a fault nor in a refusal. -/
def State.safe (s : State) : Prop := s.sound ∧ ∃ t, step s = .next t
/-- Every byte of device memory reads as before. -/
def State.sameBytes (s t : State) : Prop := ∀ a, t.mem.byte a = s.mem.byte a
/-- Nothing outside core `c` differs: memory with its bytes, descriptors, owners and caches of the homes, the hub, the clock, what has left the module and every other core. -/
def State.onlyCore (s t : State) (c : Nat) : Prop :=
  t.mem = s.mem ∧ t.hub = s.hub ∧ t.cycle = s.cycle ∧ t.outbox = s.outbox ∧ t.agenda = s.agenda ∧ t.fresh = s.fresh ∧ ∀ d, d ≠ c → t.core d = s.core d
/-- A core in which nothing differs but fixed-latency writes that have been issued: its registers, vectors, accumulators, scratchpad, queues, L1, traps and counts stay. -/
def Core.onlyPend (a b : Core) : Prop := b = { a with iss := { a.iss with pend := b.iss.pend } }
/-- A core in which nothing differs but effects that have been withheld. -/
def Core.onlyWithheld (a b : Core) : Prop := b = { a with wb := b.wb }
/-- A core in which nothing differs but the target chosen by a branch and fixed-latency writes. -/
def Core.onlyBranch (a b : Core) : Prop := b = { a with iss := { a.iss with next := b.iss.next, pend := b.iss.pend } }
/-- The acting core issues fixed-latency writes `ws` of latency `lat`, each due at the end of cycle + lat − 1, and nothing else changes anywhere (R76). -/
def State.issues (s t : State) (lat : Nat) (ws : List Wr) : Prop :=
  s.onlyCore t s.cur ∧ s.me.onlyPend t.me ∧ t.cur = s.cur ∧
  t.me.iss.pend = s.me.iss.pend ++ ws.map fun w => ⟨s.cycle + lat - 1, s.me.iss.region, w⟩
/-- The acting core withholds effects `es` in WB, and nothing else changes anywhere (R102). -/
def State.withholds (s t : State) (es : List Effect) : Prop :=
  s.onlyCore t s.cur ∧ s.me.onlyWithheld t.me ∧ t.cur = s.cur ∧ t.me.wb = s.me.wb ++ es
/-- The acting core registers the pending result `v`, and nothing else changes anywhere (R78). -/
def State.pends (s t : State) (v : VarWrite) : Prop :=
  s.onlyCore t s.cur ∧ t.cur = s.cur ∧ v.id = s.me.iss.nextId ∧ v.region = s.me.iss.region ∧
  t.me = { s.me with iss := { s.me.iss with vpend := s.me.iss.vpend ++ [v], nextId := s.me.iss.nextId + 1 } }
/-- The acting core withholds effects `es` and registers pending results `vs`; its TLB may take the pages it used; nothing else changes anywhere (R78, R102, R324). -/
def State.withholdsFor (s t : State) (es : List Effect) (vs : List VarWrite) : Prop :=
  s.onlyCore t s.cur ∧ t.cur = s.cur ∧ (∀ v ∈ vs, v.id = s.me.iss.nextId ∧ v.region = s.me.iss.region) ∧
  t.me = { s.me with wb := s.me.wb ++ es, tlb := t.me.tlb, iss := { s.me.iss with vpend := s.me.iss.vpend ++ vs, nextId := s.me.iss.nextId + vs.length } }
/-- Everything that instructions compute with stays in a core: its registers and their shadow, vectors, accumulators, scratchpad, tile status, system registers, and the effects it has withheld or released. -/
def Core.keeps (a b : Core) : Prop :=
  b.regs = a.regs ∧ b.sh = a.sh ∧ b.vec = a.vec ∧ b.acc = a.acc ∧ b.scr = a.scr ∧ b.ts = a.ts ∧ b.sys = a.sys ∧ b.wb = a.wb ∧ b.rq = a.rq
/-- A dirty copy of byte `a` holds `b`: in some core's L1, or at a host that has modified its window sector (R99, R331). -/
def State.dirtyCopy (s : State) (a : Nat) (b : Byte) : Prop :=
  (∃ c, (((s.core c).line (a / 128)).sec (a / 64)).dirty.getLsbD (a % 64) = true ∧ (((s.core c).line (a / 128)).sec (a / 64)).byte (a % 64) = b) ∨ ∃ x ∈ s.mem.fabric, (a, b) ∈ x.2.mods
/-- What a read may do to the rest of the machine: every core keeps what its instructions compute with, and a byte at its home changes only by the Write-back of a dirty copy, which gives it that copy's value and raises the version of its line (R103, R108, R109, R173). -/
def State.reads (s t : State) : Prop :=
  (∀ c, (s.core c).keeps (t.core c)) ∧ t.cycle = s.cycle ∧ t.cur = s.cur ∧ t.agenda = s.agenda ∧
  ∀ a, t.mem.byte a ≠ s.mem.byte a → s.dirtyCopy a (t.mem.byte a) ∧ s.mem.ver.get 0 (a / 128) < t.mem.ver.get 0 (a / 128)

end Sys2Proof.Machine
end

