-- ==== Sys2Proof/Certificates/Slice0/Obligations.lean ====
section
/-! DEFINITION. The statements for the provers, family by family, from the spec's numbered rules, with the vocabulary that they share under Sys2Proof.Claims. -/

/-! ### The scalar class -/

namespace Sys2Proof.Claims
open Sys2Proof.Machine

/-- Register s[n] of the acting core, as a slot reads it. -/
abbrev sr (s : State) (n : BitVec 6) : W64 := s.me.regs.rs n.toNat
/-- Register a[n] of the acting core, as a slot reads it. -/
abbrev ar (s : State) {k : Nat} (n : BitVec k) : W72 := s.me.regs.ra n.toNat
/-- Guard g[n] of the acting core, as a slot reads it. -/
abbrev gr (s : State) (n : BitVec 6) : Bool := s.me.regs.rg n.toNat
/-- Instruction `i` completes at `s` and issues exactly the fixed-latency writes `ws` of latency `lat`. -/
def writes (i : Instr) (s : State) (lat : Nat) (ws : List Wr) : Prop := ∃ t, exec i s = .next t ∧ s.issues t lat ws

/-- The table of R127: opcode, instruction, latency (R125), and s[d] from a and b on whole numbers; a result is taken modulo 2^64. -/
def tableSR : List (Nat × (SR → Instr) × Nat × (W64 → W64 → Int)) :=
  [(0x01, Instr.add, 1, fun a b => a.toNat + b.toNat),
   (0x02, Instr.sub, 1, fun a b => a.toNat - b.toNat),
   (0x03, Instr.and, 1, fun a b => (a &&& b).toNat),
   (0x04, Instr.or, 1, fun a b => (a ||| b).toNat),
   (0x05, Instr.xor, 1, fun a b => (a ^^^ b).toNat),
   (0x06, Instr.andn, 1, fun a b => (a &&& ~~~b).toNat),
   (0x07, Instr.shl, 1, fun a b => a.toNat * 2 ^ (b.toNat % 64)),
   (0x08, Instr.shr, 1, fun a b => ((a.toNat / 2 ^ (b.toNat % 64) : Nat) : Int)),
   (0x09, Instr.sar, 1, fun a b => a.toInt / 2 ^ (b.toNat % 64)),
   (0x0A, Instr.rotl, 1, fun a b => ((a.toNat * 2 ^ (b.toNat % 64) + a.toNat / 2 ^ (64 - b.toNat % 64) : Nat) : Int)),
   (0x0B, Instr.minI64, 1, fun a b => min a.toInt b.toInt),
   (0x0C, Instr.maxI64, 1, fun a b => max a.toInt b.toInt),
   (0x0D, Instr.minN64, 1, fun a b => ((min a.toNat b.toNat : Nat) : Int)),
   (0x0E, Instr.maxN64, 1, fun a b => ((max a.toNat b.toNat : Nat) : Int)),
   (0x0F, Instr.mul, 3, fun a b => ((a.toNat * b.toNat : Nat) : Int)),
   (0x10, Instr.mulhI64, 3, fun a b => a.toInt * b.toInt / 2 ^ 64),
   (0x11, Instr.mulhN64, 3, fun a b => ((a.toNat * b.toNat / 2 ^ 64 : Nat) : Int))]

/-- The table of R128: opcode, instruction, latency, the immediates it admits beyond the field's own range, and s[d] from a and imm39 on whole numbers. -/
def tableSI : List (Nat × (SI → Instr) × Nat × (BitVec 39 → Bool) × (W64 → BitVec 39 → Int)) :=
  [(0x20, Instr.addi, 1, fun _ => true, fun a i => a.toNat + i.toInt),
   (0x21, Instr.andi, 1, fun _ => true, fun a i => (a &&& BitVec.ofInt 64 i.toInt).toNat),
   (0x22, Instr.ori, 1, fun _ => true, fun a i => (a ||| BitVec.ofInt 64 i.toInt).toNat),
   (0x23, Instr.xori, 1, fun _ => true, fun a i => (a ^^^ BitVec.ofInt 64 i.toInt).toNat),
   (0x24, Instr.shli, 1, fun i => i.toNat ≤ 63, fun a i => a.toNat * 2 ^ i.toNat),
   (0x25, Instr.shri, 1, fun i => i.toNat ≤ 63, fun a i => ((a.toNat / 2 ^ i.toNat : Nat) : Int)),
   (0x26, Instr.sari, 1, fun i => i.toNat ≤ 63, fun a i => a.toInt / 2 ^ i.toNat),
   (0x27, Instr.muli, 3, fun _ => true, fun a i => a.toNat * i.toInt),
   (0x28, Instr.miniI64, 1, fun _ => true, fun a i => min a.toInt i.toInt),
   (0x29, Instr.maxiI64, 1, fun _ => true, fun a i => max a.toInt i.toInt),
   (0x2A, Instr.sexti, 1, fun i => 1 ≤ i.toNat && i.toNat ≤ 64, fun a i => (BitVec.ofNat i.toNat a.toNat).toInt),
   (0x2B, Instr.zexti, 1, fun i => 1 ≤ i.toNat && i.toNat ≤ 64, fun a i => ((a.toNat % 2 ^ i.toNat : Nat) : Int))]

/-- The compares of R132 on two scalars: opcode, instruction, condition. -/
def tableCmp : List (Nat × (SR → Instr) × (W64 → W64 → Bool)) :=
  [(0x30, Instr.ceq, fun a b => decide (a.toNat = b.toNat)),
   (0x31, Instr.cne, fun a b => decide (a.toNat ≠ b.toNat)),
   (0x32, Instr.cltI64, fun a b => decide (a.toInt < b.toInt)),
   (0x33, Instr.cltN64, fun a b => decide (a.toNat < b.toNat)),
   (0x34, Instr.cleI64, fun a b => decide (a.toInt ≤ b.toInt)),
   (0x35, Instr.cleN64, fun a b => decide (a.toNat ≤ b.toNat)),
   (0x36, Instr.ctst, fun a b => decide ((a &&& b).toNat ≠ 0)),
   (0x37, Instr.cnz, fun a _ => decide (a.toNat ≠ 0))]

/-- The compares of R132 with an immediate, which is sign-extended first. -/
def tableCmpI : List (Nat × (SI → Instr) × (W64 → BitVec 39 → Bool)) :=
  [(0x38, Instr.ceqi, fun a i => decide (a.toInt = i.toInt)),
   (0x39, Instr.cnei, fun a i => decide (a.toInt ≠ i.toInt)),
   (0x3A, Instr.cltiI64, fun a i => decide (a.toInt < i.toInt)),
   (0x3B, Instr.cltiN64, fun a i => decide (a.toNat < (BitVec.ofInt 64 i.toInt).toNat)),
   (0x3C, Instr.cleiI64, fun a i => decide (a.toInt ≤ i.toInt)),
   (0x3D, Instr.cleiN64, fun a i => decide (a.toNat ≤ (BitVec.ofInt 64 i.toInt).toNat)),
   (0x3E, Instr.ctsb, fun a i => a.getLsbD i.toNat)]

/-- The guard combinations of R133. -/
def tableG : List (Nat × (SR → Instr) × (Bool → Bool → Bool)) :=
  [(0x40, Instr.gand, fun a b => a && b), (0x41, Instr.gor, fun a b => a || b),
   (0x42, Instr.gxor, fun a b => a != b), (0x43, Instr.gandn, fun a b => a && !b)]

/-- The division opcodes of R129: opcode, instruction, signed, width, remainder. -/
def tableDiv : List (Nat × (SR → Instr) × Bool × Nat × Bool) :=
  [(0x12, Instr.divI32, true, 32, false), (0x13, Instr.divN32, false, 32, false),
   (0x14, Instr.divI64, true, 64, false), (0x15, Instr.divN64, false, 64, false),
   (0x16, Instr.remI32, true, 32, true), (0x17, Instr.remN32, false, 32, true),
   (0x18, Instr.remI64, true, 64, true), (0x19, Instr.remN64, false, 64, true)]

/-- The low w bits of a value as R129 reads an operand: sign-extended for type i, zero-extended for type n. -/
def divOperand (sgn : Bool) (w : Nat) (a : W64) : Int := if sgn then (BitVec.ofNat w a.toNat).toInt else (a.toNat % 2 ^ w : Nat)
/-- Quotient and remainder by the algorithm of R129. The most negative number over −1 needs no case of its own: its quotient is 2^(w−1), whose w bits are those of −2^(w−1). -/
def divQR (sgn : Bool) (w : Nat) (a b : W64) : Int × Int :=
  let x := divOperand sgn w a
  let y := divOperand sgn w b
  if y = 0 then (2 ^ w - 1, x) else (x.tdiv y, x - x.tdiv y * y)
/-- The result as s[d] takes it (R129). -/
def divResult (sgn : Bool) (w : Nat) (rem : Bool) (a b : W64) : W64 :=
  let r := if rem then (divQR sgn w a b).2 else (divQR sgn w a b).1
  if sgn then (BitVec.ofInt w r).signExtend 64 else (BitVec.ofInt w r).setWidth 64

end Sys2Proof.Claims

open Sys2Proof Sys2Proof.Machine Sys2Proof.Claims

/-- R127 with the latencies of R125: every integer operation of format SR issues one write, of s[d], with the value of the table modulo 2^64; it takes no trap, sets no flag and touches nothing else. -/
def Obligations.ScalarRegisterForms : Prop :=
  ∀ row ∈ tableSR, ∀ (f : SR) (s : State),
    (encodeOpS (row.2.1 f)).map Prod.fst = some row.1 ∧
    writes (row.2.1 f) s row.2.2.1 [.s f.d.toNat (BitVec.ofInt 64 (row.2.2.2 (sr s f.a) (sr s f.b)))]

/-- R128: every immediate form issues one write of s[d], with the value of the table modulo 2^64, for every immediate within its limits; an immediate outside them is refused for reason 4. -/
def Sys2Proof.Claims.ScalarImmediateForms : Prop :=
  ∀ row ∈ tableSI, ∀ (f : SI) (s : State),
    (encodeOpS (row.2.1 f)).map Prod.fst = some row.1 ∧
    (row.2.2.2.1 f.imm = false → fieldReason 1024 32 (row.2.1 f) = some 4) ∧
    (row.2.2.2.1 f.imm = true → wf (row.2.1 f) = true ∧
      writes (row.2.1 f) s row.2.2.1 [.s f.d.toNat (BitVec.ofInt 64 (row.2.2.2.2 (sr s f.a) f.imm))])

/-- R131: `li` and `ali` load the sign-extended imm45; `lih` and `alih` replace the bits from 45 up by the immediate and keep bits 44:0; an `lih` or `alih` whose upper immediate bits are not zero is refused for reason 2. -/
def Sys2Proof.Claims.WideImmediates : Prop :=
  ∀ (f : SW) (s : State),
    writes (.li f) s 1 [.s f.d.toNat (BitVec.ofInt 64 f.imm.toInt)] ∧
    writes (.lih f) s 1 [.s f.d.toNat (BitVec.ofNat 64 (f.imm.toNat % 2 ^ 19 * 2 ^ 45 + (sr s f.d).toNat % 2 ^ 45))] ∧
    writes (.ali f) s 1 [.a f.d.toNat (BitVec.ofInt 72 f.imm.toInt)] ∧
    writes (.alih f) s 1 [.a f.d.toNat (BitVec.ofNat 72 (f.imm.toNat % 2 ^ 27 * 2 ^ 45 + (ar s f.d).toNat % 2 ^ 45))] ∧
    (2 ^ 19 ≤ f.imm.toNat → fieldReason 1024 32 (.lih f) = some 2) ∧
    (2 ^ 27 ≤ f.imm.toNat → fieldReason 1024 32 (.alih f) = some 2)

/-- R129 with the trap's condition as R301 has it: a division by zero with dze set and dzo clear takes the divide-by-zero trap and nothing else; any other division registers exactly one pending result, s[d] with the value of R129, and where dzo covered a zero divisor it also clears dzo. A zero divisor's 2 cycles are R130's; that any other quotient is there 6 cycles after issue is the model's choice, the least of R130's 6 to 18 and 6 to 34 (log entry 17). -/
def Obligations.DivisionForms : Prop :=
  ∀ row ∈ tableDiv, ∀ (f : SR) (s : State),
    let zero : Bool := divOperand row.2.2.1 row.2.2.2.1 (sr s f.b) = 0
    let dze := s.me.regs.ckcfg.getLsbD 1
    let dzo := s.me.regs.ckcfg.getLsbD 2
    (encodeOpS (row.2.1 f)).map Prod.fst = some row.1 ∧
    (zero = true ∧ dze = true ∧ dzo = false → exec (row.2.1 f) s = .next (s.precise (cause0 0x04 1))) ∧
    (¬ (zero = true ∧ dze = true ∧ dzo = false) → ∃ t u v, exec (row.2.1 f) s = .next t ∧ s.pends u v ∧
      v.kind = .division ∧ v.regs = [.s f.d.toNat] ∧ v.hold = false ∧ v.poison = none ∧
      v.wr = [.s f.d.toNat (divResult row.2.2.1 row.2.2.2.1 row.2.2.2.2 (sr s f.a) (sr s f.b))] ∧
      v.ready = some (s.cycle + if zero then 2 else 6) ∧
      (zero = true ∧ dze = true → u.issues t 1 [.sys 0x000 ((s.me.regs.ckcfg &&& 0b011).setWidth 64)]) ∧
      (¬ (zero = true ∧ dze = true) → t = u))

/-- R132: every compare issues one write of one guard, 1 where the condition of the table holds and 0 otherwise; immediates are sign-extended before every comparison. The guard is one of g1 to g15, and the bit that `ctsb` names one of 63 to 0. -/
def Sys2Proof.Claims.CompareForms : Prop :=
  (∀ row ∈ tableCmp, ∀ (f : SR) (s : State),
    (encodeOpS (row.2.1 f)).map Prod.fst = some row.1 ∧ writes (row.2.1 f) s 1 [.g f.d.toNat (row.2.2 (sr s f.a) (sr s f.b))]) ∧
  (∀ row ∈ tableCmpI, ∀ (f : SI) (s : State),
    (encodeOpS (row.2.1 f)).map Prod.fst = some row.1 ∧ writes (row.2.1 f) s 1 [.g f.d.toNat (row.2.2 (sr s f.a) f.imm)]) ∧
  (∀ row ∈ tableCmp, ∀ f : SR, wf (row.2.1 f) = true → 1 ≤ f.d.toNat ∧ f.d.toNat ≤ 15 ∧ (row.1 = 0x37 → f.b = 0)) ∧
  ∀ row ∈ tableCmpI, ∀ f : SI, wf (row.2.1 f) = true → 1 ≤ f.d.toNat ∧ f.d.toNat ≤ 15 ∧ (row.1 = 0x3E → f.imm.toNat ≤ 63)

/-- R133: `gand` to `gandn` write one guard from two guards, of which g0 reads 1; `gtos` gives a scalar whose bit i is g[i] for i up to 15 and zero above; `stog` writes g1 to g15 from bits 1 to 15 of s[a] and no other register, and counts as a writer of them all. -/
def Sys2Proof.Claims.GuardForms : Prop :=
  (∀ row ∈ tableG, ∀ (f : SR) (s : State),
    (encodeOpS (row.2.1 f)).map Prod.fst = some row.1 ∧ writes (row.2.1 f) s 1 [.g f.d.toNat (row.2.2 (gr s f.a) (gr s f.b))]) ∧
  (∀ s : State, s.me.regs.rg 0 = true) ∧
  (∀ (f : SR) (s : State), ∃ v : W64, writes (.gtos f) s 1 [.s f.d.toNat v] ∧ v.getLsbD 0 = true ∧
    (∀ i < 16, v.getLsbD i = s.me.regs.rg i) ∧ ∀ i, 16 ≤ i → v.getLsbD i = false) ∧
  (∀ (f : SR) (s : State), ∃ ws, writes (.stog f) s 1 ws ∧
    ∀ w, w ∈ ws ↔ ∃ i, 1 ≤ i ∧ i ≤ 15 ∧ w = .g i ((sr s f.a).getLsbD i)) ∧
  ∀ f : SR, (wf (.gtos f) = true → f.a = 0 ∧ f.b = 0) ∧ (wf (.stog f) = true → f.d = 0 ∧ f.b = 0) ∧ ∀ i, 1 ≤ i → i ≤ 15 → (⟨.g, i, true⟩ : Opnd) ∈ operands (.stog f)

/-- R134: address arithmetic in 72 bits, the clamped difference, and the moves between scalars and addresses. -/
def Sys2Proof.Claims.AddressForms : Prop :=
  (∀ (f : SR) (s : State),
    writes (.aadd f) s 1 [.a f.d.toNat (BitVec.ofInt 72 ((ar s f.a).toNat + (sr s f.b).toInt))] ∧
    writes (.asub f) s 1 [.a f.d.toNat (BitVec.ofInt 72 ((ar s f.a).toNat - (sr s f.b).toInt))] ∧
    writes (.adiff f) s 1 [.s f.d.toNat (BitVec.ofInt 64
      (max (-2 ^ 63) (min (2 ^ 63 - 1) (BitVec.ofInt 72 ((ar s f.a).toNat - (ar s f.b).toNat)).toInt)))] ∧
    writes (.amov f) s 1 [.a f.d.toNat (BitVec.ofNat 72 (sr s f.b).toNat)] ∧
    (f.b.toNat = 0 → writes (.atos f) s 1 [.s f.d.toNat (BitVec.ofNat 64 (ar s f.a).toNat)]) ∧
    (f.b.toNat = 1 → writes (.atos f) s 1 [.s f.d.toNat (BitVec.ofNat 64 ((ar s f.a).toNat / 2 ^ 64))]) ∧
    (f.a.toNat < 32 → 2 ≤ f.b.toNat → fieldReason 1024 32 (.atos f) = some 4) ∧ (wf (.amov f) = true → f.a = 0)) ∧
  (∀ (f : SI) (s : State), writes (.aaddi f) s 1 [.a f.d.toNat (BitVec.ofInt 72 ((ar s f.a).toNat + f.imm.toInt))])

/-- R135 and R136: the moves to and from b, lc, mp and ts, and one field of a shadow shape register, whose place and width its engine's layout gives. -/
def Sys2Proof.Claims.SpecialRegisterMoves : Prop :=
  (∀ (f : SI) (s : State),
    writes (.bset f) s 1 [.b f.d.toNat (BitVec.ofInt 20 ((sr s f.a).toNat + f.imm.toInt))] ∧
    writes (.bget f) s 1 [.s f.d.toNat (BitVec.ofNat 64 (s.me.regs.rb f.a.toNat).toNat)] ∧
    (∃ l : LoopCtr, writes (.lcset f) s 1 [.lc f.d.toNat l] ∧
      l.bits = BitVec.ofNat 64 (((sr s f.a).toNat + f.imm.toInt) % 2 ^ 36).toNat) ∧
    writes (.lcget f) s 1 [.s f.d.toNat (s.me.regs.rlc f.a.toNat).bits] ∧
    writes (.mpset f) s 1 [.mp f.d.toNat (BitVec.ofInt 72 ((ar s f.a).toNat + f.imm.toInt))] ∧
    writes (.mpget f) s 1 [.a f.d.toNat (s.me.regs.rmp f.a.toNat)] ∧
    (f.imm ≠ 0 → fieldReason 1024 32 (.bget f) = some 2 ∧ fieldReason 1024 32 (.lcget f) = some 2 ∧ fieldReason 1024 32 (.mpget f) = some 2)) ∧
  (∀ (f : SR) (s : State), writes (.tsrd f) s 1 [.s f.d.toNat (s.me.ts.get 0 f.a.toNat)] ∧ (f.b ≠ 0 → fieldReason 1024 32 (.tsrd f) = some 2)) ∧
  (∀ (f : SF) (s : State), writes (.shset f) s 1
    [.shadow (4 * f.eng.toNat + f.h.toNat) (shapeField f.eng.toNat f.fld.toNat).1 (shapeField f.eng.toNat f.fld.toNat).2
      (BitVec.ofInt 64 ((sr s f.s).toNat + f.imm.toInt))])

/-- R137, R138 and R139: where every branch but `lbr` goes and with which penalty, that `call` and `calls` also write a31 := P + 64, and that a register target off a multiple of 64 takes the alignment trap instead, with no other effect. -/
def Sys2Proof.Claims.BranchTargets : Prop :=
  ∀ (f : SB) (s : State),
    let p := s.me.iss.pc
    let near : W72 := BitVec.ofInt 72 (p.toNat + 64 * f.target.toInt)
    let far : W72 := BitVec.ofInt 72 ((ar s f.a).toNat + 64 * f.target.toInt)
    let goes (i : Instr) (dest : W72) (pen : Nat) (ws : List Wr) : Prop := ∃ t, exec i s = .next t ∧ s.onlyCore t s.cur ∧ t.cur = s.cur ∧
      s.me.onlyBranch t.me ∧ t.me.iss.next = some (dest, pen) ∧ t.me.iss.pend = s.me.iss.pend ++ ws.map fun w => ⟨s.cycle, s.me.iss.region, w⟩
    let misaligned (i : Instr) (dest : W72) : Prop := exec i s = .next (s.precise ⟨0x06, 1, 0, 0, dest⟩)
    goes (.br f) near 1 [] ∧
    goes (.call f) near 1 [.a 31 (p + 64)] ∧
    ((ar s f.a).toNat % 64 = 0 → goes (.ret f) (ar s f.a) 3 []) ∧ ((ar s f.a).toNat % 64 ≠ 0 → misaligned (.ret f) (ar s f.a)) ∧
    (far.toNat % 64 = 0 → goes (.brs f) far 3 [] ∧ goes (.calls f) far 3 [.a 31 (p + 64)]) ∧
    (far.toNat % 64 ≠ 0 → misaligned (.brs f) far ∧ misaligned (.calls f) far)

/-- R140, R142, R311: without a clamp request that it honours, which it does at level 0 alone, `lbr` counts, rotates g8 to g15 and b8 to b15 as a ring with the new stage predicate at g8, and branches without penalty while an iteration or an epilogue stage is left; else it falls through, unless lsave holds a forced stop of its own counter, which stops the context at the loop's head. With clamp set and an iteration left, it records the counter in lsave, clears clamp and goes on as with cnt = 0. -/
def Sys2Proof.Claims.LoopBranch : Prop :=
  ∀ (f : SB) (s : State),
    let k := s.me
    let n := f.lc.toNat
    let l := k.regs.rlc n
    let top : W72 := BitVec.ofInt 72 (k.iss.pc.toNat + 64 * f.target.toInt)
    let ends := (k.regs.lsave.getLsbD 63 = true ∧ (k.regs.lsave.toNat / 2 ^ 36) % 4 = n ∧ k.sys.level = 0)
    (l.cnt ≠ 0 ∧ k.iss.clamp = true ∧ k.sys.level = 0 → ∃ t v, exec (.lbr f) s = .next t ∧ s.onlyCore t s.cur ∧ t.me.iss.clamp = false ∧
      (⟨s.cycle, k.iss.region, .sys 0x020 v⟩ : FixedWrite) ∈ t.me.iss.pend ∧ (⟨s.cycle, k.iss.region, .g 8 false⟩ : FixedWrite) ∈ t.me.iss.pend ∧
      v.getLsbD 63 = true ∧ v.toNat / 2 ^ 36 % 4 = n ∧ v.toNat / 2 ^ 32 % 16 = l.ec.toNat ∧ v.toNat % 2 ^ 32 = l.cnt.toNat ∧
      (⟨s.cycle, k.iss.region, .lc n ⟨if 1 < l.ec.toNat then l.ec - 1 else 0, 0⟩⟩ : FixedWrite) ∈ t.me.iss.pend ∧
      t.me.iss.next = some (top, 0) ∧
      t.me.job = if 1 < l.ec.toNat then k.job else k.job.map fun j => { j with phase := .stopped }) ∧
    ((l.cnt = 0 ∨ k.iss.clamp = false ∨ k.sys.level ≠ 0) →
    ∃ (t : State) (ws : List Wr), exec (.lbr f) s = .next t ∧ t.me.iss.pend = k.iss.pend ++ ws.map (fun w => ⟨s.cycle, k.iss.region, w⟩) ∧ s.onlyCore t s.cur ∧
      (∃ l' : LoopCtr, .lc n l' ∈ ws ∧
        (l.cnt ≠ 0 → l'.cnt = l.cnt - 1 ∧ l'.ec = l.ec) ∧
        (l.cnt = 0 ∧ 1 < l.ec.toNat → l'.cnt = 0 ∧ l'.ec = l.ec - 1) ∧
        (l.cnt = 0 ∧ l.ec.toNat ≤ 1 → l'.cnt = 0 ∧ l'.ec = 0)) ∧
      Wr.g 8 (decide (l.cnt ≠ 0)) ∈ ws ∧ Wr.b 8 (k.regs.rb 15) ∈ ws ∧
      (∀ i, 9 ≤ i → i ≤ 15 → Wr.g i (k.regs.rg (i - 1)) ∈ ws ∧ Wr.b i (k.regs.rb (i - 1)) ∈ ws) ∧ ws.length = 17 ∧
      (l.cnt ≠ 0 ∨ 1 < l.ec.toNat → t.me.iss.next = some (top, 0) ∧ s.me.onlyBranch t.me) ∧
      (l.cnt = 0 ∧ l.ec.toNat ≤ 1 ∧ ¬ends → t.me.iss.next = k.iss.next ∧ s.me.onlyBranch t.me) ∧
      (l.cnt = 0 ∧ l.ec.toNat ≤ 1 ∧ ends → t.me.iss.next = some (top, 0) ∧ t.me.job = k.job.map fun j => { j with phase := .stopped }))

/-- R128 and R131: the immediate forms and the wide immediates. -/
def Obligations.ScalarImmediates : Prop := Sys2Proof.Claims.ScalarImmediateForms ∧ Sys2Proof.Claims.WideImmediates

/-- R132 and R133: compares and guard combinations. -/
def Obligations.ComparesAndGuards : Prop := Sys2Proof.Claims.CompareForms ∧ Sys2Proof.Claims.GuardForms

/-- R134 to R136: address arithmetic, and the moves to and from the special registers. -/
def Obligations.AddressAndSpecialMoves : Prop := Sys2Proof.Claims.AddressForms ∧ Sys2Proof.Claims.SpecialRegisterMoves

/-- R137 to R140: every branch. -/
def Obligations.Branches : Prop := Sys2Proof.Claims.BranchTargets ∧ Sys2Proof.Claims.LoopBranch

/-! ### The system class, traps and regions -/

namespace Sys2Proof.Claims
open Sys2Proof.Machine

/-- A row of R300: the register's number, whether user code may read and write it, the bits that a write sets, and its value on core `c`. -/
structure SysRow where
  n : Nat
  userR : Bool
  userW : Bool
  mask : W64
  val : State → Nat → W64

/-- The table of R300, with the field maps of R301 to R303. Registers that nobody writes have the mask 0. -/
def tableSys : List SysRow :=
  [⟨0x000, true, true, 0x7, fun s c => (s.core c).regs.ckcfg.setWidth 64⟩,
   ⟨0x001, true, false, 0, fun s c => BitVec.ofNat 64 ((s.core c).sys.level % 4 +
      (if (s.core c).sys.svctx = true ∨ (s.core c).sys.level ≠ 0 then 4 else 0) + (if (s.core c).sys.svctx = true then 8 else 0))⟩,
   ⟨0x002, true, false, 0, fun s c => BitVec.ofNat 64 ((s.core c).ctx % 4096 + s.hub.partOf (s.core c).ctx % 16 * 2 ^ 16)⟩,
   ⟨0x003, true, false, 0, fun s c => BitVec.ofNat 64 (match s.hub.part? (s.hub.partOf (s.core c).ctx) with | some p => p.cfg.budget % 65536 | none => 0)⟩,
   ⟨0x004, true, false, 0, fun s c => (s.core c).sys.clock⟩,
   ⟨0x008, false, false, 0xFFFFFFFFFFFFFE00, fun s c => (s.core c).sys.tsave⟩,
   ⟨0x009, false, false, 0xFFFFFFFFFFFFFFC0, fun s c => (s.core c).sys.tvec1⟩,
   ⟨0x00A, false, false, 0xFFFFFFFFFFFFFFC0, fun s c => (s.core c).sys.tvec2⟩,
   ⟨0x010, false, false, 0xFFFFFFFFFFFFFFFF, fun s c => (s.core c).sys.bank1.cause⟩,
   ⟨0x018, false, false, 0xFFFFFFFFFFFFFFFF, fun s c => (s.core c).sys.bank2.cause⟩,
   ⟨0x011, false, false, 0xFFFFFFFFFFFFFFC0, fun s c => (s.core c).sys.bank1.tret⟩,
   ⟨0x019, false, false, 0xFFFFFFFFFFFFFFC0, fun s c => (s.core c).sys.bank2.tret⟩,
   ⟨0x012, false, false, 0xFFFFFFFFFFFFFFFF, fun s c => (s.core c).sys.bank1.taddr⟩,
   ⟨0x01A, false, false, 0xFFFFFFFFFFFFFFFF, fun s c => (s.core c).sys.bank2.taddr⟩,
   ⟨0x013, false, false, 0xFFFFFFFFFFFFFFFF, fun s c => (s.core c).sys.bank1.hscr⟩,
   ⟨0x01B, false, false, 0xFFFFFFFFFFFFFFFF, fun s c => (s.core c).sys.bank2.hscr⟩,
   ⟨0x014, false, false, 0xFFFFFFFFFFFFFFFF, fun s c => BitVec.ofNat 64 (s.core c).sys.bank1.asave.toNat⟩,
   ⟨0x01C, false, false, 0xFFFFFFFFFFFFFFFF, fun s c => BitVec.ofNat 64 (s.core c).sys.bank2.asave.toNat⟩,
   ⟨0x015, false, false, 0xFF, fun s c => BitVec.ofNat 64 ((s.core c).sys.bank1.asave.toNat / 2 ^ 64)⟩,
   ⟨0x01D, false, false, 0xFF, fun s c => BitVec.ofNat 64 ((s.core c).sys.bank2.asave.toNat / 2 ^ 64)⟩,
   ⟨0x020, true, false, 0x8000003FFFFFFFFF, fun s c => (s.core c).regs.lsave⟩,
   ⟨0x021, true, true, 0xFFFFFFFFFFFFFFFF, fun s c => BitVec.ofNat 64 (s.core c).regs.vfm.toNat⟩,
   ⟨0x022, true, true, 0xFFFFFFFFFFFFFFFF, fun s c => BitVec.ofNat 64 ((s.core c).regs.vfm.toNat / 2 ^ 64)⟩,
   ⟨0x023, true, true, 0xFFFFFFFFFFFF, fun s c => BitVec.ofNat 64 (s.core c).sys.wtmo.toNat⟩]

/-- Trap entry at level L = level + 1 of 1 or 2, by the algorithm of R311 on core `c`: `k` is the core at the point of entry (`ret` its return address: the region's start for a precise trap, else the next bundle), `t` the state after. -/
def entered (s t : State) (c : Nat) (k : Core) (r : TrapReq) (ret : W72) : Prop :=
  let L := k.sys.level + 1
  let e := t.core c
  let b := if L = 1 then e.sys.bank1 else e.sys.bank2
  s.onlyCore t c ∧ t.cur = s.cur ∧
  e.sys = { k.sys with level := L, bank1 := e.sys.bank1, bank2 := e.sys.bank2 } ∧
  (if L = 1 then e.sys.bank2 = k.sys.bank2 else e.sys.bank1 = k.sys.bank1) ∧
  b.hscr = (if L = 1 then k.sys.bank1.hscr else k.sys.bank2.hscr) ∧
  b.cause.toNat % 2 ^ 8 = r.cause.code % 2 ^ 8 ∧ b.cause.toNat / 2 ^ 8 % 2 ^ 8 = r.cause.det % 2 ^ 8 ∧
  b.cause.toNat / 2 ^ 16 % 2 ^ 8 = r.cause.loc % 2 ^ 8 ∧ b.cause.toNat / 2 ^ 24 % 2 ^ 8 = r.cause.addr.toNat / 2 ^ 64 ∧
  b.cause.toNat / 2 ^ 32 % 2 ^ 29 = r.cause.prog % 2 ^ 29 ∧ b.cause.toNat / 2 ^ 61 % 4 = L - 1 ∧
  b.cause.getLsbD 63 = decide (r.kind = .deferred) ∧
  b.tret.toNat = ret.toNat % 2 ^ 64 / 64 * 64 ∧ b.taddr.toNat = r.cause.addr.toNat % 2 ^ 64 ∧
  b.asave = (if r.kind = .precise then k.sh else k.regs).ra 30 ∧
  e.regs = { (if r.kind = .precise then k.sh else k.regs) with a := ((if r.kind = .precise then k.sh else k.regs).a).put 0 30 (k.sys.tsave.setWidth 72 + BitVec.ofNat 72 (256 * (L - 1))) } ∧
  e.sh = e.regs ∧ e.wb = [] ∧ e.rq = (if r.kind = .precise then k.rq else k.rq ++ k.wb) ∧
  e.vec = (if r.kind = .precise then restoreLog k.vec k.iss.wlog else k.vec) ∧ e.iss.wlog = [] ∧
  e.iss.pc = (if L = 1 then k.sys.tvec1 else k.sys.tvec2).setWidth 72 ∧ e.iss.hold = .none ∧ e.iss.trap = none ∧ e.iss.next = none ∧
  e.iss.elig = s.cycle + 12 + (if r.kind = .precise then (k.iss.wlog.length + 1) / 2 else 0) ∧
  e.acc = k.acc ∧ e.scr = k.scr ∧ e.ts = k.ts ∧ e.l1 = k.l1 ∧ e.eng = { k.eng with yieldReq := false } ∧ e.ch = k.ch

/-- What a write gives its register: class, number, and bit `i` where the write covers it. -/
def given : Wr → Nat × Nat × (Nat → Option Bool)
  | .s n v => (0, n, fun i => some (v.getLsbD i))
  | .a n v => (1, n, fun i => some (v.getLsbD i))
  | .g n v => (2, n, fun _ => some v)
  | .b n v => (3, n, fun i => some (v.getLsbD i))
  | .lc n v => (4, n, fun i => some (v.bits.getLsbD i))
  | .mp n v => (5, n, fun i => some (v.getLsbD i))
  | .ix n v => (6, n, fun i => some (v.getLsbD i))
  | .p n m v => (7, n, fun i => if m.getLsbD i then some (v.getLsbD i) else none)
  | .v n m v => (8, n, fun i => if m.getLsbD i then some (v.getLsbD i) else none)
  | .shadow key lo w v => (9, key, fun i => if lo ≤ i ∧ i < lo + w ∧ i < 128 then some (v.getLsbD (i - lo)) else none)
  | .sys n _ => (10, n, fun _ => none)
/-- Bit `i` of register `n` of a class, in a register file and the vector registers beside it. -/
def heldBit (r : Regs) (vec : Bank Vec) (cls n i : Nat) : Bool :=
  match cls with
  | 0 => (r.rs n).getLsbD i | 1 => (r.ra n).getLsbD i | 2 => r.rg n | 3 => (r.rb n).getLsbD i | 4 => (r.rlc n).bits.getLsbD i
  | 5 => (r.rmp n).getLsbD i | 6 => (r.rix n).getLsbD i | 7 => (r.rp n).getLsbD i | 8 => (vec.get 0 n).getLsbD i
  | 9 => (r.shapeShadow (n / 4) (n % 4)).getLsbD i | _ => false
/-- Of the writes of a list that meet `P`, the last one that covers bit `i` of a register gives it its new value; where none covers it, and in s0, g0 and p0, it stays. -/
def stands (l : List FixedWrite) (P : FixedWrite → Prop) (cls n i : Nat) (before after : Bool) : Prop :=
  let bit (x : FixedWrite) : Option Bool := if (given x.wr).1 = cls ∧ (given x.wr).2.1 = n then (given x.wr).2.2 i else none
  let const : Prop := n = 0 ∧ cls ∈ [0, 2, 7]
  (¬const → ∀ p w r b, l = p ++ w :: r → P w → bit w = some b → (∀ x ∈ r, P x → bit x = none) → after = b) ∧
  (const ∨ (∀ x ∈ l, P x → bit x = none) → after = before)

/-- The hub commands of R318: opcode, instruction of format SR, and the request that its operands make. -/
def tableHub : List (Nat × (SR → Instr) × (State → SR → HubOp)) :=
  let ctx (s : State) (n : BitVec 6) : Nat := (sr s n).toNat % 2 ^ 12
  let ctxOr (s : State) (n : BitVec 6) : Nat := if n.toNat = 0 then s.me.ctx else ctx s n
  [(0xE5, Instr.tlbinvVa, fun s f => .tlbinvVa (ctxOr s f.b) (ar s f.a)),
   (0xE6, Instr.tlbinvCtx, fun s f => .tlbinvCtx (ctxOr s f.b)),
   (0xE7, Instr.tlbinvAll, fun _ _ => .tlbinvAll),
   (0xEA, Instr.stitchIns, fun s f => .stitchIns (ctx s f.b) (BitVec.ofNat 72 (sr s f.a).toNat)),
   (0xEB, Instr.stitchBind, fun s f => .stitchBind (ctx s f.a) ((sr s f.a).toNat / 2 ^ 16 % 2 ^ 6) ((sr s f.b).toNat % 2 ^ 10)),
   (0xEC, Instr.stitchUnbind, fun s f => .stitchUnbind (ctx s f.a) ((sr s f.a).toNat / 2 ^ 16 % 2 ^ 6)),
   (0xED, Instr.stitchDrop, fun s f => .stitchDrop (ctx s f.a) ((sr s f.b).toNat % 2 ^ 10)),
   (0xEE, Instr.ctxEnd, fun s f => .ctxEnd (ctx s f.a))]

/-- A hub command issues: its request is withheld, s[d] is pending and holds later memory operations; without supervisor privilege the privilege trap is taken instead. -/
def hubIssue (i : Instr) (s : State) (d : BitVec 6) (op : HubOp) : Prop :=
  (s.me.sup = true → ∃ t v, exec i s = .next t ∧ s.withholdsFor t [.hub op d.toNat v.id] [v] ∧
    v.kind = .hub ∧ v.regs = [.s d.toNat] ∧ v.wr = [] ∧ v.ready = none ∧ v.hold = true ∧ v.poison = none) ∧
  (s.me.sup = false → exec i s = .next (s.precise (cause0 0x03 1)))

end Sys2Proof.Claims

open Sys2Proof Sys2Proof.Machine Sys2Proof.Claims

/-- R56, R58: `nop` changes nothing. R314 with the access columns of R300: `sysrd` of a register that the running privilege may read makes s[d] pending with the register's value at issue; any other access takes the privilege trap and has no other effect. That the value is there from the next cycle on (log entries 17 and 22) and the trap's detail 1 (log entry 46) are the model's choice. -/
def Sys2Proof.Claims.SystemRegisterReads : Prop :=
  (∀ s : State, exec .nop s = .next s) ∧
  ∀ row ∈ tableSys, ∀ (f : SY) (s : State), f.sysreg.toNat = row.n →
    (row.userR = true ∨ s.me.sup = true → ∃ t v, exec (.sysrd f) s = .next t ∧ s.pends t v ∧ v.kind = .status ∧
      v.regs = [.s f.d.toNat] ∧ v.wr = [.s f.d.toNat (row.val s s.cur)] ∧ v.ready = some (s.cycle + 1) ∧ v.hold = false ∧ v.poison = none) ∧
    (row.userR = false ∧ s.me.sup = false → exec (.sysrd f) s = .next (s.precise (cause0 0x03 1)))

/-- R314 with R300: `syswr` of a register that the running privilege may write issues one write that lands at the end of its cycle, else it takes the privilege trap; as it lands the register holds the written bits of its field map, bits that read zero stay zero, and no other system register changes. -/
def Sys2Proof.Claims.SystemRegisterWrites : Prop :=
  ∀ row ∈ tableSys, row.mask ≠ 0 →
    (∀ (f : SY) (s : State), f.sysreg.toNat = row.n →
      (row.userW = true ∨ s.me.sup = true → writes (.syswr f) s 1 [.sys row.n (sr s f.d)]) ∧
      (row.userW = false ∧ s.me.sup = false → exec (.syswr f) s = .next (s.precise (cause0 0x03 1)))) ∧
    ∀ (s : State) (c reg : Nat) (v : W64),
      let t := s.modCore c fun k => k.land reg (.sys row.n v)
      row.val t c = v &&& row.mask ∧ ∀ other ∈ tableSys, other.n ≠ row.n → other.val t c = other.val s c

/-- R311 with R307 and R308: a precise trap of the acting core enters at level 1 or 2 as the algorithm says once nothing of a committed region is pending, and waits otherwise; a trap that is due enters by itself. A pre-emption that the core has been asked for does not reach the engine above level 0. A trap at level 2 kills the context: no core runs it any more (R313). That a core which waits in `idle` returns to its `idle` is the model's choice (log entry 36). -/
def Obligations.TrapEntry : Prop :=
  (∀ (s : State) (c : Nat) (r : TrapReq) (k : Core), (s.core c).trapDue = some (r, k) → k.sys.level < 2 →
    ∃ t, exec (.trapEntry c) s = .next t ∧
      entered s t c k r (if r.kind = .precise then k.iss.regionStart else if k.iss.hold = .idle then k.iss.pc - 64 else k.iss.pc)) ∧
  ∀ (s : State) (x : Cause),
    (s.me.committedPending = false → s.me.sys.level < 2 → entered s (s.precise x) s.cur s.me ⟨.precise, x⟩ s.me.iss.regionStart) ∧
    (s.me.committedPending = true → s.precise x = s.setCore s.cur { s.me with iss := { s.me.iss with trap := some ⟨.precise, x⟩ } }) ∧
    (s.me.committedPending = false → s.me.sys.level = 2 → ∀ j, s.me.job = some j → ∀ e i, ((s.precise x).core e).job = some i → i.ctx ≠ j.ctx)

/-- R315, R316, R317: `trap` takes a boundary trap with code 0x05 and its immediate, whose return address is the next bundle, at any privilege; `tret` returns to tret with a30 restored one level lower and its successor eligible 3 cycles later; `idle` holds the core at level 0. `tret` at level 0 and `idle` above it take the privilege trap. -/
def Obligations.TrapReturnIdle : Prop :=
  (∀ (f : SI) (s : State), s.me.iss.hold = .none → s.me.committedPending = false → s.me.sys.level < 2 →
    ∃ t, exec (.trap f) s = .next t ∧
      entered s t s.cur s.me ⟨.boundary, ⟨0x05, 1, 0, 0, BitVec.ofNat 72 f.imm.toNat⟩⟩ (s.me.iss.pc + 64)) ∧
  (∀ (f : SR) (s : State),
    (s.me.sys.level = 0 → exec (.tret f) s = .next (s.precise (cause0 0x03 1))) ∧
    (s.me.sys.level = 1 ∨ s.me.sys.level = 2 → ∃ t, exec (.tret f) s = .next t ∧ t.mem = s.mem ∧ t.cycle = s.cycle ∧ (∀ d, d ≠ s.cur → t.core d = s.core d) ∧ (s.me.ch = [] → s.onlyCore t s.cur ∧ t.me.scr = s.me.scr) ∧
      let b := if s.me.sys.level = 1 then s.me.sys.bank1 else s.me.sys.bank2
      t.me.sys = { s.me.sys with level := s.me.sys.level - 1 } ∧
      t.me.regs = { s.me.regs with a := s.me.regs.a.put 0 30 b.asave } ∧ t.me.sh = t.me.regs ∧ t.me.wb = [] ∧
      t.me.iss.next = some (b.tret.setWidth 72, 2) ∧ t.me.iss.pc = b.tret.setWidth 72 ∧ t.me.iss.elig = s.cycle + 3 ∧
      (s.me.sys.level = 2 ∨ s.me.eng.frozen = none → t.me.rq = s.me.rq ++ s.me.wb) ∧
      t.me.vec = s.me.vec ∧ t.me.acc = s.me.acc ∧ t.me.l1 = s.me.l1)) ∧
  (∀ (f : SR) (s : State),
    (s.me.sys.level = 0 → ∃ t, exec (.idle f) s = .next t ∧ s.onlyCore t s.cur ∧ t.cur = s.cur ∧ t.me = { s.me with iss := { s.me.iss with hold := .idle } }) ∧
    (s.me.sys.level ≠ 0 → exec (.idle f) s = .next (s.precise (cause0 0x03 1))))

/-- R299 and R318 at issue: every hub command withholds its request, makes its status register pending and holds later memory operations; it needs supervisor privilege. -/
def Obligations.HubCommandIssue : Prop :=
  (∀ row ∈ tableHub, ∀ (f : SR) (s : State), (encodeOpS (row.2.1 f)).map Prod.fst = some row.1 ∧ hubIssue (row.2.1 f) s f.d (row.2.2 s f)) ∧
  (∀ (f : SI) (s : State),
    hubIssue (.biasDev f) s f.d (.bias (BitVec.ofInt 64 ((sr s f.a).toNat + f.imm.toInt)).toNat false) ∧
    hubIssue (.biasHost f) s f.d (.bias (BitVec.ofInt 64 ((sr s f.a).toNat + f.imm.toInt)).toNat true))

/-- R102, R304: a commit, which is enabled at a checkpoint alone, appends WB to RQ, copies the current registers into the shadow, and begins the next region at the next bundle; nothing else changes. -/
def Sys2Proof.Claims.CommitAppends : Prop :=
  ∀ (s : State) (c : Nat), ((s.core c).iss.ckpt = false → exec (.commit c) s = .next s) ∧ ((s.core c).iss.ckpt = true → ∃ t, exec (.commit c) s = .next t ∧ s.onlyCore t c ∧
    let k := s.core c
    let e := t.core c
    e = { k with rq := k.rq ++ k.wb, wb := [], sh := k.regs, iss := e.iss } ∧
    e.iss = { k.iss with region := k.iss.region + 1, regionStart := k.iss.pc, wlog := [], nv := 0, nm := 0, nc := 0, nb := 0, ckpt := false })

/-- R307: rollback discards WB, cancels the fixed-latency writes and the loads of the open region and keeps those of earlier regions, restores every logged vector register to its value at the region's start and every shadowed register to its shadow value, and resumes at the region's start. Everything else stays: the effects already released, scratchpad, accumulators, L1, signatures and engine work. -/
def Sys2Proof.Claims.RollbackRestores : Prop :=
  ∀ k : Core,
    let e := k.rollback
    e.wb = [] ∧ e.regs = k.sh ∧ e.sh = k.sh ∧ e.iss.pc = k.iss.regionStart ∧ e.iss.wlog = [] ∧
    (∀ w, w ∈ e.iss.pend ↔ w ∈ k.iss.pend ∧ w.region < k.iss.region) ∧ (∀ w, w ∈ e.iss.vpend ↔ w ∈ k.iss.vpend ∧ w.region < k.iss.region) ∧
    (∀ n, (∀ x ∈ k.iss.wlog, x.1 ≠ n) → e.vec.get 0 n = k.vec.get 0 n) ∧
    (∀ l n v r, k.iss.wlog = l ++ (n, v) :: r → (∀ x ∈ r, x.1 ≠ n) → e.vec.get 0 n = v) ∧
    e.rq = k.rq ∧ e.scr = k.scr ∧ e.acc = k.acc ∧ e.l1 = k.l1 ∧ e.ws = k.ws ∧ e.as_ = k.as_ ∧ e.eng = k.eng ∧ e.ch = k.ch ∧ e.ts = k.ts ∧ e.sys = k.sys

/-- R76 and R77 with R306: the writes due by the end of a cycle leave the pending list and land in issue order, so that a later one stands; a write of a committed region changes the shadow as well (the model's choice, log entry 10), one of the open region does not; s0 and g0 keep reading 0 and 1. -/
def Sys2Proof.Claims.ScalarWritesLand : Prop :=
  ∀ (s : State) (c : Nat), ∃ t, exec (.fixedLatencyWrite c) s = .next t ∧ s.onlyCore t c ∧
    let k := s.core c
    let e := t.core c
    (∀ w, w ∈ e.iss.pend ↔ w ∈ k.iss.pend ∧ s.cycle < w.due) ∧
    (∀ l r d n v reg, k.iss.pend = l ++ ⟨d, reg, .s n v⟩ :: r → d ≤ s.cycle → n ≠ 0 →
      (∀ w ∈ r, ∀ u, w.wr ≠ .s n u ∨ s.cycle < w.due) →
      e.regs.rs n = v ∧ (reg < k.iss.region → e.sh.rs n = v)) ∧
    (∀ n, (∀ w ∈ k.iss.pend, ∀ u, w.wr ≠ .s n u ∨ s.cycle < w.due) → e.regs.rs n = k.regs.rs n ∧ e.sh.rs n = k.sh.rs n) ∧
    ((∀ w ∈ k.iss.pend, s.cycle < w.due ∨ k.iss.region ≤ w.region) → e.sh = k.sh) ∧
    e.regs.rs 0 = 0 ∧ e.regs.rg 0 = true ∧ e.wb = k.wb ∧ e.rq = k.rq ∧ e.scr = k.scr ∧ e.acc = k.acc ∧ e.l1 = k.l1

/-- The same of every destination, bit by bit: scalars, addresses, guards, scratchpad bases, loop counters, matrix parameters, index registers, predicates and vector registers under their masks, and the fields of shadow shape registers. A bit takes what the last due write that covers it gives, and a bit that none covers stays. What the writes of committed regions give stands in the shadow too, and in the vector register that a rollback leaves: the model's choice (log entry 10). -/
def Sys2Proof.Claims.RegisterWritesLand : Prop :=
  ∀ (s : State) (c : Nat), ∃ t, exec (.fixedLatencyWrite c) s = .next t ∧ s.onlyCore t c ∧
    let k := s.core c
    let e := t.core c
    let due (x : FixedWrite) : Prop := x.due ≤ s.cycle
    ∀ cls n i,
      stands k.iss.pend due cls n i (heldBit k.regs k.vec cls n i) (heldBit e.regs e.vec cls n i) ∧
      stands k.iss.pend (fun x => due x ∧ x.region < k.iss.region) cls n i (heldBit k.sh k.rollback.vec cls n i) (heldBit e.sh e.rollback.vec cls n i)

/-- R76 and R77 with R124 and R306: the writes of fixed latency that are due land in issue order at every destination (scalar, address, guard, base, loop-counter, matrix-parameter, index, predicate and vector registers, these two under their masks, and the fields of shadow shape registers), so that the last one stands; s0 and g0 keep reading 0 and 1. That a write of a committed region lands in the shadow too is the model's choice (log entry 10). -/
def Obligations.FixedWritesLand : Prop := Sys2Proof.Claims.ScalarWritesLand ∧ Sys2Proof.Claims.RegisterWritesLand

/-- R300 to R303 and R314: reads and writes of the system registers, with the privilege trap of an access that the mode may not make; and `nop`. That the value of a `sysrd` is there from the next cycle on (log entries 17 and 22) and the trap's detail 1 (log entry 46) are the model's choice. -/
def Obligations.SystemRegisters : Prop := Sys2Proof.Claims.SystemRegisterReads ∧ Sys2Proof.Claims.SystemRegisterWrites

/-- R304 and R307: the two ends of a region. -/
def Obligations.CommitAndRollback : Prop := Sys2Proof.Claims.CommitAppends ∧ Sys2Proof.Claims.RollbackRestores

/-! ### The sync class at issue -/

open Sys2Proof Sys2Proof.Machine Sys2Proof.Claims

/-- R281 to R284: what the barrier operations do at issue. `bar.cfg` changes no mask before the end of its cycle and then exactly the mask of its line, without bits outside the gang; `bar.arrive` sets the core's flag when the line names the core and does nothing else; `bar.test` writes 1 exactly when the flag is clear or the core does not take part; `bsync` and its wait form hold the core only where it takes part. -/
def Obligations.BarrierOperations : Prop :=
  (∀ (f : YB) (s : State) (j : Job) (x : Task), s.me.job = some j → s.hub.tasks.get none j.task = some x →
    let me := s.cur % 8
    let nb := f.nb.toNat
    let gang := x.cores.map (· % 8)
    let mask := x.masks.get gang nb
    let arrived := x.arrived.get [] nb
    let put (y : Task) : State := { s with hub := { s.hub with tasks := s.hub.tasks.put none j.task (some y) } }
    (x.pending.get [] nb = [] → ∃ y : Task, exec (.barCfg f) s = .next (put y) ∧ y = { x with pending := y.pending } ∧
      y.newMasks.masks.get gang nb = gang.filter (fun i => f.imm.getLsbD i) ∧
      ∀ n, n ≠ nb → y.newMasks.masks.get gang n = x.newMasks.masks.get gang n) ∧
    (me ∈ mask ∧ me ∉ arrived → exec (.barArrive f) s = .next (put { x with arrived := x.arrived.put [] nb (arrived ++ [me]) })) ∧
    (me ∉ mask ∨ me ∈ arrived → exec (.barArrive f) s = .next (put x)) ∧
    writes (.barTest f) s 2 [.s f.s.toNat (if me ∈ mask ∧ me ∈ arrived then 0 else 1)] ∧
    (me ∈ mask → ∃ t, exec (.bsync f) s = .next t ∧ s.onlyCore t s.cur ∧ t.me = { s.me with iss := { s.me.iss with hold := .bsync nb 0 false false } }) ∧
    (me ∉ mask → exec (.bsync f) s = .next s) ∧
    (me ∈ mask ∧ me ∈ arrived → ∃ t, exec (.bsyncWait f) s = .next t ∧ s.onlyCore t s.cur ∧ t.me = { s.me with iss := { s.me.iss with hold := .bsync nb 0 true true } }) ∧
    (me ∉ mask ∨ me ∉ arrived → exec (.bsyncWait f) s = .next s))

/-- R286, R288, R290, R293 to R295 at issue: releases, fences and waits enter WB, the waits hold every later bundle, and `drain` makes its status register pending and holds later memory operations. `acq.fence` does nothing at core scope and otherwise empties the core's L1 at issue; its registers, vectors, scratchpad and queues stay, and of lines that no L1 owns each dirty byte stands at its home then and no other byte changes. -/
def Obligations.FencesAndWaits : Prop :=
  ∀ s : State,
    (∀ f : YM, ∃ t, exec (.relFence f) s = .next t ∧ s.withholds t [.relFence f.scope.toNat]) ∧
    (∀ f : YW, ∃ t, exec (.waitM f) s = .next t ∧ s.onlyCore t s.cur ∧
      t.me = { s.me with wb := s.me.wb ++ [.waitM f.mask.toNat f.imm.toNat], iss := { s.me.iss with hold := .effect 0 } }) ∧
    (∀ f : YW, ∃ t, exec (.waitK f) s = .next t ∧ s.onlyCore t s.cur ∧
      t.me = { s.me with wb := s.me.wb ++ [.waitK f.mask.toNat], iss := { s.me.iss with hold := .effect 0 } }) ∧
    (∀ f : YM, ∃ t v, exec (.drain f) s = .next t ∧ s.withholdsFor t [.drain f.scope.toNat f.s.toNat v.id] [v] ∧
      v.kind = .status ∧ v.regs = [.s f.s.toNat] ∧ v.wr = [] ∧ v.ready = none ∧ v.hold = true) ∧
    (∀ f : YM, f.scope.toNat = 0 → exec (.acqFence f) s = .next s) ∧
    (∀ f : YM, f.scope.toNat ≠ 0 → ∃ t, exec (.acqFence f) s = .next t ∧ s.reads t ∧ (∀ ln, t.me.line ln = {}) ∧
      (s.mem.owner = [] → s.mem.fabric = [] → (∀ ln, (s.me.line ln).owned = false) → ∀ a, let x := (s.me.line (a / 128)).sec (a / 64)
        t.mem.byte a = if x.dirty.getLsbD (a % 64) then x.byte (a % 64) else s.mem.byte a))

/-- R279 and R286, R287, R290 at issue: the address of format YM, the alignment each operation needs, and, where translation succeeds, that `rel.st` and `waitaddr` enter WB with the physical address while both acquires read at issue, make s[d] pending with the 8 bytes of the authoritative copy, and hold later memory operations. A failed check takes its precise trap. -/
def Obligations.BeaconOperations : Prop :=
  ∀ (f : YM) (s : State),
    let va : W72 := BitVec.ofInt 72 ((ar s f.a).toNat + f.off.toInt * 128)
    let inBeacon := va.toNat % 8 = 0 ∧ va.toNat % 128 ≤ 56
    (va.toNat % 128 ≠ 0 → exec (.relSt f) s = .next (s.precise ⟨0x06, 9, 0, 0, va⟩)) ∧
    (va.toNat % 128 = 0 → ∀ e, s.xlate .write va 8 = .error e → exec (.relSt f) s = .next (s.precise (e.cause 9))) ∧
    (va.toNat % 128 = 0 → ∀ g l, s.xlate .write va 8 = .ok (g :: l) → ∃ t, exec (.relSt f) s = .next t ∧
      s.withholdsFor t [.relSt f.scope.toNat f.ev.toNat g.pa (sr s f.s) g.untr] []) ∧
    (∀ i ∈ [Instr.acqLd f, Instr.acqLdAll f, Instr.waitaddr f],
      (¬inBeacon → exec i s = .next (s.precise ⟨0x06, 9, 0, 0, va⟩)) ∧
      (inBeacon → ∀ e, s.xlate .read va 8 = .error e → exec i s = .next (s.precise (e.cause 9)))) ∧
    (inBeacon → ∀ g l, s.xlate .read va 8 = .ok (g :: l) →
      (∃ t, exec (.waitaddr f) s = .next t ∧ s.onlyCore t s.cur ∧
        t.me = { s.me with wb := s.me.wb ++ [.waitaddr g.pa f.s.toNat (sr s f.s)], tlb := t.me.tlb, iss := { s.me.iss with hold := .effect 0 } }) ∧
      ∀ i ∈ [Instr.acqLd f, Instr.acqLdAll f], s.mem.fabric = [] → s.mem.owner.get none (g.pa / 128) = none → ∃ t v, exec i s = .next t ∧ s.reads t ∧
        t.me.iss.vpend = s.me.iss.vpend ++ [v] ∧ v.kind = .load ∧ v.regs = [.s f.s.toNat] ∧ v.hold = true ∧
        v.wr = [.s f.s.toNat (BitVec.ofNat 64 (leVal ((List.range 8).map fun i => s.mem.byte (g.pa + i))))] ∧
        (i = .acqLdAll f → ∀ ln, t.me.line ln = {}) ∧
        (f.scope.toNat ≠ 0 →
          let w : Pred := BitVec.ofNat 512 (leVal ((List.range 64).map fun i => s.mem.byte (g.pa / 128 * 128 + 64 + i)))
          t.me.as_ = ⟨s.me.as_.p ||| w, s.me.as_.l ||| w, s.me.as_.n ||| w⟩ ∧ ∀ ln, lineHits w ln = true → t.me.line ln = {}))

/-! ### The memory class at issue -/

namespace Sys2Proof.Claims
open Sys2Proof.Machine

/-- Byte `j` of a number, lowest first. -/
def byteOf (x j : Nat) : Byte := BitVec.ofNat 8 (x / 2 ^ (8 * j))
/-- The physical addresses of an access, byte by byte, from its pages. -/
def addrsOf (segs : List Seg) : List Nat := segs.flatMap fun g => (List.range g.n).map (g.pa + ·)
/-- One byte as the acting core's load reads it (R103): from its own stores that have not performed, else from its L1 where that holds the byte, else from memory. -/
def loadByte (s : State) (a : Nat) : Byte :=
  let x := (s.me.line (a / 128)).sec (a / 64)
  match lastCell (s.ownCells s.cur) a with
  | some b => b
  | none => if x.valid = true ∨ x.dirty.getLsbD (a % 64) = true then x.byte (a % 64) else s.mem.byte a
/-- Lines that lie in different sets of the L1, as those of one page do (R173). -/
def apart (l : List Nat) : Prop := ∀ a ∈ l, ∀ b ∈ l, a / 128 % 128 = b / 128 % 128 → a / 128 = b / 128
/-- The address of format MA (R160). -/
def eaMA (s : State) (f : MA) : W72 := BitVec.ofInt 72 ((ar s f.a).toNat + f.off.toInt)
/-- The address of format MX (R160). -/
def eaMX (s : State) (f : MX) : W72 := BitVec.ofNat 72 ((ar s f.a).toNat + (sr s f.s).toNat * 2 ^ f.sc.toNat)
/-- The address of format MT (R160). -/
def eaMT (s : State) (f : MT) : W72 := BitVec.ofInt 72 ((ar s f.a).toNat + f.off.toInt)
/-- The offset of format MP (R160). -/
def scrMP (s : State) (f : MP) : Nat := (s.me.regs.rb f.b.toNat).toNat + f.off.toNat
/-- Row bytes and stride of a load or store shape (R166): R is 2^rowl for rowl from 2 to 9, else 512. -/
def shapeRow (h : BitVec 128) : Nat := if 2 ≤ h.toNat % 16 ∧ h.toNat % 16 ≤ 9 then 2 ^ (h.toNat % 16) else 512
def shapeStride (h : BitVec 128) : Nat := h.toNat / 2 ^ 4 % 2 ^ 20
/-- The offset of byte `j` of a strided access (R169). -/
def strided (x : Nat) (h : BitVec 128) (j : Nat) : Nat := x + j / shapeRow h * shapeStride h + j % shapeRow h
/-- A gather or scatter of format MG: lane bytes, the address of a lane, whether it is active, whether it is out of range (R160, R166, R167). -/
structure Lanes where
  w : Nat
  addr : Nat → Nat
  on : Nat → Prop
  out : Nat → Prop
  trap : Bool
def lanesOf (s : State) (f : MG) (h : BitVec 128) : Lanes :=
  let w := if h.toNat / 2 ^ 24 % 2 = 1 then 8 else 4
  let x := fun i => (s.me.regs.rb f.b.toNat).toNat + f.off.toNat + (s.me.vec.get 0 f.vi.toNat).toNat / 2 ^ (32 * i) % 2 ^ 32 * 2 ^ (h.toNat / 2 ^ 25 % 8)
  ⟨w, x, fun i => i < 512 / w ∧ (s.me.regs.rp (h.toNat / 2 ^ 28 % 16)).getLsbD (w * i) = true,
   fun i => x i % w ≠ 0 ∨ s.me.scratchSize < x i + w, decide (h.toNat / 2 ^ 32 % 2 = 1)⟩

/-- The scalar and address loads of R170: opcode, instruction, bytes, destination, and the write that the bytes give as a number. -/
def tableLd : List (Nat × (MA → Instr) × Nat × (MA → RegName) × (MA → Nat → Wr)) :=
  let s := fun f : MA => RegName.s f.data.toNat
  let sx := fun (n : Nat) (f : MA) (x : Nat) => Wr.s f.data.toNat (BitVec.ofInt 64 (BitVec.ofNat (8 * n) x).toInt)
  let zx := fun (f : MA) (x : Nat) => Wr.s f.data.toNat (BitVec.ofNat 64 x)
  [(0x01, Instr.ldI8, 1, s, sx 1), (0x02, Instr.ldI16, 2, s, sx 2), (0x03, Instr.ldI32, 4, s, sx 4),
   (0x04, Instr.ldN8, 1, s, zx), (0x05, Instr.ldN16, 2, s, zx), (0x06, Instr.ldN32, 4, s, zx), (0x07, Instr.ldN64, 8, s, zx),
   (0x08, Instr.lda, 16, fun f => .a f.data.toNat, fun f x => .a f.data.toNat (BitVec.ofNat 72 x)),
   (0x09, Instr.vld, 512, fun f => .v f.data.toNat, fun f x => .v f.data.toNat (BitVec.allOnes 4096) (BitVec.ofNat 4096 x))]

/-- The stores of format MA (R170): opcode, instruction, bytes, and the value stored as a number. -/
def tableSt : List (Nat × (MA → Instr) × Nat × (State → MA → Nat)) :=
  let s := fun (x : State) (f : MA) => (x.me.regs.rs f.data.toNat).toNat
  [(0x01, Instr.stN8, 1, s), (0x02, Instr.stN16, 2, s), (0x03, Instr.stN32, 4, s), (0x04, Instr.stN64, 8, s),
   (0x05, Instr.sta, 16, fun x f => (x.me.regs.ra f.data.toNat).toNat), (0x06, Instr.vst, 512, fun x f => (x.me.vec.get 0 f.data.toNat).toNat)]

/-- The alignment that an access of `n` bytes needs (R161). -/
def alignOf (n : Nat) : Nat := if n = 512 then 64 else n

/-- A load from `va` of `n` bytes in a slot: the checks of R162 in their order, then a pending result. Where no core owns a line that it reads and no host holds a window sector, each of its bytes is `loadByte`'s; where its L1 holds every sector, the bytes come from there, but that a load of scope die to pool takes ownership home first (R110). -/
def loads (slot : Nat) (i : Instr) (s : State) (va : W72) (n ev scope : Nat) (reg : RegName) (wr : Nat → Wr) : Prop :=
  (va.toNat % alignOf n ≠ 0 → exec i s = .next (s.precise ⟨0x06, slot, 0, 0, va⟩)) ∧
  (va.toNat % alignOf n = 0 → ∀ e, s.xlate .read va n = .error e → exec i s = .next (s.precise (e.cause slot))) ∧
  (va.toNat % alignOf n = 0 → ∀ segs, s.xlate .read va n = .ok segs → ∃ t v x, exec i s = .next t ∧ s.reads t ∧
    t.me.iss.vpend = s.me.iss.vpend ++ [v] ∧ v.id = s.me.iss.nextId ∧ v.region = s.me.iss.region ∧ v.kind = .load ∧ v.regs = [reg] ∧ v.hold = false ∧
    v.wr = [wr x] ∧
    ((∀ a ∈ addrsOf segs, s.mem.owner.get none (a / 128) = none) → s.mem.fabric = [] → apart (addrsOf segs) → x = leVal ((addrsOf segs).map (loadByte s))) ∧
    (scope < 2 → (∀ a ∈ addrsOf segs, ((s.me.line (a / 128)).sec (a / 64)).valid = true) →
      x = leVal ((addrsOf segs).map fun a => match lastCell (s.ownCells s.cur) a with | some b => b | none => ((s.me.line (a / 128)).sec (a / 64)).byte (a % 64))) ∧
    (ev = 5 → s.mem.owner = [] → s.mem.fabric = [] → s.me.l1 = [] → s.me.rq = [] → s.me.wb = [] →
      t.mem.bytes = s.mem.bytes ∧ t.me.l1 = [] ∧ x = leVal ((addrsOf segs).map s.mem.byte)))

/-- A store of `bytes` bytes of the number `x` to `va` in slot W: the checks of R162, then one withheld effect whose bytes are those of `x`, lowest first, at the physical addresses of the access, cut at 64-byte blocks. -/
def stores (i : Instr) (s : State) (va : W72) (n ev scope x : Nat) : Prop :=
  (va.toNat % alignOf n ≠ 0 → exec i s = .next (s.precise ⟨0x06, 5, 0, 0, va⟩)) ∧
  (va.toNat % alignOf n = 0 → ∀ e, s.xlate .write va n = .error e → exec i s = .next (s.precise (e.cause 5))) ∧
  (va.toNat % alignOf n = 0 → ∀ segs, s.xlate .write va n = .ok segs → ∃ t ps, exec i s = .next t ∧ s.withholdsFor t [.store ps ev scope] [] ∧
    ps.flatMap Piece.cells = (addrsOf segs).zip ((List.range n).map (byteOf x)) ∧ ∀ p ∈ ps, p.pa % 64 + p.bytes.length ≤ 64)

/-- The atomics of R176: opcode, instruction, operation, bytes. -/
def tableAtm : List (Nat × (MT → Instr) × AtomOp × Nat) :=
  [(0x20, Instr.atmAdd, .add, 8), (0x21, Instr.atmAnd, .and, 8), (0x22, Instr.atmOr, .or, 8), (0x23, Instr.atmXor, .xor, 8),
   (0x24, Instr.atmMinI64, .minI, 8), (0x25, Instr.atmMaxI64, .maxI, 8), (0x26, Instr.atmMinN64, .minN, 8), (0x27, Instr.atmMaxN64, .maxN, 8),
   (0x28, Instr.atmSwp, .swp, 8), (0x29, Instr.atmCas, .cas, 8), (0x2A, Instr.atmFaddF32, .fadd, 4)]

end Sys2Proof.Claims

open Sys2Proof Sys2Proof.Machine Sys2Proof.Claims

/-- R170 with R160 to R163: every plain load. It checks alignment, then translation; it reads at issue, and its result stays pending. Its bytes become s[d] sign-extended or zero-extended, a[d] or v[d]; they are those of the core's own stores that have not performed, then of its L1 where it holds them, then of memory (R103). No register, vector, scratchpad byte or queue of any core changes at issue, and a byte of memory changes only by the Write-back of a dirty copy: it takes that copy's value, and its line's version rises. -/
def Sys2Proof.Claims.GlobalLoads : Prop :=
  (∀ row ∈ tableLd, ∀ (f : MA) (s : State),
    (encodeOpL (row.2.1 f)).map Prod.fst = some row.1 ∧
    loads 4 (row.2.1 f) s (eaMA s f) row.2.2.1 f.ev.toNat f.scope.toNat (row.2.2.2.1 f) (row.2.2.2.2 f)) ∧
  ∀ (f : MX) (s : State), loads 4 (.vldx f) s (eaMX s f) 512 f.ev.toNat f.scope.toNat (.v f.data.toNat) fun x => .v f.data.toNat (BitVec.allOnes 4096) (BitVec.ofNat 4096 x)

/-- R171: a load with ord acq needs its target in bytes 0 to 63 of its line, else it takes the alignment trap; it reads at issue, its result is pending, and it holds later memory operations. -/
def Sys2Proof.Claims.AcquireLoads : Prop :=
  ∀ (k : LdKind) (f : MA) (s : State),
    let va := eaMA s f
    let n := match k with | .i8 | .n8 => 1 | .i16 | .n16 => 2 | .i32 | .n32 => 4 | .n64 => 8 | .a => 16
    (va.toNat % n ≠ 0 ∨ 64 ≤ va.toNat % 128 → exec (.ldAcq k f) s = .next (s.precise ⟨0x06, 4, 0, 0, va⟩)) ∧
    (va.toNat % n = 0 → va.toNat % 128 < 64 → (∀ e, s.xlate .read va n = .error e → exec (.ldAcq k f) s = .next (s.precise (e.cause 4))) ∧
      ∀ g l, s.xlate .read va n = .ok (g :: l) → s.mem.owner.get none (g.pa / 128) = none → s.mem.fabric = [] → ∃ t v, exec (.ldAcq k f) s = .next t ∧ s.reads t ∧
        t.me.iss.vpend = s.me.iss.vpend ++ [v] ∧ v.kind = .load ∧ v.hold = true ∧
        let x := leVal ((List.range n).map fun i => s.mem.byte (g.pa + i))
        v.wr = [match k with
          | .i8 | .i16 | .i32 => .s f.data.toNat (BitVec.ofInt 64 (BitVec.ofNat (8 * n) x).toInt)
          | .n8 | .n16 | .n32 | .n64 => .s f.data.toNat (BitVec.ofNat 64 x)
          | .a => .a f.data.toNat (BitVec.ofNat 72 x)])

/-- R170 and R172 with R160 to R163 and R102: every store withholds exactly the bytes it will write at the addresses it computes; nothing performs at issue. A store with ord rel needs its target in bytes 0 to 63 of its line. -/
def Obligations.GlobalStores : Prop :=
  (∀ row ∈ tableSt, ∀ (f : MA) (s : State),
    (encodeOpW (row.2.1 f)).map Prod.fst = some row.1 ∧ stores (row.2.1 f) s (eaMA s f) row.2.2.1 f.ev.toNat f.scope.toNat (row.2.2.2 s f)) ∧
  (∀ (f : MX) (s : State), stores (.vstx f) s (eaMX s f) 512 f.ev.toNat f.scope.toNat (s.me.vec.get 0 f.data.toNat).toNat) ∧
  ∀ (k : StKind) (f : MA) (s : State),
    let va := eaMA s f
    let n := match k with | .n8 => 1 | .n16 => 2 | .n32 => 4 | .n64 => 8 | .a => 16
    let x := match k with | .a => (s.me.regs.ra f.data.toNat).toNat | _ => (s.me.regs.rs f.data.toNat).toNat
    (va.toNat % n ≠ 0 ∨ 64 ≤ va.toNat % 128 → exec (.stRel k f) s = .next (s.precise ⟨0x06, 5, 0, 0, va⟩)) ∧
    (va.toNat % n = 0 → va.toNat % 128 < 64 → (∀ e, s.xlate .write va n = .error e → exec (.stRel k f) s = .next (s.precise (e.cause 5))) ∧
      ∀ g, s.xlate .write va n = .ok [g] → g.pa % 64 + n ≤ 64 → ∃ t, exec (.stRel k f) s = .next t ∧
        s.withholdsFor t [.storeRel f.scope.toNat f.ev.toNat ⟨g.pa, (List.range n).map (byteOf x), g.untr⟩] [])

/-- R169, R166, R167 and R162: the scratchpad loads. Rows must be aligned and lie below the task's scratchpad size; byte j of v[d] is the scratchpad byte that the form names, seen through the core's own withheld stores (R103). A gather gives zero to lanes out of range and records them in vfm, or takes the scratchpad-range trap where its shape says so; inactive lanes keep what they hold. The latency is 6. -/
def Sys2Proof.Claims.ScratchpadLoads : Prop :=
  ∀ (s : State),
    (∀ f : MP, let x := scrMP s f
      (x % 4 ≠ 0 → exec (.svld f) s = .next (s.precise ⟨0x06, 4, 0, 0, BitVec.ofNat 72 x⟩)) ∧
      (x % 4 = 0 ∧ s.me.scratchSize < x + 512 → exec (.svld f) s = .next (s.precise ⟨0x09, 4, 0, 0, BitVec.ofNat 72 x⟩)) ∧
      (x % 4 = 0 ∧ x + 512 ≤ s.me.scratchSize → ∃ v : Vec, writes (.svld f) s 6 [.v f.data.toNat (BitVec.allOnes 4096) v] ∧
        ∀ j < 512, byteOf v.toNat j = s.me.scrByte (x + j))) ∧
    (∀ f : MP, let x := scrMP s f; let h := s.me.regs.shape 1 f.hs.toNat
      (x % 4 = 0 → (shapeRow h = 512 ∨ shapeStride h % 4 = 0) → (∀ j < 512, strided x h j < s.me.scratchSize) →
        ∃ v : Vec, writes (.svlds f) s 6 [.v f.data.toNat (BitVec.allOnes 4096) v] ∧ ∀ j < 512, byteOf v.toNat j = s.me.scrByte (strided x h j)) ∧
      (x % 4 = 0 → (shapeRow h = 512 ∨ shapeStride h % 4 = 0) → (∃ j < 512, s.me.scratchSize ≤ strided x h j) →
        ∃ i < 512 / shapeRow h, s.me.scratchSize < x + i * shapeStride h + shapeRow h ∧ exec (.svlds f) s = .next (s.precise ⟨0x09, 4, 0, 0, BitVec.ofNat 72 (x + i * shapeStride h)⟩)) ∧
      (x % 4 ≠ 0 ∨ (shapeRow h ≠ 512 ∧ shapeStride h % 4 ≠ 0) → exec (.svlds f) s = .next (s.precise ⟨0x06, 4, 0, 0, BitVec.ofNat 72 x⟩))) ∧
    (∀ f : MP, let x := scrMP s f
      (x % 8 ≠ 0 → exec (.sld f) s = .next (s.precise ⟨0x06, 4, 0, 0, BitVec.ofNat 72 x⟩)) ∧
      (x % 8 = 0 ∧ s.me.scratchSize < x + 8 → exec (.sld f) s = .next (s.precise ⟨0x09, 4, 0, 0, BitVec.ofNat 72 x⟩)) ∧
      (x % 8 = 0 ∧ x + 8 ≤ s.me.scratchSize →
        writes (.sld f) s 6 [.s f.data.toNat (BitVec.ofNat 64 (leVal ((List.range 8).map fun i => s.me.scrByte (x + i))))])) ∧
    (∀ f : MG, let h := s.me.regs.shape 1 f.hs.toNat; let l := lanesOf s f h
      (l.trap = true → (∃ i, l.on i ∧ l.out i) → ∃ i, l.on i ∧ l.out i ∧ exec (.svgth f) s = .next (s.precise ⟨0x09, 4, 0, 0, BitVec.ofNat 72 (l.addr i)⟩)) ∧
      (l.trap = false ∨ (∀ i, l.on i → ¬l.out i) → ∃ t m v, exec (.svgth f) s = .next t ∧ s.onlyCore t s.cur ∧
        t.me = { s.me with regs := { s.me.regs with vfm := t.me.regs.vfm }, iss := { s.me.iss with pend := s.me.iss.pend ++ [⟨s.cycle + 5, s.me.iss.region, .v f.data.toNat m v⟩] } } ∧
        (∀ i < 128, t.me.regs.vfm.getLsbD i = true ↔ s.me.regs.vfm.getLsbD i = true ∨ (l.on i ∧ l.out i)) ∧
        ∀ i < 512 / l.w, ∀ j < l.w, (byteOf m.toNat (l.w * i + j) = 0xFF ↔ l.on i) ∧ (byteOf m.toNat (l.w * i + j) = 0 ↔ ¬l.on i) ∧
          (l.on i → ¬l.out i → byteOf v.toNat (l.w * i + j) = s.me.scrByte (l.addr i + j)) ∧ (l.on i → l.out i → byteOf v.toNat (l.w * i + j) = 0)))

/-- R169, R167 and R162: the scratchpad stores withhold, for every offset, the byte of v[s] or s[s] that their form gives it; of two for one offset the one from the higher register byte or lane stands. A scatter writes nothing for lanes out of range. -/
def Sys2Proof.Claims.ScratchpadStores : Prop :=
  ∀ (s : State),
    (∀ f : MP, let x := scrMP s f; let v := (s.me.vec.get 0 f.data.toNat).toNat
      (x % 4 ≠ 0 → exec (.svst f) s = .next (s.precise ⟨0x06, 5, 0, 0, BitVec.ofNat 72 x⟩)) ∧
      (x % 4 = 0 ∧ s.me.scratchSize < x + 512 → exec (.svst f) s = .next (s.precise ⟨0x09, 5, 0, 0, BitVec.ofNat 72 x⟩)) ∧
      (x % 4 = 0 ∧ x + 512 ≤ s.me.scratchSize → ∃ t cs, exec (.svst f) s = .next t ∧ s.withholds t [.scratch cs] ∧
        ∀ a, lastCell cs a = if x ≤ a ∧ a < x + 512 then some (byteOf v (a - x)) else none)) ∧
    (∀ f : MP, let x := scrMP s f; let h := s.me.regs.shape 2 f.hs.toNat; let v := (s.me.vec.get 0 f.data.toNat).toNat
      (x % 4 = 0 → (shapeRow h = 512 ∨ shapeStride h % 4 = 0) → (∀ j < 512, strided x h j < s.me.scratchSize) →
        ∃ t cs, exec (.svsts f) s = .next t ∧ s.withholds t [.scratch cs] ∧
          ∀ a b, lastCell cs a = some b ↔ ∃ j < 512, strided x h j = a ∧ b = byteOf v j ∧ ∀ i, j < i → i < 512 → strided x h i ≠ a) ∧
      (x % 4 = 0 → (shapeRow h = 512 ∨ shapeStride h % 4 = 0) → (∃ j < 512, s.me.scratchSize ≤ strided x h j) →
        ∃ i < 512 / shapeRow h, s.me.scratchSize < x + i * shapeStride h + shapeRow h ∧ exec (.svsts f) s = .next (s.precise ⟨0x09, 5, 0, 0, BitVec.ofNat 72 (x + i * shapeStride h)⟩)) ∧
      (x % 4 ≠ 0 ∨ (shapeRow h ≠ 512 ∧ shapeStride h % 4 ≠ 0) → exec (.svsts f) s = .next (s.precise ⟨0x06, 5, 0, 0, BitVec.ofNat 72 x⟩))) ∧
    (∀ f : MP, let x := scrMP s f
      (x % 8 ≠ 0 → exec (.sst f) s = .next (s.precise ⟨0x06, 5, 0, 0, BitVec.ofNat 72 x⟩)) ∧
      (x % 8 = 0 ∧ s.me.scratchSize < x + 8 → exec (.sst f) s = .next (s.precise ⟨0x09, 5, 0, 0, BitVec.ofNat 72 x⟩)) ∧
      (x % 8 = 0 ∧ x + 8 ≤ s.me.scratchSize → ∃ t cs, exec (.sst f) s = .next t ∧ s.withholds t [.scratch cs] ∧
        ∀ a, lastCell cs a = if x ≤ a ∧ a < x + 8 then some (byteOf (s.me.regs.rs f.data.toNat).toNat (a - x)) else none)) ∧
    (∀ f : MG, let h := s.me.regs.shape 2 f.hs.toNat; let l := lanesOf s f h; let v := (s.me.vec.get 0 f.data.toNat).toNat
      (l.trap = true → (∃ i, l.on i ∧ l.out i) → ∃ i, l.on i ∧ l.out i ∧ exec (.svsct f) s = .next (s.precise ⟨0x09, 5, 0, 0, BitVec.ofNat 72 (l.addr i)⟩)) ∧
      (l.trap = false ∨ (∀ i, l.on i → ¬l.out i) → ∃ t cs, exec (.svsct f) s = .next t ∧ s.onlyCore t s.cur ∧
        t.me = { s.me with regs := { s.me.regs with vfm := t.me.regs.vfm }, wb := s.me.wb ++ [.scratch cs] } ∧
        (∀ i < 128, t.me.regs.vfm.getLsbD i = true ↔ s.me.regs.vfm.getLsbD i = true ∨ (l.on i ∧ l.out i)) ∧
        ∀ a b, lastCell cs a = some b ↔ ∃ i j, j < l.w ∧ l.on i ∧ ¬l.out i ∧ l.addr i + j = a ∧ b = byteOf v (l.w * i + j) ∧
          ∀ k, i < k → l.on k → ¬l.out k → ¬(l.addr k ≤ a ∧ a < l.addr k + l.w)))

/-- R175 and R178 with R162 and R163, at issue: `sdesc` and `cwb` enter WB with the block or line of any byte address; `ldesc` makes s[d] pending with a 32-bit descriptor; `cinv` and `cflush` act at once and leave the line out of the L1; `pref` never traps, and does nothing where its checks fail. -/
def Obligations.DescriptorsAndCacheOperations : Prop :=
  ∀ (f : MA) (s : State),
    let va := eaMA s f
    (∀ e, s.xlate .write va 1 = .error e → ∀ i ∈ [Instr.sdesc f, Instr.cwb f], exec i s = .next (s.precise (e.cause 5))) ∧
    (∀ e, s.xlate .write va 1 = .error e → exec (.cflush f) s = .next (s.precise (e.cause 4))) ∧
    (∀ e, s.xlate .read va 1 = .error e → exec (.pref f) s = .next s ∧ ∀ i ∈ [Instr.ldesc f, Instr.cinv f], exec i s = .next (s.precise (e.cause 4))) ∧
    (∀ g l, s.xlate .write va 1 = .ok (g :: l) →
      (∃ t, exec (.sdesc f) s = .next t ∧ s.withholdsFor t [.sdesc g.pa ((s.me.regs.rs f.data.toNat).setWidth 32) g.untr f.scope.toNat] []) ∧
      (∃ t, exec (.cwb f) s = .next t ∧ s.withholdsFor t [.cwb g.pa f.scope.toNat] []) ∧
      (∃ t, exec (.cflush f) s = .next t ∧ s.reads t ∧ t.me.line (g.pa / 128) = {} ∧
        (s.mem.fabric = [] → (s.me.line (g.pa / 128)).owned = false → s.mem.owner.get none (g.pa / 128) ≠ some s.cur →
          ∀ a, a / 128 = g.pa / 128 → (((s.me.line (a / 128)).sec (a / 64)).dirty.getLsbD (a % 64) = true) →
            t.mem.byte a = ((s.me.line (a / 128)).sec (a / 64)).byte (a % 64)))) ∧
    (∀ g l, s.xlate .read va 1 = .ok (g :: l) →
      (∃ t, exec (.pref f) s = .next t ∧ s.reads t) ∧
      (∃ t, exec (.cinv f) s = .next t ∧ s.reads t ∧ t.me.line (g.pa / 128) = {} ∧
        (s.mem.owner.get none (g.pa / 128) = none ∨ (f.scope.toNat < 2 ∧ s.mem.owner.get none (g.pa / 128) ≠ some s.cur) → ∀ a, t.mem.byte a = s.mem.byte a)) ∧
      (∃ t v d, exec (.ldesc f) s = .next t ∧ s.reads t ∧ t.me.iss.vpend = s.me.iss.vpend ++ [v] ∧ v.kind = .load ∧
        v.regs = [.s f.data.toNat] ∧ v.hold = false ∧ v.wr = [.s f.data.toNat (BitVec.setWidth 64 (d : BitVec 32))] ∧
        (((s.me.line (g.pa / 128)).sec (g.pa / 64)).valid = true → (f.scope.toNat < 2 ∨ s.mem.owner.get none (g.pa / 128) ≠ some s.cur) → s.me.rq = [] → s.me.wb = [] → d = ((s.me.line (g.pa / 128)).sec (g.pa / 64)).desc)))

/-- R176 with R160 to R163 at issue: every atomic checks alignment, with ordering also the beacon bytes of its line, then translation for writing; it is withheld, its destination is pending, and with acq or ar it holds later memory operations. -/
def Sys2Proof.Claims.AtomicIssue : Prop :=
  ∀ row ∈ tableAtm, ∀ (f : MT) (s : State),
    let va := eaMT s f
    let n := row.2.2.2
    let misplaced := va.toNat % n ≠ 0 ∨ (f.ord.toNat ≠ 0 ∧ 64 ≤ va.toNat % 128)
    (encodeOpW (row.2.1 f)).map Prod.fst = some row.1 ∧
    (misplaced → exec (row.2.1 f) s = .next (s.precise ⟨0x06, 5, 0, 0, va⟩)) ∧
    (¬misplaced → (∀ e, s.xlate .write va n = .error e → exec (row.2.1 f) s = .next (s.precise (e.cause 5))) ∧
      ∀ g l, s.xlate .write va n = .ok (g :: l) → ∃ t v p, exec (row.2.1 f) s = .next t ∧
        s.withholdsFor t [.atomic row.2.2.1 f.ord.toNat f.scope.toNat f.ev.toNat p (sr s f.x) (sr s f.y) f.d.toNat v.id] [v] ∧
        p.pa = g.pa ∧ p.bytes.length = n ∧ p.untr = g.untr ∧ v.kind = .atomic ∧ v.regs = [.s f.d.toNat] ∧ v.wr = [] ∧ v.ready = none ∧
        (v.hold = true ↔ f.ord.toNat = 1 ∨ f.ord.toNat = 3))

/-- R176: what each atomic writes, as a function of the old value and its operands, on 8 bytes and, for `fadd.f32`, on 4; a `cas` that compares unequal writes nothing. -/
def Sys2Proof.Claims.AtomicValues : Prop :=
  ∀ old x y : W64,
    AtomOp.add.new old x y = some (BitVec.ofNat 64 (old.toNat + x.toNat)) ∧
    AtomOp.and.new old x y = some (old &&& x) ∧ AtomOp.or.new old x y = some (old ||| x) ∧ AtomOp.xor.new old x y = some (old ^^^ x) ∧
    AtomOp.minI.new old x y = some (BitVec.ofInt 64 (min old.toInt x.toInt)) ∧ AtomOp.maxI.new old x y = some (BitVec.ofInt 64 (max old.toInt x.toInt)) ∧
    AtomOp.minN.new old x y = some (BitVec.ofNat 64 (min old.toNat x.toNat)) ∧ AtomOp.maxN.new old x y = some (BitVec.ofNat 64 (max old.toNat x.toNat)) ∧
    AtomOp.swp.new old x y = some x ∧
    AtomOp.fadd.new old x y = some ((roundF32 (Val.add 0 (f32 (old.setWidth 32)) (f32 (x.setWidth 32))) 0).setWidth 64) ∧ (old = y → AtomOp.cas.new old x y = some x) ∧ (old ≠ y → AtomOp.cas.new old x y = none)

/-- R166, R167 and R169: scratchpad loads and stores. That a gather and a scatter write the lanes they fault into vfm at issue is the model's choice (log entry 29). -/
def Obligations.ScratchpadAccess : Prop := Sys2Proof.Claims.ScratchpadLoads ∧ Sys2Proof.Claims.ScratchpadStores

/-- R176: the atomics at issue, and the values that they write. -/
def Obligations.Atomics : Prop := Sys2Proof.Claims.AtomicIssue ∧ Sys2Proof.Claims.AtomicValues

/-- R160 to R163, R170 and R171: plain and acquire loads. -/
def Obligations.GlobalReads : Prop := Sys2Proof.Claims.GlobalLoads ∧ Sys2Proof.Claims.AcquireLoads

/-! ### The vector class -/

namespace Sys2Proof.Claims
open Sys2Proof.Machine

/-- Lane `i` of width `w` of a register (R144). -/
def laneAt (w : Nat) (v : Vec) (i : Nat) : Nat := v.toNat / 2 ^ (w * i) % 2 ^ w
/-- Lane `i` of width `w` of register v[r] of the acting core. -/
def vl (s : State) (w : Nat) (r : BitVec 10) (i : Nat) : Nat := laneAt w (s.me.vec.get 0 r.toNat) i
/-- Lane `i` of width `w` is active under predicate p[p] (R145). -/
def active (s : State) (p : BitVec 4) (w i : Nat) : Bool := (s.me.regs.rp p.toNat).getLsbD (w * i / 8)
/-- Instruction `i` issues one masked write of v[d]: the lanes that p[p] leaves active take `g`, the others are not written (R145). -/
def lanesWritten (s : State) (i : Instr) (lat : Nat) (p : BitVec 4) (w : Nat) (d : BitVec 10) (g : Nat → Nat) : Prop :=
  ∃ m v : Vec, writes i s lat [.v d.toNat m v] ∧ ∀ j < 4096 / w,
    (active s p w j = true → laneAt w m j = 2 ^ w - 1 ∧ laneAt w v j = g j % 2 ^ w) ∧ (active s p w j = false → laneAt w m j = 0)
/-- Instruction `i` issues one write of all of v[d], lane by lane. -/
def allLanesWritten (s : State) (i : Instr) (lat w : Nat) (d : BitVec 10) (g : Nat → Nat) : Prop :=
  ∃ v : Vec, writes i s lat [.v d.toNat (BitVec.allOnes 4096) v] ∧ ∀ j < 4096 / w, laneAt w v j = g j % 2 ^ w
/-- Instruction `i` issues one write of all of p[d]: every bit that covers an active lane takes the lane's condition, every other bit is 0 (R145, R153). -/
def condWritten (s : State) (i : Instr) (p : BitVec 4) (w : Nat) (d : BitVec 10) (g : Nat → Bool) : Prop :=
  ∃ v : Pred, writes i s 4 [.p d.toNat (BitVec.allOnes 512) v] ∧ ∀ b < 512, v.getLsbD b = (active s p w (8 * b / w) && g (8 * b / w))

/-- The exact value of a lane of type `t` (R90, R150). -/
def vVal (t x : Nat) : Val := rawValue (Fmt.ofType t) x
/-- A floating result rounded once into its lane (R92, R150). -/
def vFlt (t rm : Nat) (x : Val) : Nat := (encodeVal x (Fmt.ofType t) rm false none).bits
/-- An integer lane read as signed (types below 4) or unsigned (R150). -/
def vInt (t x : Nat) : Int := if t < 4 then (BitVec.ofNat (tyWidth t) x).toInt else x
/-- An exact integer result clamped to the range of its type, or taken modulo 2^w (R150). -/
def vIntRes (t : Nat) (sat : Bool) (x : Int) : Nat :=
  let w := tyWidth t
  let lo : Int := if t < 4 then -2 ^ (w - 1) else 0
  let hi : Int := if t < 4 then 2 ^ (w - 1) - 1 else 2 ^ w - 1
  (BitVec.ofInt w (if sat then max lo (min hi x) else x)).toNat
/-- One lane by the algorithm of R150: floating types from 8 on, integer types below. -/
def arithLane (fl : Nat → Val → Val → Val → Val) (int : Int → Int → Int → Int) (t rm : Nat) (sat : Bool) (a b c : Nat) : Nat :=
  if 8 ≤ t then vFlt t rm (fl rm (vVal t a) (vVal t b) (vVal t c)) else vIntRes t sat (int (vInt t a) (vInt t b) (vInt t c))

/-- The table of R150: opcode, VR form, VS form (R147), latency (R148), and the exact result on values and on integers. -/
noncomputable def tableArith : List (Nat × (VR → Instr) × (VS → Instr) × Nat × (Nat → Val → Val → Val → Val) × (Int → Int → Int → Int)) :=
  [(0x01, Instr.vadd, Instr.vaddScalar, 4, fun rm a b _ => Val.add rm a b, fun a b _ => a + b),
   (0x02, Instr.vsub, Instr.vsubScalar, 4, fun rm a b _ => Val.add rm a b.negate, fun a b _ => a - b),
   (0x03, Instr.vmul, Instr.vmulScalar, 4, fun _ a b _ => Val.mul a b, fun a b _ => a * b),
   (0x04, Instr.vfma, Instr.vfmaScalar, 4, fun rm a b c => Val.add rm (Val.mul a b) c, fun a b c => a * b + c),
   (0x05, Instr.vfms, Instr.vfmsScalar, 4, fun rm a b c => Val.add rm (Val.mul a b) c.negate, fun a b c => a * b - c),
   (0x06, Instr.vfnma, Instr.vfnmaScalar, 4, fun rm a b c => Val.add rm c (Val.mul a b).negate, fun a b c => c - a * b),
   (0x13, Instr.vdiv, Instr.vdivScalar, 8, fun _ a b _ => Val.div a b, fun a b _ => if b = 0 then -1 else a.tdiv b)]

/-- The two-source operations of R151: opcode, VR form, VS form, whether a scalar second source counts whole (the shifts, R147), and the lane result. -/
noncomputable def tableLane2 : List (Nat × (VR → Instr) × (VS → Instr) × Bool × (Nat → Nat → Nat → Nat)) :=
  [(0x07, Instr.vmin, Instr.vminScalar, false, fun t a b => if 8 ≤ t then vFlt t 0 (Val.min2 (vVal t a) (vVal t b)) else vIntRes t false (min (vInt t a) (vInt t b))),
   (0x08, Instr.vmax, Instr.vmaxScalar, false, fun t a b => if 8 ≤ t then vFlt t 0 (Val.max2 (vVal t a) (vVal t b)) else vIntRes t false (max (vInt t a) (vInt t b))),
   (0x0B, Instr.vand, Instr.vandScalar, false, fun _ a b => a &&& b),
   (0x0C, Instr.vor, Instr.vorScalar, false, fun _ a b => a ||| b),
   (0x0D, Instr.vxor, Instr.vxorScalar, false, fun _ a b => a ^^^ b),
   (0x0E, Instr.vandn, Instr.vandnScalar, false, fun t a b => a &&& (2 ^ tyWidth t - 1 - b)),
   (0x0F, Instr.vshl, Instr.vshlScalar, true, fun t a b => if b < tyWidth t then a * 2 ^ b else 0),
   (0x10, Instr.vshr, Instr.vshrScalar, true, fun t a b => if b < tyWidth t then a / 2 ^ b else 0),
   (0x11, Instr.vsar, Instr.vsarScalar, true, fun t a b => (BitVec.ofInt (tyWidth t) ((BitVec.ofNat (tyWidth t) a).toInt / 2 ^ min b 64)).toNat),
   (0x12, Instr.vmulh, Instr.vmulhScalar, false, fun t a b => (BitVec.ofInt (tyWidth t) (vInt t a * vInt t b / 2 ^ tyWidth t)).toNat)]

/-- The transcendentals of R152 but for `vsqrt`. -/
noncomputable def tableTrans : List (Nat × (VR → Instr) × Trans) :=
  [(0x18, Instr.vrecip, .recip), (0x19, Instr.vrsqrt, .rsqrt), (0x1B, Instr.vexp2, .exp2), (0x1C, Instr.vlog2, .log2),
   (0x1D, Instr.vsin, .sin), (0x1E, Instr.vcos, .cos), (0x1F, Instr.vtanh, .tanh)]

/-- a < b as R153 orders values: a NaN is in no order, −0 equals +0. -/
def vLess (t a b : Nat) : Bool := if 8 ≤ t then Val.lt (vVal t a) (vVal t b) else decide (vInt t a < vInt t b)
/-- A lane is NaN. -/
def vNan (t a : Nat) : Bool := decide (8 ≤ t) && vVal t a == .nan
/-- The compares of R153. -/
noncomputable def tableVcmp : List (Nat × (VR → Instr) × (Nat → Nat → Nat → Bool)) :=
  let eq := fun t a b => !vNan t a && !vNan t b && !vLess t a b && !vLess t b a
  [(0x20, Instr.vceq, eq), (0x21, Instr.vcne, fun t a b => !eq t a b), (0x22, Instr.vclt, vLess),
   (0x23, Instr.vcle, fun t a b => vLess t a b || eq t a b), (0x24, Instr.vcgt, fun t a b => vLess t b a),
   (0x25, Instr.vcge, fun t a b => vLess t b a || eq t a b), (0x26, Instr.vcun, fun t a b => vNan t a || vNan t b)]

/-- The tree of R96 over 2^k lanes: lane i of each half combines with lane i of the other. -/
def tree96 (op : Nat → Nat → Nat) : Nat → (Nat → Nat) → Nat
  | 0, f => f 0
  | k + 1, f => tree96 op k fun i => op (f i) (f (i + 2 ^ k))
/-- log2 of the lanes of width `w`. -/
def lanesLog (w : Nat) : Nat := match w with | 8 => 9 | 16 => 8 | 32 => 7 | 64 => 6 | _ => 10

/-- The reductions of R156: opcode, instruction, combining operation and identity (R96). -/
noncomputable def tableRed : List (Nat × (VR → Instr) × (VR → Nat → Nat → Nat) × (Nat → Nat)) :=
  [(0x30, Instr.vradd, fun f a b => arithLane (fun rm a b _ => Val.add rm a b) (fun a b _ => a + b) f.ty.toNat f.rm.toNat (f.sat == 1) a b 0, fun t => if 8 ≤ t then 2 ^ (tyWidth t - 1) else 0),
   (0x31, Instr.vrmax, fun f a b => if 8 ≤ f.ty.toNat then vFlt f.ty.toNat 0 (Val.max2 (vVal f.ty.toNat a) (vVal f.ty.toNat b)) else vIntRes f.ty.toNat false (max (vInt f.ty.toNat a) (vInt f.ty.toNat b)),
     fun t => if 8 ≤ t then vFlt t 0 (.inf true) else vIntRes t false (if t < 4 then -2 ^ (tyWidth t - 1) else 0)),
   (0x32, Instr.vrmin, fun f a b => if 8 ≤ f.ty.toNat then vFlt f.ty.toNat 0 (Val.min2 (vVal f.ty.toNat a) (vVal f.ty.toNat b)) else vIntRes f.ty.toNat false (min (vInt f.ty.toNat a) (vInt f.ty.toNat b)),
     fun t => if 8 ≤ t then vFlt t 0 (.inf false) else vIntRes t false (if t < 4 then 2 ^ (tyWidth t - 1) - 1 else 2 ^ tyWidth t - 1)),
   (0x33, Instr.vrand, fun _ a b => a &&& b, fun t => 2 ^ tyWidth t - 1), (0x34, Instr.vror, fun _ a b => a ||| b, fun _ => 0), (0x35, Instr.vrxor, fun _ a b => a ^^^ b, fun _ => 0)]

/-- The predicate operations of R154. -/
noncomputable def tablePred : List (Nat × (VR → Instr) × (Bool → Bool → Bool)) :=
  [(0x40, Instr.pand, fun a b => a && b), (0x41, Instr.por, fun a b => a || b), (0x42, Instr.pxor, fun a b => a != b), (0x43, Instr.pnot, fun a _ => !a)]

end Sys2Proof.Claims

open Sys2Proof Sys2Proof.Machine Sys2Proof.Claims

/-- R150 with R145, R147 and R148: every arithmetic form, from two or three registers or with a scalar second source, computes each active lane exactly and rounds or narrows it once, with its latency, and writes nothing else. -/
def Obligations.VectorArithmetic : Prop :=
  ∀ row ∈ tableArith,
    (∀ (f : VR) (s : State), (encodeOpV (row.2.1 f)).map Prod.fst = some row.1 ∧
      lanesWritten s (row.2.1 f) row.2.2.2.1 f.p (tyWidth f.ty.toNat) f.vd fun i =>
        arithLane row.2.2.2.2.1 row.2.2.2.2.2 f.ty.toNat f.rm.toNat (f.sat == 1) (vl s (tyWidth f.ty.toNat) f.va i) (vl s (tyWidth f.ty.toNat) f.vb i) (vl s (tyWidth f.ty.toNat) f.vc i)) ∧
    (∀ (f : VS) (s : State), (encodeOpV (row.2.2.1 f)).map Prod.fst = some (row.1 + 0x80) ∧
      lanesWritten s (row.2.2.1 f) row.2.2.2.1 f.p (tyWidth f.ty.toNat) f.vd fun i =>
        arithLane row.2.2.2.2.1 row.2.2.2.2.2 f.ty.toNat f.rm.toNat (f.sat == 1) (vl s (tyWidth f.ty.toNat) f.va i) ((sr s f.s).toNat % 2 ^ tyWidth f.ty.toNat) (vl s (tyWidth f.ty.toNat) f.vc i))

/-- R151 with R147: minima, maxima, logic, shifts and high products on lanes, from registers or with a scalar; the count of a scalar shift is the whole scalar; and the magnitude and negation of a lane, which saturate only with sat. -/
def Obligations.VectorLaneOperations : Prop :=
  (∀ row ∈ tableLane2,
    (∀ (f : VR) (s : State), (encodeOpV (row.2.1 f)).map Prod.fst = some row.1 ∧
      lanesWritten s (row.2.1 f) 4 f.p (tyWidth f.ty.toNat) f.vd fun i => row.2.2.2.2 f.ty.toNat (vl s (tyWidth f.ty.toNat) f.va i) (vl s (tyWidth f.ty.toNat) f.vb i)) ∧
    (∀ (f : VS) (s : State), (encodeOpV (row.2.2.1 f)).map Prod.fst = some (row.1 + 0x80) ∧
      lanesWritten s (row.2.2.1 f) 4 f.p (tyWidth f.ty.toNat) f.vd fun i => row.2.2.2.2 f.ty.toNat (vl s (tyWidth f.ty.toNat) f.va i)
        (if row.2.2.2.1 then (sr s f.s).toNat else (sr s f.s).toNat % 2 ^ tyWidth f.ty.toNat))) ∧
  ∀ (f : VR) (s : State),
    let t := f.ty.toNat
    let w := tyWidth t
    (t < 4 ∨ 8 ≤ t → lanesWritten s (.vabs f) 4 f.p w f.vd (fun i => if 8 ≤ t then vFlt t 0 (vVal t (vl s w f.va i)).abs else vIntRes t (f.sat == 1) |vInt t (vl s w f.va i)|) ∧
      lanesWritten s (.vneg f) 4 f.p w f.vd (fun i => if 8 ≤ t then vFlt t 0 (vVal t (vl s w f.va i)).negate else vIntRes t (f.sat == 1) (-vInt t (vl s w f.va i))))

/-- R152: a transcendental rounds the f32 result on the decoded input to its type and has latency 8; `vsqrt` rounds the exact root once, by rm. The special and exact cases of its table hold for every value that the implementation gives elsewhere: NaN, infinities, zeros, negative inputs, and integers and half-integers of the circular functions. -/
def Obligations.VectorTranscendentals : Prop :=
  (∀ row ∈ tableTrans, ∀ (f : VR) (s : State), (encodeOpV (row.2.1 f)).map Prod.fst = some row.1 ∧
    lanesWritten s (row.2.1 f) 8 f.p (tyWidth f.ty.toNat) f.vd fun i =>
      vFlt f.ty.toNat 0 (f32 (row.2.2.eval (roundF32 (vVal f.ty.toNat (vl s (tyWidth f.ty.toNat) f.va i)) 0)))) ∧
  (∀ (f : VR) (s : State), lanesWritten s (.vsqrt f) 8 f.p (tyWidth f.ty.toNat) f.vd fun i =>
    vFlt f.ty.toNat f.rm.toNat (Val.sqrt (vVal f.ty.toNat (vl s (tyWidth f.ty.toNat) f.va i)))) ∧
  (∀ (o : Trans) (a : BitVec 32), f32 a = .nan → o.eval a = 0x7FC00000) ∧
  (Trans.recip.eval 0 = 0x7F800000 ∧ Trans.recip.eval 0x80000000 = 0xFF800000 ∧ Trans.recip.eval 0x7F800000 = 0 ∧ Trans.recip.eval 0xFF800000 = 0x80000000) ∧
  (Trans.rsqrt.eval 0 = 0x7F800000 ∧ Trans.rsqrt.eval 0x80000000 = 0xFF800000 ∧ Trans.rsqrt.eval 0x7F800000 = 0 ∧ ∀ m e, m ≠ 0 → ∀ a, f32 a = .fin true m e → Trans.rsqrt.eval a = 0x7FC00000 ∧ Trans.log2.eval a = 0x7FC00000) ∧
  (Trans.exp2.eval 0xFF800000 = 0 ∧ Trans.exp2.eval 0x7F800000 = 0x7F800000 ∧ Trans.exp2.eval 0x43000000 = 0x7F800000 ∧ Trans.exp2.eval 0x40000000 = 0x40800000) ∧
  (Trans.log2.eval 0 = 0xFF800000 ∧ Trans.log2.eval 0x80000000 = 0xFF800000 ∧ Trans.log2.eval 0x7F800000 = 0x7F800000 ∧ Trans.log2.eval 0x41000000 = 0x40400000) ∧
  (∀ (a : BitVec 32) (s : Bool) (m k n : Nat), f32 a = .fin s m (-(k : Int)) → n ≠ 0 →
    (m = n * 2 ^ k → Trans.sin.eval a = 0 ∧ Trans.cos.eval a = if n % 2 = 0 then 0x3F800000 else 0xBF800000) ∧
    (2 * m = n * 2 ^ k → n % 2 = 1 → Trans.cos.eval a = 0 ∧ Trans.sin.eval a = if (n % 4 = 1) = (s = false) then 0x3F800000 else 0xBF800000)) ∧
  (Trans.sin.eval 0x80000000 = 0x80000000 ∧ Trans.tanh.eval 0x80000000 = 0x80000000 ∧ Trans.tanh.eval 0x41100000 = 0x3F800000 ∧ Trans.tanh.eval 0xFF800000 = 0xBF800000)

/-- R153 with R145: a compare writes all of p[vd]; the bits over an active lane take its condition, inactive lanes give 0; a NaN makes every condition but ≠ and unordered false, −0 equals +0; `vclass` looks a lane's class up in its mask. -/
def Sys2Proof.Claims.VectorCompares : Prop :=
  (∀ row ∈ tableVcmp, ∀ (f : VR) (s : State), f.ty.toNat < 13 → (encodeOpV (row.2.1 f)).map Prod.fst = some row.1 ∧
    condWritten s (row.2.1 f) f.p (tyWidth f.ty.toNat) f.vd fun i => row.2.2 f.ty.toNat (vl s (tyWidth f.ty.toNat) f.va i) (vl s (tyWidth f.ty.toNat) f.vb i)) ∧
  ∀ (f : VR) (s : State), 8 ≤ f.ty.toNat → f.ty.toNat < 13 → ∃ cls : Nat → Nat,
    condWritten s (.vclass f) f.p (tyWidth f.ty.toNat) f.vd (fun i => f.vc.getLsbD (cls i)) ∧
    ∀ i, match vVal f.ty.toNat (vl s (tyWidth f.ty.toNat) f.va i) with
      | .nan => cls i = 8
      | .inf neg => cls i = if neg then 0 else 7
      | .fin neg m e => (m = 0 → cls i = if neg then 3 else 4) ∧
          (m ≠ 0 → finLog m e < 1 - (Fmt.ofType f.ty.toNat).bias → cls i = if neg then 2 else 5) ∧
          (m ≠ 0 → ¬finLog m e < 1 - (Fmt.ofType f.ty.toNat).bias → cls i = if neg then 1 else 6)

/-- R154: the predicate operations work on all 512 bits and ignore the governing predicate, and `pcnt` counts the bits 2^k·i that are set; a nonzero p field raises reason 2, a register outside its class or p0 as a destination reason 3, and a k of 4 or more reason 4. -/
def Sys2Proof.Claims.PredicateOperations : Prop :=
  (∀ row ∈ tablePred, ∀ (f : VR) (s : State), (encodeOpV (row.2.1 f)).map Prod.fst = some row.1 ∧
    ∃ v : Pred, writes (row.2.1 f) s 4 [.p f.vd.toNat (BitVec.allOnes 512) v] ∧
      (∀ b < 512, v.getLsbD b = row.2.2 ((s.me.regs.rp f.va.toNat).getLsbD b) ((s.me.regs.rp f.vb.toNat).getLsbD b)) ∧
      (wf (row.2.1 f) = true → f.ty = 0 ∧ f.rm = 0 ∧ f.sat = 0) ∧ (f.p ≠ 0 ∨ f.vc ≠ 0 ∨ (row.1 = 0x43 ∧ f.vb ≠ 0) → fieldReason 1024 32 (row.2.1 f) = some 2) ∧
      (f.p = 0 → f.vc = 0 → (row.1 = 0x43 → f.vb = 0) → f.vd = 0 ∨ 16 ≤ f.vd.toNat ∨ 16 ≤ f.va.toNat ∨ 16 ≤ f.vb.toNat → fieldReason 1024 32 (row.2.1 f) = some 3)) ∧
  (∀ f : VR, (wf (.pcnt f) = true → f.ty = 0 ∧ f.rm = 0 ∧ f.sat = 0) ∧ (f.p ≠ 0 ∨ f.vb ≠ 0 → fieldReason 1024 32 (.pcnt f) = some 2) ∧
    (f.p = 0 → f.vb = 0 → 64 ≤ f.vd.toNat ∨ 16 ≤ f.va.toNat → fieldReason 1024 32 (.pcnt f) = some 3) ∧
    (f.p = 0 → f.vb = 0 → f.vd.toNat < 64 → f.va.toNat < 16 → 4 ≤ f.vc.toNat → fieldReason 1024 32 (.pcnt f) = some 4)) ∧
  ∀ (f : VR) (s : State), f.vc.toNat ≤ 3 →
    writes (.pcnt f) s 4 [.s f.vd.toNat (BitVec.ofNat 64 ((List.range (512 / 2 ^ f.vc.toNat)).countP fun i => (s.me.regs.rp f.va.toNat).getLsbD (2 ^ f.vc.toNat * i)))]

/-- R155: select, permute, rotate, broadcast, insert, move and constant lanes, and the extraction of a lane into a scalar. -/
def Obligations.VectorMoves : Prop :=
  (∀ (f : VR) (s : State), f.ty.toNat < 13 →
    let w := tyWidth f.ty.toNat
    allLanesWritten s (.vsel f) 4 w f.vd (fun i => if active s f.p w i then vl s w f.va i else vl s w f.vb i) ∧
    lanesWritten s (.vmov f) 4 f.p w f.vd (fun i => vl s w f.va i) ∧
    lanesWritten s (.vperm f) 4 f.p w f.vd (fun i => let j := vl s w f.vb i % (2 * (4096 / w)); if j < 4096 / w then vl s w f.va j else vl s w f.vc (j - 4096 / w))) ∧
  (∀ (f : VI) (s : State), f.ty.toNat < 13 →
    let w := tyWidth f.ty.toNat
    lanesWritten s (.vrot f) 4 f.p w f.vd (fun i => vl s w f.va ((i + f.imm.toNat) % (4096 / w))) ∧
    lanesWritten s (.vconst f) 4 f.p w f.vd (fun _ => if f.ty.toNat = 8 then f.imm.toNat * 2 ^ 12 else if 8 < f.ty.toNat then f.imm.toNat else (BitVec.ofInt w f.imm.toInt).toNat)) ∧
  (∀ (f : VS) (s : State), f.ty.toNat < 13 →
    let w := tyWidth f.ty.toNat
    lanesWritten s (.vbcast f) 4 f.p w f.vd (fun _ => (sr s f.s).toNat % 2 ^ w) ∧
    lanesWritten s (.vins f) 4 f.p w f.vd (fun i => if i = f.vc.toNat then (sr s f.s).toNat % 2 ^ w else vl s w f.va i) ∧
    writes (.vext f) s 4 [.s f.s.toNat (BitVec.ofInt 64 (vInt f.ty.toNat (vl s w f.va f.vc.toNat)))])

/-- R156 with R96: a reduction combines the lanes in the tree of R96, inactive lanes replaced by the identity, and writes its result to every lane, whatever the predicate. -/
def Obligations.VectorReductions : Prop :=
  ∀ row ∈ tableRed, ∀ (f : VR) (s : State), (encodeOpV (row.2.1 f)).map Prod.fst = some row.1 ∧
    allLanesWritten s (row.2.1 f) 8 (tyWidth f.ty.toNat) f.vd fun _ =>
      tree96 (row.2.2.1 f) (lanesLog (tyWidth f.ty.toNat)) fun i => if active s f.p (tyWidth f.ty.toNat) i then vl s (tyWidth f.ty.toNat) f.va i else row.2.2.2 f.ty.toNat

/-- R157 and R158: a conversion decodes each source lane and encodes it once; widening takes the half that vc[4] names, narrowing takes its lower lanes from va and its upper from vb; `vqblk` puts the 64 data bytes of group g at byte 64·g and its descriptor at byte 256 + 4·g, and zero everywhere else. -/
def Obligations.VectorConversions : Prop :=
  ∀ (f : VR) (s : State),
    let t := f.ty.toNat
    let w := tyWidth t
    let src := f.vc.toNat % 16
    let n := 4096 / w
    let cvt (rm : Nat) (sat : Bool) (x : Nat) : Nat := (encodeVal (vVal src x) (Fmt.ofType t) rm sat none).bits
    lanesWritten s (.vcvt f) 4 f.p w f.vd (fun i => cvt f.rm.toNat (f.sat == 1) (vl s w f.va i)) ∧
    lanesWritten s (.vwiden f) 4 f.p w f.vd (fun i => cvt 0 false (vl s (tyWidth src) f.va (i + (if f.vc.toNat / 16 % 2 = 1 then n else 0)))) ∧
    lanesWritten s (.vnarrow f) 4 f.p w f.vd (fun i => cvt f.rm.toNat (f.sat == 1) (vl s (tyWidth src) (if i < n / 2 then f.va else f.vb) (i % (n / 2)))) ∧
    (8 ≤ t ∧ t ≤ 10 → ∃ v : Vec, writes (.vqblk f) s 8 [.v f.vd.toNat (BitVec.allOnes 4096) v] ∧
      (∀ g < n / 128, let q := quantise f.rm.toNat ((List.range 128).map fun k => if active s f.p w (128 * g + k) then vVal t (vl s w f.va (128 * g + k)) else .zero false)
        v.toNat / 2 ^ (512 * g) % 2 ^ 512 = q.1 % 2 ^ 512 ∧ v.toNat / 2 ^ (2048 + 32 * g) % 2 ^ 32 = q.2.toNat) ∧
      (∀ b, 64 * (n / 128) ≤ b → b < 256 → byteOf v.toNat b = 0) ∧ ∀ b, 256 + 4 * (n / 128) ≤ b → b < 512 → byteOf v.toNat b = 0)

/-- R153 and R154: vector compares and predicate operations. -/
def Obligations.ComparesAndPredicates : Prop := Sys2Proof.Claims.VectorCompares ∧ Sys2Proof.Claims.PredicateOperations

/-! ### The index class -/

namespace Sys2Proof.Claims
open Sys2Proof.Machine

/-- Register ix[n] of the acting core, as a slot reads it. -/
abbrev xr (s : State) (n : BitVec 4) : W64 := s.me.regs.rix n.toNat

/-- The index arithmetic of R184: opcode, instruction, and ix[d] from ix[a], ix[b] and imm15 on whole numbers, modulo 2^64. -/
def tableXR : List (Nat × (XR → Instr) × (W64 → W64 → BitVec 15 → Int)) :=
  [(0x01, Instr.xadd, fun a b _ => a.toNat + b.toNat), (0x02, Instr.xsub, fun a b _ => a.toNat - b.toNat),
   (0x03, Instr.xand, fun a b _ => (a &&& b).toNat), (0x04, Instr.xshl, fun a _ i => a.toNat * 2 ^ i.toNat),
   (0x05, Instr.xshr, fun a _ i => ((a.toNat / 2 ^ i.toNat : Nat) : Int)),
   (0x06, Instr.xpopc, fun a _ i => (((List.range i.toNat).countP fun k => a.getLsbD k : Nat) : Int)),
   (0x07, Instr.xaddi, fun a _ i => a.toNat + i.toInt)]

/-- The condition codes of R185. -/
def codeHolds (cc : Nat) (a b : W64) : Bool :=
  match cc with
  | 0 => decide (a.toNat = b.toNat) | 1 => decide (a.toNat ≠ b.toNat) | 2 => decide (a.toNat < b.toNat)
  | 3 => decide (a.toNat ≤ b.toNat) | 4 => decide (a.toInt < b.toInt) | _ => decide (a.toInt ≤ b.toInt)

/-- A cursor of R189 with its position advanced by 1 modulo 2^32. -/
def nextPos (x : W64) : W64 := BitVec.ofNat 64 (x.toNat / 2 ^ 32 * 2 ^ 32 + (x.toNat + 1) % 2 ^ 32)

end Sys2Proof.Claims

open Sys2Proof Sys2Proof.Machine Sys2Proof.Claims

/-- R184 to R186: index arithmetic modulo 2^64, a compare that gives all ones or zero, a select by the old ix[d], and the moves to and from scalars and one 64-bit lane of a vector register, all with latency 2; the encodings that the rules forbid, with their reasons. -/
def Sys2Proof.Claims.IndexArithmetic : Prop :=
  (∀ row ∈ tableXR, ∀ (f : XR) (s : State),
    (encodeOpX (row.2.1 f)).map Prod.fst = some row.1 ∧ writes (row.2.1 f) s 2 [.ix f.d.toNat (BitVec.ofInt 64 (row.2.2 (xr s f.a) (xr s f.b) f.imm))] ∧
    (f.hs ≠ 0 ∨ (row.1 ≤ 3 ∧ f.imm ≠ 0) ∨ (4 ≤ row.1 ∧ f.b ≠ 0) → fieldReason 1024 32 (row.2.1 f) = some 2) ∧
    (f.hs = 0 → f.b = 0 → (row.1 = 4 ∨ row.1 = 5) ∧ 63 < f.imm.toNat ∨ row.1 = 6 ∧ 64 < f.imm.toNat → fieldReason 1024 32 (row.2.1 f) = some 4)) ∧
  (∀ (f : XR) (s : State),
    (f.imm.toNat ≤ 5 → writes (.xcmp f) s 2 [.ix f.d.toNat (if codeHolds f.imm.toNat (xr s f.a) (xr s f.b) then BitVec.ofInt 64 (-1) else 0)]) ∧
    (∃ v : W64, writes (.xsel f) s 2 [.ix f.d.toNat v] ∧ ∀ i < 64, v.getLsbD i = if (xr s f.d).getLsbD i then (xr s f.a).getLsbD i else (xr s f.b).getLsbD i) ∧
    (8 ≤ f.imm.toNat → fieldReason 1024 32 (.xcmp f) = some 2) ∧ (f.hs = 0 → f.imm.toNat = 6 ∨ f.imm.toNat = 7 → fieldReason 1024 32 (.xcmp f) = some 4) ∧ (f.imm ≠ 0 → fieldReason 1024 32 (.xsel f) = some 2)) ∧
  (∀ (f : XS) (s : State),
    writes (.xfroms f) s 2 [.ix f.x.toNat (BitVec.ofInt 64 ((sr s f.d).toNat + f.imm.toInt))] ∧
    writes (.xtos f) s 2 [.s f.d.toNat (BitVec.ofInt 64 ((xr s f.x).toNat + f.imm.toInt))]) ∧
  (∀ s : State, s.me.regs.rs 0 = 0) ∧ (∀ f : XV, (f.p ≠ 0 → fieldReason 1024 32 (.xtov f) = some 2) ∧ (f.p = 0 → 64 ≤ f.imm.toNat → fieldReason 1024 32 (.xtov f) = some 4)) ∧
  ∀ (f : XV) (s : State), f.imm.toNat < 64 → ∃ m v : Vec, writes (.xtov f) s 2 [.v f.v.toNat m v] ∧
    ∀ i < 64, (i = f.imm.toNat → laneAt 64 m i = 2 ^ 64 - 1 ∧ laneAt 64 v i = (xr s f.ix).toNat) ∧ (i ≠ f.imm.toNat → laneAt 64 m i = 0)

/-- R187 and R188 with R160 to R163: `xld` with the shape's ev 7 takes the illegal-bundle trap for reason 4 in slot 8; past the end of a list it makes no access and its pending result is 0xFFFF_FFFF over the position; otherwise it checks and reads one element in device memory or in the scratchpad, and its pending result is the element zero-extended, or its low word over the position. -/
def Obligations.IndexLoads : Prop :=
  ∀ (f : XR) (s : State),
    let h := s.me.regs.shape 4 f.hs.toNat
    let base := h.toNat % 2 ^ 72
    let cursor := h.getLsbD 75
    let scratch := h.getLsbD 74
    let ev := h.toNat / 2 ^ 76 % 8
    let pos : BitVec 32 := BitVec.ofInt 32 ((xr s f.a).toNat % 2 ^ 32 + f.imm.toInt)
    let i := if cursor then pos.toNat else (BitVec.ofInt 64 ((xr s f.a).toNat + f.imm.toInt)).toNat
    let n := 2 ^ (if cursor then 2 else h.toNat / 2 ^ 72 % 4)
    let past := cursor = true ∧ h.toNat / 2 ^ 79 % 2 ^ 32 ≤ pos.toNat
    let wr (x : Nat) : Wr := .ix f.d.toNat (if cursor then BitVec.ofNat 64 (x % 2 ^ 32 * 2 ^ 32 + pos.toNat) else BitVec.ofNat 64 x)
    let pends (v : VarWrite) : Prop := ∃ t, exec (.xld f) s = .next t ∧ s.pends t v ∧ v.kind = .load ∧ v.regs = [.ix f.d.toNat] ∧ v.hold = false ∧ v.poison = none
    let x := base + i * n
    (ev = 7 → exec (.xld f) s = .next (s.precise (cause0 0x01 (16 * 4 + 8)))) ∧
    (ev ≠ 7 → past → ∃ v, pends v ∧ v.wr = [wr 0xFFFFFFFF]) ∧
    (ev ≠ 7 → ¬past → scratch = false → loads 8 (.xld f) s (BitVec.ofNat 72 x) n ev 0 (.ix f.d.toNat) wr) ∧
    (ev ≠ 7 → ¬past → scratch = true →
      (x % n ≠ 0 → exec (.xld f) s = .next (s.precise ⟨0x06, 8, 0, 0, BitVec.ofNat 72 x⟩)) ∧
      (x % n = 0 → s.me.scratchSize < x + n → exec (.xld f) s = .next (s.precise ⟨0x09, 8, 0, 0, BitVec.ofNat 72 x⟩)) ∧
      (x % n = 0 → x + n ≤ s.me.scratchSize → ∃ v, pends v ∧ v.wr = [wr (leVal ((List.range n).map fun j => s.me.scrByte (x + j)))]))

/-- R189: one step of the merge of two cursors: keys compare as unsigned, the smaller key's cursor advances, both advance on a match, whose two positions become ix[d], and nothing but ix[d] is written at the end of both lists. R190: `xexp` writes lanes 32q to 32q + 31 of the index vector and their predicate bits, and no other lane or bit; a legal group gives its two positions, an illegal one 0xFFFF_FFFF and no activity. -/
def Sys2Proof.Claims.CursorsAndGroups : Prop :=
  (∀ f : XR, (f.imm ≠ 0 ∨ f.hs ≠ 0 → fieldReason 1024 32 (.xadv f) = some 2) ∧ (f.imm = 0 → f.hs = 0 → f.d = f.a ∨ f.d = f.b ∨ f.a = f.b → fieldReason 1024 32 (.xadv f) = some 4) ∧
    ∀ n ∈ [f.d, f.a, f.b], (⟨.ix, n.toNat, true⟩ : Opnd) ∈ operands (.xadv f)) ∧
  (∀ f : XV, (4 ≤ f.imm.toNat → fieldReason 1024 32 (.xexp f) = some 2) ∧ (f.imm.toNat < 4 → f.p = 0 → fieldReason 1024 32 (.xexp f) = some 3)) ∧
  (∀ (f : XR) (s : State), f.d ≠ f.a → f.d ≠ f.b → f.a ≠ f.b →
    let a := xr s f.a
    let b := xr s f.b
    let ka := a.toNat / 2 ^ 32
    let kb := b.toNat / 2 ^ 32
    let ones : W64 := BitVec.ofInt 64 (-1)
    (ka = 2 ^ 32 - 1 → kb = 2 ^ 32 - 1 → writes (.xadv f) s 2 [.ix f.d.toNat ones]) ∧
    (ka < kb → writes (.xadv f) s 2 [.ix f.a.toNat (nextPos a), .ix f.d.toNat ones]) ∧
    (kb < ka → writes (.xadv f) s 2 [.ix f.b.toNat (nextPos b), .ix f.d.toNat ones]) ∧
    (ka = kb → ka ≠ 2 ^ 32 - 1 → writes (.xadv f) s 2
      [.ix f.d.toNat (BitVec.ofNat 64 (a.toNat % 2 ^ 32 * 2 ^ 32 + b.toNat % 2 ^ 32)), .ix f.a.toNat (nextPos a), .ix f.b.toNat (nextPos b)])) ∧
  ∀ (f : XV) (s : State), f.imm.toNat < 4 →
    let q := f.imm.toNat
    let m := (xr s f.ix).toNat
    let p (g j : Nat) : Nat := m / 2 ^ (4 * g + 2 * j) % 4
    ∃ (mv v : Vec) (mp pv : Pred), writes (.xexp f) s 2 [.v f.v.toNat mv v, .p f.p.toNat mp pv] ∧
      (∀ i < 128, (i / 32 ≠ q → laneAt 32 mv i = 0) ∧ (i / 32 = q → laneAt 32 mv i = 2 ^ 32 - 1)) ∧
      (∀ b < 512, mp.getLsbD b = decide (b / 128 = q)) ∧
      ∀ g < 16, ∀ j < 2, ∀ k < 4,
        let lane := 32 * q + 2 * g + j
        (p g 0 < p g 1 → laneAt 32 v lane = 4 * (16 * q + g) + p g j ∧ pv.getLsbD (4 * lane + k) = true) ∧
        (¬p g 0 < p g 1 → laneAt 32 v lane = 2 ^ 32 - 1 ∧ pv.getLsbD (4 * lane + k) = false)

/-- R184 to R186, R189 and R190: index arithmetic, cursors and groups. -/
def Obligations.IndexOperations : Prop := Sys2Proof.Claims.IndexArithmetic ∧ Sys2Proof.Claims.CursorsAndGroups

/-! ### The matrix class at issue -/

namespace Sys2Proof.Claims
open Sys2Proof.Machine

/-- Element bits of a format code (R85). -/
def elemBits (f : Nat) : Nat := match f with | 1 => 32 | 2 | 3 => 16 | 4 | 5 | 7 => 8 | 6 | 8 => 4 | _ => 0
/-- Bytes of a tile of 128 × 128 elements (R192). -/
def tileLen (f : Nat) : Nat := 2048 * elemBits f
/-- Bits `lo` to `lo + w − 1` of a shape. -/
def bitsOf (h : BitVec 128) (lo w : Nat) : Nat := h.toNat / 2 ^ lo % 2 ^ w
/-- The shape that a matrix operation captures (R55, R197). -/
abbrev mh (s : State) (n : BitVec 2) : BitVec 128 := s.me.regs.shape 0 n.toNat
/-- Matrix parameter mp[n]. -/
abbrev mpr (s : State) (n : BitVec 3) : W72 := s.me.regs.rmp n.toNat
/-- Bits of an imm23. -/
def part (f : MD) (lo w : Nat) : Nat := f.imm.toNat / 2 ^ lo % 2 ^ w
/-- Those bits as a signed number (R60). -/
def spart (f : MD) (lo w : Nat) : Int := (f.imm.extractLsb' lo w).toInt
/-- The tile of a command: toff counts tiles of the shape's wfmt (R201, R214). -/
def tileVa (s : State) (mp : BitVec 3) (toff : Int) (h : BitVec 128) : W72 := BitVec.ofInt 72 ((mpr s mp).toNat + toff * tileLen (bitsOf h 56 4))
/-- An operand format is legal (R197). -/
abbrev opLegal (f : Nat) : Prop := 2 ≤ f ∧ f ≤ 8
/-- A drain format is legal (R197). -/
abbrev outLegal (f : Nat) : Prop := f ∈ [1, 2, 3, 4, 5, 7]
/-- The trap for an illegal shape value in slot 6 (R197). -/
def badShape (s : State) : Res := .next (s.precise (cause0 0x01 (16 * 4 + 6)))
/-- Pages that follow one another in physical memory (R201). -/
def inOrder (l : List Seg) : Prop := ∀ (i : Nat) (a b : Seg), l[i]? = some a → l[i + 1]? = some b → a.pa + a.n = b.pa
/-- Instruction `i` withholds effects, registers no result, and changes nothing else but the TLB. -/
def withholdsAt (i : Instr) (s : State) (es : List Effect) : Prop := ∃ t, exec i s = .next t ∧ s.withholdsFor t es []
/-- The checks of a tile (R201): alignment, translation, contiguity, each a precise trap; where they pass, `ok` of its physical address. -/
def tileChecks (i : Instr) (s : State) (kind : Acc) (fmt : Nat) (ta : W72) (ok : Nat → Prop) : Prop :=
  (ta.toNat % tileLen fmt ≠ 0 → exec i s = .next (s.precise ⟨0x06, 6, 0, 0, ta⟩)) ∧
  (ta.toNat % tileLen fmt = 0 →
    (∀ e, s.xlate kind ta (tileLen fmt) = .error e → exec i s = .next (s.precise (e.cause 6))) ∧
    ∀ g l, s.xlate kind ta (tileLen fmt) = .ok (g :: l) →
      (¬inOrder (g :: l) → exec i s = .next (s.precise ⟨0x0E, 6, 0, 0, ta⟩)) ∧ (inOrder (g :: l) → ok g.pa))

/-- The direct tile commands of R214 whose imm23 is the tile offset: opcode, instruction, and the command from the tile's address, format, class and virtual address. -/
def tableTile : List (Nat × (MD → Instr) × (Nat → Nat → Nat → W72 → MDirect)) :=
  [(0x05, Instr.mpin, fun pa fmt cls va => .pin pa fmt cls va), (0x06, Instr.munpin, fun pa fmt _ va => .unpin pa fmt va), (0x07, Instr.minv, fun pa fmt _ va => .inv pa fmt va)]

/-- The captured operands of a stitch command (R226). -/
def stitchOp (s : State) (bank0 : Bool) (entry depth : Nat) (opw : BitVec 43) : Effect :=
  .matrix (.stitch bank0 entry depth opw ((List.range 8).map fun i => s.me.regs.rmp i) ((List.range 4).map fun i => s.me.regs.shape 0 i)) s.me.sup

end Sys2Proof.Claims

open Sys2Proof Sys2Proof.Machine Sys2Proof.Claims

/-- R201 with R197 at issue: a step with a shape value that is illegal for it takes the illegal-bundle trap; its tile, its activation address and a scratchpad extent are checked in order, each failure a precise trap; then it withholds its command with the captured address and shape, and nothing else changes. R207, R210, R212: `mzero`, `mtsclr` and `mtopk.set` withhold their commands. -/
def Obligations.MatrixSteps : Prop :=
  (∀ (f : MS) (s : State),
    let h := mh s f.hs
    let afmt := bitsOf h 52 4
    let wfmt := bitsOf h 56 4
    let ta := tileVa s f.mt f.toff.toNat h
    let ab : W72 := BitVec.ofNat 72 ((mpr s f.ma).toNat + 64 * f.aoff.toNat)
    let legal := opLegal afmt ∧ opLegal wfmt ∧ (bitsOf h 80 3 = 7 → h.getLsbD 88 = true)
    let outside := h.getLsbD 88 = true ∧ (s.me.scratchSize < ab.toNat + 64 * 15 * bitsOf h 0 16 + 16 * elemBits afmt ∨
      (h.getLsbD 89 = true ∧ s.me.scratchSize < bitsOf h 32 20 + 256))
    (¬legal → exec (.mstep f) s = badShape s) ∧
    (legal → tileChecks (.mstep f) s .read wfmt ta fun pa =>
      (ab.toNat % 64 ≠ 0 → exec (.mstep f) s = .next (s.precise ⟨0x06, 6, 0, 0, ab⟩)) ∧
      (ab.toNat % 64 = 0 → outside → exec (.mstep f) s = .next (s.precise ⟨0x09, 6, 0, 0, ab⟩)) ∧
      (ab.toNat % 64 = 0 → ¬outside → withholdsAt (.mstep f) s [.matrix (.step f.acc.toNat pa wfmt ta ab h) s.me.sup]))) ∧
  ∀ (f : MD) (s : State),
    (∃ t, exec (.mzero f) s = .next t ∧ s.withholds t [.matrix (.zero f.acc.toNat) s.me.sup]) ∧
    (∃ t, exec (.mtsclr f) s = .next t ∧ s.withholds t [.matrix (.tsclr f.acc.toNat) s.me.sup]) ∧
    (∃ t, exec (.mtopkSet f) s = .next t ∧ s.withholds t [.matrix (.topkSet (part f 0 4) (part f 4 19)) s.me.sup])

/-- R208 and R212 with R197 at issue: what a drain to memory, a drain to registers and `mtopk.get` check, in order, and the command that each withholds: a drain with dfl bit 92 set has no destination and no check; the registers of `mdrain.v` are pending until it completes. -/
def Obligations.MatrixDrains : Prop :=
  ∀ (f : MD) (s : State),
    let h := mh s f.hs
    let ofmt := bitsOf h 60 4
    let legal := outLegal ofmt ∧ bitsOf h 72 8 ≠ 0xFF
    let silent := h.getLsbD 92
    let base : W72 := BitVec.ofInt 72 ((mpr s f.mp).toNat + 64 * spart f 0 13)
    let row (m : Nat) : W72 := BitVec.ofNat 72 (base.toNat + 64 * bitsOf h 16 16 * m)
    let b := s.me.vec.get 0 f.v.toNat
    let top := s.me.vec.get 0 (part f 13 10)
    (silent = true → withholdsAt (.mdrain f) s [.matrix (.drain f.acc.toNat base [] b top h) s.me.sup]) ∧
    (silent = false → ¬legal → exec (.mdrain f) s = badShape s) ∧
    (silent = false → legal → base.toNat % 64 ≠ 0 → exec (.mdrain f) s = .next (s.precise ⟨0x06, 6, 0, 0, base⟩)) ∧
    (silent = false → legal → base.toNat % 64 = 0 →
      (∀ m < 16, ∀ e, (∀ k < m, ∃ l, s.xlate .write (row k) (16 * elemBits ofmt) = .ok l) → s.xlate .write (row m) (16 * elemBits ofmt) = .error e →
        exec (.mdrain f) s = .next (s.precise (e.cause 6))) ∧
      ∀ segs : Nat → List Seg, (∀ m < 16, s.xlate .write (row m) (16 * elemBits ofmt) = .ok (segs m)) →
        withholdsAt (.mdrain f) s [.matrix (.drain f.acc.toNat base ((List.range 16).flatMap segs) b top h) s.me.sup]) ∧
    (let d := part f 0 10
     let rs := if silent then [] else if outLegal ofmt then (List.range (elemBits ofmt / 2)).map (d + ·) else [d]
     let lim := match s.me.job with | some j => min j.vregs 1024 | none => 1024
     ((∃ r ∈ rs, lim ≤ r) → exec (.mdrainV f) s = .next (s.precise (cause0 0x01 (16 * 3 + 6)))) ∧
     ((∀ r ∈ rs, r < lim) → silent = false → ¬legal → exec (.mdrainV f) s = badShape s) ∧
     ((∀ r ∈ rs, r < lim) → silent = true ∨ legal → ∃ t v, exec (.mdrainV f) s = .next t ∧
       s.withholdsFor t [.matrix (.drainV f.acc.toNat d v.id b top h) s.me.sup] [v] ∧
       v.kind = .engine ∧ v.regs = rs.map RegName.v ∧ v.wr = [] ∧ v.ready = none ∧ v.hold = false ∧ v.poison = none)) ∧
    (base.toNat % 64 ≠ 0 → exec (.mtopkGet f) s = .next (s.precise ⟨0x06, 6, 0, 0, base⟩)) ∧
    (base.toNat % 64 = 0 → (∀ e, s.xlate .write base 1024 = .error e → exec (.mtopkGet f) s = .next (s.precise (e.cause 6))) ∧
      ∀ l, s.xlate .write base 1024 = .ok l → withholdsAt (.mtopkGet f) s [.matrix (.topkGet base l) s.me.sup])

/-- R214 and R215 with R201 at issue: the tile commands check their tile as a step does and withhold their direct command, their toff read as a signed number (R60); `mwrite` checks its tile for writing (the model's reading, log entry 49) and withholds the row's memory write, with its descriptors unless `keep` is set, and its queue entry. -/
def Obligations.TileCommands : Prop :=
  (∀ row ∈ tableTile, ∀ (f : MD) (s : State),
    let h := mh s f.hs
    let wfmt := bitsOf h 56 4
    let ta := tileVa s f.mp f.imm.toInt h
    (encodeOpM (row.2.1 f)).map Prod.fst = some row.1 ∧
    (¬opLegal wfmt → exec (row.2.1 f) s = badShape s) ∧
    (opLegal wfmt → tileChecks (row.2.1 f) s .read wfmt ta fun pa => withholdsAt (row.2.1 f) s [.direct (row.2.2 pa wfmt (bitsOf h 83 2) ta) s.me.sup])) ∧
  ∀ (f : MD) (s : State),
    let h := mh s f.hs
    let wfmt := bitsOf h 56 4
    let tr := tileVa s f.mp (spart f 4 19) h
    let tw := tileVa s f.mp (spart f 8 15) h
    let n := 16 * elemBits wfmt
    let r := part f 0 7
    let v := s.me.vec.get 0 f.v.toNat
    let va : W72 := BitVec.ofNat 72 (tw.toNat + n * r)
    (¬opLegal wfmt → exec (.mrepl f) s = badShape s ∧ exec (.mwrite f) s = badShape s) ∧
    (opLegal wfmt → tileChecks (.mrepl f) s .read wfmt tr fun pa => withholdsAt (.mrepl f) s [.direct (.repl pa wfmt (bitsOf h 83 2) (part f 0 4) tr) s.me.sup]) ∧
    (opLegal wfmt → tileChecks (.mwrite f) s .write wfmt tw fun pa => ∀ segs, s.xlate .write va n = .ok segs → ∃ ps,
      withholdsAt (.mwrite f) s [.mwrite ps (if f.imm.getLsbD 7 then [] else
          (List.range (n / 64)).map fun j => (pa + n * r + 64 * j, BitVec.ofNat 32 (v.toNat / 2 ^ (8 * (256 + 4 * j)) % 2 ^ 32))),
        .matrix (.write pa wfmt r tw v (f.imm.getLsbD 7)) s.me.sup] ∧
      ps.flatMap Piece.cells = (addrsOf segs).zip ((List.range n).map (byteOf v.toNat)) ∧ ∀ p ∈ ps, p.pa % 64 + p.bytes.length ≤ 64)

/-- R217, R219, R226, R250 at issue: prefetches and cancels withhold their direct command; `mcall` runs a built-in stitch whose depth fits the budget, and a stitch-range opcode the stitch that its pattern-table entry binds, each with mp0 to mp7 and the active shapes captured; an entry point that begins none or a depth above the budget raises reason 4, an unbound opcode or one whose depth is above the budget reason 6. -/
def Sys2Proof.Claims.MatrixControl : Prop :=
  (∀ (f : MD) (s : State),
    withholdsAt (.mpref f) s [.direct (.pref (BitVec.ofNat 72 ((mpr s f.mp).toNat + 16 * part f 0 12)) (part f 0 12) (part f 12 2) (part f 14 9)) s.me.sup] ∧
    withholdsAt (.mcancelId f) s [.direct (.cancelId (part f 0 12)) s.me.sup] ∧
    withholdsAt (.mcancelAll f) s [.direct .cancelAll s.me.sup] ∧
    withholdsAt (.mcancelFlush f) s [.direct .flush s.me.sup]) ∧
  ∀ (s : State) (j : Job) (p : Part), s.me.job = some j → s.hub.parts.get none j.part = some p →
    (∀ f : MD,
      let entry := part f 0 10
      let depth := if entry = 0 then part f 10 10 + 1 + 16 else 2 * (part f 10 8 + 1) + 16
      let opw : BitVec 43 := BitVec.ofNat 43 (f.acc.toNat * 2 ^ 38 + f.hs.toNat * 2 ^ 36 + f.mp.toNat * 2 ^ 33 + f.v.toNat * 2 ^ 23 + f.imm.toNat)
      ((entry ≠ 0 ∧ entry ≠ 0x40) ∨ p.cfg.budget < depth → exec (.mcall f) s = badShape s) ∧
      (entry = 0 ∨ entry = 0x40 → depth ≤ p.cfg.budget → withholdsAt (.mcall f) s [stitchOp s true entry depth opw])) ∧
    ∀ (idx : BitVec 6) (opw : BitVec 43),
      let w := (s.me.eng.pattern.get 0 idx.toNat).toNat
      let bound := w / 2 ^ 15 % 2 = 1 ∧ w / 2 ^ 16 % 2 ^ 16 ≤ p.cfg.budget
      (bound → withholdsAt (.stitchOpcode idx opw) s [stitchOp s false (w % 2 ^ 10) (w / 2 ^ 16 % 2 ^ 16) opw]) ∧
      (¬bound → exec (.stitchOpcode idx opw) s = .next (s.precise (cause0 0x01 (16 * 6 + 6))))

/-- R218: `mstat` never faults and issues one write of s[d] with latency 4. Of a tile that is not mapped it gives 0; else bit 0, whether the group has a valid instance, is pinned, is filling, the count of its valid instances, its generation and its format. Of the engine it gives occupancy, the frozen bit, mrp, the prefetch queue's occupancy and the requests lost. -/
def Sys2Proof.Claims.MatrixStatus : Prop :=
  ∀ (f : MD) (s : State),
    let e := s.me.eng
    let h := mh s f.hs
    let wfmt := bitsOf h 56 4
    let ta := tileVa s f.mp (spart f 0 15) h
    let d := f.v.toNat % 2 ^ 6
    (¬opLegal wfmt ∨ ta.toNat % tileLen wfmt ≠ 0 ∨ (∃ x, s.xlate .read ta (tileLen wfmt) = .error x) → writes (.mstatTile f) s 4 [.s d 0]) ∧
    (opLegal wfmt → ta.toNat % tileLen wfmt = 0 → ∀ g l, s.xlate .read ta (tileLen wfmt) = .ok (g :: l) → inOrder (g :: l) → ∃ v : W64,
      let mine (i : Inst) : Prop := i ∈ e.insts ∧ i.pa = g.pa ∧ i.fmt = wfmt ∧ i.st ≠ .retiring
      writes (.mstatTile f) s 4 [.s d v] ∧ v.getLsbD 0 = true ∧
      (v.getLsbD 1 = true ↔ ∃ i, mine i ∧ i.st = .valid) ∧
      (v.getLsbD 2 = true ↔ ∃ p ∈ e.pins, p.pa = g.pa ∧ p.fmt = wfmt) ∧
      (v.getLsbD 3 = true ↔ ∃ i, mine i ∧ i.st ≠ .valid) ∧
      v.toNat / 2 ^ 4 % 2 ^ 4 = (e.insts.countP fun i => i.pa == g.pa && i.fmt == wfmt && i.st == .valid) % 2 ^ 4 ∧
      (∀ n, (∃ i, mine i) → (∀ i, mine i → i.gen = n) → v.toNat / 2 ^ 8 % 2 ^ 16 = n % 2 ^ 16) ∧
      v.toNat / 2 ^ 24 = wfmt) ∧
    ∃ v : W64, writes (.mstatEngine f) s 4 [.s d v] ∧ v.toNat % 2 ^ 6 = e.q.length % 2 ^ 6 ∧ (v.getLsbD 6 = true ↔ e.frozen ≠ none) ∧
      v.toNat / 2 ^ 12 % 2 ^ 16 = e.mrp.toNat ∧ v.toNat / 2 ^ 28 % 2 ^ 5 = e.pfq.length % 2 ^ 5 ∧ v.toNat / 2 ^ 33 = min e.pfLost 65535

/-- R217 to R219, R226 and R250: prefetches, stitch calls and status reads. -/
def Obligations.MatrixControlAndStatus : Prop := Sys2Proof.Claims.MatrixControl ∧ Sys2Proof.Claims.MatrixStatus

/-! ### Stitches: micro-words -/

namespace Sys2Proof.Claims
open Sys2Proof.Machine

/-- The acting core's stitch runs, and its engine is not frozen. -/
def stitching (s : State) (q : Seq) : Prop := s.me.eng.seq = some q ∧ q.st = .running ∧ s.me.eng.frozen = none
/-- A word that issues `step` steps stays within the declared depth (R243). -/
def fits (q : Seq) (step : Nat) : Prop := q.steps + step + (q.words + 1) / 256 ≤ q.depth
/-- The micro-state at the next word, one cycle later (R233). -/
abbrev nextWord (s : State) (q : Seq) : Seq := { q with words := q.words + 1, upc := (q.upc + 1) % 1024, elig := s.cycle + 1 }
/-- The micro-state after a transfer by `d` words, two cycles later (R231, R233). -/
abbrev hopped (s : State) (q : Seq) (d : Int) : Seq := { q with words := q.words + 1, upc := (((q.upc : Int) + d) % 1024).toNat, elig := s.cycle + 2 }
/-- Temporary mt[n] (R229). -/
abbrev mt (q : Seq) (n : BitVec 4) : W72 := q.mt.get 0 n.toNat
/-- The stitch banks hold the same images with the same tags. -/
def sameImages (s t : State) : Prop := ∀ b, (t.me.eng.banks.get {} b).tag = (s.me.eng.banks.get {} b).tag ∧ (t.me.eng.banks.get {} b).words = (s.me.eng.banks.get {} b).words
/-- Micro-word `i` leads to micro-state `q'`, and nothing else changes but the last use of the bank. -/
def microTo (i : Instr) (s : State) (q' : Seq) : Prop := ∃ t, exec i s = .next t ∧ s.onlyCore t s.cur ∧ t.cur = s.cur ∧ sameImages s t ∧
  t.me = { s.me with eng := { s.me.eng with seq := some q', banks := t.me.eng.banks } }
/-- Micro-word `i` sets mt[d] to `v` and goes on. -/
def microT (i : Instr) (s : State) (q : Seq) (d : BitVec 4) (v : W72) : Prop := microTo i s { nextWord s q with mt := q.mt.put 0 d.toNat v }
/-- Micro-word `i` puts command `o` into the step queue, issuing `step` steps, and goes on (R228). -/
def microCmd (i : Instr) (s : State) (q : Seq) (step : Nat) (o : MOp) : Prop := ∃ t, exec i s = .next t ∧ s.onlyCore t s.cur ∧ t.cur = s.cur ∧ sameImages s t ∧
  t.me = { s.me with eng := { s.me.eng with
    banks := t.me.eng.banks, nextId := s.me.eng.nextId + 1
    seq := some { nextWord s q with steps := q.steps + step, sq := q.sq ++ [⟨s.me.eng.nextId, o, false, .waiting, 0, 0, 0, 0, 0⟩] } } }
/-- The engine freezes on a fault of the running stitch, which has not executed the word (R246, R247). -/
def microFault (i : Instr) (s : State) (q : Seq) (code det prog : Nat) (fatal : Bool) : Prop := ∃ t f q', exec i s = .next t ∧ s.onlyCore t s.cur ∧
  t.me = { s.me with eng := t.me.eng, noPage := t.me.noPage } ∧ t.me.eng.frozen = some f ∧ f.cause.code = code ∧ f.cause.det = det ∧ f.cause.prog = prog ∧ f.cause.addr = 0 ∧
  f.fatal = fatal ∧ f.delivered = false ∧ f.region = s.me.iss.region ∧
  t.me.eng.mrp.getLsbD 15 = true ∧ t.me.eng.seq = some q' ∧ q'.st = .faulted fatal ∧
  q'.upc = q.upc ∧ q'.mt = q.mt ∧ q'.ml = q.ml ∧ q'.sp = q.sp ∧ q'.aoff = q.aoff ∧ q'.steps = q.steps ∧ q'.words = q.words
end Sys2Proof.Claims

open Sys2Proof Sys2Proof.Machine Sys2Proof.Claims

/-- R233 to R235, R238, R243 and R244: what each control, ring and window word does to the micro-state, in one cycle, or two where it transfers; `uwait` waits for every command of the stitch, and so does a `uyield` with a pre-emption pending, which then stops the stitch behind it. A word that would pass the declared depth does not execute: the engine freezes with the reduction-depth overrun. -/
def Sys2Proof.Claims.MicroControl : Prop :=
  ∀ (s : State) (q : Seq), stitching s q →
  (∀ i ∈ [Instr.unop, .uend, .uwait, .uyield], (¬fits q 0 → microFault i s q 0x12 6 q.steps true)) ∧
  (fits q 0 →
    microTo .unop s (nextWord s q) ∧
    microTo .uend s { nextWord s q with st := .ended } ∧
    (q.sq = [] → microTo .uwait s (nextWord s q)) ∧ (q.sq ≠ [] → exec .uwait s = .next s) ∧
    (s.me.eng.yieldReq = false → microTo .uyield s { nextWord s q with steps := 0, words := 0 }) ∧
    (s.me.eng.yieldReq = true → q.sq = [] → microTo .uyield s { nextWord s q with steps := 0, words := 0, st := .yielding }) ∧
    (s.me.eng.yieldReq = true → q.sq ≠ [] → exec .uyield s = .next s)) ∧
  (∀ f : UR, (fits q 0 → microTo (.uring f) s { nextWord s q with sp := f.ring }) ∧ (¬fits q 0 → microFault (.uring f) s q 0x12 6 q.steps true)) ∧
  (∀ f : UK,
    (fits q 0 → microTo (.uacc f) s { nextWord s q with abase := f.n.toNat, acnt := f.cnt.toNat, aoff := 0 } ∧
      microTo (.uaca f) s { nextWord s q with aoff := (q.aoff + f.n.toNat) % q.acnt }) ∧
    (¬fits q 0 → microFault (.uacc f) s q 0x12 6 q.steps true ∧ microFault (.uaca f) s q 0x12 6 q.steps true)) ∧
  ∀ f : UL,
    let c : BitVec 32 := (mt q f.a).extractLsb' 0 32
    let l := q.ml.get {} f.n.toNat
    let d := f.disp.toInt
    let put (l : LoopCtr) : Bank LoopCtr := q.ml.put {} f.n.toNat l
    let ring (b : Bool) : BitVec 8 := if f.r = 1 then BitVec.ofNat 8 (q.sp.toNat * 2 + b.toNat) else q.sp
    (¬fits q 0 → ∀ i ∈ [Instr.ujmp f, .ubz f, .uloop f, .unext f], microFault i s q 0x12 6 q.steps true) ∧
    (fits q 0 →
      microTo (.ujmp f) s (hopped s q d) ∧
      (mt q f.a = 0 → microTo (.ubz f) s (hopped s q d)) ∧ (mt q f.a ≠ 0 → microTo (.ubz f) s (nextWord s q)) ∧
      (c = 0 → microTo (.uloop f) s { hopped s q (d + 1) with ml := put ⟨0, 0⟩ }) ∧
      (c ≠ 0 → microTo (.uloop f) s { nextWord s q with ml := put ⟨f.ec, c - 1⟩ }) ∧
      (l.cnt ≠ 0 → microTo (.unext f) s { hopped s q d with ml := put ⟨l.ec, l.cnt - 1⟩, sp := ring true }) ∧
      (l.cnt = 0 → f.r = 1 ∧ 1 < l.ec.toNat → microTo (.unext f) s { hopped s q d with ml := put ⟨l.ec - 1, 0⟩, sp := ring false }) ∧
      (l.cnt = 0 → ¬(f.r = 1 ∧ 1 < l.ec.toNat) → microTo (.unext f) s { nextWord s q with ml := put ⟨0, 0⟩, sp := ring false }))

/-- R236 to R242 with R228, R238 and R243: the temporary that each arithmetic word and each read of a captured operand writes; the command that each issuing word puts into the step queue, on the current accumulator; that it waits while 16 are outstanding, and that an accumulator beyond the declared ones freezes the engine instead (R59). `upref` goes on whatever its addresses do, once the load pipes hold the translations (R324), and changes nothing else when the activation block is in the scratchpad. -/
def Sys2Proof.Claims.MicroCommands : Prop :=
  ∀ (s : State) (q : Seq) (m : MEntry) (opw : BitVec 43) (mps : List W72) (mhs : List (BitVec 128)) (b0 : Bool) (en de : Nat),
  stitching s q → s.me.eng.q.find? (fun x => x.id == q.entry) = some m → m.op = .stitch b0 en de opw mps mhs →
  (∀ f : UA,
    let k : W72 := BitVec.ofInt 72 f.imm.toInt
    (¬fits q 0 → ∀ i ∈ [Instr.uadd f, .uaddi f, .umuli f, .ushli f, .uandi f], microFault i s q 0x12 6 q.steps true) ∧
    (fits q 0 →
      microT (.uadd f) s q f.d (BitVec.ofNat 72 ((mt q f.a).toNat + (mt q f.b).toNat)) ∧
      microT (.uaddi f) s q f.d (BitVec.ofInt 72 ((mt q f.a).toInt + f.imm.toInt)) ∧
      microT (.umuli f) s q f.d (BitVec.ofInt 72 ((mt q f.a).toInt * f.imm.toInt)) ∧
      microT (.ushli f) s q f.d (BitVec.ofNat 72 ((mt q f.a).toNat * 2 ^ f.imm.toNat)) ∧
      microT (.uandi f) s q f.d (mt q f.a &&& k))) ∧
  (∀ f : UO,
    let v := opw.toNat / 2 ^ f.lo.toNat % 2 ^ f.n.toNat
    (¬fits q 0 → microFault (.uldop f) s q 0x12 6 q.steps true) ∧
    (fits q 0 → microT (.uldop f) s q f.d (if f.sx = 1 ∧ 2 ^ (f.n.toNat - 1) ≤ v then BitVec.ofInt 72 ((v : Int) - 2 ^ f.n.toNat) else BitVec.ofNat 72 v))) ∧
  (∀ f : UP,
    (¬fits q 0 → microFault (.uldmp f) s q 0x12 6 q.steps true) ∧
    (fits q 0 → microT (.uldmp f) s q f.d (mps.getD f.mp.toNat 0))) ∧
  (let acc := (q.abase + q.aoff) % 32
   let lim := match s.me.job with | some j => j.accs | none => 32
   let onAcc (i : Instr) (step : Nat) (o : MOp) : Prop :=
    (¬fits q step → microFault i s q 0x12 6 q.steps true) ∧
    (fits q step → lim ≤ acc → microFault i s q 0x01 0x36 0 false) ∧
    (fits q step → acc < lim → q.sq.length < 16 → microCmd i s q step o) ∧
    (fits q step → acc < lim → 16 ≤ q.sq.length → exec i s = .next s)
   onAcc .uzero 0 (.zero acc) ∧
   ∀ f : UM,
    let h := mhs.getD f.h.toNat 0
    onAcc (.ustep f) 1 (.stepVa acc (mt q f.t) (mt q f.a) h) ∧
    onAcc (.udrain f) 0 (.drainM acc (mt q f.a) (mt q f.t) h) ∧
    (¬fits q 0 → ∀ i ∈ [Instr.utopk f, .utopkg f, .upref f], microFault i s q 0x12 6 q.steps true) ∧
    (fits q 0 →
      (q.sq.length < 16 → microCmd (.utopk f) s q 0 (.topkSet f.t.toNat ((mt q f.a).toNat % 2 ^ 19)) ∧ microCmd (.utopkg f) s q 0 (.topkGetVa (mt q f.a))) ∧
      (16 ≤ q.sq.length → exec (.utopk f) s = .next s ∧ exec (.utopkg f) s = .next s) ∧
      (h.getLsbD 88 = true → microTo (.upref f) s (nextWord s q)) ∧
      (∀ u, s.pipeWaits s.cur (s.uprefRows q f) = some u → exec (.upref f) s = .next u) ∧
      (s.pipeWaits s.cur (s.uprefRows q f) = none → ∃ t q', exec (.upref f) s = .next t ∧ s.reads t ∧ t.me.eng.seq = some q' ∧ q' = { nextWord s q with sq := q'.sq } ∧
        q'.sq.map (fun x => (x.id, x.op)) = q.sq.map (fun x => (x.id, x.op)))))

/-- R228 to R244: every micro-word of a running stitch. -/
def Obligations.MicroWords : Prop := Sys2Proof.Claims.MicroControl ∧ Sys2Proof.Claims.MicroCommands

/-! ### The copy class at issue -/

namespace Sys2Proof.Claims
open Sys2Proof.Machine

/-- An unsigned field of `w` bits read as signed. -/
def signed (w v : Nat) : Int := if 2 ^ (w - 1) ≤ v then (v : Int) - 2 ^ w else v
/-- The copy shape that an operation captures (R55, R253). -/
abbrev kh (s : State) (n : BitVec 2) : BitVec 128 := s.me.regs.shape 3 n.toNat
/-- An address sum modulo 2^72 (R258). -/
def sum72 (a : W72) (i : Int) : W72 := BitVec.ofInt 72 ((a.toNat : Int) + i)
/-- The bounding extent, lowest byte and end, of a shape's rows from `a`, with rows `stride` apart (R254). -/
def rowsFrom (h : BitVec 128) (a : W72) (stride : Int) : Int × Int :=
  let last := (bitsOf h 20 12 : Int) * stride
  ((a.toNat : Int) + min 0 last, (a.toNat : Int) + max 0 last + bitsOf h 0 20)
/-- A command as it enters WB: kind and captured operands, with no progress (R251, R257). -/
def freshCopy (s : State) (f : KC) (op : COp) (h : BitVec 128) (d o : W72) : CopyCmd := ⟨op, f.scope.toNat, h, d, o, s.me.sup, s.me.ctx, 0, false, 0, 0, [], false, [], 0, 0⟩
/-- The illegal-bundle trap for a shape or operand value in slot 7 (R254). -/
def badCopy (s : State) : Res := .next (s.precise (cause0 0x01 (16 * 4 + 7)))
/-- Instruction `i` withholds `e`, and nothing else changes. -/
def withholdsOne (i : Instr) (s : State) (e : Effect) : Prop := ∃ t, exec i s = .next t ∧ s.withholds t [e]
/-- A scratchpad side that does not lie wholly below the context's size (R254, R258). -/
def sideOut (s : State) (x : Option (W72 × Int × Int)) (scr : Bool) (a : W72) : Prop :=
  ∃ lo hi, x = some (a, lo, hi) ∧ scr = true ∧ (2 ^ 20 ≤ a.toNat ∨ lo < 0 ∨ (s.me.scratchSize : Int) < hi)
/-- The checks of R254 in order, for a destination and an origin, each an address with its bounding extent where the command has it locally, and `bad` for the values that the command's entry forbids; where all pass, `i` withholds command `cmd`. -/
def copyIssue (i : Instr) (s : State) (f : KC) (h : BitVec 128) (d o : Option (W72 × Int × Int)) (bad : Prop) (cmd : CopyCmd) : Prop :=
  let ds := h.getLsbD 88
  let os := h.getLsbD 89
  let illegal := bitsOf h 0 20 = 0 ∨ (((d ≠ none ∧ ds = false) ∨ (o ≠ none ∧ os = false)) ∧ 6 ≤ bitsOf h 90 3) ∨ bad
  let overlap (a : W72) : Prop := ds = os ∧ ∃ lo hi b lo' hi', d = some (a, lo, hi) ∧ o = some (b, lo', hi') ∧ ((lo' - lo) % 2 ^ 72 < hi - lo ∨ (lo - lo') % 2 ^ 72 < hi' - lo')
  (illegal → exec i s = badCopy s) ∧
  (¬illegal →
    (∀ a, sideOut s d ds a → exec i s = .next (s.precise ⟨0x09, 7, 0, 0, a⟩)) ∧
    ((∀ a, ¬sideOut s d ds a) →
      (∀ a, sideOut s o os a → exec i s = .next (s.precise ⟨0x09, 7, 0, 0, a⟩)) ∧
      ((∀ a, ¬sideOut s o os a) →
        (∀ a, overlap a → exec i s = .next (s.precise ⟨0x0F, 7, 0, 0, a⟩)) ∧
        ((∀ a, ¬overlap a) → withholdsOne i s (.copy f.ch.toNat cmd)))))
/-- The four collectives by their kind code (R270). -/
def tableColl : List (Nat × (KC → Instr)) := [(0, Instr.kcollAllReduce), (1, Instr.kcollAllGather), (2, Instr.kcollReduceScatter), (3, Instr.kcollBroadcast)]
/-- The bytes of one element of a type code (R62). -/
def typeBytes : Nat → Nat
  | 0 | 4 | 11 | 12 => 1 | 1 | 5 | 9 | 10 => 2 | 2 | 6 | 8 => 4 | 3 | 7 => 8 | _ => 0

end Sys2Proof.Claims

open Sys2Proof Sys2Proof.Machine Sys2Proof.Claims

/-- R254 and R258 at issue: `kcopy`, `kloop`, `kput`, `kget` and the collectives check their shape, their scratchpad sides and an overlap, in that order (log entry 52), each a precise trap; extents in device memory meet modulo 2^72 (log entry 109); then they withhold one command with its captured operands. `kloop` forbids a dstride of 0 or below and buffers beyond the destination space, a collective more than one row, nonzero spare bits of s[s], a rowb that is no multiple of the element, a group that supervisor code has not made, and a broadcast's root that is no rank of its group (R270). -/
def Obligations.CopyCommands : Prop :=
  (∀ (f : KC) (s : State),
    let h := kh s f.hs
    let v := s.me.regs.rs f.s.toNat
    let off := f.imm.toInt
    let da := s.me.regs.ra f.da.toNat
    let oa := s.me.regs.ra f.oa.toNat
    let d := sum72 da off
    let o := sum72 oa v.toInt
    let dstride := signed 24 (bitsOf h 32 24)
    let sstride := signed 32 (bitsOf h 56 32)
    let n := f.imm.toNat
    let bufs := bitsOf h 110 3 + 1
    let len : Int := (bitsOf h 20 12 + 1) * dstride
    let space : Int := if h.getLsbD 88 then 2 ^ 20 else 2 ^ 72
    let de := rowsFrom h da dstride
    let oe := rowsFrom h oa sstride
    let span : Int := ((n : Int) - 1) * v.toInt
    copyIssue (.kcopy f) s f h (some (d, rowsFrom h d dstride)) (some (o, rowsFrom h o sstride)) False (freshCopy s f .copy h d o) ∧
    copyIssue (.kloop f) s f h (some (da, de.1, de.2 + ((min n bufs : Int) - 1) * len)) (some (oa, oe.1 + min 0 span, oe.2 + max 0 span))
      (dstride ≤ 0 ∨ space < bufs * len) (freshCopy s f (.loop n (BitVec.ofInt 72 v.toInt)) h da oa) ∧
    copyIssue (.kput f) s f h none (some (oa, rowsFrom h oa sstride)) False (freshCopy s f (.put v.toNat) h d oa) ∧
    copyIssue (.kget f) s f h (some (d, rowsFrom h d dstride)) none False (freshCopy s f (.get v.toNat) h d oa)) ∧
  (∀ row ∈ tableColl, ∀ (f : KC) (s : State),
    (∀ x, s.hub.ctxs.get none s.me.ctx = some x → x.groups.get none ((s.me.regs.rs f.s.toNat).toNat % 2 ^ 12) = none) → exec (row.2 f) s = badCopy s) ∧
  ∀ row ∈ tableColl, ∀ (f : KC) (s : State) (x : Ctx) (g : Group),
    let h := kh s f.hs
    let v := s.me.regs.rs f.s.toNat
    let da := s.me.regs.ra f.da.toNat
    let oa := s.me.regs.ra f.oa.toNat
    let rowb := bitsOf h 0 20
    let n := g.members.length
    let ty := f.imm.toNat / 2 ^ 8 % 2 ^ 4
    s.hub.ctxs.get none s.me.ctx = some x → x.groups.get none (v.toNat % 2 ^ 12) = some g →
    copyIssue (row.2 f) s f h (some (da, da.toNat, (da.toNat + (if row.1 = 1 then n else 1) * rowb : Nat)))
      (some (oa, oa.toNat, (oa.toNat + (if row.1 = 2 then n else 1) * rowb : Nat)))
      (bitsOf h 20 12 ≠ 0 ∨ v.toNat / 2 ^ 12 % 2 ^ 4 ≠ 0 ∨ v.toNat / 2 ^ 28 ≠ 0 ∨ rowb % typeBytes ty ≠ 0 ∨ (row.1 = 3 ∧ n ≤ v.toNat / 2 ^ 16 % 2 ^ 12))
      (freshCopy s f (.coll row.1 (f.imm.toNat / 2 ^ 4 % 2 ^ 4) ty (v.toNat % 2 ^ 12) (v.toNat / 2 ^ 16 % 2 ^ 12)) h da oa)

/-- R261, R263, R265, R267, R268, R273 and R274 at issue: the range and alignment checks of `kwm`, `ksync` and `ksyncrd`; the command that `kwm`, `ksync`, `kstage` and `kcancel` withhold, where `kwm` arms the stall rule at once; and the result that `kwmrd`, `kstat` and `ksyncrd` leave pending, from 4 cycles after issue on (the least of the 4 to 12 that the rules give: log entries 17 and 53), with the status word of R274. What `kwmrd` reads before its arm reaches the front of the channel is log entry 110. Only the waiting `ksyncrd` holds later bundles. -/
def Obligations.CopyControl : Prop :=
  ∀ (f : KC) (s : State),
    let ch := f.ch.toNat
    let c := s.me.ch.get {} ch
    let v := s.me.regs.rs f.s.toNat
    let n := v.toNat
    let b := sum72 (s.me.regs.ra f.da.toNat) f.imm.toInt
    let size := s.me.scratchSize
    let outside := n ≠ 0 ∧ (2 ^ 20 < n ∨ size < b.toNat + n)
    let result (i : Instr) (kind : VKind) (wr : List Wr) (hold : Bool) : Prop := ∃ t, exec i s = .next t ∧
      s.pends t ⟨s.me.iss.nextId, kind, s.me.iss.region, [.s f.s.toNat], wr, some (s.cycle + 4), hold, none⟩
    (outside → exec (.kwm f) s = .next (s.precise ⟨0x09, 7, 0, 0, b⟩)) ∧
    (¬outside → ∃ t, exec (.kwm f) s = .next t ∧ s.onlyCore t s.cur ∧ t.cur = s.cur ∧
      t.me = { s.me with
        ch := s.me.ch.put {} ch { c with wm := if n = 0 then none else some ⟨b.toNat, n, none, []⟩ }
        wb := s.me.wb ++ [.copy ch (freshCopy s f (.wm n) 0 b 0)] }) ∧
    (b.toNat % 16 ≠ 0 → ∀ i ∈ [Instr.ksync f, .ksyncrd f, .ksyncrdWait f], exec i s = .next (s.precise ⟨0x06, 7, 0, 0, b⟩)) ∧
    (b.toNat % 16 = 0 → size < b.toNat + 16 → ∀ i ∈ [Instr.ksync f, .ksyncrd f, .ksyncrdWait f], exec i s = .next (s.precise ⟨0x09, 7, 0, 0, b⟩)) ∧
    (b.toNat % 16 = 0 → b.toNat + 16 ≤ size →
      withholdsOne (.ksync f) s (.copy ch (freshCopy s f (.sync (BitVec.ofNat 32 n)) 0 b 0)) ∧
      result (.ksyncrd f) (.sync b.toNat none) [] false ∧ result (.ksyncrdWait f) (.sync b.toNat (some v)) [] true) ∧
    withholdsOne (.kstage f) s (.kstage ch) ∧
    withholdsOne (.kstageSched f) s (.kstageSched s.me.regs s.me.sup) ∧
    withholdsOne (.kcancelChannel f) s (.kcancel 0 ch) ∧ withholdsOne (.kcancelAll f) s (.kcancel 1 ch) ∧ withholdsOne (.kcancelFlush f) s (.kcancel 2 ch) ∧
    result (.kwmrd f) .status [.s f.s.toNat (match c.wm with | none => BitVec.allOnes 64 | some w => BitVec.ofNat 64 (match w.reach with | some e => e | none => w.base))] false ∧
    ∃ w : W64, result (.kstat f) .status [.s f.s.toNat w] false ∧ w.toNat % 2 ^ 4 = c.q.length % 2 ^ 4 ∧ (w.getLsbD 4 = true ↔ c.frozen ≠ none) ∧ w.toNat / 2 ^ 5 % 2 ^ 3 = 0 ∧
      w.toNat / 2 ^ 8 % 2 ^ 20 = c.released % 2 ^ 20 ∧ w.toNat / 2 ^ 28 % 2 ^ 20 = c.filled % 2 ^ 20 ∧ w.toNat / 2 ^ 48 = min c.nfail 65535

/-! ### Transitions that no slot holds: results, effects, caches, sync -/

namespace Sys2Proof.Claims
open Sys2Proof.Machine

/-- Transition `i` leads to a next state in which nothing outside core `c` differs, and core `c` is `e`. -/
def coreTo (i : Instr) (s : State) (c : Nat) (e : Core) : Prop := ∃ t, exec i s = .next t ∧ s.onlyCore t c ∧ t.core c = e
/-- The value that a list of (place, byte) pairs, in order, leaves at `a`, over `old`. -/
def lastOf (l : List (Nat × Byte)) (a : Nat) (old : Byte) : Byte := match l.reverse.find? (fun x => x.1 == a) with | some x => x.2 | none => old
/-- A pending result may complete: its cycle has come (R78). -/
def ready (s : State) (v : VarWrite) : Prop := ∃ r, v.ready = some r ∧ r ≤ s.cycle
/-- The number that a data-poison report gives a register (R309): its class and number. -/
def poisonReg : RegName → Nat
  | .s n => n | .a n => 1024 + n | .v n => 2048 + n | .ix n => 3072 + n
/-- A pending result `v` of core `c` lands by transition `i` (R78, R164): where no fixed-latency write is due, one scalar, address or index register, or a vector register with its write-log entry, takes the value, in the shadow too when its region has committed; with poison it stays, and the data-poison trap waits. A fixed-latency write to the same scalar that was due before this cycle lands before it, and one due in this cycle lands after it, so that the later value stands (R77). That a committed region's result lands in the shadow as well is the model's choice (log entry 10). -/
def lands (i : Instr) (s : State) (c : Nat) (v : VarWrite) : Prop :=
  let k := s.core c
  let iss : Issue := { k.iss with vpend := k.iss.vpend.filter fun x => x.id != v.id }
  let old := decide (v.region < k.iss.region)
  let both (f : Regs → Regs) : Core := { k with regs := f k.regs, sh := if old then f k.sh else k.sh, iss := iss }
  (∀ n x, v.poison = none → v.regs = [.s n] → v.wr = [.s n x] → n ≠ 0 → ∃ t, exec i s = .next t ∧ s.onlyCore t c ∧ (t.core c).regs.rs n = x ∧
    ∀ w ∈ (t.core c).iss.pend, w ∈ k.iss.pend ∧ ∀ y, w.wr = .s n y → s.cycle ≤ w.due) ∧
  ((∀ w ∈ k.iss.pend, s.cycle ≤ w.due) → v.poison = none →
    (∀ n x, v.wr = [.s n x] → n ≠ 0 → coreTo i s c (both fun r => { r with s := r.s.put 0 n x })) ∧
    (∀ x, v.wr = [.s 0 x] → coreTo i s c (both id)) ∧
    (∀ n x, v.wr = [.a n x] → coreTo i s c (both fun r => { r with a := r.a.put 0 n x })) ∧
    (∀ n x, v.wr = [.ix n x] → coreTo i s c (both fun r => { r with ix := r.ix.put 0 n x })) ∧
    (∀ n m x, v.wr = [.v n m x] → old = false → coreTo i s c { k with
      vec := k.vec.put 0 n ((k.vec.get 0 n &&& ~~~m) ||| (x &&& m)), iss := { iss with wlog := (n, k.vec.get 0 n) :: k.iss.wlog } })) ∧
  ((∀ w ∈ k.iss.pend, s.cycle ≤ w.due) → ∀ slot a r l, v.poison = some (slot, a) → v.regs = r :: l →
    coreTo i s c { k with iss := { iss with poisons := k.iss.poisons ++ [⟨0x0B, slot, poisonReg r, 0, a⟩] } })
/-- No command waits or runs in core `c`'s matrix engine. -/
def engineIdle (s : State) (c : Nat) : Prop := (s.core c).eng.q = [] ∧ (s.core c).eng.seq = none ∧ (s.core c).eng.runs = []
/-- Word `i` of a line at its home (R179). -/
def lineWord (s : State) (ln i : Nat) : BitVec 64 := BitVec.ofNat 64 (leVal ((List.range 8).map fun j => s.mem.byte (128 * ln + 8 * i + j)))
/-- A line takes half an entry of the L2: every difference of a word from its first one fits 3 bytes (R179, taken of signed words: log entry 86). -/
def halfEntry (s : State) (ln : Nat) : Prop :=
  ∀ i < 16, -(2 ^ 23 : Int) ≤ (lineWord s ln i).toInt - (lineWord s ln 0).toInt ∧ (lineWord s ln i).toInt - (lineWord s ln 0).toInt < 2 ^ 23
/-- A drain of a scope waits for a remote write of core `c` that is in flight (R121). -/
def poolWaits (s : State) (c scope : Nat) : Prop := 4 ≤ scope ∧ ∃ w ∈ s.mem.inflight, w.core = c
/-- It waits for a put or a get of core `c`, queued in a channel or sent and not yet answered (R121). -/
def netWaits (s : State) (c scope : Nat) : Prop :=
  5 ≤ scope ∧ ((∃ o ∈ s.hub.net, o.core = c ∧ o.coll = none ∧ o.answer = none) ∨ ∃ x ∈ (s.core c).ch, ∃ m ∈ x.2.q, (∃ n, m.op = .put n) ∨ ∃ n, m.op = .get n)
/-- The failure counts of a core with their cause bits: of its remote writes, then of its puts, gets and collectives (R122). -/
def fails (s : State) (c : Nat) : Nat × BitVec 3 × Nat × BitVec 3 := ((s.core c).poolFail, (s.core c).poolCause, (s.core c).netFail, (s.core c).netCause)
/-- Core `c` holds sector `blk` of its line dirty at byte `i` with value `b`. -/
def holdsDirty (s : State) (c blk i : Nat) (b : Byte) : Prop :=
  let x := ((s.core c).line (blk / 2)).sec blk
  x.dirty.getLsbD i = true ∧ x.byte i = b

end Sys2Proof.Claims

open Sys2Proof Sys2Proof.Machine Sys2Proof.Claims

/-- R78, R130 and R164 for LOAD_COMPLETE and DIVISION_COMPLETE: once its cycle has come, a pending result leaves its list and lands, or, when it is poisoned, leaves its destination unchanged and its trap waiting; until then nothing happens. Landing in the shadow of a committed region is the model's choice (log entry 10). -/
def Obligations.ResultsArrive : Prop :=
  ∀ (s : State) (c : Nat) (v : VarWrite), let k := s.core c
    (k.iss.vpend.find? (fun x => x.id == v.id) = some v →
      (v.kind = .load ∨ v.kind = .atomic ∨ v.kind = .status → (ready s v → lands (.loadComplete c v.id) s c v) ∧
        (¬ready s v → ∃ t, exec (.loadComplete c v.id) s = .next t ∧ s.onlyCore t c ∧ t.core c = k)) ∧
      (k.iss.vpend.find? (fun x => x.kind == .division) = some v → ready s v → lands (.divisionComplete c) s c v))

/-- R102 with R169, R198, R251 and R408: EFFECT_PERFORM takes the head of RQ alone, and not before the release ahead of it is complete. Scratchpad bytes are written; one store piece to HBM of a class that allocates becomes dirty bytes of the core's L1; a matrix command enters the matrix queue and a scratchpad copy its busy channel, behind those that are there, and waits while 32, or 8, are queued; with RQ empty nothing happens. -/
def Obligations.EffectsPerform : Prop :=
  ∀ (s : State) (c : Nat), let k := s.core c
    (k.rq = [] ∨ s.cycle < k.rqFrom → exec (.effectPerform c) s = .next s) ∧ (k.rqFrom ≤ s.cycle →
    (∀ cells l, k.rq = .scratch cells :: l → ∃ t, exec (.effectPerform c) s = .next t ∧ s.onlyCore t c ∧
      t.core c = { k with rq := l, rqAt := none, scr := (t.core c).scr } ∧ ∀ x, (t.core c).scr.get 0 x = lastOf cells x (k.scr.get 0 x)) ∧
    (∀ p ev scope l, k.rq = .store [p] ev scope :: l → engineIdle s c → ev < 4 → p.pa < 0x6000000000 → p.pa % 64 + p.bytes.length ≤ 64 →
      k.l1.length < 8 → s.hub.noSpare = [] → (scope < 2 ∨ s.mem.owner.get none (p.pa / 128) = none) → ∃ t, exec (.effectPerform c) s = .next t ∧ (t.core c).rq = l ∧ (t.core c).regs = k.regs ∧ (t.core c).vec = k.vec ∧ (t.core c).scr = k.scr ∧ s.sameBytes t ∧
        (∀ i (h : i < p.bytes.length), holdsDirty t c (p.pa / 64) (p.pa % 64 + i) p.bytes[i]) ∧
        ∀ i, i < p.pa % 64 ∨ p.pa % 64 + p.bytes.length ≤ i → i < 64 → (((t.core c).line (p.pa / 128)).sec (p.pa / 64)).dirty.getLsbD i = ((k.line (p.pa / 128)).sec (p.pa / 64)).dirty.getLsbD i) ∧
    (∀ o sup l, k.rq = .matrix o sup :: l →
      (k.eng.q.length < 32 → ∃ m, m.op = o ∧ m.sup = sup ∧ m.st = .waiting ∧ m.rows = 0 ∧
        coreTo (.effectPerform c) s c { k with rq := l, rqAt := none, eng := { k.eng with q := k.eng.q ++ [m], nextId := k.eng.nextId + 1 } }) ∧
      (32 ≤ k.eng.q.length → exec (.effectPerform c) s = .next s)) ∧
    (∀ ch m l, k.rq = .copy ch m :: l → let x := k.ch.get {} ch
      (x.q.length < 8 → x.running = true → m.op = .copy → m.h.getLsbD 88 = true → m.h.getLsbD 89 = true →
        coreTo (.effectPerform c) s c { k with rq := l, rqAt := none, ch := k.ch.put {} ch { x with q := x.q ++ [m] } }) ∧
      (8 ≤ x.q.length → exec (.effectPerform c) s = .next s)))

/-- R108, R109, R110, R177 and R179 for the moves of the L1s and of the L2: a Write-back merges a sector's dirty bytes into the home and raises the version by 1. From an owned copy it records that version with the line, and drops the bytes without a trace when the copy is older than the home's; from another copy it is never cancelled, and another core that owns the line first gives it up with its dirty bytes, which raises the version once more. A clean sector stays. Evict takes a clean line without ownership and no other; Fill makes a missing sector whole and keeps its dirty bytes; a full directory recalls its oldest line, whose owner's dirty bytes go home and who keeps no copy; the partner of a line leaves the L2 when the line no longer compresses. -/
def Obligations.CacheMoves : Prop :=
  ∀ (s : State) (c ln i : Nat), i < 2 → s.mem.fabric = [] →
    let l := (s.core c).line ln
    let x := l.sec i
    (x.dirty = 0 → exec (.writeBack c ln i) s = .next s) ∧
    (x.dirty ≠ 0 → l.owned = true → l.ver < s.mem.ver.get 0 ln → ∃ t, exec (.writeBack c ln i) s = .next t ∧ s.onlyCore t c ∧
      (((t.core c).line ln).sec i).dirty = 0 ∧ (((t.core c).line ln).sec i).valid = false) ∧
    (x.dirty ≠ 0 → l.owned = true → s.mem.ver.get 0 ln ≤ l.ver → ∃ t, exec (.writeBack c ln i) s = .next t ∧
      (((t.core c).line ln).sec i).dirty = 0 ∧ ((t.core c).line ln).ver = s.mem.ver.get 0 ln + 1 ∧ t.mem.ver.get 0 ln = s.mem.ver.get 0 ln + 1 ∧
      (t.core c).keeps (s.core c) ∧
      ∀ a, t.mem.byte a = if a / 64 = 2 * ln + i ∧ x.dirty.getLsbD (a % 64) = true then x.byte (a % 64) else s.mem.byte a) ∧
    (x.dirty ≠ 0 → l.owned = false → s.mem.owner.get none ln = none → ∃ t, exec (.writeBack c ln i) s = .next t ∧
      (((t.core c).line ln).sec i).dirty = 0 ∧ t.mem.ver.get 0 ln = s.mem.ver.get 0 ln + 1 ∧ (t.core c).keeps (s.core c) ∧
      ∀ a, t.mem.byte a = if a / 64 = 2 * ln + i ∧ x.dirty.getLsbD (a % 64) = true then x.byte (a % 64) else s.mem.byte a) ∧
    (∀ o, x.dirty ≠ 0 → l.owned = false → s.mem.owner.get none ln = some o → o ≠ c → ∃ t, exec (.writeBack c ln i) s = .next t ∧
      (((t.core c).line ln).sec i).dirty = 0 ∧ (t.core o).line ln = {} ∧ t.mem.owner.get none ln = none ∧ t.mem.ver.get 0 ln = s.mem.ver.get 0 ln + 2 ∧
      ∀ a, t.mem.byte a = if a / 64 = 2 * ln + i ∧ x.dirty.getLsbD (a % 64) = true then x.byte (a % 64)
        else if a / 128 = ln ∧ (((s.core o).line ln).sec (a / 64)).dirty.getLsbD (a % 64) = true then (((s.core o).line ln).sec (a / 64)).byte (a % 64) else s.mem.byte a) ∧
    (l.owned = true ∨ l.s0.dirty ≠ 0 ∨ l.s1.dirty ≠ 0 → exec (.evict c ln) s = .next s) ∧
    (l.owned = false → l.s0.dirty = 0 → l.s1.dirty = 0 → ∃ t, exec (.evict c ln) s = .next t ∧ s.onlyCore t c ∧ (t.core c).line ln = {} ∧
      ∀ n, n ≠ ln → (t.core c).line n = (s.core c).line n) ∧
    (x.valid = false → 128 * ln < 0x6000000000 → l.cls ≠ 5 → s.mem.owner.get none ln = none → (s.core c).l1.length < 8 → s.hub.noSpare = [] → ∃ t, exec (.fill c ln i) s = .next t ∧ s.sameBytes t ∧
      (((t.core c).line ln).sec i).valid = true ∧ (((t.core c).line ln).sec i).dirty = x.dirty ∧
      ∀ b < 64, (((t.core c).line ln).sec i).byte b = if x.dirty.getLsbD b = true then x.byte b else s.mem.byte (64 * (2 * ln + i) + b)) ∧
    (x.valid = true → exec (.fill c ln i) s = .next s) ∧
    (l ≠ {} → ∀ t, exec (.fill c ln i) s = .next t → ((t.core c).line ln).cls = l.cls ∧ ((t.core c).line ln).used = l.used) ∧
    (∀ cl y r o, s.mem.dirs.get [] cl = y :: r → 2048 ≤ (y :: r).length → s.mem.owner.get none y = some o → ∃ t, exec (.directoryRecall cl) s = .next t ∧
      (t.core o).line y = {} ∧ t.mem.owner.get none y = none ∧ t.mem.ver.get 0 y = s.mem.ver.get 0 y + 1 ∧ (∀ n, n ≠ y → t.mem.owner.get none n = s.mem.owner.get none n) ∧
      ∀ a, t.mem.byte a = if a / 128 = y ∧ (((s.core o).line y).sec (a / 64)).dirty.getLsbD (a % 64) = true then (((s.core o).line y).sec (a / 64)).byte (a % 64) else s.mem.byte a) ∧
    (s.mem.dirs.get [] c = [] → exec (.directoryRecall c) s = .next s) ∧
    ((s.mem.l2.get {} ln).mate = none ∨ halfEntry s ln → exec (.l2CompressionEvict ln) s = .next s) ∧
    ∀ o, (s.mem.l2.get {} ln).mate = some o → ¬halfEntry s ln → ∃ t, exec (.l2CompressionEvict ln) s = .next t ∧ s.sameBytes t ∧ (∀ d, (s.core d).keeps (t.core d)) ∧
      t.mem.ver = s.mem.ver ∧ t.mem.owner = s.mem.owner ∧ ∀ n, (t.mem.l2.get {} n).here = if n = o then false else (s.mem.l2.get {} n).here

/-- R121, R122, R281, R283, R285, R289 to R292, R352 and R408: a line fires only when every core of its mask has arrived, and then clears those flags and restarts the cores that wait on it 3 cycles later plus their stall count; `waitaddr` at the head of RQ reaches the home after its way there; the core parks, with a message of status 0 on its way back when the word differs, else with a monitor on the line, and ends at once with 5 when the core is being stopped; the oldest wake message that has travelled its time writes its status and frees the core; a wait ends with 2 at its time limit; `drain` waits at pool scope for the core's remote writes and at net scope for its puts and gets as well; then it writes the failures counted at its scope and their cause bits, which restart at 0, and it writes 0 and resets nothing at a scope below pool. That a wait's status is written into the shadow too is log entry 10, and the way to the home and back log entry 33. -/
def Obligations.SyncTransitions : Prop :=
  ∀ (s : State) (c : Nat), let k := s.core c
    let wakes (r st : Nat) (e : Core) : Prop := e = { k with
      regs := k.regs.apply (.s r (BitVec.ofNat 64 st)), sh := k.sh.apply (.s r (BitVec.ofNat 64 st)), rq := e.rq, rqAt := e.rqAt
      iss := { k.iss with hold := .none, elig := s.cycle + 1 + k.iss.hold.stall } }
    (∀ task nb (x : Task), s.hub.tasks.get none task = some x →
      let mask := x.masks.get (x.cores.map (· % 8)) nb
      let arr := x.arrived.get [] nb
      (mask = [] ∨ (∃ m ∈ mask, m ∉ arr) → exec (.barrierFire task nb) s = .next s) ∧
      (mask ≠ [] → (∀ m ∈ mask, m ∈ arr) → ∃ t, exec (.barrierFire task nb) s = .next t ∧
        t.hub.tasks.get none task = some { x with arrived := x.arrived.put [] nb (arr.filter fun m => !mask.contains m), saved := x.saved.map fun v => v.freed x.cores mask nb s.cycle } ∧ t.mem = s.mem ∧
        ∀ d, t.core d = match (s.core d).iss.hold with
          | .bsync n st true _ => if n = nb ∧ d ∈ x.cores ∧ d % 8 ∈ mask then { s.core d with iss := { (s.core d).iss with hold := .none, elig := s.cycle + 3 + st } } else s.core d
          | _ => s.core d)) ∧
    (∀ pa r v l, k.rq = .waitaddr pa r v :: l → (k.rqAt = none → k.rqFrom ≤ s.cycle → ∃ at_, s.cycle ≤ at_ ∧ coreTo (.effectPerform c) s c { k with rqAt := some at_ }) ∧
      ((k.rqAt = none ∨ ∃ at_, k.rqAt = some at_ ∧ s.cycle < at_) → exec (.waitaddrRegister c) s = .next s)) ∧
    (∀ pa r v l at_, k.rq = .waitaddr pa r v :: l → k.rqAt = some at_ → at_ ≤ s.cycle → s.mem.owner.get none (pa / 128) = none → s.mem.fabric = [] →
      let w : W64 := BitVec.ofNat 64 (leVal ((List.range 8).map fun i => s.mem.byte (pa + i)))
      (k.stopping = false →
        (w ≠ v → ∃ t due, exec (.waitaddrRegister c) s = .next t ∧ s.cycle ≤ due ∧ t.mem = { s.mem with msgs := s.mem.msgs ++ [⟨c, r, 0, due⟩] } ∧
          t.core c = { k with rq := l, rqAt := none, iss := { k.iss with hold := .parked k.iss.hold.stall } }) ∧
        (w = v → s.mem.mons = [] → ∃ t, exec (.waitaddrRegister c) s = .next t ∧ t.mem = { s.mem with mons := [⟨pa / 128, c, r, s.cycle⟩] } ∧
          t.core c = { k with rq := l, rqAt := none, iss := { k.iss with hold := .parked k.iss.hold.stall } })) ∧
      (k.stopping = true → s.mem.mons = [] → s.mem.msgs = [] → ∃ t, exec (.waitaddrRegister c) s = .next t ∧ t.mem = s.mem ∧ wakes r 5 (t.core c) ∧ (t.core c).rq = l)) ∧
    (∀ m, s.mem.msgs.find? (fun m => m.core == c && decide (m.due ≤ s.cycle)) = some m → ∃ t, exec (.wakeMessage c) s = .next t ∧
      t.mem = { s.mem with msgs := s.mem.msgs.erase m } ∧ wakes m.reg m.status (t.core c) ∧ (t.core c).rq = k.rq) ∧
    (∀ m, s.mem.mons.find? (fun m => m.core == c) = some m → let lim := k.sys.wtmo.toNat
      (lim ≠ 0 → m.since + lim ≤ s.cycle → ∃ t, exec (.waitaddrTimeout c) s = .next t ∧
        t.mem = { s.mem with mons := s.mem.mons.filter fun x => x.core != c } ∧ wakes m.reg 2 (t.core c) ∧ (t.core c).rq = k.rq) ∧
      (lim = 0 ∨ s.cycle < m.since + lim → exec (.waitaddrTimeout c) s = .next s)) ∧
    (∀ scope d (v : VarWrite) l, k.rq = .drain scope d v.id :: l →
      (netWaits s c scope ∨ poolWaits s c scope → exec (.drainComplete c) s = .next s) ∧
      (k.iss.vpend = [v] → v.poison = none → d ≠ 0 → ¬netWaits s c scope → ¬poolWaits s c scope →
        ∃ t, exec (.drainComplete c) s = .next t ∧ s.onlyCore t c ∧ (t.core c).iss.vpend = [] ∧ (t.core c).rq = l ∧ (t.core c).vec = k.vec ∧ (t.core c).scr = k.scr ∧
          (scope < 4 → (t.core c).regs.rs d = 0 ∧ fails t c = fails s c) ∧
          (scope = 4 → (t.core c).regs.rs d = BitVec.ofNat 64 (min k.poolFail 0xFFFFFFFF * 2 ^ 32 + k.poolCause.toNat) ∧ fails t c = (0, 0, k.netFail, k.netCause)) ∧
          (scope = 5 → (t.core c).regs.rs d = BitVec.ofNat 64 (min (k.poolFail + k.netFail) 0xFFFFFFFF * 2 ^ 32 + (k.poolCause ||| k.netCause).toNat) ∧ fails t c = (0, 0, 0, 0))))

/-! ### Transitions of memory behind the homes, and of translation -/

namespace Sys2Proof.Claims
open Sys2Proof.Machine

/-- Bytes `bs` stand from `pa` on, and every other byte reads as before. -/
def wroteAt (s t : State) (pa : Nat) (bs : List Byte) : Prop := ∀ a, t.mem.byte a = if pa ≤ a then (match bs[a - pa]? with | some b => b | none => s.mem.byte a) else s.mem.byte a
/-- Nothing that instructions compute with differs on any core. -/
def allKeep (s t : State) : Prop := ∀ d, (s.core d).keeps (t.core d)
/-- Transition `i` only sends `o` out of the module. -/
def sends (i : Instr) (s : State) (o : Out) : Prop := exec i s = .next { s with outbox := s.outbox ++ [o] }
/-- The remote window of an address has its port in service (R329, R403). -/
def portUp (s : State) (pa : Nat) : Prop := ∃ w, s.hub.windows.find? (fun w => decide (w.base ≤ pa) && decide (pa < w.base + w.size)) = some w ∧ s.hub.boot.links.get .down (14 + w.port) ≠ .down
/-- The exposed window holds the address (R329). -/
def exposedAt (s : State) (pa : Nat) : Prop := ∃ b n o, s.hub.exposed = some (b, n, o) ∧ b ≤ pa ∧ pa < b + n
/-- Only sectors of the remote range that the homes give up leave the module between `s` and `t`, then `o` (R330). -/
def evictsThen (s t : State) (o : Out) : Prop := ∃ l, t.outbox = s.outbox ++ l ++ [o] ∧ ∀ x ∈ l, ∃ p a, x = .cacheEvict p a
/-- The 64 bytes of the sector that holds an address, as they stand at the home. -/
def sectorOf (s : State) (pa : Nat) : List Byte := (List.range 64).map fun i => s.mem.byte (pa / 64 * 64 + i)
/-- A hub command's status `st` reaches the only result that core `c` waits for (R318). -/
def answered (s t : State) (c : Nat) (x : HubCmd) (st : Nat) : Prop :=
  t.hub.cmds = s.hub.cmds.erase x ∧ (t.core c).regs.rs x.d = BitVec.ofNat 64 st ∧ (t.core c).iss.vpend = [] ∧ t.mem = s.mem ∧
  (t.core c).vec = (s.core c).vec ∧ (t.core c).acc = (s.core c).acc ∧ (t.core c).scr = (s.core c).scr ∧ (t.core c).wb = (s.core c).wb

end Sys2Proof.Claims

open Sys2Proof Sys2Proof.Machine Sys2Proof.Claims

/-- R14, R111, R122, R330, R331, R333, R334 and R335 for accesses that reach memory from outside the cores: where each has its effect, which bytes change and what leaves the module. A remote write that succeeds changes exactly its bytes and raises the line's version; one that fails changes no byte and is counted against its core. A host reads the exposed window at the home, waits while the page flips, and writes it as a Write-back; it takes a sector exclusively only in a page under host bias. A lowered cache budget evicts before it is acknowledged. A CXL.io write to a queue and a send to one are refused. A host write to pool memory changes its bytes and the home keeps no copy. An Ultra Ethernet access is served only by a port in service, to frames that the partition of its queue pair owns. The port that carries a queue pair is the model's choice (log entry 55), as are the cut of a host's access at a sector and the dropping of one outside the window (log entry 81) and the dead answer of an address in no window (log entry 87). -/
def Obligations.OutsideAccesses : Prop :=
  (∀ (s : State) (w : PoolWrite) (r : RemoteResult), s.mem.inflight.find? (fun x => x.id == w.id) = some w →
    let rest := s.mem.inflight.filter fun x => x.id != w.id
    (portUp s w.pa → ∀ d, r = .ok d → ∃ t, exec (.poolWritePerform w.id r) s = .next t ∧ t.mem.inflight = rest ∧ wroteAt s t w.pa w.bytes ∧
      t.mem.ver.get 0 (w.pa / 128) = s.mem.ver.get 0 (w.pa / 128) + 1 ∧ (w.sync = none → allKeep s t)) ∧
    (∀ e, (portUp s w.pa ∧ r = e ∨ ¬portUp s w.pa ∧ e = .dead) → (∀ d, e ≠ .ok d) → ∃ t, exec (.poolWritePerform w.id r) s = .next t ∧
      t.mem = { s.mem with inflight := rest } ∧ (t.core w.core).poolFail = (s.core w.core).poolFail + 1 ∧
      (t.core w.core).poolCause = (s.core w.core).poolCause ||| (match e with | .ok _ => 0 | .dead => 1 | .refused => 2 | .poison => 4) ∧ allKeep s t)) ∧
  (∀ (s : State) (host pa : Nat),
    (¬exposedAt s pa → (∀ want, exec (.cxlHostRead host pa want) s = .next s) ∧ ∀ data, exec (.cxlHostWrite host pa data) s = .next s) ∧
    (exposedAt s pa → pa / 4096 ∈ s.mem.flipping →
      (∀ want, exec (.cxlHostRead host pa want) s = .next { s with mem := { s.mem with held := s.mem.held ++ [.read host pa want] } }) ∧
      ∀ data, data.length ≤ 64 - pa % 64 → exec (.cxlHostWrite host pa data) s = .next { s with mem := { s.mem with held := s.mem.held ++ [.write host pa data] } }) ∧
    (exposedAt s pa → pa / 4096 ∉ s.mem.flipping → s.mem.fabric = [] →
      (∀ want, s.mem.bias.get false (pa / 4096) = false ∨ want = .none → sends (.cxlHostRead host pa want) s (.hostData host (sectorOf s pa))) ∧
      (s.mem.bias.get false (pa / 4096) = true → ∃ t, exec (.cxlHostRead host pa .exclusive) s = .next t ∧ t.outbox = s.outbox ++ [.hostData host (sectorOf s pa)] ∧
        t.mem = { s.mem with fabric := [(pa / 64, ⟨[host], true, [], 0⟩)] } ∧ t.cores = s.cores ∧ t.hub = s.hub) ∧
      ∀ data, data.length ≤ 64 - pa % 64 → s.mem.owner.get none (pa / 128) = none → ∃ t, exec (.cxlHostWrite host pa data) s = .next t ∧ wroteAt s t pa data ∧
        t.mem.ver.get 0 (pa / 128) = s.mem.ver.get 0 (pa / 128) + 1 ∧ evictsThen s t (.hostAck host) ∧ allKeep s t) ∧
    (0x100000000000000 ≤ pa → pa < 0x200000000000000 → ∀ data, data.length ≤ 64 - pa % 64 → ∃ t, exec (.cxlHostPoolWrite pa data) s = .next t ∧
      wroteAt s t pa data ∧ t.cores = s.cores ∧ (t.mem.l2.get {} (pa / 128)).here = false ∧ ∀ x ∈ t.hub.budgetUsed, x.2 / 2 ≠ pa / 128)) ∧
  (∀ (s : State) (port budget : Nat), ∃ t, exec (.cxlBudgetChange port budget) s = .next t ∧ t.hub.budgets = s.hub.budgets.put 0 port budget ∧
    (t.hub.budgetUsed.filter fun x => x.1 == port).length ≤ budget ∧ (∃ l, t.outbox = s.outbox ++ l ++ [.budgetAck port budget]) ∧ s.sameBytes t ∧ t.cores = s.cores) ∧
  (∀ (s : State) (port p q : Nat), sends (.cxlIoQueueWrite port p q) s (.ioUnsupported port)) ∧
  (∀ (s : State) (qp pa : Nat) (data : List Byte) (n p : Nat) (x : Part), s.hub.partOfQp qp = some (p, x) →
    (s.hub.boot.links.get .down (18 + qp % 8) = .down → exec (.rmaWrite qp pa data) s = .next s ∧ exec (.rmaRead qp pa n) s = .next s) ∧
    (s.hub.boot.links.get .down (18 + qp % 8) ≠ .down →
      (data = [] ∨ s.hub.ownsFrames p pa data.length = false ∨ x.st = .capturing ∨ x.st = .resetting → sends (.rmaWrite qp pa data) s (.rmaError qp)) ∧
      (data ≠ [] → s.hub.ownsFrames p pa data.length = true → x.st = .running → x.queues = [] → data.length ≤ 64 - pa % 64 →
        s.mem.owner.get none (pa / 128) = none → s.mem.fabric = [] → ∃ t, exec (.rmaWrite qp pa data) s = .next t ∧ wroteAt s t pa data ∧
          evictsThen s t (.rmaDone qp) ∧ t.cores = s.cores) ∧
      (n = 0 ∨ s.hub.ownsFrames p pa n = false → sends (.rmaRead qp pa n) s (.rmaError qp)) ∧
      (n ≠ 0 → s.hub.ownsFrames p pa n = true → s.mem.owner = [] → ∃ t, exec (.rmaRead qp pa n) s = .next t ∧ t.mem = s.mem ∧ t.cores = s.cores ∧
        t.outbox = s.outbox ++ [.rmaData qp ((List.range n).map fun i => s.mem.byte (pa + i))]))) ∧
  ∀ (s : State) (p q : Nat) (x : Part), s.hub.parts.get none p = some x →
    exec (.send p q false) s = .next s ∧ ∀ y, x.queues[q]? = some y → sends (.send p q true) s (.rmaError (x.cfg.qpFirst + y.cfg.ep))

/-- R318 and R322 to R328: a miss that the shared TLB does not serve takes one entry of the die's miss table, and a walker where its partition may have one; the walk's leaf enters the shared TLB and the TLBs that wait, a fault enters none and is noted for those that wait, whose access then faults. A forwarded access raises its page's counter by 1 to at most 255, and the counters halve together. A hot page moves only into a free frame: once its bytes are copied, its entry names the frame, owned locally, where it still holds what the walk read, and else the frame is freed; the move ends when no captured translation to the old page is left. Without a free frame the counter restarts. A freed frame comes back zeroed, with default descriptors, to its partition alone. A hub command answers 1 for a context that is closed or of another partition, and a translation invalidate answers 0 once no captured translation is left in use. A new entry's place in a TLB is log entry 12, the 200 cycles of a hub command log entry 17, the rewriting of every entry of a page log entry 61, and what counts as a captured translation log entry 62. -/
def Obligations.TranslationTransitions : Prop :=
  (∀ (s : State) (c : Nat) (va : BitVec 72), let k := s.core c
    (tlbFind k.tlb k.ctx va ≠ none → exec (.tlbWalk c va) s = .next s) ∧
    (tlbFind k.tlb k.ctx va = none →
      (∀ e, (s.hub.stlb.get [] (c / 64)).find? (fun e => (tlbFind [e] k.ctx va).isSome) = some e → ∃ t, exec (.tlbWalk c va) s = .next t ∧ s.onlyCore t c ∧
        (t.core c).tlb.head? = some e ∧ (t.core c).iss.elig = max k.iss.elig (s.cycle + 24) ∧ k.keeps (t.core c)) ∧
      (s.hub.stlb.get [] (c / 64) = [] → s.hub.walks = [] → 0 < s.hub.tableLimit (c / 64) (s.hub.ctxPart k.ctx) → ∃ t w, exec (.tlbWalk c va) s = .next t ∧
        t.hub = { s.hub with walks := [w] } ∧ t.cores = s.cores ∧ t.mem = s.mem ∧
        w.die = c / 64 ∧ w.ctx = k.ctx ∧ w.vpn = va.toNat / 4096 ∧ w.cores = [c] ∧ w.pipes = [] ∧ w.cancelled = false ∧
        if 0 < s.hub.walkerLimit (c / 64) (s.hub.ctxPart k.ctx) then ∃ d, w.due = some d ∧ s.cycle + 24 ≤ d else w.due = none))) ∧
  (∀ (s : State) (w : Walk) (d : Nat), s.hub.walks = [w] → w.due = some d → d ≤ s.cycle → let va : W72 := BitVec.ofNat 72 (4096 * w.vpn)
    (w.cancelled = true → exec (.tlbWalkComplete w.die w.ctx w.vpn) s = .next { s with hub := { s.hub with walks := [] } }) ∧
    (w.cancelled = false → s.walk w.ctx va = none → ∃ t, exec (.tlbWalkComplete w.die w.ctx w.vpn) s = .next t ∧ t.hub = { s.hub with walks := [] } ∧ t.mem = s.mem ∧ allKeep s t ∧
      (∀ c, t.core c = { s.core c with noPage := (t.core c).noPage }) ∧ (∀ c ∈ w.cores, (0, w.ctx, w.vpn) ∈ (t.core c).noPage) ∧ (∀ c ∈ w.pipes, (1, w.ctx, w.vpn) ∈ (t.core c).noPage) ∧ ∀ c ∈ w.copies, (2, w.ctx, w.vpn) ∈ (t.core c).noPage) ∧
    (w.cancelled = false → ∀ e n, s.walk w.ctx va = some (e, n) → ∃ t, exec (.tlbWalkComplete w.die w.ctx w.vpn) s = .next t ∧ t.hub.walks = [] ∧ t.mem = s.mem ∧ allKeep s t ∧
      let ent : TlbEntry := ⟨w.ctx, va.toNat / 2 ^ n * 2 ^ (n - 12), n, e⟩
      (t.hub.stlb.get [] w.die).head? = some ent ∧ (∀ c ∈ w.cores, (t.core c).tlb.head? = some ent) ∧ (∀ c ∈ w.pipes, (t.core c).ptlb.head? = some ent) ∧ ∀ c, c ∉ w.cores → c ∉ w.pipes → t.core c = s.core c)) ∧
  (∀ (s : State) (ctx : Nat) (va : BitVec 72),
    (∀ e n, s.walk ctx va = some (e, n) → let page := va.toNat / 2 ^ n * 2 ^ (n - 12)
      (e.getLsbD 9 = true ∧ e.getLsbD 11 = true → ∃ t old new, exec (.remoteForward ctx va) s = .next t ∧ t.hub = { s.hub with migr := t.hub.migr } ∧ t.mem = s.mem ∧ t.cores = s.cores ∧
        old = (match s.hub.migr.find? (fun x => x.1 == ctx && x.2.1 == page) with | some x => x.2.2 | none => 0) ∧ new = min 255 (old + 1) ∧
        t.hub.migr.find? (fun x => x.1 == ctx && x.2.1 == page) = some (ctx, page, new)) ∧
      (¬(e.getLsbD 9 = true ∧ e.getLsbD 11 = true) → exec (.remoteForward ctx va) s = .next s)) ∧
    exec .migrationCounterHalve s = .next { s with hub := { s.hub with migr := s.hub.migr.map fun x => (x.1, x.2.1, x.2.2 / 2) } }) ∧
  (∀ (s : State) (ctx vpn p n : Nat) (x : Part) (e : W64) (la : Nat), let va : W72 := BitVec.ofNat 72 (4096 * vpn)
    s.hub.moves = [] → s.hub.partOf ctx = p → s.hub.parts.get none p = some x → s.walk ctx va = some (e, 12) → s.leafAddr ctx va = some la →
    s.hub.migr = [(ctx, vpn, n)] → vpn < 2 ^ 60 → e.getLsbD 9 = true → e.getLsbD 11 = true → x.cfg.migthr ≠ 0 →
    (n < x.cfg.migthr → exec (.pageMigration ctx vpn) s = .next s) ∧
    (x.cfg.migthr ≤ n →
      (x.pool = [] → exec (.pageMigration ctx vpn) s = .next { s with hub := { s.hub with migr := [(ctx, vpn, 0)] } }) ∧
      ∀ f r, x.pool = f :: r → ∃ t y m, exec (.pageMigration ctx vpn) s = .next t ∧
        t.hub.parts.get none p = some y ∧ y.pool = r ∧ t.hub.moves = [m] ∧ t.mem = s.mem ∧ t.cores = s.cores ∧
        m.ctx = ctx ∧ m.part = p ∧ m.vpn = vpn ∧ m.size = 12 ∧ m.old = (e.extractLsb' 12 45).toNat * 4096 ∧ m.frame = f ∧ m.la = la ∧ m.vals = [e] ∧ m.moved = false ∧ s.cycle < m.due)) ∧
  (∀ (s : State) (m : Move) (e : W64) (x : Part), s.hub.moves = [m] → m.size = 12 → m.vals = [e] → s.hub.parts.get none m.part = some x → let mig := Instr.pageMigration m.ctx m.vpn
    (s.cycle < m.due → exec mig s = .next s) ∧
    (m.due ≤ s.cycle → m.moved = false → m.la % 8 = 0 → s.mem.owner.get none (m.la / 128) = none →
      (s.mem.read64 m.la ≠ e → ∃ t, exec mig s = .next t ∧ t.hub.moves = [] ∧ t.hub.scrub = s.hub.scrub ++ [(m.frame, m.part)] ∧ t.hub.frameOwner.get 0 m.frame = 0 ∧ t.mem = s.mem) ∧
      (s.mem.read64 m.la = e → s.hub.ctxs.get none m.ctx ≠ none → m.frame < 2 ^ 41 → m.la / 65536 ≠ m.frame → s.mem.fabric = [] → s.mem.inflight = [] → ∃ t, exec mig s = .next t ∧
        t.hub.moves = [{ m with moved := true }] ∧ (∀ i < 4096, t.mem.byte (65536 * m.frame + i) = s.mem.byte (m.old + i)) ∧
        (let e' := t.mem.read64 m.la
         e'.toNat / 2 ^ 12 % 2 ^ 45 = m.frame * 16 ∧ e'.getLsbD 9 = false ∧ e'.getLsbD 11 = false ∧ e'.toNat % 2 ^ 9 = e.toNat % 2 ^ 9) ∧
        ∀ c, ∀ z ∈ (t.core c).tlb, z.ctx = m.ctx → ¬(z.vpn * 4096 < 4096 * m.vpn + 4096 ∧ 4096 * m.vpn < z.vpn * 4096 + 2 ^ z.size))) ∧
    (m.due ≤ s.cycle → m.moved = true →
      (s.rangeBusy m.old 4096 = true → exec mig s = .next s) ∧
      (s.rangeBusy m.old 4096 = false → ∃ t y, exec mig s = .next t ∧ t.hub.moves = [] ∧ t.hub.parts.get none m.part = some y ∧ y.miglog = x.miglog ++ [(m.ctx, 4096 * m.vpn)] ∧ s.sameBytes t ∧
        (∀ z ∈ t.hub.migr, ¬(z.1 = m.ctx ∧ z.2.1 = m.vpn)) ∧ ∀ c ln, m.old / 128 ≤ ln → ln < m.old / 128 + 32 → (t.core c).line ln = {} ∧ (t.mem.l2.get {} ln).here = false))) ∧
  (∀ (s : State) (f p : Nat) (x : Part), s.hub.scrub.find? (fun y => y.1 == f) = some (f, p) → s.hub.parts.get none p = some x →
    (s.rangeBusy (65536 * f) 65536 = true → exec (.frameReuseScrub f) s = .next s) ∧
    (s.rangeBusy (65536 * f) 65536 = false → s.hub.frameOut f = false → f < 6291456 → ∃ t y, exec (.frameReuseScrub f) s = .next t ∧ (∀ a, t.mem.byte a = if a / 65536 = f then 0 else s.mem.byte a) ∧
      (∀ i < 1024, t.mem.descOf (1024 * f + i) = defaultDesc ∧ t.mem.poisoned (1024 * f + i) = false) ∧
      t.hub.frameOwner.get 0 f = p + 1 ∧ t.hub.parts.get none p = some y ∧ y.pool = x.pool ++ [f] ∧ (∀ z ∈ t.hub.scrub, z.1 ≠ f))) ∧
  ∀ (s : State) (x : HubCmd) (v : VarWrite), s.hub.cmds = [x] → x.answer = none → x.away = none → (s.core x.core).iss.vpend = [v] → v.id = x.vid → v.regs = [.s x.d] → v.poison = none → x.d ≠ 0 → x.from_ + 200 ≤ s.cycle →
    let mine (ctx : Nat) : Prop := ∃ y, s.hub.ctxs.get none ctx = some y ∧ y.part = s.hub.partOf x.ctx ∧ y.closed = false
    (∀ ctx, (x.op = .tlbinvCtx ctx ∨ (∃ va, x.op = .tlbinvVa ctx va) ∨ (∃ o, x.op = .stitchDrop ctx o) ∨ x.op = .ctxEnd ctx) → ¬mine ctx →
      ∃ t, exec (.hubCommandComplete x.core) s = .next t ∧ answered s t x.core x 1) ∧
    (∀ ctx, (x.op = .tlbinvCtx ctx ∨ ∃ va, x.op = .tlbinvVa ctx va) → mine ctx → s.coverBusy x.cover = false →
      ∃ t, exec (.hubCommandComplete x.core) s = .next t ∧ answered s t x.core x 0)

/-! ### Transitions of the engines -/

namespace Sys2Proof.Claims
open Sys2Proof.Machine

/-- Transition `i` leads to a next state in which core `c` differs only in its matrix engine, which is `e`, and nothing outside it does. -/
def engTo (i : Instr) (s : State) (c : Nat) (e : MEng) : Prop := coreTo i s c { s.core c with eng := e }
/-- The matrix queue holds one command, in a given state, and no stitch runs. -/
def lone (s : State) (c : Nat) (m : MEntry) : Prop := let e := (s.core c).eng
  e.q = [m] ∧ e.seq = none ∧ e.frozen = none ∧ e.pins = []
/-- An instance of core `c`'s weight cache by number. -/
def instAt (s : State) (c id : Nat) (i : Inst) : Prop := (s.core c).eng.insts.find? (fun j => j.id == id) = some i ∧ i.id = id
/-- The instances of an engine with that number, changed by `f`. -/
def changed (l : List Inst) (id : Nat) (f : Inst → Inst) : List Inst := l.map fun j => if j.id = id then f j else j
/-- An engine after a Fill of a tile starts at frame `f`, with the instances there evicted (R194, R199). -/
def filled (e : MEng) (pa fmt cls f : Nat) : MEng := { e with
  insts := e.insts.filter (fun i => !(i.frame < f + tileBytes fmt / 8192 && f < i.frame + tileBytes i.fmt / 8192)) ++ [⟨e.nextId, pa, fmt, e.fillcount.toNat, cls, f, .filling, [], 0⟩]
  nextId := e.nextId + 1, fillcount := e.fillcount + 1 }
/-- A core whose engine froze on a fault (R203): not delivered, mrp valid, and otherwise as before. -/
def froze (s t : State) (c : Nat) (x : Cause) : Prop := ∃ f, (t.core c).eng.frozen = some f ∧ f.cause.code = x.code ∧ f.cause.det = x.det ∧ f.cause.addr = x.addr ∧ f.cause.prog = x.prog ∧
  f.delivered = false ∧ f.region = (s.core c).iss.region ∧ (t.core c).eng.mrp.getLsbD 15 = true ∧ t.core c = { s.core c with eng := (t.core c).eng, noPage := (t.core c).noPage } ∧ s.onlyCore t c

end Sys2Proof.Claims

open Sys2Proof Sys2Proof.Machine Sys2Proof.Claims

/-- R196 to R204, R207, R209, R214, R217, R374 and R387 for the matrix engine's own transitions, each on an engine that holds what the clause names: a ready `mzero` clears its accumulator and a ready step binds to the live group of its tile; a bound step dispatches on an idle array, oldest first, for T cycles; a due row changes one accumulator row and counts; a command leaves the queue at its end, with a drain's status visible later; a Fill ends valid, or poisoned it leaves no instance; early fills, replicas and prefetches take the placement chosen by R194; a parity error stops the step at its row and loses the instance; a fault freezes the engine with mrp valid. -/
def Obligations.EngineTransitions : Prop :=
  ∀ (s : State) (c : Nat), let k := s.core c
    let e := k.eng
    (∀ m, lone s c m → m.st = .waiting →
      (∀ a, m.op = .zero a → ∃ t, exec (.matrixEntryReady c m.id) s = .next t ∧ s.onlyCore t c ∧ t.core c = { k with acc := (t.core c).acc, accPoison := (t.core c).accPoison, eng := (t.core c).eng } ∧
        (∀ r < 16, (t.core c).acc.get 0 (16 * a + r) = 0 ∧ (t.core c).accPoison.get false (16 * a + r) = false) ∧
        (∀ n, n / 16 ≠ a → (t.core c).acc.get 0 n = k.acc.get 0 n) ∧ (t.core c).eng = { e with q := [{ m with st := .ending s.cycle, status := 0 }] }) ∧
      (∀ a pa fmt va ab h i l, m.op = .step a pa fmt va ab h → e.live pa fmt = i :: l →
        engTo (.matrixEntryReady c m.id) s c { e with q := [{ m with st := .bound, gen := i.gen, pa := pa, fmt := fmt }] })) ∧
    (∀ m i, lone s c m → m.st = .bound → e.insts = [i] → i.pa = m.pa → i.fmt = m.fmt → i.gen = m.gen → i.st = .valid → e.runs = [] → (s.hub.clusters.get {} (c / 8)).holdSteps = false →
      opLegal (bitsOf m.op.shape 52 4) → opLegal (bitsOf m.op.shape 56 4) →
      engTo (.stepDispatch c m.id) s c { e with
        q := [{ m with st := .running }], insts := [{ i with time := s.cycle }]
        runs := [⟨i.frame / 4, m.id, i.id, s.cycle, m.rows, 16 * max (elemBits (bitsOf m.op.shape 52 4)) (elemBits (bitsOf m.op.shape 56 4)), []⟩] }) ∧
    (∀ r m u, s.dueRun c r.arr = some r → s.nextRow c r = some (m, .ok u) → ∃ t, exec (.stepRowWrite c r.arr) s = .next t ∧
      (∀ n, n ≠ 16 * (m.op.acc?.getD 0) + m.rows → (t.core c).acc.get 0 n = k.acc.get 0 n) ∧ (t.core c).regs = k.regs ∧ (t.core c).vec = k.vec ∧ (t.core c).scr = k.scr ∧
      (m.rows < 15 → (t.core c).eng.entry? m.id = ((u.core c).eng.entry? m.id).map fun x => { x with rows := x.rows + 1 }) ∧
      (15 ≤ m.rows → ∀ q ∈ (t.core c).eng.runs, q.entry ≠ m.id)) ∧
    (∀ m n, lone s c m → m.st = .ending n →
      (s.cycle < n → exec (.matrixCommandComplete c m.id) s = .next s) ∧
      (n ≤ s.cycle → (∀ a, m.op = .zero a → engTo (.matrixCommandComplete c m.id) s c { e with q := [] }) ∧
        ∀ a va dst b tb h, m.op = .drain a va dst b tb h → coreTo (.matrixCommandComplete c m.id) s c { k with tsNew := k.tsNew ++ [(a, s.cycle + 5, m.status)], eng := { e with q := [] } })) ∧
    (∀ id i, instAt s c id i →
      (i.st = .filling → i.blocks.length < tileBytes i.fmt / 64 → exec (.tileFillEnd c id) s = .next s) ∧
      ((∃ src, i.st = .copying src) → s.cycle < i.time → exec (.tileFillEnd c id) s = .next s) ∧
      ((i.st = .filling ∧ tileBytes i.fmt / 64 ≤ i.blocks.length ∧ ∀ b ∈ i.blocks, b.poison = false) ∨ ((∃ src, i.st = .copying src) ∧ i.time ≤ s.cycle) →
        engTo (.tileFillEnd c id) s c { e with insts := changed e.insts id fun j => { j with st := .valid, time := s.cycle } }) ∧
      (i.st = .filling → tileBytes i.fmt / 64 ≤ i.blocks.length → (∃ b ∈ i.blocks, b.poison = true) → e.q = [] → e.seq = none → e.runs = [] → ∃ t, exec (.tileFillEnd c id) s = .next t ∧ s.onlyCore t c ∧
        ∀ j ∈ (t.core c).eng.insts, j.pa = i.pa → j.fmt = i.fmt → j.st = .retiring)) ∧
    (∀ m a pa fmt va ab h f, e.entry? m.id = some m → m.op = .step a pa fmt va ab h → m.st = .waiting → e.ready m = false → e.demand = false → e.frozen = none → e.pins = [] →
      e.live pa fmt = [] → e.place fmt e.arrays = some f → engTo (.earlyFill c m.id) s c (filled e pa fmt (bitsOf h 83 2) f)) ∧
    (∀ id i f, instAt s c id i → e.pins = [] → e.wantsReplica i = true → e.place i.fmt (e.freshArrays i) = some f → ∃ t j, exec (.replicaCopy c id) s = .next t ∧ s.onlyCore t c ∧
      j ∈ (t.core c).eng.insts ∧ j.pa = i.pa ∧ j.fmt = i.fmt ∧ j.gen = i.gen ∧ j.blocks = i.blocks ∧ j.frame = f ∧ j.st = .copying i.id ∧ j.time = s.cycle + tileBytes i.fmt / 64) ∧
    (∀ p, e.pfq = [p] → e.pins = [] →
      (p.tiles = some [] → engTo (.prefetchService c) s c { e with pfq := [] }) ∧
      (∀ va fmt cls l, p.tiles = some ((va, fmt, cls) :: l) → s.pipeWaits c [(BitVec.ofNat 72 va, tileBytes fmt)] = none →
        (∀ x, tileCheck (s.pipe c p.sup) .read fmt (BitVec.ofNat 72 va) = .error x → engTo (.prefetchService c) s c { e with pfq := [], pfLost := e.pfLost + 1 }) ∧
        (∀ pa, tileCheck (s.pipe c p.sup) .read fmt (BitVec.ofNat 72 va) = .ok pa →
          (e.live pa fmt ≠ [] → engTo (.prefetchService c) s c { e with pfq := [{ p with tiles := some l }] }) ∧
          (∀ f, e.live pa fmt = [] → e.demand = false → (∀ i ∈ e.insts, i.st ≠ .filling) → e.place fmt e.arrays = some f →
            engTo (.prefetchService c) s c { filled e pa fmt cls f with pfq := [{ p with tiles := some l }] })))) ∧
    (∀ m r i, lone s c m → e.runs = [r] → r.entry = m.id → e.insts = [i] → i.id = r.inst → i.st = .valid → i.gen = m.gen → i.pa = m.pa → i.fmt = m.fmt → s.hub.errs = [] → ∃ t, exec (.arrayParityError c r.arr) s = .next t ∧ t.mem = s.mem ∧
      t.core c = { k with eng := { e with q := [{ m with st := .waiting }], runs := [], insts := [] } } ∧ t.hub.errs = [⟨.array c r.arr, [s.cycle]⟩]) ∧
    ∀ m x, e.entry? m.id = some m → e.runs = [] → e.frozen = none → s.startFault c m = some x → ∃ t, exec (.matrixDeferredFault c m.id) s = .next t ∧ froze s t c { x with prog := m.rows }

/-- R224, R227, R244, R246, R247 and R250: a stitch entry at the front starts once its bank is loaded, or goes on from a saved yield with its counts at zero; without a bank a reload of 1 µs starts, which leaves the context's image in an invalid or the least recently used bank, whose last use stays; bank 0 serves once boot has loaded it; a stitch-store error invalidates the bank and freezes the engine for good. -/
def Obligations.StitchTransitions : Prop :=
  ∀ (s : State) (c : Nat), let k := s.core c
    let e := k.eng
    (∀ m l b0 en de opw mp mh, e.q = m :: l → (∀ x ∈ l, x.id ≠ m.id) → m.op = .stitch b0 en de opw mp mh → e.frozen = none → e.yieldReq = false →
      (b0 = true ∧ e.bank0 = true ∨ b0 = false ∧ (∃ b ∈ [1, 2, 3], (e.banks.get {} b).tag = some k.ctx) →
        (m.st = .waiting → e.seq = none → ∃ q, engTo (.stitchStart c) s c { e with q := { m with st := .running } :: l, seq := some q } ∧
          q.entry = m.id ∧ q.bank0 = b0 ∧ q.upc = en ∧ q.depth = de ∧ q.st = .running ∧ q.elig = s.cycle + 1 ∧ q.steps = 0 ∧ q.words = 0 ∧ q.mt = [] ∧ q.ml = [] ∧ q.sp = 0 ∧
          q.abase = 0 ∧ q.acnt = 32 ∧ q.aoff = 0 ∧ q.sq = []) ∧
        (∀ q, e.seq = some q → q.st = .yielding → engTo (.stitchStart c) s c { e with seq := some { q with st := .running, steps := 0, words := 0, elig := s.cycle + 1 } })) ∧
      (b0 = true → e.bank0 = false → exec (.stitchStart c) s = .next s ∧ exec (.stitchBankReload c) s = .next s) ∧
      (b0 = false → (∀ b ∈ [1, 2, 3], (e.banks.get {} b).tag ≠ some k.ctx) → m.st = .waiting →
        exec (.stitchStart c) s = .next s ∧
        (e.reload = [] → ∃ b ∈ [1, 2, 3], engTo (.stitchBankReload c) s c { e with banks := e.banks.put {} b { e.banks.get {} b with tag := none }, reload := [(b, k.ctx, s.cycle + 4000)] } ∧
          ∀ d ∈ [1, 2, 3], (e.banks.get {} b).tag = none ∨ ((e.banks.get {} d).tag ≠ none ∧ (e.banks.get {} b).used ≤ (e.banks.get {} d).used)))) ∧
    (∀ b ctx due l x, e.reload = (b, ctx, due) :: l → s.hub.ctxs.get none ctx = some x →
      (s.cycle < due → exec (.stitchBankReloadEnd c) s = .next s) ∧
      (due ≤ s.cycle → engTo (.stitchBankReloadEnd c) s c { e with banks := e.banks.put {} b ⟨some ctx, x.image, (e.banks.get {} b).used⟩, reload := l })) ∧
    ∀ q, e.seq = some q → q.st = .running → e.frozen = none → ∃ t f, exec (.stitchStoreError c) s = .next t ∧ froze s t c ⟨0x13, 6, q.upc, 0, 0⟩ ∧
      (t.core c).eng.frozen = some f ∧ f.fatal = true ∧ (q.bank0 = false → ∀ b ∈ [1, 2, 3], (∀ d ∈ [1, 2, 3], (e.banks.get {} d).tag = some k.ctx → d = b) → ((t.core c).eng.banks.get {} b).tag ≠ some k.ctx)

/-- R122, R251, R256, R257, R259, R260, R269 to R272, R274 and R309 for the channels of one core, on a channel whose only command is `m`, with scratchpad sides but in the last clause: a piece copies its bytes and no other, and counts; an iteration of `kloop` starts once its buffer is free; a command that has sent all and waits for nothing leaves; a refused remote access and a failed collective are counted in `drain`'s counts and in the channel's; an all-gather's destination is the members' contributions in rank order; a relay chunk at the root is copied and counted; a page that does not translate freezes the channel. -/
def Obligations.CopyTransitions : Prop :=
  ∀ (s : State) (c ch : Nat) (m : CopyCmd), let k := s.core c
    let x := k.ch.get {} ch
    let rowb := bitsOf m.h 0 20
    let d := m.dst.toNat
    let o := m.org.toNat
    x.q = [m] → x.running = true → x.frozen = none →
    (m.h.getLsbD 88 = true → m.h.getLsbD 89 = true → m.h.getLsbD 93 = false →
    let scrFrom (t : State) (f : Nat → Byte) (n : Nat) : Prop := ∀ a, (t.core c).scr.get 0 a = if d ≤ a ∧ a < d + n then f (a - d) else k.scr.get 0 a
    let failed (t : State) : Prop := (t.core c).netFail = k.netFail + 1 ∧ (t.core c).netCause = k.netCause ||| 2 ∧ ((t.core c).ch.get {} ch).nfail = x.nfail + 1 ∧ (t.core c).scr = k.scr ∧ (t.core c).regs = k.regs
    (m.op = .copy → m.piece = 0 → bitsOf m.h 20 12 = 0 → 0 < rowb → d % 64 + rowb ≤ 64 → m.from_ ≤ s.cycle → ∃ t y, exec (.copyPieceWrite c ch) s = .next t ∧ s.onlyCore t c ∧
      scrFrom t (fun j => k.scr.get 0 (o + j)) rowb ∧ ((t.core c).ch.get {} ch).q = [y] ∧ y.piece = 1 ∧ (t.core c).regs = k.regs ∧ (t.core c).acc = k.acc) ∧
    (m.op = .copy → s.cycle < m.from_ → exec (.copyPieceWrite c ch) s = .next s) ∧
    (∀ n step, m.op = .loop n step →
      (m.iterOn = false → m.iter < n → x.filled = m.iter → m.iter < bitsOf m.h 110 3 + 1 ∨ m.iter + 1 ≤ x.released + (bitsOf m.h 110 3 + 1) →
        coreTo (.kloopIterationStart c ch) s c { k with ch := k.ch.put {} ch { x with q := [{ m with iterOn := true }] } }) ∧
      (x.released + (bitsOf m.h 110 3 + 1) ≤ m.iter → exec (.kloopIterationStart c ch) s = .next s)) ∧
    (m.op = .copy → bitsOf m.h 20 12 = 0 → d % 64 + rowb ≤ 64 → m.piece = 1 → m.acks = [] → m.wrote = [] →
      coreTo (.copyComplete c ch) s c { k with ch := k.ch.put {} ch { x with q := [], running := false } }) ∧
    (∀ (op : NetOp) (j : Job), s.hub.net = [op] → op.core = c → op.ch = ch → op.away = none → op.answer = none → op.coll = none → op.put = false → m.acks = [op.id] → m.failed = false →
      k.job = some j → j.task = op.task → j.phase = .running →
      ∃ t, exec (.remoteAcknowledge op.id .refused) s = .next t ∧ t.hub.net = [] ∧ t.mem = s.mem ∧ failed t ∧ ((t.core c).ch.get {} ch).q.map (fun q => (q.acks, q.failed)) = [([], true)]) ∧
    (∀ (o' : NetOp) (j : Job) (y : CollOp) (kind op ty g root : Nat), s.hub.net = [o'] → o'.core = c → o'.ch = ch → o'.away = none → o'.coll = some y → k.job = some j → j.task = o'.task → j.phase = .running →
      y.cmd = m → y.ended = false → y.failed = false → y.due = [] → y.fail = 0 → m.acks = [o'.id] → m.op = .coll kind op ty g root →
      let ended (t : State) : Prop := t.hub.net = [] ∧ ((t.core c).ch.get {} ch).q.map (fun q => (q.acks, q.iterOn)) = [([], true)]
      (∀ l, ∃ t, exec (.collectiveComplete c o'.id l 2) s = .next t ∧ failed t ∧ ended t) ∧
      (kind = 1 → y.group.rank = 0 → y.group.members.length = 2 → y.own.length = rowb → ∀ data : List Byte, data.length = rowb → ∃ t, exec (.collectiveComplete c o'.id [[], data] 0) s = .next t ∧
        scrFrom t (fun j => if j < rowb then y.own.getD j 0 else data.getD (j - rowb) 0) (2 * rowb) ∧ ended t) ∧
      (kind = 3 → m.scope = 5 → y.chunk = 0 → y.group.rank = root → root < y.group.members.length → 0 < rowb → rowb ≤ 4096 → y.own.length = rowb → ∃ t, exec (.relayChunkForward c o'.id 0 [] 0) s = .next t ∧
        scrFrom t (fun j => y.own.getD j 0) rowb ∧ t.hub.net = [{ o' with coll := some { y with chunk := 1 } }] ∧ t.mem = s.mem))) ∧
    ∀ z, s.nextPiece c ch = some (.error z) → ∃ f np, coreTo (.copyDeferredFault c ch) s c { k with ch := k.ch.put {} ch { x with frozen := some f }, noPage := np } ∧
      f.cause = { z with loc := ch % 16 * 16 } ∧ f.delivered = false ∧ f.region = k.iss.region

/-- R203, R255, R263, R264, R309 and R312: a bundle that waits for a watermark issues once the range is written; with no work left that could write it, it takes the copy-underrun fault; a deferred fault of the matrix engine, or else of the lowest frozen channel, enters at level 0, at a boundary that follows a checkpoint, once, with the engine still frozen. -/
def Obligations.EngineFaultsDelivered : Prop :=
  ∀ (s : State) (c : Nat), let k := s.core c
    (∀ ch slot off hi, k.iss.wmWait = some (ch, slot, off, hi) →
      let x := k.ch.get {} ch
      let free : Core := { k with iss := { k.iss with wmWait := none } }
      ((x.wm = none ∨ ∃ w r, x.wm = some w ∧ w.reach = some r ∧ hi ≤ r) → off < hi → coreTo (.watermarkWaitRelease c) s c free) ∧
      (∀ w r, x.wm = some w → w.reach = some r → w.base ≤ off → r < hi → hi ≤ w.base + w.len → off < hi →
        exec (.watermarkWaitRelease c) s = .next s ∧
        (x.q = [] → k.rq = [] → k.wb = [] → exec (.copyUnderrun c) s = .next ((s.setCore c free).takeTrap c ⟨.precise, ⟨0x10, slot, ch, 0, BitVec.ofNat 72 off⟩⟩)))) ∧
    (∀ f j, k.eng.frozen = some f → f.delivered = false → k.job = some j → j.phase = .running → k.sys.level = 0 → k.iss.trap = none → k.iss.poisons = [] →
      k.iss.hold = .none → f.region < k.iss.region → k.iss.pend = [] → k.iss.vpend = [] → k.rq = [] →
      ∃ t, exec (.deferredFaultDelivery c) s = .next t ∧ entered s t c { k with eng := { k.eng with frozen := some { f with delivered := true } } } ⟨.deferred, f.cause⟩ k.iss.pc) ∧
    (∀ ch f j, ch < 16 → k.eng.frozen = none → (∀ i < ch, (k.ch.get {} i).frozen = none) → (k.ch.get {} ch).frozen = some f → f.delivered = false → k.job = some j → j.phase = .running → k.sys.level = 0 →
      k.iss.trap = none → k.iss.poisons = [] → k.iss.hold = .none → f.region < k.iss.region → k.iss.pend = [] → k.iss.vpend = [] → k.rq = [] →
      ∃ t, exec (.deferredFaultDelivery c) s = .next t ∧ entered s t c { k with ch := k.ch.put {} ch { k.ch.get {} ch with frozen := some { f with delivered := true } } } ⟨.deferred, f.cause⟩ k.iss.pc) ∧
    (k.eng.frozen = none → (∀ ch, (k.ch.get {} ch).frozen = none) → exec (.deferredFaultDelivery c) s = .next s)

/-! ### What the other commands do at the head of the release queue -/

namespace Sys2Proof.Claims
open Sys2Proof.Machine

/-- Line `ln` lies in HBM and its home alone holds it: core `c`'s L1 is empty, no L1 owns the line, no host holds a sector and no page moves. -/
def atHome (s : State) (c ln : Nat) : Prop := (s.core c).l1 = [] ∧ 128 * ln < 0x6000000000 ∧ s.mem.owner.get none ln = none ∧ s.mem.fabric = [] ∧ s.hub.moves = []
/-- The scope of a release at the head of RQ (R117); an atomic at a remote address has pool scope at least (R176). -/
def relScope : Effect → Option Nat
  | .relFence sc | .relSt sc _ _ _ _ | .storeRel sc _ _ => some sc
  | .atomic _ ord sc _ p _ _ _ _ => if 2 ≤ ord then some (if 0x100000000000000 ≤ p.pa ∧ sc < 4 then 4 else sc) else none
  | _ => none
/-- What a release of a scope waits for besides its write-backs: the core's remote writes, and its puts and gets (R101, R121). -/
def relWaits (s : State) (c scope : Nat) : Prop := poolWaits s c scope ∨ netWaits s c scope
/-- The time at which a release may perform has come: its write-backs, when it had any, are acknowledged (R101, R408). -/
def relDue (s : State) (c : Nat) : Prop := engineIdle s c ∧ ∀ n, (s.core c).rqAt = some n → n ≤ s.cycle
/-- The scopes of one class: pool alone, net alone, or the others (R101). -/
def sameClass (a b : Nat) : Prop := (a = 4 ↔ b = 4) ∧ (a = 5 ↔ b = 5)
/-- Core `c`'s head of RQ left, and beside its engine's tiles, its signatures and its pending results nothing in it changed. -/
def headDone (s t : State) (c : Nat) (l : List Effect) : Prop :=
  (t.core c).rq = l ∧ (t.core c).rqAt = none ∧ (t.core c).regs = (s.core c).regs ∧ (t.core c).vec = (s.core c).vec ∧ (t.core c).scr = (s.core c).scr ∧ (t.core c).acc = (s.core c).acc ∧
  (t.core c).wb = (s.core c).wb ∧ ∀ d, d ≠ c → (s.core d).keeps (t.core d)
/-- Publish of scope `sc` at line `ln` of device memory (R116): its wake is `wake` and the bytes `cells` stand in it, its version is higher by 1, no monitor on it is left, and of core `c` the two signatures of the scope's class are clear; the other classes' keep what they hold, with the block of a tracked write of its own entered in WS. -/
def published (s t : State) (c ln sc : Nat) (wake : Pred) (cells : List (Nat × Byte)) (own : Pred) : Prop :=
  (∀ a, t.mem.byte a = lastOf cells a (if a / 64 = 2 * ln + 1 then wake.extractLsb' (8 * (a % 64)) 8 else s.mem.byte a)) ∧
  t.mem.ver.get 0 ln = s.mem.ver.get 0 ln + 1 ∧ (∀ m ∈ t.mem.mons, m.line ≠ ln) ∧
  ∀ n, (sameClass n sc → (t.core c).ws.cls n = 0 ∧ (t.core c).as_.cls n = 0) ∧
    (¬sameClass n sc → (t.core c).ws.cls n = (s.core c).ws.cls n ||| own ∧ (t.core c).as_.cls n = (s.core c).as_.cls n)
/-- The bits that a write of a block enters in WS, none for an untracked page (R115). -/
def enters (untr : Bool) (pa : Nat) : Pred := if untr then 0 else wakeHash (pa / 64)
/-- The wake of a line at its home (R114). -/
def wakeAt (s : State) (ln : Nat) : Pred := BitVec.ofNat 512 (leVal ((List.range 64).map fun i => s.mem.byte (128 * ln + 64 + i)))
/-- The bytes of a 16-byte beacon head: a value and a generation (R114). -/
def beaconCells (pa : Nat) (v g : BitVec 64) : List (Nat × Byte) := (List.range 16).map fun i => (pa + i, (g ++ v).extractLsb' (8 * i) 8)
/-- The bytes of a store with their places. -/
def pieceCells (p : Piece) : List (Nat × Byte) := (List.range p.bytes.length).map fun i => (p.pa + i, p.bytes.getD i 0)
/-- The pending result `v` gets a value, some cycles from now. -/
def answers (s t : State) (c : Nat) (v : VarWrite) (w : Wr) : Prop := ∃ n, s.cycle ≤ n ∧ (t.core c).iss.vpend = [{ v with wr := [w], ready := some n }]

end Sys2Proof.Claims

open Sys2Proof Sys2Proof.Machine Sys2Proof.Claims

/-- R101, R115 to R117, R172, R175, R176, R286, R288 and R408 for releases, atomics and `sdesc` at the head of RQ. A release beyond core scope first sends the L1's dirty bytes home, and it waits while their acknowledgement, a remote write of its core at pool scope, or a put or get at net scope is still to come. Then a `rel.fence` is complete; a `rel.st`, a store-release or a release atomic publishes: `rel.st` replaces the wake by what the core wrote and absorbed and writes value and generation, the others OR into it and write their own bytes, all in one action at the home. At core scope `rel.st` and a store-release only leave dirty bytes in the L1. A plain atomic at the home reads and writes its target in one action, returns the old value, and raises the version; `sdesc` writes a descriptor there, and none in the remote range. -/
def Obligations.ReleasesPerform : Prop :=
  ∀ (s : State) (c : Nat) (l : List Effect), let k := s.core c
    k.rqFrom ≤ s.cycle →
    (∀ e sc, k.rq = e :: l → relScope e = some sc → sc ≠ 0 →
      (∀ n, k.rqAt = some n → s.cycle < n ∨ relWaits s c sc → exec (.effectPerform c) s = .next s) ∧
      (k.rqAt = none → engineIdle s c → s.mem.fabric = [] → (∃ ln i, ((k.line ln).sec i).dirty ≠ 0) → ∃ t n, exec (.effectPerform c) s = .next t ∧ (t.core c).rqAt = some n ∧ s.cycle ≤ n ∧ (t.core c).rq = k.rq ∧
        ∀ ln i, (((t.core c).line ln).sec i).dirty = 0)) ∧
    (k.rq = .relFence 0 :: l → coreTo (.effectPerform c) s c { k with rq := l, rqAt := none }) ∧
    (∀ sc, k.rq = .relFence sc :: l → sc ≠ 0 → k.l1 = [] → relDue s c → ¬relWaits s c sc → coreTo (.effectPerform c) s c { k with rq := l, rqAt := none, rqFrom := s.cycle }) ∧
    (∀ sc ev pa v untr, k.rq = .relSt sc ev pa v untr :: l → pa % 128 = 0 → let ln := pa / 128
      let cells := beaconCells pa v (lineWord s ln 1 + 1)
      (sc ≠ 0 → atHome s c ln → relDue s c → ¬relWaits s c sc → ∃ t, exec (.effectPerform c) s = .next t ∧ headDone s t c l ∧ s.cycle ≤ (t.core c).rqFrom ∧
        published s t c ln sc (k.ws.cls sc ||| k.as_.cls sc) cells (enters untr pa)) ∧
      (sc = 0 → atHome s c ln → engineIdle s c → s.hub.noSpare = [] → ev < 4 → ∃ t, exec (.effectPerform c) s = .next t ∧ headDone s t c l ∧ s.sameBytes t ∧
        (∀ i < 16, holdsDirty t c (pa / 64) i ((lineWord s ln 1 + 1 ++ v).extractLsb' (8 * i) 8)) ∧ ∀ n, (t.core c).ws.cls n = k.ws.cls n ||| enters untr pa)) ∧
    (∀ sc ev p, k.rq = .storeRel sc ev p :: l → p.bytes ≠ [] → p.pa % 64 + p.bytes.length ≤ 64 → let ln := p.pa / 128
      (sc ≠ 0 → atHome s c ln → relDue s c → ¬relWaits s c sc → ∃ t, exec (.effectPerform c) s = .next t ∧ headDone s t c l ∧ s.cycle ≤ (t.core c).rqFrom ∧
        published s t c ln sc (wakeAt s ln ||| (k.ws.cls sc ||| k.as_.cls sc)) (pieceCells p) (enters p.untr p.pa)) ∧
      (sc = 0 → atHome s c ln → engineIdle s c → s.hub.noSpare = [] → ev < 4 → ∃ t, exec (.effectPerform c) s = .next t ∧ headDone s t c l ∧ s.sameBytes t ∧
        (∀ i < p.bytes.length, holdsDirty t c (p.pa / 64) (p.pa % 64 + i) (p.bytes.getD i 0)) ∧ ∀ n, (t.core c).ws.cls n = k.ws.cls n ||| enters p.untr p.pa)) ∧
    (∀ o ord sc ev p x y d (v : VarWrite), k.rq = .atomic o ord sc ev p x y d v.id :: l → k.iss.vpend = [v] → p.pa % o.size = 0 → 2 ≤ sc → let ln := p.pa / 128
      let old : BitVec 64 := BitVec.ofNat 64 (leVal ((List.range o.size).map fun i => s.mem.byte (p.pa + i)))
      let cells := match o.new old x y with
        | some w => (List.range o.size).map fun i => (p.pa + i, w.extractLsb' (8 * i) 8)
        | none => []
      let own := if (o.new old x y).isSome then enters p.untr p.pa else 0
      atHome s c ln → engineIdle s c → s.mem.poisoned (p.pa / 64) = false →
      (ord = 0 → ∃ t, exec (.effectPerform c) s = .next t ∧ headDone s t c l ∧ answers s t c v (.s d old) ∧ (∀ a, t.mem.byte a = lastOf cells a (s.mem.byte a)) ∧
        t.mem.ver.get 0 ln = s.mem.ver.get 0 ln + 1 ∧ (∀ m ∈ t.mem.mons, m.line ≠ ln) ∧ ∀ n, (t.core c).ws.cls n = k.ws.cls n ||| own ∧ (t.core c).as_.cls n = k.as_.cls n) ∧
      (ord = 2 → relDue s c → ¬relWaits s c sc → ∃ t, exec (.effectPerform c) s = .next t ∧ headDone s t c l ∧ answers s t c v (.s d old) ∧ s.cycle ≤ (t.core c).rqFrom ∧
        published s t c ln sc (wakeAt s ln ||| (k.ws.cls sc ||| k.as_.cls sc)) cells own) ∧
      (ord = 1 → ∃ t, exec (.effectPerform c) s = .next t ∧ headDone s t c l ∧ answers s t c v (.s d old) ∧ (∀ a, t.mem.byte a = lastOf cells a (s.mem.byte a)) ∧
        ∀ n, (t.core c).as_.cls n = k.as_.cls n ||| wakeAt s ln)) ∧
    ∀ pa d untr sc, k.rq = .sdesc pa d untr sc :: l →
      (0x100000000000000 ≤ pa → pa < 0x200000000000000 → engineIdle s c → coreTo (.effectPerform c) s c { k with rq := l, rqAt := none }) ∧
      (atHome s c (pa / 128) → engineIdle s c → ∃ t, exec (.effectPerform c) s = .next t ∧ headDone s t c l ∧ s.sameBytes t ∧
        (∀ b, t.mem.descOf b = if b = pa / 64 then d else s.mem.descOf b) ∧ t.mem.ver.get 0 (pa / 128) = s.mem.ver.get 0 (pa / 128) + 1 ∧ ∀ n, (t.core c).ws.cls n = k.ws.cls n ||| enters untr pa)

/-- R196, R206, R214, R217, R261, R273, R293 and R294 for the commands of the engines at the head of RQ. A direct tile command pins a group or finds every pinnable placement taken, which freezes the engine; it releases a pin; it invalidates a tile once no earlier step waits for it; it fills an absent tile and asks for its replicas. A prefetch enters a queue of 16 or is lost and counted; the cancels drop the requests of one id or all, and a flush abandons the faulting command and every later one of a frozen engine. `kstage` releases one filled buffer of a running loop and does nothing else; `kcancel` drops a channel's commands, whose written blocks enter WS, while what has been sent runs on. `wait.m` and `wait.k` end, and free the core, once their queues are as short as they ask. -/
def Obligations.CommandsAtHead : Prop :=
  ∀ (s : State) (c : Nat) (l : List Effect), let k := s.core c
    let e := k.eng
    let engGets (x : MEng) : Prop := coreTo (.effectPerform c) s c { k with rq := l, rqAt := none, eng := x }
    k.rqFrom ≤ s.cycle →
    (∀ pa fmt cls va sup, k.rq = .direct (.pin pa fmt cls va) sup :: l →
      ((∃ p ∈ e.pins, p.pa = pa ∧ p.fmt = fmt) → engGets e) ∧
      ((∀ p ∈ e.pins, ¬(p.pa = pa ∧ p.fmt = fmt)) →
        (e.pinRefused fmt = false → ∃ t, exec (.effectPerform c) s = .next t ∧ s.onlyCore t c ∧ (t.core c).rq = l ∧ (t.core c).eng.pins.map (fun p => (p.pa, p.fmt)) = e.pins.map (fun p => (p.pa, p.fmt)) ++ [(pa, fmt)]) ∧
        (e.pinRefused fmt = true → e.frozen = none → ∃ t f, exec (.effectPerform c) s = .next t ∧ s.onlyCore t c ∧ (t.core c).rq = l ∧ (t.core c).eng.pins = e.pins ∧
          (t.core c).eng.frozen = some f ∧ f.cause.code = 0x11 ∧ f.cause.addr = va ∧ f.delivered = false ∧ (t.core c).eng.mrp.getLsbD 15 = true))) ∧
    (∀ pa fmt va sup, k.rq = .direct (.unpin pa fmt va) sup :: l → engGets { e with pins := e.pins.filter fun p => !decide (p.pa = pa ∧ p.fmt = fmt) }) ∧
    (∀ pa fmt va sup, k.rq = .direct (.inv pa fmt va) sup :: l →
      (engineIdle s c → e.pins = [] → engGets { e with insts := e.insts.filter fun i => !decide (i.pa = pa ∧ i.fmt = fmt ∧ i.st ≠ .retiring) }) ∧
      ((∃ m ∈ e.q, m.st = .waiting ∧ ∃ a v ab h, m.op = .step a pa fmt v ab h) → exec (.effectPerform c) s = .next s)) ∧
    (∀ pa fmt cls n va sup, k.rq = .direct (.repl pa fmt cls n va) sup :: l → e.pins = [] → e.live pa fmt = [] → let others := e.repl.filter fun r => !decide (r.1 = pa ∧ r.2.1 = fmt)
      (e.place fmt e.arrays = none → exec (.effectPerform c) s = .next s) ∧
      ∀ f, e.place fmt e.arrays = some f → engGets { filled e pa fmt cls f with repl := others ++ [(pa, fmt, cls, n)] }) ∧
    (∀ table id prio dl sup, k.rq = .direct (.pref table id prio dl) sup :: l →
      (e.pfq.length < 16 → engGets { e with pfq := e.pfq ++ [⟨id, prio, if dl = 0 then none else some (s.cycle + 256 * dl), table, sup, none⟩] }) ∧
      (16 ≤ e.pfq.length → engGets { e with pfLost := e.pfLost + 1 })) ∧
    (∀ id sup, k.rq = .direct (.cancelId id) sup :: l → engGets { e with pfq := e.pfq.filter fun p => !decide (p.id = id) }) ∧
    (∀ sup, k.rq = .direct .cancelAll sup :: l → engGets { e with pfq := [] }) ∧
    (∀ sup, k.rq = .direct .flush sup :: l → (e.frozen = none → engGets e) ∧
      ∀ f, e.frozen = some f → ∃ t, exec (.effectPerform c) s = .next t ∧ s.onlyCore t c ∧ (t.core c).rq = l ∧ (t.core c).eng.frozen = none ∧ (t.core c).eng.mrp = 0 ∧
        (t.core c).eng.q = e.q.filter (fun m => decide (m.id < f.entry)) ∧ (t.core c).regs = k.regs ∧ (t.core c).vec = k.vec ∧
        ∀ v ∈ (t.core c).iss.vpend, v ∈ k.iss.vpend ∧ ∀ m ∈ e.q, f.entry ≤ m.id → m.op.vid? ≠ some v.id) ∧
    (∀ ch, k.rq = .kstage ch :: l → let x := k.ch.get {} ch
      (∀ m q n step, x.q = m :: q → m.op = .loop n step → x.running = true → x.released < x.filled →
        coreTo (.effectPerform c) s c { k with rq := l, rqAt := none, ch := k.ch.put {} ch { x with released := x.released + 1 } }) ∧
      ((x.q = [] ∨ x.running = false ∨ x.filled ≤ x.released ∨ ∃ m q, x.q = m :: q ∧ ∀ n step, m.op ≠ .loop n step) →
        ∃ t, exec (.effectPerform c) s = .next t ∧ s.onlyCore t c ∧ (t.core c).rq = l ∧ (t.core c).keeps { k with rq := l } ∧ ∀ n, (t.core c).ch.get {} n = k.ch.get {} n)) ∧
    (∀ mode ch n, k.rq = .kcancel mode ch :: l → n < 16 →
      let drops := n = ch ∧ (mode = 0 ∨ mode = 2 ∧ ∃ f, (k.ch.get {} ch).frozen = some f ∧ f.cause.loc % 16 = 0) ∨ mode = 1
      (drops → ∃ t, exec (.effectPerform c) s = .next t ∧ (t.core c).rq = l ∧ t.mem = s.mem ∧ (t.core c).scr = k.scr ∧ (t.core c).regs = k.regs ∧ (∀ d, d ≠ c → t.core d = s.core d) ∧
        ((t.core c).ch.get {} n).q = [] ∧ ((t.core c).ch.get {} n).running = false ∧ ((t.core c).ch.get {} n).frozen = none ∧
        (∀ o ∈ s.hub.net, o.put = true → o.sent ≠ 0 → o ∈ t.hub.net) ∧
        (∀ m ∈ (k.ch.get {} n).q, ∀ b, (b, false) ∈ m.wrote → ∀ sc, (t.core c).ws.cls sc &&& wakeHash b = wakeHash b)) ∧
      (mode = 2 → (k.ch.get {} ch).frozen = none → coreTo (.effectPerform c) s c { k with rq := l, rqAt := none })) ∧
    (∀ mask n st, k.rq = .waitM mask n :: l → k.iss.hold = .effect st → e.frozen = none → let ends := (mask % 2 = 1 → e.q.length ≤ n) ∧ (mask / 2 % 2 = 1 → e.pfq = [])
      (ends → coreTo (.effectPerform c) s c { k with rq := l, rqAt := none, iss := { k.iss with hold := .none, elig := s.cycle + 1 + st } }) ∧ (¬ends → exec (.effectPerform c) s = .next s)) ∧
    ∀ mask st, k.rq = .waitK mask :: l → k.iss.hold = .effect st → (∀ i < 16, (k.ch.get {} i).frozen = none) → let ends := ∀ i < 16, mask / 2 ^ i % 2 = 1 → (k.ch.get {} i).q = []
      (ends → coreTo (.effectPerform c) s c { k with rq := l, rqAt := none, iss := { k.iss with hold := .none, elig := s.cycle + 1 + st } }) ∧ (¬ends → exec (.effectPerform c) s = .next s)
/-! ### Transitions of the hub -/

namespace Sys2Proof.Claims
open Sys2Proof.Machine

/-- Queue `q` of partition `p` (R336). -/
def queueAt (s : State) (p q : Nat) (x : Part) (y : Queue) : Prop := s.hub.parts.get none p = some x ∧ x.queues[q]? = some y
/-- That queue is `y` after, and every other queue of the partition as before. -/
def queueNow (t : State) (p q : Nat) (x : Part) (y : Queue) : Prop := ∃ z, t.hub.parts.get none p = some z ∧ z.queues = x.queues.set q y
/-- A task's new state, with the machine's memory, cores and every other task as before. -/
def taskTo (i : Instr) (s : State) (id : Nat) (y : Task) : Prop := exec i s = .next { s with hub := { s.hub with tasks := s.hub.tasks.put none id (some y) } }
/-- Core `c` stops in the middle of its task: clamp is set and the hard stop is due, at once where the core is parked (R352); its stitches hear of it, above level 0 only at the return (R244, R311). -/
def asked (s t : State) (c : Nat) : Prop := ∀ j, (s.core c).job = some j → t.core c = { s.core c with
  job := some { j with due := some (match (s.core c).iss.hold with | .parked _ => s.cycle | _ => s.cycle + 4 * j.budget), issued := 0 }, iss := { (s.core c).iss with clamp := true }, eng := { (s.core c).eng with yieldReq := decide ((s.core c).sys.level = 0) } }
/-- A record of a control ring with op `op` stands next, its spare bytes zero, and no device line or window is in the way of the answer (R360). -/
def ctlAt (s : State) (p op : Nat) (x : Part) (a : Nat) (bs : List Byte) : Prop :=
  s.ctlNext p = some (x, a, bs) ∧ s.ctlOverrun x = false ∧ fieldAt bs 0 1 = op ∧ fieldAt bs 2 2 = 0 ∧ s.mem.owner = [] ∧ s.mem.fabric = []
/-- That record is answered with a status, and the done index rises (R360). -/
def ctlDone (i : Instr) (s : State) (p a status : Nat) (x : Part) (more : State → Prop) : Prop := ∃ t y, exec i s = .next t ∧
  (t.mem.byte (a + 1)).toNat = status ∧ t.hub.parts.get none p = some y ∧ y.ctlDone = (x.ctlDone + 1) % 2 ^ 64 ∧ more t
/-- The open context of the partition that a record names (R361). -/
def ctlCtxAt (s : State) (p c : Nat) (y : Ctx) (bs : List Byte) : Prop := fieldAt bs 4 2 = c ∧ s.hub.ctxs.get none c = some y ∧ y.part = p ∧ y.closed = false
/-- A partition leaves `running` for the capture (R372): its cores issue nothing more, and its timers stop. -/
def captures (i : Instr) (s : State) (p trigger : Nat) (x : Part) : Prop := ∃ t y, exec i s = .next t ∧ t.hub.parts.get none p = some y ∧ y.st = .capturing ∧ y.trigger = trigger ∧ y.frozenAt = s.cycle ∧
  (∀ q ∈ y.queues, q.timer = none) ∧ t.mem = s.mem ∧
  ∀ c, t.core c = if c < 256 ∧ x.cfg.clusters.getLsbD (c / 8) = true then { s.core c with job := (s.core c).job.map fun j => { j with phase := .frozen } } else s.core c
/-- No cached translation of context `c` is left from `s` to `t`, every walk for it is cancelled, and the cores keep every other one (R318, R361). -/
def untranslated (s t : State) (c : Nat) : Prop :=
  (∀ d, ∀ z ∈ (t.core d).tlb ++ (t.core d).ptlb, z.ctx ≠ c) ∧ (∀ d, ∀ z ∈ t.hub.stlb.get [] d, z.ctx ≠ c) ∧ (∀ w ∈ t.hub.walks, w.ctx = c → w.cancelled = true) ∧
  ∀ d, ∀ z ∈ (s.core d).tlb, z.ctx ≠ c → z ∈ (t.core d).tlb
/-- The byte address of offset `o` of a partition's capture ring (R373). -/
def ringByte (x : Part) (o : Nat) : Nat := x.capFrames.getD (o / 65536) 0 * 65536 + o % 65536
/-- Core `c`'s entry of a dump: without a task its number, 0xFFFF and zeros; with one its context, trap level, next bundle, region start, ckcfg, mrp and lsave at their offsets (R373, R398). -/
def dumpEntry (s : State) (c : Nat) (e : List Byte) : Prop :=
  let k := s.core c
  fieldAt e 0 2 = c % 2 ^ 16 ∧ (k.job = none → fieldAt e 2 2 = 0xFFFF ∧ ∀ i, 4 ≤ i → i < 256 → e.getD i 0 = 0) ∧
  ∀ j, k.job = some j → fieldAt e 2 2 = j.ctx % 2 ^ 16 ∧ fieldAt e 4 4 = k.sys.level % 4 + (if k.sys.level ≠ 0 ∨ k.sys.svctx = true then 4 else 0) + (if k.sys.svctx = true then 8 else 0) ∧ fieldAt e 8 8 = k.iss.pc.toNat % 2 ^ 64 ∧ fieldAt e 16 8 = k.iss.regionStart.toNat % 2 ^ 64 ∧
    fieldAt e 72 8 = k.regs.ckcfg.toNat ∧ fieldAt e 80 8 = k.eng.mrp.toNat ∧ fieldAt e 224 8 = k.regs.lsave.toNat
/-- The dump record of a frozen partition with `n` cores (R373, R398). -/
def dumpOf (s : State) (p : Nat) (x : Part) (n : Nat) (D : List Byte) : Prop :=
  D.length = 4 + 64 + 256 * n + 1024 ∧ fieldAt D 0 2 = 2 ∧ fieldAt D 2 2 = min D.length 0xFFFF ∧ fieldAt D 4 1 = x.trigger % 256 ∧ fieldAt D 5 1 = p % 256 ∧ fieldAt D 6 2 = 0 ∧
  fieldAt D 8 8 = x.frozenUpd % 2 ^ 64 ∧ fieldAt D 16 8 = x.frozenAt / 4000 % 2 ^ 64 ∧ fieldAt D 24 4 = n ∧
  ∀ i, i < n → ∀ c, x.cores[i]? = some c → dumpEntry s c ((D.drop (68 + 256 * i)).take 256)
/-- A link's state by its training's result: a CXL port needs ×4 and 32 GT/s to be in service and ×16 and 64 GT/s to be whole, and any other link reaches its target or fails (R403). -/
def trained (l : Nat) : LinkResult → LinkState
  | .full => .up
  | .fail => .down
  | .port w g => if 14 ≤ l ∧ l < 18 ∧ 4 ≤ w ∧ 32 ≤ g then (if 16 ≤ w ∧ 64 ≤ g then .up else .degraded) else .down
/-- The counts of a record's cores at a counter, since the last update (R365, R366). -/
def coreCounts (s : State) (r i : Nat) : Nat := (((s.cores.filter fun x => s.recOf x.1 == r).flatMap fun x => x.2.count.filter fun y => y.1 == i).map (·.2)).sum
/-- The estimated draw of a cluster over the last microsecond in units of 2^-20 W: the metering coefficients give mJ for 2^20 events, and 1 mJ in a microsecond is 1,000 W (R367, R405). -/
def drawn (s : State) (cl : Nat) : Nat := 1000 * (((s.cores.filter fun x => x.1 / 8 == cl).flatMap fun x => x.2.recent).map fun y => y.2 * Config.energyCoeff y.1).sum
/-- The partition is in none of the states that a shutdown waits for (R407). -/
def settled (o : Option Part) : Prop := ∀ y, o = some y → y.st ≠ .running ∧ y.st ≠ .capturing ∧ y.st ≠ .resetting
/-- A boot record's change is the whole effect. -/
def bootTo (i : Instr) (s : State) (b : Boot) (l : List Out) : Prop := exec i s = .next { s with hub := { s.hub with boot := b }, outbox := s.outbox ++ l }

end Sys2Proof.Claims

open Sys2Proof Sys2Proof.Machine Sys2Proof.Claims

/-- R334 to R338 and R341, R346, R355, R356: a doorbell is taken only from the endpoint bound to the queue and over a port in service; in a running queue it moves wr, or the queue goes to error with the first failing code; a queue with nothing to read does nothing; a record whose version is wrong completes with status 4 and detail 1; an admitted launch holds its frames and runs; a recovered queue runs again; a sever cut with no gang running stops its launch; an ended launch is gone. The port that carries a queue pair is the model's choice (log entry 55). -/
def Obligations.QueueTransitions : Prop :=
  ∀ (s : State) (p q : Nat) (x : Part) (y : Queue), queueAt s p q x y →
    (∀ qp w, s.hub.boot.links.get .down (18 + qp % 8) = .down → exec (.doorbell p q qp w) s = .next s) ∧
    (∀ qp w, s.hub.boot.links.get .down (18 + qp % 8) ≠ .down →
      (qp ≠ x.cfg.qpFirst + y.cfg.ep → sends (.doorbell p q qp w) s (.rmaError qp)) ∧
      (qp = x.cfg.qpFirst + y.cfg.ep →
        (y.state ≠ 1 ∨ x.st = .capturing ∨ x.st = .resetting → sends (.doorbell p q qp w) s (.rmaDone qp)) ∧
        (y.state = 1 → x.st = .running →
          let fits := s.hub.ends p y.cfg.base (256 * y.cfg.size) = true ∧ s.hub.ends p y.cfg.cbase (32 * y.cfg.csize) = true
          let shaped := ringSize y.cfg.size = true ∧ y.cfg.base % 256 = 0 ∧ ringSize y.cfg.csize = true ∧ y.cfg.cbase % 32 = 0
          let ahead := (w - y.rd).toNat
          let fails (code : Nat) : Prop := ∃ t z, exec (.doorbell p q qp w) s = .next t ∧ queueNow t p q x z ∧ z.state = 2 ∧ z.err = code ∧ z.rd = y.rd ∧ z.wr = y.wr
          (¬fits → fails 1) ∧ (fits → ¬shaped → fails 2) ∧ (fits → shaped → y.cfg.size < ahead → fails 3) ∧
          (fits → shaped → ahead ≤ y.cfg.size → 2 ^ 31 ≤ (w - y.wr).toNat → fails 4) ∧
          (fits → shaped → ahead ≤ y.cfg.size → (w - y.wr).toNat < 2 ^ 31 → ∃ t, exec (.doorbell p q qp w) s = .next t ∧ queueNow t p q x { y with wr := w } ∧
            t.outbox = s.outbox ++ [.rmaDone qp] ∧ t.mem = s.mem ∧ t.cores = s.cores)))) ∧
    (y.wr = y.rd ∨ y.state ≠ 1 ∨ x.st ≠ .running → exec (.recordFetch p q) s = .next s) ∧
    (y.wr ≠ y.rd → y.state = 1 → x.st = .running → s.hub.launches = [] →
      let bs := s.authBytes (y.cfg.base + 256 * (y.rd.toNat % y.cfg.size)) 256
      (fieldAt bs 0 1 = 0 → fieldAt bs 1 1 ≠ 1 → y.cfg.cbase % 32 = 0 → s.mem.fabric = [] → s.mem.owner = [] → ∃ t z, exec (.recordFetch p q) s = .next t ∧ queueNow t p q x z ∧ z.rd = y.rd + 1 ∧ z.cwr = y.cwr + 1 ∧
        let at_ := y.cfg.cbase + 32 * (y.cwr.toNat % y.cfg.csize)
        (t.mem.byte (at_ + 12)).toNat = 4 ∧ (t.mem.byte (at_ + 13)).toNat = 1) ∧
      (fieldAt bs 0 1 = 0 → firstFail (s.launchChecks p x bs) = none →
        ((List.range (fieldAt bs 2 1)).map (stageAt bs)).foldl (fun n e => n + e.frames) 0 ≤ x.pool.length → ∃ t l, exec (.recordFetch p q) s = .next t ∧
          t.hub.launches.get none (s.hub.nextLaunch + 1) = some l ∧ l.part = p ∧ l.queue = q ∧ l.seq = y.rd.toNat ∧ l.ctx = fieldAt bs 4 2 ∧ l.st = .running ∧
          l.stages.length = fieldAt bs 2 1 ∧ l.frames ++ (match t.hub.parts.get none p with | some z => z.pool | none => []) = x.pool ∧ t.mem = s.mem ∧ t.cores = s.cores)) ∧
    (∀ idx, y.state ≠ 1 → s.hub.queueErr p { y with rd := idx, wr := idx } idx = 0 →
      ∃ t, exec (.queueRecover p q idx) s = .next t ∧ queueNow t p q x { y with rd := idx, wr := idx, state := 1, err := 0 } ∧ t.mem = s.mem ∧ t.cores = s.cores ∧ t.outbox = s.outbox) ∧
    (∀ idx, y.state = 1 → exec (.queueRecover p q idx) s = .next s) ∧
    ∀ l z, s.hub.launches.get none l = some z → z.part = p → z.queue = q → (∀ w ∈ s.hub.tasksOf l, w.2.onCores = false) →
      (z.st = .cutting → z.trace = false → ∃ t w, exec (.cutComplete l) s = .next t ∧ t.hub.launches.get none l = some w ∧ w.st = .stopped ∧ w.stopRec = none ∧ w.stages = z.stages ∧ w.frames = z.frames) ∧
      (z.st ≠ .cutting → exec (.cutComplete l) s = .next s) ∧
      (x.st = .running → (∀ o ∈ s.hub.net, o.launch ≠ l) →
        (∀ n, z.st = .ending n → ∃ t, exec (.launchEnd l) s = .next t ∧ t.hub.launches.get none l = none ∧ (∀ f ∈ z.frames, t.hub.frameOwner.get 0 f = 0 ∧ (f, p) ∈ t.hub.scrub)) ∧
        (z.st = .cutting → exec (.launchEnd l) s = .next s))

/-- R343 to R352 for the distributor: the first ready task with room takes the lowest free cores of its cluster in rank order; a gated cluster wakes after its time and an idle one loses its L1s; a core starts its task with the registers of R344; a task whose cores are done ends; a task of a running launch that waits 100 ms rises one level, and one of a stopped launch does not; a gang that must go, or whose slice is over, is asked to stop with clamp set. -/
def Obligations.DistributorTransitions : Prop :=
  (∀ s : State, (s.readyOrder = [] → exec .placement s = .next s) ∧
    ∀ id x l e r cl, s.readyOrder = (id, x) :: r → s.roomOf x = some cl → s.hub.tasks.get none id = some x → x.saved = [] → x.stage = 0 → s.hub.launches.get none x.launch = some l → l.stages[0]? = some e →
      ∃ t y, exec .placement s = .next t ∧ t.mem = s.mem ∧ t.hub.tasks.get none id = some y ∧ y.st = .running ∧ y.cores = (s.freeCores cl).take e.cfg.gang ∧ y.index = e.started ∧ y.sliceFrom = s.cycle ∧
        ∀ i c, y.cores[i]? = some c → ∃ j n, (t.core c).job = some j ∧ j.ctx = l.ctx ∧ j.task = id ∧ j.rank = i ∧ j.vregs = e.cfg.vregs ∧ j.accs = e.cfg.accs ∧ j.scratch = e.cfg.scratch ∧ j.phase = .starting n ∧
          s.cycle + (if (s.core c).lastCtx = some l.ctx then 0 else 1024) ≤ n) ∧
  (∀ (s : State) (cl : Nat), let x := s.hub.clusters.get {} cl
    (∀ n, x.waking = some n → (s.cycle < n → exec (.clusterWake cl) s = .next s) ∧
      (n ≤ s.cycle → ∃ t, exec (.clusterWake cl) s = .next t ∧ t.hub.clusters.get {} cl = { x with awake := true, waking := none, busyAt := s.cycle } ∧ t.mem = s.mem ∧ t.cores = s.cores)) ∧
    (x.waking = none → exec (.clusterWake cl) s = .next s) ∧
    (x.awake = false ∨ s.cycle < x.busyAt + 200000 ∨ (∃ k < 8, (s.core (8 * cl + k)).job ≠ none) → exec (.clusterGate cl) s = .next s) ∧
    (x.awake = true → x.busyAt + 200000 ≤ s.cycle → (∀ k < 8, (s.core (8 * cl + k)).job = none) → ∃ t, exec (.clusterGate cl) s = .next t ∧ (t.hub.clusters.get {} cl).awake = false ∧
      ∀ k < 8, (t.core (8 * cl + k)).l1 = [] ∧ (t.core (8 * cl + k)).eng.insts = [] ∧ (t.core (8 * cl + k)).eng.banks = [])) ∧
  (∀ (s : State) (c n : Nat) (j : Job) (x : Task) (l : Launch) (e : Stage), (s.core c).job = some j → j.phase = .starting n → s.hub.tasks.get none j.task = some x → x.saved = [] → x.stage = 0 → x.outSlot = none →
    s.hub.launches.get none x.launch = some l → l.stages[0]? = some e → l.keep = true →
    (s.cycle < n → exec (.coreStart c) s = .next s) ∧
    (n ≤ s.cycle → ∃ t, exec (.coreStart c) s = .next t ∧ (t.core c).job = some { j with phase := .running, issued := 0 } ∧ (t.core c).iss.pc = BitVec.ofNat 72 e.cfg.kernel ∧ (t.core c).sys.level = 0 ∧
      let r := (t.core c).regs
      r.ra 0 = l.args ∧ (∀ i, i ≠ 0 → r.ra i = 0) ∧ r.rs 1 = BitVec.ofNat 64 x.index ∧ r.rs 2 = 0 ∧ r.rs 3 = BitVec.ofNat 64 j.rank ∧ r.rs 4 = BitVec.ofNat 64 e.cfg.gang ∧ (∀ i, 4 < i → r.rs i = 0) ∧
      (t.core c).sh = r ∧ ((s.core c).lastCtx ≠ some j.ctx → l.sched = [] → (t.core c).vec = [] ∧ (t.core c).acc = [] ∧ (t.core c).scr = []))) ∧
  (∀ (s : State) (id : Nat) (x : Task) (l : Launch) (e : Stage), s.hub.tasks.get none id = some x → s.hub.launches.get none x.launch = some l → x.stage = 0 → l.stages[0]? = some e → x.st = .running →
    ((∃ c ∈ x.cores, ∀ j, (s.core c).job = some j → j.phase ≠ .done) → exec (.taskEnd id) s = .next s) ∧
    (x.cores ≠ [] → (∀ c ∈ x.cores, ∃ j, (s.core c).job = some j ∧ j.phase = .done) → ∃ t m f, exec (.taskEnd id) s = .next t ∧ (∀ c ∈ x.cores, (t.core c).job = none) ∧ t.hub.launches.get none x.launch = some m ∧ m.stages[0]? = some f ∧ f.ended = e.ended + 1)) ∧
  (∀ (s : State) (id : Nat) (x : Task), s.hub.tasks.get none id = some x →
    (∀ l, s.hub.launches.get none x.launch = some l → l.st = .running → x.st = .ready → x.aged < 3 → x.since + 400000000 * (x.aged + 1) ≤ s.cycle → taskTo (.priorityAging id) s id { x with aged := x.aged + 1 }) ∧
    (x.st ≠ .ready ∨ 3 ≤ x.aged ∨ s.cycle < x.since + 400000000 * (x.aged + 1) ∨ (∃ l, s.hub.launches.get none x.launch = some l ∧ l.st = .stopped) → exec (.priorityAging id) s = .next s) ∧
    (s.mustGo id x = false → exec (.preemptGang id) s = .next s) ∧
    (∀ l, x.cores.Nodup → s.hub.launches.get none x.launch = some l → (∀ c ∈ x.cores, (s.core c).job ≠ none) →
      let stops (i : Instr) : Prop := ∃ t y, exec i s = .next t ∧ t.hub.tasks.get none id = some y ∧ y = { x with st := .stopping } ∧ (∀ c ∈ x.cores, asked s t c) ∧ t.mem = s.mem ∧ ∀ d, d ∉ x.cores → t.core d = s.core d
      (s.mustGo id x = true → stops (.preemptGang id)) ∧
      (∀ p, s.hub.parts.get none l.part = some p → x.st = .running → s.started x = true →
        (s.cycle < x.sliceFrom + 4000 * p.cfg.slice ∨ s.starved = [] → exec (.sliceEnd id) s = .next s) ∧
        (x.sliceFrom + 4000 * p.cfg.slice ≤ s.cycle → (∃ y ∈ s.starved, y.2.2.part = l.part ∧ y.2.2.ctx ≠ l.ctx ∧ x.prio l ≤ y.2.1.prio y.2.2 ∧ s.relieved y.2.2.part (y.2.2.gang y.2.1.stage) = false) →
          stops (.sliceEnd id)))))

/-- R142, R307, R313 and R352 for a gang that stops: at its bound a core at level 0 rolls back and halts; one that is still above level 0 8,192 cycles later loses its context; once its cores have stopped a gang is saved, its cores are free and its task is ready again; a core that stopped at a pre-emption point takes its loop counter, less one, and its stage predicates from lsave when it resumes, and b8 to b15 keep their values. -/
def Obligations.GangTransitions : Prop :=
  ∀ (s : State) (c : Nat) (j : Job), (s.core c).job = some j → let k := s.core c
    (j.due = none → exec (.hardStop c) s = .next s ∧ exec (.stuckHandlerKill c) s = .next s) ∧
    (∀ d, j.due = some d → j.phase = .running →
      (s.cycle < d ∧ (∀ n, k.iss.hold ≠ .parked n) ∨ k.sys.level ≠ 0 → exec (.hardStop c) s = .next s) ∧
      (∀ n r, k.sys.level = 0 → k.iss.trap = none → k.iss.hold = .parked n → s.parkedReg c = some r → ∃ t, exec (.hardStop c) s = .next t ∧ s.onlyCore t c ∧
        (t.core c).job = some { j with phase := .halted } ∧ (t.core c).regs = k.regs.apply (.s r 5) ∧ (t.core c).vec = k.vec ∧ (t.core c).scr = k.scr ∧ (t.core c).acc = k.acc) ∧
      (d ≤ s.cycle → k.sys.level = 0 → k.iss.trap = none → k.iss.ckpt = false → (∀ n, k.iss.hold ≠ .parked n) → ∃ t, exec (.hardStop c) s = .next t ∧ s.onlyCore t c ∧
        (t.core c).job = some { j with phase := .halted } ∧ (t.core c).regs = k.sh ∧ (t.core c).wb = [] ∧ (t.core c).iss.pc = k.iss.regionStart ∧ (t.core c).vec = restoreLog k.vec k.iss.wlog ∧
        (t.core c).iss.clamp = false ∧ (t.core c).rq = k.rq ∧ (t.core c).scr = k.scr ∧ (t.core c).acc = k.acc) ∧
      (k.sys.level = 0 ∨ s.cycle < d + 8192 → exec (.stuckHandlerKill c) s = .next s) ∧
      (k.sys.level ≠ 0 → d + 8192 ≤ s.cycle → ∃ t, exec (.stuckHandlerKill c) s = .next t ∧ ∀ e i, (s.core e).job = some i → i.ctx = j.ctx → (t.core e).job = none)) ∧
    (∀ id x l, s.hub.tasks.get none id = some x → s.hub.launches.get none x.launch = some l → x.cores = [c] → x.st = .stopping → x.saved = [] →
      (s.quiet c = false → exec (.gangStateSave id) s = .next s) ∧
      (s.quiet c = true → j.phase ≠ .done →
        (x.saveAt = none → taskTo (.gangStateSave id) s id { x with saveAt := some (s.cycle + (4096 + 512 * j.vregs + 8192 * j.accs + j.scratch + 255) / 256) }) ∧
        ∀ d, x.saveAt = some d → (s.cycle < d → exec (.gangStateSave id) s = .next s) ∧
          (d ≤ s.cycle → ∃ t y v, exec (.gangStateSave id) s = .next t ∧ (t.core c).job = none ∧ t.hub.tasks.get none id = some y ∧ y.st = .ready ∧ y.cores = [] ∧ y.saved = [v] ∧ v.flat = c ∧ v.core.regs = k.regs ∧ v.core.iss = k.iss ∧
            (∀ n < j.vregs, v.core.vec.get 0 n = k.vec.get 0 n) ∧ (∀ n < 16 * j.accs, v.core.acc.get 0 n = k.acc.get 0 n) ∧ ∀ n < j.scratch, v.core.scr.get 0 n = k.scr.get 0 n))) ∧
    (s.resumes c = false → exec (.forcedStopResume c) s = .next s) ∧
    (s.resumes c = true → k.regs.lsave.getLsbD 63 = true → ∃ t, exec (.forcedStopResume c) s = .next t ∧ s.onlyCore t c ∧ (t.core c).job = some { j with phase := .running } ∧
      let v := k.regs.lsave.toNat
      let r := (t.core c).regs
      r.rlc (v / 2 ^ 36 % 4) = ⟨BitVec.ofNat 4 (v / 2 ^ 32), BitVec.ofNat 32 v - 1⟩ ∧ (∀ n < 4, n ≠ v / 2 ^ 36 % 4 → r.rlc n = k.regs.rlc n) ∧
      r.rg 8 = true ∧ (∀ i, 9 ≤ i → i ≤ 15 → r.rg i = false) ∧ (∀ i < 8, r.rg i = k.regs.rg i) ∧ r.lsave.getLsbD 63 = false ∧ r.s = k.regs.s ∧ r.a = k.regs.a ∧ r.b = k.regs.b)

/-- R358, R360 and R361 for the management of partitions: a record within the limits makes a halted partition with its frames and its supervisor context, and any other changes nothing; each control-ring op answers the next record with status 0 and its effect where its operands are right, else with the status of R361, and moves the done index; an overrun stops the ring. Frames taken leave the pool, and the list that the record names gets their addresses; a new root removes every cached translation of its context and cancels its walks. Which frames a partition gets is log entry 73, the status of an unknown op or a nonzero spare field log entry 74, and the reports to the management controller log entry 77. -/
def Obligations.ControlRing : Prop :=
  (∀ (s : State) (p : Nat) (r : PartRec),
    (s.hub.recordOk p r = false → s.hub.reringOk p r = false → sends (.partitionCreate p r) s (.mctl 4 [p, 0, 0])) ∧
    (s.hub.reringOk p r = true → r.ring.length = 8 → ∃ t x y, exec (.partitionCreate p r) s = .next t ∧ t.outbox = s.outbox ++ [.mctl 10 [p]] ∧ t.mem = s.mem ∧ t.cores = s.cores ∧
      s.hub.parts.get none p = some x ∧ t.hub.parts.get none p = some y ∧ y = { x with cfg := r } ∧ ∀ i < 8, ∀ e < 64,
        let bit := (r.ring.getD i 0).getLsbD e
        let old := s.hub.ring.get none (64 * i + e)
        let new := t.hub.ring.get none (64 * i + e)
        (bit = true → new = some p) ∧ (bit = false → new ≠ some p ∧ (old ≠ some p → new = old))) ∧
    ∀ c, s.hub.reringOk p r = false → s.hub.recordOk p r = true → s.hub.newCtx = some c → s.mem.owner = [] → s.mem.fabric = [] → ∃ t x y, exec (.partitionCreate p r) s = .next t ∧ evictsThen s t (.mctl 4 [p, c, 1]) ∧ t.cores = s.cores ∧
      (∃ f l, x.capFrames = f :: l ∧ wroteAt s t (65536 * f) [64, 0, 0, 0, 0, 0, 0, 0]) ∧
      t.hub.parts.get none p = some x ∧ x.cfg = r ∧ x.st = .halted ∧ x.capFrames.length = r.capbuf ∧ (∀ f ∈ s.hub.framesFor r, t.hub.frameOwner.get 0 f = p + 1) ∧
      t.hub.ctxs.get none c = some y ∧ y.part = p ∧ y.sup = true ∧ y.root = r.supRoot) ∧
  ∀ (s : State) (p : Nat),
    (s.ctlNext p = none → ∀ i ∈ [Instr.createContext p, .setRoot p, .bindEndpoint p, .makeGroup p, .takeFrames p, .freeFrames p], exec i s = .next s) ∧
    (∀ x a bs, s.ctlNext p = some (x, a, bs) → s.ctlOverrun x = true →
      ∀ i ∈ [Instr.createContext p, .setRoot p, .bindEndpoint p, .makeGroup p, .takeFrames p, .freeFrames p], ∃ t, exec i s = .next t ∧ t.hub.parts.get none p = some { x with ctlStop := true } ∧ t.mem = s.mem) ∧
    (∀ x a bs op, ctlAt s p op x a bs → op = 0 ∨ 6 < op → ctlDone (.createContext p) s p a 1 x fun t => t.hub.ctxs = s.hub.ctxs) ∧
    (∀ row ∈ [(1, Instr.createContext p), (2, .setRoot p), (3, .bindEndpoint p), (4, .makeGroup p), (5, .takeFrames p), (6, .freeFrames p)], ∀ x a bs,
      s.ctlNext p = some (x, a, bs) → s.ctlOverrun x = false → fieldAt bs 0 1 = row.1 → s.mem.owner = [] → s.mem.fabric = [] →
      fieldAt bs 2 2 ≠ 0 ∨ (row.1 ≠ 1 ∧ ∀ y, ¬ctlCtxAt s p (fieldAt bs 4 2) y bs) → ctlDone row.2 s p a 1 x fun t => t.hub.ctxs = s.hub.ctxs ∧ t.hub.frameOwner = s.hub.frameOwner) ∧
    (∀ x a bs, ctlAt s p 1 x a bs → let root := fieldAt bs 8 8
      (root % 262144 ≠ 0 ∨ s.hub.ownsFrames p root 262144 = false → ctlDone (.createContext p) s p a 1 x fun t => t.hub.ctxs = s.hub.ctxs) ∧
      (root % 262144 = 0 → s.hub.ownsFrames p root 262144 = true → fieldAt bs 16 8 % 2097152 = 0 → fieldAt bs 24 2 = 0 →
        (x.cfg.ctxmax ≤ (s.hub.ctxsOf p).length → ctlDone (.createContext p) s p a 2 x fun t => t.hub.ctxs = s.hub.ctxs) ∧
        ∀ c, (s.hub.ctxsOf p).length < x.cfg.ctxmax → s.hub.newCtx = some c → ctlDone (.createContext p) s p a 0 x fun t => ∃ y, t.hub.ctxs.get none c = some y ∧ y.part = p ∧ y.sup = false ∧ y.root = root ∧
          ∀ d, d ≠ c → t.hub.ctxs.get none d = s.hub.ctxs.get none d)) ∧
    (∀ x a bs c y, ctlCtxAt s p c y bs →
      (ctlAt s p 2 x a bs → let root := fieldAt bs 8 8
        (root % 262144 ≠ 0 ∨ s.hub.ownsFrames p root 262144 = false → ctlDone (.setRoot p) s p a 1 x fun t => t.hub.ctxs = s.hub.ctxs) ∧
        (root % 262144 = 0 → s.hub.ownsFrames p root 262144 = true →
          (s.hub.ctxLaunches c = true → ctlDone (.setRoot p) s p a 3 x fun t => t.hub.ctxs = s.hub.ctxs) ∧
          (s.hub.ctxLaunches c = false → ctlDone (.setRoot p) s p a 0 x fun t => t.hub.ctxs.get none c = some { y with root := root } ∧ untranslated s t c))) ∧
      (ctlAt s p 3 x a bs → let e := fieldAt bs 8 2
        let qp := fieldAt bs 10 2
        (4096 ≤ e ∨ qp < x.cfg.qpFirst ∨ x.cfg.qpFirst + x.cfg.qpCount ≤ qp → ctlDone (.bindEndpoint p) s p a 1 x fun t => t.hub.ctxs = s.hub.ctxs) ∧
        (e < 4096 → x.cfg.qpFirst ≤ qp → qp < x.cfg.qpFirst + x.cfg.qpCount → ctlDone (.bindEndpoint p) s p a 0 x fun t =>
          t.hub.ctxs.get none c = some { y with endpoints := y.endpoints.put none e (some ⟨qp, fieldAt bs 16 8, fieldAt bs 24 8⟩) })) ∧
      (ctlAt s p 4 x a bs → let g := fieldAt bs 8 2
        let n := fieldAt bs 10 2
        let rank := fieldAt bs 12 2
        (4096 ≤ g ∨ n = 0 ∨ n ≤ rank ∨ s.hubRead c (BitVec.ofNat 72 (fieldAt bs 16 8)) (2 * n) = none → ctlDone (.makeGroup p) s p a 1 x fun t => t.hub.ctxs = s.hub.ctxs) ∧
        ∀ l, g < 4096 → n ≠ 0 → rank < n → s.hubRead c (BitVec.ofNat 72 (fieldAt bs 16 8)) (2 * n) = some l → (∀ i < n, fieldAt l (2 * i) 2 < 4096) → ctlDone (.makeGroup p) s p a 0 x fun t =>
          t.hub.ctxs.get none c = some { y with groups := y.groups.put none g (some ⟨rank, (List.range n).map fun i => fieldAt l (2 * i) 2⟩) }) ∧
      (ctlAt s p 5 x a bs → let n := fieldAt bs 8 8
        (x.pool.length < n → ctlDone (.takeFrames p) s p a 2 x fun t => ∃ z, t.hub.parts.get none p = some z ∧ z.pool = x.pool) ∧
        (n = 0 → ctlDone (.takeFrames p) s p a 0 x fun t => ∃ z, t.hub.parts.get none p = some z ∧ z.pool = x.pool) ∧
        (n ≠ 0 → n ≤ x.pool.length → let va : W72 := BitVec.ofNat 72 (fieldAt bs 16 8)
          (∀ e, s.translate [] c .write true va (8 * n) (pageFuel (8 * n)) = .error e → ctlDone (.takeFrames p) s p a 1 x fun t => ∃ z, t.hub.parts.get none p = some z ∧ z.pool = x.pool) ∧
          ∀ segs, s.translate [] c .write true va (8 * n) (pageFuel (8 * n)) = .ok segs → ctlDone (.takeFrames p) s p a 0 x fun t => ∃ z, t.hub.parts.get none p = some z ∧ z.pool = x.pool.drop n ∧
            t.hub.frameOwner = s.hub.frameOwner ∧
            let beacon := x.cfg.ctlbase + 4096 + 16
            let list := (List.range (8 * n)).map fun i => ((BitVec.ofNat 64 (65536 * x.pool.getD (i / 8) 0)).extractLsb' (8 * (i % 8)) 8 : Byte)
            ∀ b, b ≠ a + 1 → (b < beacon ∨ beacon + 8 ≤ b) → t.mem.byte b = lastOf ((addrsOf segs).zip list) b (s.mem.byte b))) ∧
      (ctlAt s p 6 x a bs → let n := fieldAt bs 8 8
        (n = 0 → ctlDone (.freeFrames p) s p a 0 x fun t => t.hub.frameOwner = s.hub.frameOwner) ∧
        ∀ l f, n = 1 → s.hubRead c (BitVec.ofNat 72 (fieldAt bs 16 8)) 8 = some l → fieldAt l 0 8 = 65536 * f →
          (s.hub.takenFrame p x f = false → ctlDone (.freeFrames p) s p a 1 x fun t => t.hub.frameOwner = s.hub.frameOwner) ∧
          (s.hub.takenFrame p x f = true → s.hub.ctxLaunches c = true → y.uses f = true → ctlDone (.freeFrames p) s p a 3 x fun t => t.hub.frameOwner = s.hub.frameOwner) ∧
          (s.hub.takenFrame p x f = true → s.hub.ctxLaunches c = false → ctlDone (.freeFrames p) s p a 0 x fun t => t.hub.frameOwner.get 0 f = 0 ∧ (f, p) ∈ t.hub.scrub)))

/-- R366 to R368 and R370 to R373: an expired watchdog or the operator freezes a running partition; the dump then stands in its capture ring, from offset 64 on where it does not fit before the end, with the head written after it, its unperformed work is abandoned and the drain of at most 10 ms begins; a drain that times out counts every access that is still owed as a failure of its launch; the reset takes 1,024 cycles and leaves the partition halted with its queues disabled, its launches completed with status 6 and its cores free, and it ends a shutdown when it is the last; enabling a halted partition makes it run, with a stopped control ring's done index at its write index. An update adds every count to the store, those of the cores too; the energy of a second is scaled once; a record is read only in an operator session. The time of the dump is log entry 124, what the freeze abandons log entry 76, the record that a core's counts belong to log entry 75, and the reports to the management controller log entry 77. -/
def Obligations.CaptureAndMeters : Prop :=
  (∀ (s : State) (p : Nat) (x : Part), s.hub.parts.get none p = some x →
    (x.st = .running → captures (.operatorCaptureRequest p) s p 0xFF x ∧ ∀ q y, x.queues[q]? = some y →
      (∀ n l z, y.timer = some n → s.hub.oldest p q = some (l, z) → z.wdog ≠ 0 → n + 4000 * z.wdog ≤ s.cycle → captures (.watchdogExpiry p q) s p q x) ∧
      (y.timer = none ∨ s.hub.oldest p q = none ∨ (∃ n l z, y.timer = some n ∧ s.hub.oldest p q = some (l, z) ∧ (z.wdog = 0 ∨ s.cycle < n + 4000 * z.wdog)) → exec (.watchdogExpiry p q) s = .next s)) ∧
    (x.st ≠ .running → exec (.operatorCaptureRequest p) s = .next s) ∧
    (x.st = .capturing → let n := 8 * popcount 32 x.cfg.clusters.toNat
      let len := 4 + 64 + 256 * n + 1024
      let space := 65536 * x.capFrames.length - 64
      (x.frozenQueues.length = 16 → s.cycle < x.frozenAt + 96 * ((x.capOff + len - 1) / 64 + 1 - x.capOff / 64) → exec (.captureDumpComplete p) s = .next s) ∧
      (x.frozenAt + 96 * ((x.capOff + len - 1) / 64 + 1 - x.capOff / 64) ≤ s.cycle → x.frozenQueues.length = 16 → x.capFrames ≠ [] → x.capFrames.Nodup → 64 ≤ x.capOff → s.mem.owner = [] → s.mem.fabric = [] →
        let off := if space < len ∨ space + 64 < x.capOff + len then 64 else x.capOff
        let next := if space < len then 64 else off + len
        ∃ t D, exec (.captureDumpComplete p) s = .next t ∧ dumpOf s p x n D ∧ (∀ i, i < len → i < space → t.mem.byte (ringByte x (off + i)) = D.getD i 0) ∧
          lineWord t (ringByte x 0 / 128) 0 = BitVec.ofNat 64 (next % 2 ^ 32 + 2 ^ 32 * ((x.capCount + 1) % 2 ^ 32)) ∧
          t.hub.parts.get none p = some { x with st := .resetting, drainBy := some (s.cycle + 40000000), capOff := next, capCount := x.capCount + 1 } ∧
          (space < len → .mctl 1 [p] ∈ t.outbox) ∧
          ∀ c, c < 256 → x.cfg.clusters.getLsbD (c / 8) = true → (t.core c).wb = [] ∧ (t.core c).rq.length ≤ 1 ∧ (t.core c).eng.q = [] ∧ (t.core c).eng.frozen = none ∧ ∀ i < 16, ((t.core c).ch.get {} i).q = [])) ∧
    (x.st ≠ .capturing → exec (.captureDumpComplete p) s = .next s) ∧
    (∀ n, x.st = .resetting → x.drainBy = some n →
      (s.cycle < n → exec (.captureDrainTimeout p) s = .next s) ∧
      (n ≤ s.cycle → ∃ t, exec (.captureDrainTimeout p) s = .next t ∧ t.hub.parts.get none p = some { x with drainBy := none } ∧ t.mem = s.mem ∧ t.cores = s.cores ∧
        (∀ o, o ∈ t.hub.net ↔ o ∈ s.hub.net ∧ s.hub.netOwed p o = false) ∧
        ∀ l z, s.hub.launches.get none l = some z → ∃ w, t.hub.launches.get none l = some w ∧
          w = { z with nfail := z.nfail + (s.hub.net.filter fun o => s.hub.netOwed p o && o.launch == l && (match o.coll with | some y => !y.failed | none => true)).length })) ∧
    (x.st = .resetting → ((∃ o ∈ s.hub.net, s.hub.netOwed p o = true) ∨ ∃ c < 256, x.cfg.clusters.getLsbD (c / 8) = true ∧ (s.core c).rq ≠ []) → exec (.partitionReset p) s = .next s) ∧
    (x.st = .resetting → (∀ o ∈ s.hub.net, s.hub.netOwed p o = false) → (∀ c < 256, x.cfg.clusters.getLsbD (c / 8) = true → (s.core c).rq = []) →
      (x.resetBy = none → exec (.partitionReset p) s = .next { s with hub := { s.hub with parts := s.hub.parts.put none p (some { x with resetBy := some (s.cycle + 1024) }) } }) ∧
      ∀ d, x.resetBy = some d → (s.cycle < d → exec (.partitionReset p) s = .next s) ∧ (d ≤ s.cycle → ∃ t y, exec (.partitionReset p) s = .next t ∧ t.hub.parts.get none p = some y ∧ y.st = .halted ∧
      y.resetBy = none ∧ (∀ q ∈ y.queues, q.state = 0 ∧ q.err = 0 ∧ q.timer = none) ∧ (∀ l z, s.hub.launches.get none l = some z → z.part = p → t.hub.launches.get none l = none) ∧
      (s.hub.boot.closing = none → t.outbox.getLast? = some (.mctl 5 [p])) ∧
      (∀ cause, s.hub.boot.closing = some cause → (∀ z ∈ s.hub.parts, z.1 ≠ p → settled z.2) → t.outbox.getLast? = some (.mctl 9 [cause]) ∧ t.hub.boot.off = true ∧ t.hub.boot.closing = none) ∧
      ∀ c, c < 256 → x.cfg.clusters.getLsbD (c / 8) = true → (t.core c).job = none ∧ (t.core c).regs = {} ∧ (t.core c).vec = [] ∧ (t.core c).scr = [] ∧ (t.core c).acc = [])) ∧
    (∀ l z v, x.st = .resetting → s.hub.net = [] → (∀ c, (s.core c).rq = []) → (∃ d, x.resetBy = some d ∧ d ≤ s.cycle) → s.hub.launches = [(l, some z)] → z.part = p → x.queues[z.queue]? = some v → s.hub.boot.closing = none →
      v.cfg.cbase % 32 = 0 → s.mem.owner = [] → s.mem.fabric = [] → let at_ := v.cfg.cbase + 32 * (v.cwr.toNat % v.cfg.csize)
      ∃ t, exec (.partitionReset p) s = .next t ∧ (t.mem.byte (at_ + 12)).toNat = 6 ∧ (t.mem.byte (at_ + 13)).toNat = x.trigger % 256) ∧
    (x.st ≠ .resetting → exec (.partitionReset p) s = .next s) ∧
    (x.st = .halted → x.ctlStop = false → exec (.partitionEnable p) s = .next { s with hub := { s.hub with parts := s.hub.parts.put none p (some { x with st := .running }) } }) ∧
    (x.st ≠ .halted → exec (.partitionEnable p) s = .next s) ∧
    (x.st = .halted → x.ctlStop = true → x.cfg.ctlbase % 4096 = 0 → s.mem.owner = [] → s.mem.fabric = [] → let w := s.mem.read64 (x.cfg.ctlbase + 4096)
      ∃ t, exec (.partitionEnable p) s = .next t ∧ t.hub.parts.get none p = some { x with st := .running, ctlStop := false, ctlDone := w.toNat } ∧ t.mem.read64 (x.cfg.ctlbase + 4096 + 16) = w)) ∧
  ∀ s : State,
    (∃ t, exec .meterUpdate s = .next t ∧ t.hub.updates = s.hub.updates + 1 ∧ t.mem = s.mem ∧ (∀ c, t.core c = { s.core c with count := [] }) ∧
      ((s.cores.map (·.1)).Nodup → (∀ x ∈ s.cores, ∀ y ∈ x.2.count, y.1 < 16) → ∀ r i, r < 65536 → i < 16 → i ≠ 13 → s.hub.meters.get 0 (16 * r + i) < 2 ^ 64 →
        t.hub.meters.get 0 (16 * r + i) = (s.hub.meters.get 0 (16 * r + i) + s.hub.live.get 0 (16 * r + i) + coreCounts s r i) % 2 ^ 64)) ∧
    (∀ num, exec (.energyScale num 0) s = .next s) ∧
    (∀ num den r e, den ≠ 0 → e ≠ 0 → s.hub.live = [(2 ^ 20 + r, e)] → ∃ t, exec (.energyScale num den) s = .next t ∧ t.hub.live = [] ∧ t.cores = s.cores ∧
      ((t.hub.meters.get 0 (16 * r + 13) : Nat) : Int) = (((s.hub.meters.get 0 (16 * r + 13) : Nat) : Int) + ((num / den : Nat) : Int) - (e : Int)) % 2 ^ 64) ∧
    ∀ r, (s.hub.boot.session = false → exec (.meterReading r) s = .next s) ∧
      ∀ c x, s.hub.boot.session = true → r < 4096 → s.hub.ctxs.get none r = some c → s.hub.parts.get none c.part = some x →
        let o : Out := .meter r c.part x.cfg.label.toNat s.hub.updates ((List.range 16).map fun i => s.hub.meters.get 0 (16 * r + i))
        (c.closed = false → sends (.meterReading r) s o) ∧
        (c.closed = true → ∃ t, exec (.meterReading r) s = .next t ∧ t.outbox = s.outbox ++ [o] ∧ t.hub.ctxs.get none r = none ∧ t.cores = s.cores)

/-- R11, R122, R164, R374, R375 and R401 to R407: a boot stage runs when its signature verifies and stops boot otherwise; measurements are signed once the module has finished booting, and a session needs them; a link group trains with its results and a port may train later or fail; the dies come up one by one; the power manager moves a cluster's throttle by one step of its draw's thresholds, 70 W and 63 W, or 50 W and 45 W on a hot die; shutdown captures what runs first and then takes the supplies; a reset keeps only the retirements; a corrected error counts, and an uncorrectable one poisons its blocks and retires its location. The values of the SPDM messages and the reports' form are log entry 77, the dies that a failed pair link takes out log entry 78, and the lower thresholds, at 90 % of the upper ones, log entry 79. -/
def Obligations.BootAndPower : Prop :=
  ∀ s : State, let b := s.hub.boot
    (∀ digest cfg, let ran : Boot := { b with stage := b.stage + 1, digests := b.digests.put 0 (b.stage + 1) digest }
      (b.failed = true ∨ 5 ≤ b.stage → ∀ sig, exec (.bootStageVerify digest sig) s = .next s) ∧
      (b.failed = false → b.stage < 5 → bootTo (.bootStageVerify digest none) s { b with failed := true } [.mctl 6 [b.stage + 1]]) ∧
      (b.failed = false → b.stage ∈ [0, 1, 4] → bootTo (.bootStageVerify digest (some cfg)) s ran []) ∧
      (b.failed = false → b.stage = 2 → ∃ t, exec (.bootStageVerify digest (some cfg)) s = .next t ∧ t.mem = s.mem ∧ t.outbox = s.outbox ∧
        t.hub = { s.hub with retired := b.health.retired, noSpare := b.health.noSpare, lost := b.health.lost, boot := { ran with windows := cfg.windows, exposed := cfg.exposed, health := {} } }) ∧
      (b.failed = false → b.stage = 3 → ∃ t, exec (.bootStageVerify digest (some cfg)) s = .next t ∧ t.mem = s.mem ∧ t.hub = { s.hub with boot := ran } ∧
        ∀ c < 256, t.core c = { s.core c with eng := { (s.core c).eng with bank0 := true } })) ∧
    sends .getVersion s (.mgmt [0x12]) ∧ sends .getCapabilities s (.mgmt Config.capabilities) ∧ sends .getCertificate s (.mgmt Config.certificate) ∧
    (let blocks := (List.range 5).flatMap fun i => leList 48 (b.digests.get 0 (i + 1)).toNat
     let done := b.stage = 5 ∧ b.failed = false
     (done → bootTo .getMeasurements s { b with attested := true } [.mgmt (blocks ++ Config.measurementSignature blocks)]) ∧ (¬done → sends .getMeasurements s (.mgmt blocks)) ∧
     (done → b.attested = true → bootTo .keyExchange s { b with session := true } []) ∧ (¬done ∨ b.attested = false → exec .keyExchange s = .next s) ∧
     (done → b.group = 4 → b.off = false → b.diesUp < 4 →
      (b.upAt ≤ s.cycle → bootTo .stagedPowerUp s { b with diesUp := b.diesUp + 1, upAt := s.cycle + 400000 } []) ∧ (s.cycle < b.upAt → exec .stagedPowerUp s = .next s))) ∧
    (∀ rs : List LinkResult,
      (b.stage ≠ 5 ∨ b.failed = true ∨ 4 ≤ b.group → exec (.linkTraining rs) s = .next s) ∧
      (b.stage = 5 → b.failed = false → b.group < 4 → ∃ t, exec (.linkTraining rs) s = .next t ∧ t.mem = s.mem ∧ t.cores = s.cores ∧ t.hub.boot.group = b.group + 1 ∧
        let lo := [0, 6, 14, 18].getD b.group 0
        let n := [6, 8, 4, 8].getD b.group 0
        ∀ i, t.hub.boot.links.get .down i = if lo ≤ i ∧ i < lo + n then trained i (rs.getD (i - lo) .fail) else b.links.get .down i)) ∧
    (∀ l, bootTo (.linkDown l) s { b with links := b.links.put .down l .down } [.mctl 8 [l, 0]] ∧
      ∀ r, let st := trained l r
        ((if l < 18 then 3 else 4) ≤ b.group → 14 ≤ l → l < 26 → st ≠ .down → bootTo (.linkRetryUp l r) s { b with links := b.links.put .down l st } [.mctl 8 [l, match st with | .down => 0 | .degraded => 1 | .up => 2]]) ∧
        (b.group < (if l < 18 then 3 else 4) ∨ l < 14 ∨ 26 ≤ l ∨ st = .down → exec (.linkRetryUp l r) s = .next s)) ∧
    (∀ cl, ∃ t, exec (.powerManagerTick cl) s = .next t ∧ t.mem = s.mem ∧ (∀ c, t.core c = if c / 8 = cl then { s.core c with recent := [] } else s.core c) ∧
      (∀ k, k ≠ cl → t.hub.clusters.get {} k = s.hub.clusters.get {} k) ∧
      let w := drawn s cl
      let x := s.hub.clusters.get {} cl
      let y := t.hub.clusters.get {} cl
      let top := (if x.hot then 50 else 70) * 2 ^ 20
      let low := (if x.hot then 45 else 63) * 2 ^ 20
      y.throttle = (if top < w then min 8 (x.throttle + 1) else if w < low then x.throttle - 1 else x.throttle) ∧ (y.holdSteps = true ↔ x.throttle = 8 ∧ top < w) ∧ y.awake = x.awake ∧ y.hot = x.hot) ∧
    (∀ d hot, ∃ t, exec (.thermalCap d hot) s = .next t ∧ t.mem = s.mem ∧ t.cores = s.cores ∧
      ∀ cl, t.hub.clusters.get {} cl = if cl / 8 = d then { s.hub.clusters.get {} cl with hot := hot } else s.hub.clusters.get {} cl) ∧
    (let cause := if Config.flowLow s.cycle then 1 else 0
     ((∀ z ∈ s.hub.parts, settled z.2) → (∀ c, (s.core c).job = none) → ∃ t, exec .shutdown s = .next t ∧ t.hub.boot.off = true ∧ t.hub.boot.closing = none ∧ t.outbox.getLast? = some (.mctl 9 [cause]) ∧
       ∀ cl < 32, (t.hub.clusters.get {} cl).awake = false) ∧
     ∀ p x, s.hub.parts = [(p, some x)] → x.st = .running → ∃ t y, exec .shutdown s = .next t ∧ t.hub.boot = { b with closing := some cause } ∧ t.outbox = s.outbox ∧ t.mem = s.mem ∧ t.hub.clusters = s.hub.clusters ∧
       t.hub.parts.get none p = some y ∧ y.st = .capturing ∧ y.trigger = 0xFF ∧ y.frozenAt = s.cycle) ∧
    (∃ t, exec .moduleReset s = .next t ∧ t.mem = State.reset.mem ∧ t.cores = State.reset.cores ∧ t.cycle = 0 ∧ t.outbox = s.outbox ∧
      t.hub = { State.reset.hub with boot := { State.reset.hub.boot with health := if b.stage < 3 then b.health else ⟨s.hub.retired, s.hub.noSpare, s.hub.lost⟩ } }) ∧
    ∀ loc, (s.hub.errs = [] → ∃ t, exec (.correctedError loc) s = .next t ∧ t.hub = { s.hub with errs := [⟨loc, [s.cycle]⟩] } ∧ t.mem = s.mem ∧ t.cores = s.cores ∧ t.outbox = s.outbox) ∧
      ∀ blk, s.hub.parts = [] → ∃ t, exec (.uncorrectableError loc [blk]) s = .next t ∧ (locHolds loc blk = true → t.mem = { s.mem with poison := s.mem.poison.put false blk true }) ∧ (locHolds loc blk = false → t.mem = s.mem) ∧ loc ∈ t.hub.retired

/-! ### The encodings, one step, and reset -/

namespace Sys2Proof.Claims
open Sys2Proof.Machine

/-- Words of the slots: slot, word, the operation, each written out from the encoding tables (R61 to R71, R79). -/
def tableWords : List (Nat × BitVec 64 × Instr) :=
  [(1, 0x2000_8200_0000_0001, .addi ⟨4, 4, 1⟩), (1, 0x1200_E28C_0000_0000, .divI32 ⟨7, 5, 6⟩), (1, 0x2C01_3FFF_FFFF_FFFE, .li ⟨9, BitVec.ofInt 45 (-2)⟩),
   (1, 0x5601_9430_0000_0040, .shset ⟨1, 2, 5, 3, 0x40⟩),
   (1, 0xE000_A020_0000_0000, .sysrd ⟨5, 0x010⟩), (1, 0xE200_0000_0000_0015, .trap ⟨0, 0, 0x15⟩),
   (4, 0x18_0920_2880_0040, .ldAcq .n32 ⟨1, 1, 1, 5, 2, 0x40⟩), (6, 0xC0_0000_0000_0202, .stitchOpcode 0 0x202),
   (8, 0x40_0624_0000, .xadv ⟨3, 1, 2, 0, 0⟩), (8, 0x44_0A03_1801, .xexp ⟨5, 6, 3, 1⟩)]

/-- Core `c` is the next to act: the agenda is empty, no automatic transition is enabled, and no core before it has a word or a bundle to issue. -/
def actsNext (s : State) (c : Nat) : Prop :=
  s.agenda = [] ∧ s.auto = none ∧ ∃ l k r, s.cores = l ++ (c, k) :: r ∧ ∀ x ∈ l, s.microStep x.1 = none ∧ s.issue x.1 = none
/-- Core `c` may issue, and the 64 bytes at its pc, which its TLB maps, are the bundle `w`. -/
def atBundle (s : State) (c : Nat) (w : BitVec 512) : Prop :=
  let u := s.at_ c
  u.me.mayIssue s.cycle = true ∧ u.pageMissing u.me.iss.pc = false ∧ u.fetchFault = false ∧ u.fetchWord = w
/-- Bundle `b`, whose operations with a true guard are `live`, has come to its issue cycle: its region has room, there is no page to walk, the cluster's throttle lets a bundle with vector operations issue, and no bank conflict is still to be waited for. -/
def comes (u : State) (b : Bundle) (live : List SlotOp) : Prop :=
  let t := u.swapAll b
  live = b.ops.filter (fun o => u.me.guardOn o.guard) ∧ u.mustCommit b live = false ∧ t.missOf live = none ∧
  (b.ops.any (fun o => o.slot == 2 || o.slot == 3) && decide (u.cycle % 8 < (u.hub.clusters.get {} (u.cur / 8)).throttle)) = false ∧
  (t.conflicts live = 0 ∨ u.me.iss.paid = true)
/-- It comes to its issue cycle, no write in flight makes the scoreboard refuse it, no operation faults, and no watermark holds it. -/
def unhindered (u : State) (b : Bundle) (live : List SlotOp) : Prop :=
  let t := u.swapAll b
  comes u b live ∧ t.staleSlot b.ops = none ∧ t.firstFault live = none ∧ t.watermarkOf live = none
/-- The registers whose writes are pending on a core (R78): those of its variable-latency results but for s0. -/
def pendingReg (u : State) (x : RC × Nat) : Prop := x ≠ (.s, 0) ∧ ∃ v ∈ u.me.iss.vpend, ∃ r ∈ v.regs, r.key = x
/-- A bundle waits: nothing happens, or, where it waits for the result of a frozen matrix engine, the core notes that its fault is delivered there (R78, R203, R208). -/
def waits (u : State) (w : BitVec 512) : Prop :=
  u.issueWord w = none ∨ (u.me.eng.frozen ≠ none ∧ (∃ v ∈ u.me.iss.vpend, v.kind = .engine) ∧
    ∃ t, u.issueWord w = some t ∧ u.onlyCore t u.cur ∧ t.core u.cur = { u.me with iss := { u.me.iss with onEngine := true } })
/-- Pending results without the cycle from which each may complete. -/
def timeless (l : List VarWrite) : List VarWrite := l.map fun v => { v with ready := none }
/-- What does not change when a bundle issues none of its operations: everything but the shape registers that its swap bits exchange, and the issue state. -/
def issuedNothing (s t : State) (c : Nat) : Prop :=
  t.hub = s.hub ∧ t.cycle = s.cycle ∧ t.outbox = s.outbox ∧ t.mem = s.mem ∧ (∀ d, d ≠ c → t.core d = s.core d) ∧
  (t.core c).regs = { (s.core c).regs with shAct := (t.core c).regs.shAct, shShd := (t.core c).regs.shShd } ∧
  (t.core c).vec = (s.core c).vec ∧ (t.core c).acc = (s.core c).acc ∧ (t.core c).scr = (s.core c).scr ∧ (t.core c).ts = (s.core c).ts ∧ (t.core c).sys = (s.core c).sys ∧
  (t.core c).l1 = (s.core c).l1 ∧ (t.core c).eng = (s.core c).eng ∧ (t.core c).iss.pend = (s.core c).iss.pend ∧ (t.core c).iss.vpend = (s.core c).iss.vpend ∧
  (t.core c).rq ++ (t.core c).wb = (s.core c).rq ++ (s.core c).wb

end Sys2Proof.Claims

open Sys2Proof Sys2Proof.Machine Sys2Proof.Claims

/-- R51, R53, R56, R61 and R230 on words written out by hand: each slot word of the table is its operation with the bits that its format marks zero; the worked bundle of R79 decodes to its three operations with a stall of 1; a bundle of zeros holds no operation; a micro-word decodes to its operation and predicate, and one with an unassigned opcode is refused. -/
def Obligations.DecodeWords : Prop :=
  (∀ x ∈ tableWords, rawDecode x.1 x.2.1 = some (x.2.2, true)) ∧
  (match decodeBundle 0x1000_2000_8200_0000_0001_0100_4000_8000_0400_0000_0000_0000_0000_1809_2028_8000_4000_0000_0000_0000_0000_0000_0000_0000_0000_0000_0000_0000_0000_0000_0000 with
   | .ok b => b.hdr = ⟨1, false, false, false, false, false, false⟩ ∧
      b.ops = [⟨1, ⟨false, 0⟩, .addi ⟨4, 4, 1⟩⟩, ⟨2, ⟨false, 0⟩, .vadd ⟨0, 8, 0, 0, 2, 0, 1, 0⟩⟩, ⟨4, ⟨false, 0⟩, .ldAcq .n32 ⟨1, 1, 1, 5, 2, 0x40⟩⟩]
   | .error _ => False) ∧
  decodeBundle 0 = .ok ⟨⟨0, false, false, false, false, false, false⟩, []⟩ ∧
  decodeMicro 0x4402_4000_0000_0009 = .ok ⟨false, 0, .uaddi ⟨1, 2, 0, 9⟩⟩ ∧ decodeMicro 0x4662_4000_0000_0009 = .ok ⟨true, 3, .uaddi ⟨1, 2, 0, 9⟩⟩ ∧ decodeMicro 0x6C00_0000_0000_0000 = .error 3

/-- R56, R61, R65 to R71 and R230, R231: the encodings and the decoder agree. A well-formed operation that a slot has encodes to a word of the slot's width, from which the decoder reads it back with its guard and every operand; the same holds of micro-words; and a word from which the decoder reads an operation or a micro-word is the encoding of what it reads, so no bit is dropped and no two operations share a word. -/
def Obligations.EncodingRoundTrip : Prop :=
  (∀ (o : SlotOp) (w : BitVec 64), 1 ≤ o.slot → o.slot ≤ 9 → wf o.op = true → encode o = some w →
    w.toNat < 2 ^ slotWidth o.slot ∧ rawDecode o.slot w = some (o.op, true) ∧ slotGuard o.slot w = o.guard) ∧
  (∀ (n : Nat) (w : BitVec 64) (i : Instr), 1 ≤ n → n ≤ 9 → w.toNat < 2 ^ slotWidth n → rawDecode n w = some (i, true) →
    encode ⟨n, slotGuard n w, i⟩ = some w) ∧
  (∀ (m : Micro) (w : BitVec 64), wf m.op = true → m.pc.toNat ≤ 8 → ((∃ f, m.op = .unext f) → m.pc = 0 ∧ m.inv = false) → encodeMicro m = some w → decodeMicro w = .ok m) ∧
  (∀ (w : BitVec 64) (m : Micro), decodeMicro w = .ok m → encodeMicro m = some w ∧ wf m.op = true ∧ m.pc.toNat ≤ 8)

/-- One step (R52, R55, R57, R75, R97, R139, R230, R233, R352). It takes the head of the agenda where a rule admits it, and drops it where none does; with the agenda empty, where a core acts next: a micro-word that its predicate lets execute is its transition; a bundle of one operation, which is not a `trap`, is that operation's transition, from the state in which the swap bit has exchanged its shape register, and then the pc moves to the target that the operation chose, or else past the 64 bytes, and the next bundle is eligible after its stall count and penalty. A bundle of a core that is asked to stop counts, and the hard stop is due at its bound of bundles. Of pending results only the time may change, where the bundle's scratchpad accesses hold banks (R188). The agenda, the dropping of a head that no rule admits, and the order in which the module acts by itself are the model's choices (log entries 1 and 15). -/
def Obligations.StepRuns : Prop :=
  (∀ (s : State) (i : Instr) (l : List Instr), s.agenda = i :: l → (s.admits i = true → step s = exec i { s with agenda := l }) ∧ (s.admits i = false → step s = .next { s with agenda := l })) ∧
  (∀ s : State, s.agenda = [] → ∃ t, step s = .next t) ∧
  (∀ (s : State) (c : Nat) (q : Seq) (m : Micro) (t : State), actsNext s c → (s.core c).eng.seq = some q → q.st = .running → (s.core c).isFrozen = false → (s.core c).eng.frozen = none → (s.core c).eng.runsBare (s.core c).ctx = false → q.elig ≤ s.cycle →
    decodeMicro ((s.core c).eng.word (s.core c).ctx q) = .ok m → q.pred m.inv m.pc = true → exec m.op (s.at_ c) = .next t → t ≠ s.at_ c → step s = .next t) ∧
  ∀ (s : State) (c : Nat) (w : BitVec 512) (h : Header) (o : SlotOp), let u := s.at_ c
    actsNext s c → s.microStep c = none → atBundle s c w → u.interlocked (decodeHeader w) (rawOps w) = false → decodeBundleIn (u.decEnv (decodeHeader w)) w = .ok ⟨h, [o]⟩ →
    unhindered u ⟨h, [o]⟩ [o] → (∀ f, o.op ≠ .trap f) →
    ∃ v x t, exec o.op v = .next x ∧ step s = .next t ∧
      v.mem = s.mem ∧ v.cycle = s.cycle ∧ v.cur = c ∧ v.agenda = [] ∧ (∀ d, d ≠ c → v.core d = s.core d) ∧ v.me.regs = (u.swapAll ⟨h, [o]⟩).me.regs ∧
      v.me.vec = u.me.vec ∧ v.me.acc = u.me.acc ∧ v.me.scr = u.me.scr ∧ v.me.l1 = u.me.l1 ∧ v.me.eng = u.me.eng ∧ v.me.sys = u.me.sys ∧ v.me.rq ++ v.me.wb = u.me.rq ++ u.me.wb ∧
      (∀ j d, u.me.job = some j → j.due = some d → v.me.job = some { j with issued := j.issued + 1, due := some (if j.budget ≤ j.issued + 1 then min d s.cycle else d) }) ∧
      v.me.iss.pc = u.me.iss.pc ∧ v.me.iss.pend = u.me.iss.pend ∧ timeless v.me.iss.vpend = timeless u.me.iss.vpend ∧ (u.me.iss.xlds = [] → v.me.iss.vpend = u.me.iss.vpend) ∧ v.me.iss.next = none ∧
      t.mem = x.mem ∧ t.hub = x.hub ∧ t.cycle = x.cycle ∧ (∀ d, d ≠ c → t.core d = x.core d) ∧ (t.core c).regs = (x.core c).regs ∧ (t.core c).vec = (x.core c).vec ∧
      (t.core c).iss.pend = (x.core c).iss.pend ∧ timeless (t.core c).iss.vpend = timeless (x.core c).iss.vpend ∧ ((∀ f, o.op ≠ .xld f) → (t.core c).iss.vpend = (x.core c).iss.vpend) ∧ (t.core c).rq ++ (t.core c).wb = (x.core c).rq ++ (x.core c).wb ∧
      match (x.core c).iss.next with
      | some (p, n) => (t.core c).iss.pc = p ∧ (t.core c).iss.elig = s.cycle + 1 + h.stall + n
      | none => (t.core c).iss.elig = s.cycle + 1 + h.stall ∧ ((x.core c).iss.trap = none → (t.core c).iss.pc = (x.core c).iss.pc + 64)

/-- R55, R57, R72, R73, R78, R79 and R106 at issue: a bundle that names a register with a pending result waits, and so does a division while one is under way, and an L, W, M, K or Y operation or an `xld` while an acquire or a drain holds it; an illegal bundle takes the precise illegal-bundle trap with 16 × reason + slot and issues nothing; with the scoreboard on, a bundle that reads a register with a write in flight takes the undersized-stall trap; operations whose guards are false do nothing, while the swap bits still exchange their shape registers. -/
def Obligations.IssueChecks : Prop :=
  (∀ (u : State) (w : BitVec 512),
    ((∃ o ∈ rawOps w, ∃ x ∈ operands o.op, pendingReg u (x.rc, x.n)) → waits u w) ∧
    ((∃ v ∈ u.me.iss.vpend, v.kind = .division) → (∃ o ∈ rawOps w, isDiv o.op = true) → waits u w) ∧
    ((∃ v ∈ u.me.iss.vpend, v.hold = true) → (∃ o ∈ rawOps w, o.slot ∈ [4, 5, 6, 7, 9] ∨ ∃ f, o.op = .xld f) → waits u w) ∧
    (u.interlocked (decodeHeader w) (rawOps w) = false →
      (∀ r n, decodeBundleIn (u.decEnv (decodeHeader w)) w = .error (r, n) → u.issueWord w = some (u.precise (cause0 0x01 (16 * r + n)))) ∧
      ∀ b, decodeBundleIn (u.decEnv (decodeHeader w)) w = .ok b →
        (u.me.regs.ckcfg.getLsbD 0 = true → (∃ l, comes u b l) → (∃ o ∈ b.ops, ∃ x ∈ operands o.op, x.w = false ∧ (x.rc, x.n) ≠ (.s, 0) ∧ ∃ p ∈ u.me.iss.pend, p.wr.key = some (x.rc, x.n)) →
          ∃ o ∈ b.ops, u.issueWord w = some (u.precise (cause0 0x02 o.slot))) ∧
        (unhindered u b [] → u.me.iss.trap = none → ∃ t, u.issueWord w = some t ∧ issuedNothing u t u.cur ∧ (t.core u.cur).iss.pc = u.me.iss.pc + 64 ∧
          ((∀ o ∈ b.ops, b.hdr.swap o.slot = false) → (t.core u.cur).regs = u.me.regs) ∧
          ∀ o n, b.ops = [o] → b.hdr.swap o.slot = true → hsField o.op = some n → n < 4 →
            (t.core u.cur).regs.shape (slotEngine o.slot) n = u.me.regs.shapeShadow (slotEngine o.slot) n ∧
            (t.core u.cur).regs.shapeShadow (slotEngine o.slot) n = u.me.regs.shape (slotEngine o.slot) n)))

/-- The invariant of the model's own form (log entry 2): device memory stays in its canonical form, so that equal memories are equal data, through every step and every transition. -/
def Obligations.StepKeepsSound : Prop :=
  (∀ s t : State, s.sound → step s = .next t → t.sound) ∧ ∀ (i : Instr) (s t : State), s.sound → exec i s = .next t → t.sound

/-- Reset (R124, R331, R345, R371, R401, R404 with log entries 2 to 8): memory is in canonical form and its bytes read 0 with default descriptors, no page is under host bias, no ring position is owned, no partition, launch, task or core's job exists, every cluster is gated, no boot stage has run, every link is down, and every register reads 0, but for g0 and p0, which read 1, and `oscale`, which is 0x7F. What the log entries name is the model's choice. -/
def Obligations.ResetState : Prop :=
  let s := State.reset
  s.sound ∧ (∀ a, s.mem.byte a = 0) ∧ (∀ b, s.mem.descOf b = 0xA4007F00 ∧ s.mem.poisoned b = false) ∧ (∀ p, s.mem.bias.get false p = false) ∧ (∀ n, s.hub.ring.get none n = none) ∧
  (∀ p, s.hub.parts.get none p = none ∧ s.hub.launches.get none p = none ∧ s.hub.tasks.get none p = none) ∧ (∀ f, s.hub.frameOwner.get 0 f = 0) ∧
  (∀ cl, (s.hub.clusters.get {} cl).awake = false) ∧ s.hub.boot.stage = 0 ∧ (∀ l, s.hub.boot.links.get .down l = .down) ∧ s.agenda = [] ∧ s.outbox = [] ∧
  ∀ c, let k := s.core c
    k.job = none ∧ k.sys.level = 0 ∧ k.iss.pc = 0 ∧ k.rq = [] ∧ k.wb = [] ∧ k.sh = k.regs ∧ k.eng.q = [] ∧ k.eng.insts = [] ∧
    (∀ n, k.regs.rs n = 0 ∧ k.regs.ra n = 0 ∧ k.regs.rb n = 0 ∧ k.regs.rix n = 0 ∧ k.vec.get 0 n = 0 ∧ k.acc.get 0 n = 0 ∧ k.scr.get 0 n = 0) ∧
    (∀ n, k.regs.rg n = decide (n = 0)) ∧ (∀ i, (k.regs.rp 0).getLsbD i = decide (i < 512)) ∧ k.regs.ckcfg = 0 ∧ k.regs.vfm = 0 ∧ k.regs.lsave = 0 ∧
    ∀ n, bitsOf (k.regs.shape 0 n) 72 8 = 0x7F
end

