-- ==== Sys2Proof/Laws/Bank.lean ====
section
/-! SUPPORT. The laws of sparse storage: a read after a write, and the canonical form. -/
namespace Sys2Proof.Machine

variable {α : Type}

theorem Bank.get_erase_same (d : α) (b : Bank α) (k : Nat) : (b.erase k).get d k = d := by
  induction b with
  | nil => rfl
  | cons x t ih => obtain ⟨i, v⟩ := x; by_cases h : i = k <;> simp [Bank.erase, Bank.get, h, ih]

theorem Bank.get_erase_ne (d : α) (b : Bank α) {k j : Nat} (h : j ≠ k) : (b.erase k).get d j = b.get d j := by
  induction b with
  | nil => rfl
  | cons x t ih =>
    obtain ⟨i, v⟩ := x
    by_cases hi : i = k
    · simp [Bank.erase, Bank.get, hi, ih, h.symm]
    · simp [Bank.erase, Bank.get, hi, ih]

theorem Bank.get_ins_same (d : α) (b : Bank α) (k : Nat) (v : α) (h : ∀ x ∈ b, x.1 ≠ k) : (b.ins k v).get d k = v := by
  induction b with
  | nil => simp [Bank.ins, Bank.get]
  | cons x t ih =>
    obtain ⟨i, w⟩ := x
    have hi : i ≠ k := h (i, w) (by simp)
    by_cases hk : k < i
    · simp [Bank.ins, Bank.get, hk]
    · simp [Bank.ins, Bank.get, hk, hi, ih fun x hx => h x (by simp [hx])]

theorem Bank.get_ins_ne (d : α) (b : Bank α) {k j : Nat} (v : α) (h : j ≠ k) : (b.ins k v).get d j = b.get d j := by
  induction b with
  | nil => simp [Bank.ins, Bank.get, h.symm]
  | cons x t ih =>
    obtain ⟨i, w⟩ := x
    by_cases hk : k < i
    · simp [Bank.ins, Bank.get, hk, h.symm]
    · simp [Bank.ins, Bank.get, hk, ih]

theorem Bank.erase_keys (b : Bank α) (k : Nat) : ∀ x ∈ b.erase k, x.1 ≠ k := by
  induction b with
  | nil => simp [Bank.erase]
  | cons x t ih =>
    obtain ⟨i, v⟩ := x
    by_cases h : i = k
    · simpa [Bank.erase, h] using ih
    · simp only [Bank.erase, h, if_false, List.mem_cons, forall_eq_or_imp]
      exact ⟨h, ih⟩

/-- A read after a write of the same key. -/
@[simp] theorem Bank.get_put_same [DecidableEq α] (d : α) (b : Bank α) (k : Nat) (v : α) : (b.put d k v).get d k = v := by
  unfold Bank.put
  split
  · next h => rw [Bank.get_erase_same, h]
  · exact Bank.get_ins_same d _ k v (Bank.erase_keys b k)

/-- A write leaves every other key alone. -/
theorem Bank.get_put_ne [DecidableEq α] (d : α) (b : Bank α) {k j : Nat} (v : α) (h : j ≠ k) : (b.put d k v).get d j = b.get d j := by
  unfold Bank.put
  split
  · exact Bank.get_erase_ne d b h
  · rw [Bank.get_ins_ne d _ v h, Bank.get_erase_ne d b h]

/-- A read after a write. -/
theorem Bank.get_put [DecidableEq α] (d : α) (b : Bank α) (k j : Nat) (v : α) : (b.put d k v).get d j = if j = k then v else b.get d j := by
  by_cases h : j = k
  · subst h; simp
  · simp [h, Bank.get_put_ne d b v h]

/-- Keys rising and no entry at the default, as a proposition by list recursion. -/
theorem Bank.wf_cons [DecidableEq α] (d : α) (i : Nat) (v : α) (t : Bank α) :
    Bank.wf d ((i, v) :: t) = true ↔ v ≠ d ∧ (∀ x ∈ t, i < x.1) ∧ Bank.wf d t = true := by
  induction t generalizing i v with
  | nil => simp [Bank.wf]
  | cons y t ih =>
    obtain ⟨j, w⟩ := y
    simp only [Bank.wf, Bool.and_eq_true, decide_eq_true_eq, List.mem_cons, forall_eq_or_imp]
    constructor
    · rintro ⟨⟨hv, hij⟩, hr⟩
      have := (ih j w).mp hr
      exact ⟨hv, ⟨hij, fun x hx => lt_trans hij (this.2.1 x hx)⟩, hr⟩
    · rintro ⟨hv, ⟨hij, -⟩, hr⟩
      exact ⟨⟨hv, hij⟩, hr⟩

theorem Bank.mem_of_mem_erase {b : Bank α} {k : Nat} {x : Nat × α} (h : x ∈ b.erase k) : x ∈ b := by
  induction b with
  | nil => simp [Bank.erase] at h
  | cons y t ih =>
    obtain ⟨i, v⟩ := y
    by_cases hi : i = k
    · simp only [Bank.erase, hi, if_true] at h; exact List.mem_cons_of_mem _ (ih h)
    · simp only [Bank.erase, hi, if_false, List.mem_cons] at h
      rcases h with h | h
      · simp [h]
      · exact List.mem_cons_of_mem _ (ih h)

theorem Bank.wf_erase [DecidableEq α] {d : α} {b : Bank α} (k : Nat) (h : b.wf d = true) : (b.erase k).wf d = true := by
  induction b with
  | nil => rfl
  | cons x t ih =>
    obtain ⟨i, v⟩ := x
    obtain ⟨hv, hlt, ht⟩ := (Bank.wf_cons d i v t).mp h
    by_cases hi : i = k
    · simpa [Bank.erase, hi] using ih ht
    · simp only [Bank.erase, hi, if_false]
      exact (Bank.wf_cons d i v _).mpr ⟨hv, fun x hx => hlt x (Bank.mem_of_mem_erase hx), ih ht⟩

theorem Bank.mem_ins {b : Bank α} {k : Nat} {v : α} {x : Nat × α} (h : x ∈ b.ins k v) : x = (k, v) ∨ x ∈ b := by
  induction b with
  | nil => simpa [Bank.ins] using h
  | cons y t ih =>
    obtain ⟨i, w⟩ := y
    by_cases hk : k < i
    · simpa [Bank.ins, hk] using h
    · simp only [Bank.ins, hk, if_false, List.mem_cons] at h
      rcases h with h | h
      · simp [h]
      · rcases ih h with h | h <;> simp [h]

theorem Bank.wf_ins [DecidableEq α] {d : α} {b : Bank α} {k : Nat} {v : α} (hv : v ≠ d) (hk : ∀ x ∈ b, x.1 ≠ k) (h : b.wf d = true) :
    (b.ins k v).wf d = true := by
  induction b with
  | nil => simp [Bank.ins, Bank.wf, hv]
  | cons y t ih =>
    obtain ⟨i, w⟩ := y
    obtain ⟨hw, hlt, ht⟩ := (Bank.wf_cons d i w t).mp h
    by_cases hki : k < i
    · simp only [Bank.ins, hki, if_true]
      refine (Bank.wf_cons d k v _).mpr ⟨hv, fun x hx => ?_, h⟩
      rcases List.mem_cons.mp hx with rfl | hx
      · exact hki
      · exact lt_trans hki (hlt x hx)
    · simp only [Bank.ins, hki, if_false]
      refine (Bank.wf_cons d i w _).mpr ⟨hw, fun x hx => ?_, ih (fun x hx => hk x (by simp [hx])) ht⟩
      rcases Bank.mem_ins hx with rfl | hx
      · have := hk (i, w) (by simp); simp only at this ⊢; omega
      · exact hlt x hx

/-- Every write keeps the canonical form. -/
theorem Bank.wf_put [DecidableEq α] {d : α} {b : Bank α} (k : Nat) (v : α) (h : b.wf d = true) : (b.put d k v).wf d = true := by
  unfold Bank.put
  split
  · exact Bank.wf_erase k h
  · next hv => exact Bank.wf_ins hv (Bank.erase_keys b k) (Bank.wf_erase k h)

theorem Bank.wf_putList [DecidableEq α] {d : α} (l : List α) : ∀ {b : Bank α} (k : Nat), b.wf d = true → (b.putList d k l).wf d = true := by
  induction l with
  | nil => intro b k h; exact h
  | cons v t ih => intro b k h; exact ih (k + 1) (Bank.wf_put k v h)

theorem Bank.wf_filter [DecidableEq α] {d : α} {b : Bank α} (p : Nat × α → Bool) (h : b.wf d = true) : Bank.wf d (b.filter p) = true := by
  induction b with
  | nil => rfl
  | cons x t ih =>
    obtain ⟨i, v⟩ := x
    obtain ⟨hv, hlt, ht⟩ := (Bank.wf_cons d i v t).mp h
    by_cases hp : p (i, v)
    · rw [List.filter_cons_of_pos hp]
      exact (Bank.wf_cons d i v _).mpr ⟨hv, fun x hx => hlt x (List.mem_filter.mp hx).1, ih ht⟩
    · rw [List.filter_cons_of_neg hp]; exact ih ht

end Sys2Proof.Machine
end

