-- ==== Sys2Proof/Laws/State.lean ====
section
/-! SUPPORT. One law for each field and each update of the state, so that no proof unfolds a record update. -/
namespace Sys2Proof.Machine

/-! ### Cores read after an update -/

@[simp] theorem State.setCore_core_same (s : State) (c : Nat) (x : Core) : (s.setCore c x).core c = x := by simp [State.core, State.setCore]
theorem State.setCore_core_ne (s : State) {c d : Nat} (x : Core) (h : d ≠ c) : (s.setCore c x).core d = s.core d := by
  simp [State.core, State.setCore, Bank.get_put_ne _ _ _ h]
@[simp] theorem State.modCore_core_same (s : State) (c : Nat) (f : Core → Core) : (s.modCore c f).core c = f (s.core c) := by simp [State.modCore]
theorem State.modCore_core_ne (s : State) {c d : Nat} (f : Core → Core) (h : d ≠ c) : (s.modCore c f).core d = s.core d := by
  simp [State.modCore, State.setCore_core_ne _ _ h]
@[simp] theorem State.modMe_me (s : State) (f : Core → Core) : (s.modMe f).me = f s.me := State.modCore_core_same s s.cur f
theorem State.modMe_core_ne (s : State) {d : Nat} (f : Core → Core) (h : d ≠ s.cur) : (s.modMe f).core d = s.core d := by
  simp [State.modMe, State.modCore_core_ne _ _ h]
@[simp] theorem State.setCore_me (s : State) (x : Core) : (s.setCore s.cur x).me = x := State.setCore_core_same s s.cur x
@[simp] theorem State.emit_me (s : State) (lat : Nat) (w : Wr) : (s.emit lat w).me = s.me.emit s.cycle lat w := State.modMe_me s _
@[simp] theorem State.withhold_me (s : State) (e : Effect) : (s.withhold e).me = s.me.withhold e := State.modMe_me s _
@[simp] theorem State.modHub_core (s : State) (f : Hub → Hub) (c : Nat) : (s.modHub f).core c = s.core c := rfl
@[simp] theorem State.modHub_me (s : State) (f : Hub → Hub) : (s.modHub f).me = s.me := rfl
@[simp] theorem State.out_core (s : State) (o : Out) (c : Nat) : (s.out o).core c = s.core c := rfl
@[simp] theorem State.out_me (s : State) (o : Out) : (s.out o).me = s.me := rfl

/-! ### Fields -/

@[simp] theorem State.setCore_mem (s : State) (c : Nat) (x : Core) : (s.setCore c x).mem = s.mem := rfl
@[simp] theorem State.setCore_hub (s : State) (c : Nat) (x : Core) : (s.setCore c x).hub = s.hub := rfl
@[simp] theorem State.setCore_cycle (s : State) (c : Nat) (x : Core) : (s.setCore c x).cycle = s.cycle := rfl
@[simp] theorem State.setCore_cur (s : State) (c : Nat) (x : Core) : (s.setCore c x).cur = s.cur := rfl
@[simp] theorem State.setCore_agenda (s : State) (c : Nat) (x : Core) : (s.setCore c x).agenda = s.agenda := rfl
@[simp] theorem State.setCore_outbox (s : State) (c : Nat) (x : Core) : (s.setCore c x).outbox = s.outbox := rfl
@[simp] theorem State.setCore_fresh (s : State) (c : Nat) (x : Core) : (s.setCore c x).fresh = s.fresh := rfl
@[simp] theorem State.modCore_mem (s : State) (c : Nat) (f : Core → Core) : (s.modCore c f).mem = s.mem := rfl
@[simp] theorem State.modCore_hub (s : State) (c : Nat) (f : Core → Core) : (s.modCore c f).hub = s.hub := rfl
@[simp] theorem State.modCore_cycle (s : State) (c : Nat) (f : Core → Core) : (s.modCore c f).cycle = s.cycle := rfl
@[simp] theorem State.modCore_cur (s : State) (c : Nat) (f : Core → Core) : (s.modCore c f).cur = s.cur := rfl
@[simp] theorem State.modCore_agenda (s : State) (c : Nat) (f : Core → Core) : (s.modCore c f).agenda = s.agenda := rfl
@[simp] theorem State.modCore_outbox (s : State) (c : Nat) (f : Core → Core) : (s.modCore c f).outbox = s.outbox := rfl
@[simp] theorem State.modCore_fresh (s : State) (c : Nat) (f : Core → Core) : (s.modCore c f).fresh = s.fresh := rfl
@[simp] theorem State.modMe_mem (s : State) (f : Core → Core) : (s.modMe f).mem = s.mem := rfl
@[simp] theorem State.modMe_hub (s : State) (f : Core → Core) : (s.modMe f).hub = s.hub := rfl
@[simp] theorem State.modMe_cycle (s : State) (f : Core → Core) : (s.modMe f).cycle = s.cycle := rfl
@[simp] theorem State.modMe_cur (s : State) (f : Core → Core) : (s.modMe f).cur = s.cur := rfl
@[simp] theorem State.modMe_agenda (s : State) (f : Core → Core) : (s.modMe f).agenda = s.agenda := rfl
@[simp] theorem State.modMe_outbox (s : State) (f : Core → Core) : (s.modMe f).outbox = s.outbox := rfl
@[simp] theorem State.modMe_fresh (s : State) (f : Core → Core) : (s.modMe f).fresh = s.fresh := rfl
@[simp] theorem State.emit_mem (s : State) (lat : Nat) (w : Wr) : (s.emit lat w).mem = s.mem := rfl
@[simp] theorem State.emit_hub (s : State) (lat : Nat) (w : Wr) : (s.emit lat w).hub = s.hub := rfl
@[simp] theorem State.emit_cycle (s : State) (lat : Nat) (w : Wr) : (s.emit lat w).cycle = s.cycle := rfl
@[simp] theorem State.emit_cur (s : State) (lat : Nat) (w : Wr) : (s.emit lat w).cur = s.cur := rfl
@[simp] theorem State.emit_agenda (s : State) (lat : Nat) (w : Wr) : (s.emit lat w).agenda = s.agenda := rfl
@[simp] theorem State.emit_outbox (s : State) (lat : Nat) (w : Wr) : (s.emit lat w).outbox = s.outbox := rfl
@[simp] theorem State.emit_fresh (s : State) (lat : Nat) (w : Wr) : (s.emit lat w).fresh = s.fresh := rfl
@[simp] theorem State.emits_mem (s : State) (lat : Nat) (ws : List Wr) : (s.emits lat ws).mem = s.mem := rfl
@[simp] theorem State.emits_hub (s : State) (lat : Nat) (ws : List Wr) : (s.emits lat ws).hub = s.hub := rfl
@[simp] theorem State.emits_cycle (s : State) (lat : Nat) (ws : List Wr) : (s.emits lat ws).cycle = s.cycle := rfl
@[simp] theorem State.emits_cur (s : State) (lat : Nat) (ws : List Wr) : (s.emits lat ws).cur = s.cur := rfl
@[simp] theorem State.emits_agenda (s : State) (lat : Nat) (ws : List Wr) : (s.emits lat ws).agenda = s.agenda := rfl
@[simp] theorem State.emits_outbox (s : State) (lat : Nat) (ws : List Wr) : (s.emits lat ws).outbox = s.outbox := rfl
@[simp] theorem State.emits_fresh (s : State) (lat : Nat) (ws : List Wr) : (s.emits lat ws).fresh = s.fresh := rfl
@[simp] theorem State.withhold_mem (s : State) (e : Effect) : (s.withhold e).mem = s.mem := rfl
@[simp] theorem State.withhold_hub (s : State) (e : Effect) : (s.withhold e).hub = s.hub := rfl
@[simp] theorem State.withhold_cycle (s : State) (e : Effect) : (s.withhold e).cycle = s.cycle := rfl
@[simp] theorem State.withhold_cur (s : State) (e : Effect) : (s.withhold e).cur = s.cur := rfl
@[simp] theorem State.withhold_agenda (s : State) (e : Effect) : (s.withhold e).agenda = s.agenda := rfl
@[simp] theorem State.withhold_outbox (s : State) (e : Effect) : (s.withhold e).outbox = s.outbox := rfl
@[simp] theorem State.withhold_fresh (s : State) (e : Effect) : (s.withhold e).fresh = s.fresh := rfl
@[simp] theorem State.meter_mem (s : State) (c idx n : Nat) : (s.meter c idx n).mem = s.mem := rfl
@[simp] theorem State.meter_hub (s : State) (c idx n : Nat) : (s.meter c idx n).hub = s.hub := rfl
@[simp] theorem State.meter_cycle (s : State) (c idx n : Nat) : (s.meter c idx n).cycle = s.cycle := rfl
@[simp] theorem State.meter_cur (s : State) (c idx n : Nat) : (s.meter c idx n).cur = s.cur := rfl
@[simp] theorem State.meter_agenda (s : State) (c idx n : Nat) : (s.meter c idx n).agenda = s.agenda := rfl
@[simp] theorem State.meter_outbox (s : State) (c idx n : Nat) : (s.meter c idx n).outbox = s.outbox := rfl
@[simp] theorem State.meter_fresh (s : State) (c idx n : Nat) : (s.meter c idx n).fresh = s.fresh := rfl
@[simp] theorem State.modEng_mem (s : State) (c : Nat) (f : MEng → MEng) : (s.modEng c f).mem = s.mem := rfl
@[simp] theorem State.modEng_hub (s : State) (c : Nat) (f : MEng → MEng) : (s.modEng c f).hub = s.hub := rfl
@[simp] theorem State.modEng_cycle (s : State) (c : Nat) (f : MEng → MEng) : (s.modEng c f).cycle = s.cycle := rfl
@[simp] theorem State.modEng_cur (s : State) (c : Nat) (f : MEng → MEng) : (s.modEng c f).cur = s.cur := rfl
@[simp] theorem State.modEng_agenda (s : State) (c : Nat) (f : MEng → MEng) : (s.modEng c f).agenda = s.agenda := rfl
@[simp] theorem State.modEng_outbox (s : State) (c : Nat) (f : MEng → MEng) : (s.modEng c f).outbox = s.outbox := rfl
@[simp] theorem State.modEng_fresh (s : State) (c : Nat) (f : MEng → MEng) : (s.modEng c f).fresh = s.fresh := rfl
@[simp] theorem State.modChan_mem (s : State) (c n : Nat) (f : Chan → Chan) : (s.modChan c n f).mem = s.mem := rfl
@[simp] theorem State.modChan_hub (s : State) (c n : Nat) (f : Chan → Chan) : (s.modChan c n f).hub = s.hub := rfl
@[simp] theorem State.modChan_cycle (s : State) (c n : Nat) (f : Chan → Chan) : (s.modChan c n f).cycle = s.cycle := rfl
@[simp] theorem State.modChan_cur (s : State) (c n : Nat) (f : Chan → Chan) : (s.modChan c n f).cur = s.cur := rfl
@[simp] theorem State.modChan_agenda (s : State) (c n : Nat) (f : Chan → Chan) : (s.modChan c n f).agenda = s.agenda := rfl
@[simp] theorem State.modChan_outbox (s : State) (c n : Nat) (f : Chan → Chan) : (s.modChan c n f).outbox = s.outbox := rfl
@[simp] theorem State.modChan_fresh (s : State) (c n : Nat) (f : Chan → Chan) : (s.modChan c n f).fresh = s.fresh := rfl
@[simp] theorem State.modHub_cores (s : State) (f : Hub → Hub) : (s.modHub f).cores = s.cores := rfl
@[simp] theorem State.modHub_mem (s : State) (f : Hub → Hub) : (s.modHub f).mem = s.mem := rfl
@[simp] theorem State.modHub_cycle (s : State) (f : Hub → Hub) : (s.modHub f).cycle = s.cycle := rfl
@[simp] theorem State.modHub_cur (s : State) (f : Hub → Hub) : (s.modHub f).cur = s.cur := rfl
@[simp] theorem State.modHub_agenda (s : State) (f : Hub → Hub) : (s.modHub f).agenda = s.agenda := rfl
@[simp] theorem State.modHub_outbox (s : State) (f : Hub → Hub) : (s.modHub f).outbox = s.outbox := rfl
@[simp] theorem State.modHub_fresh (s : State) (f : Hub → Hub) : (s.modHub f).fresh = s.fresh := rfl
@[simp] theorem State.modHub_hub (s : State) (f : Hub → Hub) : (s.modHub f).hub = f s.hub := rfl
@[simp] theorem State.out_cores (s : State) (o : Out) : (s.out o).cores = s.cores := rfl
@[simp] theorem State.out_mem (s : State) (o : Out) : (s.out o).mem = s.mem := rfl
@[simp] theorem State.out_hub (s : State) (o : Out) : (s.out o).hub = s.hub := rfl
@[simp] theorem State.out_cycle (s : State) (o : Out) : (s.out o).cycle = s.cycle := rfl
@[simp] theorem State.out_cur (s : State) (o : Out) : (s.out o).cur = s.cur := rfl
@[simp] theorem State.out_agenda (s : State) (o : Out) : (s.out o).agenda = s.agenda := rfl
@[simp] theorem State.out_fresh (s : State) (o : Out) : (s.out o).fresh = s.fresh := rfl
@[simp] theorem State.out_outbox (s : State) (o : Out) : (s.out o).outbox = s.outbox ++ [o] := rfl
@[simp] theorem State.at_mem (s : State) (c : Nat) : (s.at_ c).mem = s.mem := rfl
@[simp] theorem State.at_hub (s : State) (c : Nat) : (s.at_ c).hub = s.hub := rfl
@[simp] theorem State.at_cycle (s : State) (c : Nat) : (s.at_ c).cycle = s.cycle := rfl
@[simp] theorem State.at_agenda (s : State) (c : Nat) : (s.at_ c).agenda = s.agenda := rfl
@[simp] theorem State.at_outbox (s : State) (c : Nat) : (s.at_ c).outbox = s.outbox := rfl
@[simp] theorem State.at_fresh (s : State) (c : Nat) : (s.at_ c).fresh = s.fresh := rfl
@[simp] theorem State.at_cores (s : State) (c : Nat) : (s.at_ c).cores = s.cores := rfl
@[simp] theorem Core.emit_job (k : Core) (cycle lat : Nat) (w : Wr) : (k.emit cycle lat w).job = k.job := rfl
@[simp] theorem Core.emit_lastCtx (k : Core) (cycle lat : Nat) (w : Wr) : (k.emit cycle lat w).lastCtx = k.lastCtx := rfl
@[simp] theorem Core.emit_regs (k : Core) (cycle lat : Nat) (w : Wr) : (k.emit cycle lat w).regs = k.regs := rfl
@[simp] theorem Core.emit_sh (k : Core) (cycle lat : Nat) (w : Wr) : (k.emit cycle lat w).sh = k.sh := rfl
@[simp] theorem Core.emit_sys (k : Core) (cycle lat : Nat) (w : Wr) : (k.emit cycle lat w).sys = k.sys := rfl
@[simp] theorem Core.emit_vec (k : Core) (cycle lat : Nat) (w : Wr) : (k.emit cycle lat w).vec = k.vec := rfl
@[simp] theorem Core.emit_acc (k : Core) (cycle lat : Nat) (w : Wr) : (k.emit cycle lat w).acc = k.acc := rfl
@[simp] theorem Core.emit_accPoison (k : Core) (cycle lat : Nat) (w : Wr) : (k.emit cycle lat w).accPoison = k.accPoison := rfl
@[simp] theorem Core.emit_ts (k : Core) (cycle lat : Nat) (w : Wr) : (k.emit cycle lat w).ts = k.ts := rfl
@[simp] theorem Core.emit_tsNew (k : Core) (cycle lat : Nat) (w : Wr) : (k.emit cycle lat w).tsNew = k.tsNew := rfl
@[simp] theorem Core.emit_wb (k : Core) (cycle lat : Nat) (w : Wr) : (k.emit cycle lat w).wb = k.wb := rfl
@[simp] theorem Core.emit_rq (k : Core) (cycle lat : Nat) (w : Wr) : (k.emit cycle lat w).rq = k.rq := rfl
@[simp] theorem Core.emit_rqAt (k : Core) (cycle lat : Nat) (w : Wr) : (k.emit cycle lat w).rqAt = k.rqAt := rfl
@[simp] theorem Core.emit_rqFrom (k : Core) (cycle lat : Nat) (w : Wr) : (k.emit cycle lat w).rqFrom = k.rqFrom := rfl
@[simp] theorem Core.emit_l1 (k : Core) (cycle lat : Nat) (w : Wr) : (k.emit cycle lat w).l1 = k.l1 := rfl
@[simp] theorem Core.emit_ws (k : Core) (cycle lat : Nat) (w : Wr) : (k.emit cycle lat w).ws = k.ws := rfl
@[simp] theorem Core.emit_as_ (k : Core) (cycle lat : Nat) (w : Wr) : (k.emit cycle lat w).as_ = k.as_ := rfl
@[simp] theorem Core.emit_scr (k : Core) (cycle lat : Nat) (w : Wr) : (k.emit cycle lat w).scr = k.scr := rfl
@[simp] theorem Core.emit_eng (k : Core) (cycle lat : Nat) (w : Wr) : (k.emit cycle lat w).eng = k.eng := rfl
@[simp] theorem Core.emit_ch (k : Core) (cycle lat : Nat) (w : Wr) : (k.emit cycle lat w).ch = k.ch := rfl
@[simp] theorem Core.emit_sched (k : Core) (cycle lat : Nat) (w : Wr) : (k.emit cycle lat w).sched = k.sched := rfl
@[simp] theorem Core.emit_tlb (k : Core) (cycle lat : Nat) (w : Wr) : (k.emit cycle lat w).tlb = k.tlb := rfl
@[simp] theorem Core.emit_ptlb (k : Core) (cycle lat : Nat) (w : Wr) : (k.emit cycle lat w).ptlb = k.ptlb := rfl
@[simp] theorem Core.emit_pipeFrom (k : Core) (cycle lat : Nat) (w : Wr) : (k.emit cycle lat w).pipeFrom = k.pipeFrom := rfl
@[simp] theorem Core.emit_poolFail (k : Core) (cycle lat : Nat) (w : Wr) : (k.emit cycle lat w).poolFail = k.poolFail := rfl
@[simp] theorem Core.emit_poolCause (k : Core) (cycle lat : Nat) (w : Wr) : (k.emit cycle lat w).poolCause = k.poolCause := rfl
@[simp] theorem Core.emit_netFail (k : Core) (cycle lat : Nat) (w : Wr) : (k.emit cycle lat w).netFail = k.netFail := rfl
@[simp] theorem Core.emit_netCause (k : Core) (cycle lat : Nat) (w : Wr) : (k.emit cycle lat w).netCause = k.netCause := rfl
@[simp] theorem Core.emit_count (k : Core) (cycle lat : Nat) (w : Wr) : (k.emit cycle lat w).count = k.count := rfl
@[simp] theorem Core.emit_recent (k : Core) (cycle lat : Nat) (w : Wr) : (k.emit cycle lat w).recent = k.recent := rfl
@[simp] theorem Core.emit_icache (k : Core) (cycle lat : Nat) (w : Wr) : (k.emit cycle lat w).icache = k.icache := rfl
@[simp] theorem Core.emit_noPage (k : Core) (cycle lat : Nat) (w : Wr) : (k.emit cycle lat w).noPage = k.noPage := rfl
@[simp] theorem Core.withhold_job (k : Core) (e : Effect) : (k.withhold e).job = k.job := rfl
@[simp] theorem Core.withhold_lastCtx (k : Core) (e : Effect) : (k.withhold e).lastCtx = k.lastCtx := rfl
@[simp] theorem Core.withhold_regs (k : Core) (e : Effect) : (k.withhold e).regs = k.regs := rfl
@[simp] theorem Core.withhold_sh (k : Core) (e : Effect) : (k.withhold e).sh = k.sh := rfl
@[simp] theorem Core.withhold_sys (k : Core) (e : Effect) : (k.withhold e).sys = k.sys := rfl
@[simp] theorem Core.withhold_vec (k : Core) (e : Effect) : (k.withhold e).vec = k.vec := rfl
@[simp] theorem Core.withhold_acc (k : Core) (e : Effect) : (k.withhold e).acc = k.acc := rfl
@[simp] theorem Core.withhold_accPoison (k : Core) (e : Effect) : (k.withhold e).accPoison = k.accPoison := rfl
@[simp] theorem Core.withhold_ts (k : Core) (e : Effect) : (k.withhold e).ts = k.ts := rfl
@[simp] theorem Core.withhold_tsNew (k : Core) (e : Effect) : (k.withhold e).tsNew = k.tsNew := rfl
@[simp] theorem Core.withhold_iss (k : Core) (e : Effect) : (k.withhold e).iss = k.iss := rfl
@[simp] theorem Core.withhold_rq (k : Core) (e : Effect) : (k.withhold e).rq = k.rq := rfl
@[simp] theorem Core.withhold_rqAt (k : Core) (e : Effect) : (k.withhold e).rqAt = k.rqAt := rfl
@[simp] theorem Core.withhold_rqFrom (k : Core) (e : Effect) : (k.withhold e).rqFrom = k.rqFrom := rfl
@[simp] theorem Core.withhold_l1 (k : Core) (e : Effect) : (k.withhold e).l1 = k.l1 := rfl
@[simp] theorem Core.withhold_ws (k : Core) (e : Effect) : (k.withhold e).ws = k.ws := rfl
@[simp] theorem Core.withhold_as_ (k : Core) (e : Effect) : (k.withhold e).as_ = k.as_ := rfl
@[simp] theorem Core.withhold_scr (k : Core) (e : Effect) : (k.withhold e).scr = k.scr := rfl
@[simp] theorem Core.withhold_eng (k : Core) (e : Effect) : (k.withhold e).eng = k.eng := rfl
@[simp] theorem Core.withhold_ch (k : Core) (e : Effect) : (k.withhold e).ch = k.ch := rfl
@[simp] theorem Core.withhold_sched (k : Core) (e : Effect) : (k.withhold e).sched = k.sched := rfl
@[simp] theorem Core.withhold_tlb (k : Core) (e : Effect) : (k.withhold e).tlb = k.tlb := rfl
@[simp] theorem Core.withhold_ptlb (k : Core) (e : Effect) : (k.withhold e).ptlb = k.ptlb := rfl
@[simp] theorem Core.withhold_pipeFrom (k : Core) (e : Effect) : (k.withhold e).pipeFrom = k.pipeFrom := rfl
@[simp] theorem Core.withhold_poolFail (k : Core) (e : Effect) : (k.withhold e).poolFail = k.poolFail := rfl
@[simp] theorem Core.withhold_poolCause (k : Core) (e : Effect) : (k.withhold e).poolCause = k.poolCause := rfl
@[simp] theorem Core.withhold_netFail (k : Core) (e : Effect) : (k.withhold e).netFail = k.netFail := rfl
@[simp] theorem Core.withhold_netCause (k : Core) (e : Effect) : (k.withhold e).netCause = k.netCause := rfl
@[simp] theorem Core.withhold_count (k : Core) (e : Effect) : (k.withhold e).count = k.count := rfl
@[simp] theorem Core.withhold_recent (k : Core) (e : Effect) : (k.withhold e).recent = k.recent := rfl
@[simp] theorem Core.withhold_icache (k : Core) (e : Effect) : (k.withhold e).icache = k.icache := rfl
@[simp] theorem Core.withhold_noPage (k : Core) (e : Effect) : (k.withhold e).noPage = k.noPage := rfl
@[simp] theorem Core.setHold_job (k : Core) (h : Hold) : (k.setHold h).job = k.job := rfl
@[simp] theorem Core.setHold_lastCtx (k : Core) (h : Hold) : (k.setHold h).lastCtx = k.lastCtx := rfl
@[simp] theorem Core.setHold_regs (k : Core) (h : Hold) : (k.setHold h).regs = k.regs := rfl
@[simp] theorem Core.setHold_sh (k : Core) (h : Hold) : (k.setHold h).sh = k.sh := rfl
@[simp] theorem Core.setHold_sys (k : Core) (h : Hold) : (k.setHold h).sys = k.sys := rfl
@[simp] theorem Core.setHold_vec (k : Core) (h : Hold) : (k.setHold h).vec = k.vec := rfl
@[simp] theorem Core.setHold_acc (k : Core) (h : Hold) : (k.setHold h).acc = k.acc := rfl
@[simp] theorem Core.setHold_accPoison (k : Core) (h : Hold) : (k.setHold h).accPoison = k.accPoison := rfl
@[simp] theorem Core.setHold_ts (k : Core) (h : Hold) : (k.setHold h).ts = k.ts := rfl
@[simp] theorem Core.setHold_tsNew (k : Core) (h : Hold) : (k.setHold h).tsNew = k.tsNew := rfl
@[simp] theorem Core.setHold_wb (k : Core) (h : Hold) : (k.setHold h).wb = k.wb := rfl
@[simp] theorem Core.setHold_rq (k : Core) (h : Hold) : (k.setHold h).rq = k.rq := rfl
@[simp] theorem Core.setHold_rqAt (k : Core) (h : Hold) : (k.setHold h).rqAt = k.rqAt := rfl
@[simp] theorem Core.setHold_rqFrom (k : Core) (h : Hold) : (k.setHold h).rqFrom = k.rqFrom := rfl
@[simp] theorem Core.setHold_l1 (k : Core) (h : Hold) : (k.setHold h).l1 = k.l1 := rfl
@[simp] theorem Core.setHold_ws (k : Core) (h : Hold) : (k.setHold h).ws = k.ws := rfl
@[simp] theorem Core.setHold_as_ (k : Core) (h : Hold) : (k.setHold h).as_ = k.as_ := rfl
@[simp] theorem Core.setHold_scr (k : Core) (h : Hold) : (k.setHold h).scr = k.scr := rfl
@[simp] theorem Core.setHold_eng (k : Core) (h : Hold) : (k.setHold h).eng = k.eng := rfl
@[simp] theorem Core.setHold_ch (k : Core) (h : Hold) : (k.setHold h).ch = k.ch := rfl
@[simp] theorem Core.setHold_sched (k : Core) (h : Hold) : (k.setHold h).sched = k.sched := rfl
@[simp] theorem Core.setHold_tlb (k : Core) (h : Hold) : (k.setHold h).tlb = k.tlb := rfl
@[simp] theorem Core.setHold_ptlb (k : Core) (h : Hold) : (k.setHold h).ptlb = k.ptlb := rfl
@[simp] theorem Core.setHold_pipeFrom (k : Core) (h : Hold) : (k.setHold h).pipeFrom = k.pipeFrom := rfl
@[simp] theorem Core.setHold_poolFail (k : Core) (h : Hold) : (k.setHold h).poolFail = k.poolFail := rfl
@[simp] theorem Core.setHold_poolCause (k : Core) (h : Hold) : (k.setHold h).poolCause = k.poolCause := rfl
@[simp] theorem Core.setHold_netFail (k : Core) (h : Hold) : (k.setHold h).netFail = k.netFail := rfl
@[simp] theorem Core.setHold_netCause (k : Core) (h : Hold) : (k.setHold h).netCause = k.netCause := rfl
@[simp] theorem Core.setHold_count (k : Core) (h : Hold) : (k.setHold h).count = k.count := rfl
@[simp] theorem Core.setHold_recent (k : Core) (h : Hold) : (k.setHold h).recent = k.recent := rfl
@[simp] theorem Core.setHold_icache (k : Core) (h : Hold) : (k.setHold h).icache = k.icache := rfl
@[simp] theorem Core.setHold_noPage (k : Core) (h : Hold) : (k.setHold h).noPage = k.noPage := rfl
@[simp] theorem Core.popRq_job (k : Core) : (k.popRq).job = k.job := rfl
@[simp] theorem Core.popRq_lastCtx (k : Core) : (k.popRq).lastCtx = k.lastCtx := rfl
@[simp] theorem Core.popRq_regs (k : Core) : (k.popRq).regs = k.regs := rfl
@[simp] theorem Core.popRq_sh (k : Core) : (k.popRq).sh = k.sh := rfl
@[simp] theorem Core.popRq_sys (k : Core) : (k.popRq).sys = k.sys := rfl
@[simp] theorem Core.popRq_vec (k : Core) : (k.popRq).vec = k.vec := rfl
@[simp] theorem Core.popRq_acc (k : Core) : (k.popRq).acc = k.acc := rfl
@[simp] theorem Core.popRq_accPoison (k : Core) : (k.popRq).accPoison = k.accPoison := rfl
@[simp] theorem Core.popRq_ts (k : Core) : (k.popRq).ts = k.ts := rfl
@[simp] theorem Core.popRq_tsNew (k : Core) : (k.popRq).tsNew = k.tsNew := rfl
@[simp] theorem Core.popRq_iss (k : Core) : (k.popRq).iss = k.iss := rfl
@[simp] theorem Core.popRq_wb (k : Core) : (k.popRq).wb = k.wb := rfl
@[simp] theorem Core.popRq_rqFrom (k : Core) : (k.popRq).rqFrom = k.rqFrom := rfl
@[simp] theorem Core.popRq_l1 (k : Core) : (k.popRq).l1 = k.l1 := rfl
@[simp] theorem Core.popRq_ws (k : Core) : (k.popRq).ws = k.ws := rfl
@[simp] theorem Core.popRq_as_ (k : Core) : (k.popRq).as_ = k.as_ := rfl
@[simp] theorem Core.popRq_scr (k : Core) : (k.popRq).scr = k.scr := rfl
@[simp] theorem Core.popRq_eng (k : Core) : (k.popRq).eng = k.eng := rfl
@[simp] theorem Core.popRq_ch (k : Core) : (k.popRq).ch = k.ch := rfl
@[simp] theorem Core.popRq_sched (k : Core) : (k.popRq).sched = k.sched := rfl
@[simp] theorem Core.popRq_tlb (k : Core) : (k.popRq).tlb = k.tlb := rfl
@[simp] theorem Core.popRq_ptlb (k : Core) : (k.popRq).ptlb = k.ptlb := rfl
@[simp] theorem Core.popRq_pipeFrom (k : Core) : (k.popRq).pipeFrom = k.pipeFrom := rfl
@[simp] theorem Core.popRq_poolFail (k : Core) : (k.popRq).poolFail = k.poolFail := rfl
@[simp] theorem Core.popRq_poolCause (k : Core) : (k.popRq).poolCause = k.poolCause := rfl
@[simp] theorem Core.popRq_netFail (k : Core) : (k.popRq).netFail = k.netFail := rfl
@[simp] theorem Core.popRq_netCause (k : Core) : (k.popRq).netCause = k.netCause := rfl
@[simp] theorem Core.popRq_count (k : Core) : (k.popRq).count = k.count := rfl
@[simp] theorem Core.popRq_recent (k : Core) : (k.popRq).recent = k.recent := rfl
@[simp] theorem Core.popRq_icache (k : Core) : (k.popRq).icache = k.icache := rfl
@[simp] theorem Core.popRq_noPage (k : Core) : (k.popRq).noPage = k.noPage := rfl
@[simp] theorem Core.commit_job (k : Core) : (k.commit).job = k.job := rfl
@[simp] theorem Core.commit_lastCtx (k : Core) : (k.commit).lastCtx = k.lastCtx := rfl
@[simp] theorem Core.commit_regs (k : Core) : (k.commit).regs = k.regs := rfl
@[simp] theorem Core.commit_sys (k : Core) : (k.commit).sys = k.sys := rfl
@[simp] theorem Core.commit_vec (k : Core) : (k.commit).vec = k.vec := rfl
@[simp] theorem Core.commit_acc (k : Core) : (k.commit).acc = k.acc := rfl
@[simp] theorem Core.commit_accPoison (k : Core) : (k.commit).accPoison = k.accPoison := rfl
@[simp] theorem Core.commit_ts (k : Core) : (k.commit).ts = k.ts := rfl
@[simp] theorem Core.commit_tsNew (k : Core) : (k.commit).tsNew = k.tsNew := rfl
@[simp] theorem Core.commit_rqAt (k : Core) : (k.commit).rqAt = k.rqAt := rfl
@[simp] theorem Core.commit_rqFrom (k : Core) : (k.commit).rqFrom = k.rqFrom := rfl
@[simp] theorem Core.commit_l1 (k : Core) : (k.commit).l1 = k.l1 := rfl
@[simp] theorem Core.commit_ws (k : Core) : (k.commit).ws = k.ws := rfl
@[simp] theorem Core.commit_as_ (k : Core) : (k.commit).as_ = k.as_ := rfl
@[simp] theorem Core.commit_scr (k : Core) : (k.commit).scr = k.scr := rfl
@[simp] theorem Core.commit_eng (k : Core) : (k.commit).eng = k.eng := rfl
@[simp] theorem Core.commit_ch (k : Core) : (k.commit).ch = k.ch := rfl
@[simp] theorem Core.commit_sched (k : Core) : (k.commit).sched = k.sched := rfl
@[simp] theorem Core.commit_tlb (k : Core) : (k.commit).tlb = k.tlb := rfl
@[simp] theorem Core.commit_ptlb (k : Core) : (k.commit).ptlb = k.ptlb := rfl
@[simp] theorem Core.commit_pipeFrom (k : Core) : (k.commit).pipeFrom = k.pipeFrom := rfl
@[simp] theorem Core.commit_poolFail (k : Core) : (k.commit).poolFail = k.poolFail := rfl
@[simp] theorem Core.commit_poolCause (k : Core) : (k.commit).poolCause = k.poolCause := rfl
@[simp] theorem Core.commit_netFail (k : Core) : (k.commit).netFail = k.netFail := rfl
@[simp] theorem Core.commit_netCause (k : Core) : (k.commit).netCause = k.netCause := rfl
@[simp] theorem Core.commit_count (k : Core) : (k.commit).count = k.count := rfl
@[simp] theorem Core.commit_recent (k : Core) : (k.commit).recent = k.recent := rfl
@[simp] theorem Core.commit_icache (k : Core) : (k.commit).icache = k.icache := rfl
@[simp] theorem Core.commit_noPage (k : Core) : (k.commit).noPage = k.noPage := rfl
@[simp] theorem Core.rollback_job (k : Core) : (k.rollback).job = k.job := rfl
@[simp] theorem Core.rollback_lastCtx (k : Core) : (k.rollback).lastCtx = k.lastCtx := rfl
@[simp] theorem Core.rollback_sh (k : Core) : (k.rollback).sh = k.sh := rfl
@[simp] theorem Core.rollback_sys (k : Core) : (k.rollback).sys = k.sys := rfl
@[simp] theorem Core.rollback_acc (k : Core) : (k.rollback).acc = k.acc := rfl
@[simp] theorem Core.rollback_accPoison (k : Core) : (k.rollback).accPoison = k.accPoison := rfl
@[simp] theorem Core.rollback_ts (k : Core) : (k.rollback).ts = k.ts := rfl
@[simp] theorem Core.rollback_tsNew (k : Core) : (k.rollback).tsNew = k.tsNew := rfl
@[simp] theorem Core.rollback_rq (k : Core) : (k.rollback).rq = k.rq := rfl
@[simp] theorem Core.rollback_rqAt (k : Core) : (k.rollback).rqAt = k.rqAt := rfl
@[simp] theorem Core.rollback_rqFrom (k : Core) : (k.rollback).rqFrom = k.rqFrom := rfl
@[simp] theorem Core.rollback_l1 (k : Core) : (k.rollback).l1 = k.l1 := rfl
@[simp] theorem Core.rollback_ws (k : Core) : (k.rollback).ws = k.ws := rfl
@[simp] theorem Core.rollback_as_ (k : Core) : (k.rollback).as_ = k.as_ := rfl
@[simp] theorem Core.rollback_scr (k : Core) : (k.rollback).scr = k.scr := rfl
@[simp] theorem Core.rollback_eng (k : Core) : (k.rollback).eng = k.eng := rfl
@[simp] theorem Core.rollback_ch (k : Core) : (k.rollback).ch = k.ch := rfl
@[simp] theorem Core.rollback_sched (k : Core) : (k.rollback).sched = k.sched := rfl
@[simp] theorem Core.rollback_tlb (k : Core) : (k.rollback).tlb = k.tlb := rfl
@[simp] theorem Core.rollback_ptlb (k : Core) : (k.rollback).ptlb = k.ptlb := rfl
@[simp] theorem Core.rollback_pipeFrom (k : Core) : (k.rollback).pipeFrom = k.pipeFrom := rfl
@[simp] theorem Core.rollback_poolFail (k : Core) : (k.rollback).poolFail = k.poolFail := rfl
@[simp] theorem Core.rollback_poolCause (k : Core) : (k.rollback).poolCause = k.poolCause := rfl
@[simp] theorem Core.rollback_netFail (k : Core) : (k.rollback).netFail = k.netFail := rfl
@[simp] theorem Core.rollback_netCause (k : Core) : (k.rollback).netCause = k.netCause := rfl
@[simp] theorem Core.rollback_count (k : Core) : (k.rollback).count = k.count := rfl
@[simp] theorem Core.rollback_recent (k : Core) : (k.rollback).recent = k.recent := rfl
@[simp] theorem Core.rollback_icache (k : Core) : (k.rollback).icache = k.icache := rfl
@[simp] theorem Core.rollback_noPage (k : Core) : (k.rollback).noPage = k.noPage := rfl
@[simp] theorem Core.emit_iss_pc (k : Core) (cycle lat : Nat) (w : Wr) : (k.emit cycle lat w).iss.pc = k.iss.pc := rfl
@[simp] theorem Core.setHold_iss_pc (k : Core) (h : Hold) : (k.setHold h).iss.pc = k.iss.pc := rfl
@[simp] theorem Core.commit_iss_pc (k : Core) : k.commit.iss.pc = k.iss.pc := rfl
@[simp] theorem Core.emit_iss_regionStart (k : Core) (cycle lat : Nat) (w : Wr) : (k.emit cycle lat w).iss.regionStart = k.iss.regionStart := rfl
@[simp] theorem Core.setHold_iss_regionStart (k : Core) (h : Hold) : (k.setHold h).iss.regionStart = k.iss.regionStart := rfl
@[simp] theorem Core.emit_iss_region (k : Core) (cycle lat : Nat) (w : Wr) : (k.emit cycle lat w).iss.region = k.iss.region := rfl
@[simp] theorem Core.setHold_iss_region (k : Core) (h : Hold) : (k.setHold h).iss.region = k.iss.region := rfl
@[simp] theorem Core.emit_iss_nv (k : Core) (cycle lat : Nat) (w : Wr) : (k.emit cycle lat w).iss.nv = k.iss.nv := rfl
@[simp] theorem Core.setHold_iss_nv (k : Core) (h : Hold) : (k.setHold h).iss.nv = k.iss.nv := rfl
@[simp] theorem Core.emit_iss_nm (k : Core) (cycle lat : Nat) (w : Wr) : (k.emit cycle lat w).iss.nm = k.iss.nm := rfl
@[simp] theorem Core.setHold_iss_nm (k : Core) (h : Hold) : (k.setHold h).iss.nm = k.iss.nm := rfl
@[simp] theorem Core.emit_iss_nc (k : Core) (cycle lat : Nat) (w : Wr) : (k.emit cycle lat w).iss.nc = k.iss.nc := rfl
@[simp] theorem Core.setHold_iss_nc (k : Core) (h : Hold) : (k.setHold h).iss.nc = k.iss.nc := rfl
@[simp] theorem Core.emit_iss_nb (k : Core) (cycle lat : Nat) (w : Wr) : (k.emit cycle lat w).iss.nb = k.iss.nb := rfl
@[simp] theorem Core.setHold_iss_nb (k : Core) (h : Hold) : (k.setHold h).iss.nb = k.iss.nb := rfl
@[simp] theorem Core.emit_iss_wlog (k : Core) (cycle lat : Nat) (w : Wr) : (k.emit cycle lat w).iss.wlog = k.iss.wlog := rfl
@[simp] theorem Core.setHold_iss_wlog (k : Core) (h : Hold) : (k.setHold h).iss.wlog = k.iss.wlog := rfl
@[simp] theorem Core.setHold_iss_pend (k : Core) (h : Hold) : (k.setHold h).iss.pend = k.iss.pend := rfl
@[simp] theorem Core.commit_iss_pend (k : Core) : k.commit.iss.pend = k.iss.pend := rfl
@[simp] theorem Core.emit_iss_vpend (k : Core) (cycle lat : Nat) (w : Wr) : (k.emit cycle lat w).iss.vpend = k.iss.vpend := rfl
@[simp] theorem Core.setHold_iss_vpend (k : Core) (h : Hold) : (k.setHold h).iss.vpend = k.iss.vpend := rfl
@[simp] theorem Core.commit_iss_vpend (k : Core) : k.commit.iss.vpend = k.iss.vpend := rfl
@[simp] theorem Core.emit_iss_nextId (k : Core) (cycle lat : Nat) (w : Wr) : (k.emit cycle lat w).iss.nextId = k.iss.nextId := rfl
@[simp] theorem Core.setHold_iss_nextId (k : Core) (h : Hold) : (k.setHold h).iss.nextId = k.iss.nextId := rfl
@[simp] theorem Core.commit_iss_nextId (k : Core) : k.commit.iss.nextId = k.iss.nextId := rfl
@[simp] theorem Core.emit_iss_elig (k : Core) (cycle lat : Nat) (w : Wr) : (k.emit cycle lat w).iss.elig = k.iss.elig := rfl
@[simp] theorem Core.setHold_iss_elig (k : Core) (h : Hold) : (k.setHold h).iss.elig = k.iss.elig := rfl
@[simp] theorem Core.commit_iss_elig (k : Core) : k.commit.iss.elig = k.iss.elig := rfl
@[simp] theorem Core.emit_iss_hold (k : Core) (cycle lat : Nat) (w : Wr) : (k.emit cycle lat w).iss.hold = k.iss.hold := rfl
@[simp] theorem Core.commit_iss_hold (k : Core) : k.commit.iss.hold = k.iss.hold := rfl
@[simp] theorem Core.emit_iss_wmWait (k : Core) (cycle lat : Nat) (w : Wr) : (k.emit cycle lat w).iss.wmWait = k.iss.wmWait := rfl
@[simp] theorem Core.setHold_iss_wmWait (k : Core) (h : Hold) : (k.setHold h).iss.wmWait = k.iss.wmWait := rfl
@[simp] theorem Core.commit_iss_wmWait (k : Core) : k.commit.iss.wmWait = k.iss.wmWait := rfl
@[simp] theorem Core.emit_iss_trap (k : Core) (cycle lat : Nat) (w : Wr) : (k.emit cycle lat w).iss.trap = k.iss.trap := rfl
@[simp] theorem Core.setHold_iss_trap (k : Core) (h : Hold) : (k.setHold h).iss.trap = k.iss.trap := rfl
@[simp] theorem Core.commit_iss_trap (k : Core) : k.commit.iss.trap = k.iss.trap := rfl
@[simp] theorem Core.emit_iss_poisons (k : Core) (cycle lat : Nat) (w : Wr) : (k.emit cycle lat w).iss.poisons = k.iss.poisons := rfl
@[simp] theorem Core.setHold_iss_poisons (k : Core) (h : Hold) : (k.setHold h).iss.poisons = k.iss.poisons := rfl
@[simp] theorem Core.commit_iss_poisons (k : Core) : k.commit.iss.poisons = k.iss.poisons := rfl
@[simp] theorem Core.emit_iss_clamp (k : Core) (cycle lat : Nat) (w : Wr) : (k.emit cycle lat w).iss.clamp = k.iss.clamp := rfl
@[simp] theorem Core.setHold_iss_clamp (k : Core) (h : Hold) : (k.setHold h).iss.clamp = k.iss.clamp := rfl
@[simp] theorem Core.commit_iss_clamp (k : Core) : k.commit.iss.clamp = k.iss.clamp := rfl
@[simp] theorem Core.emit_iss_next (k : Core) (cycle lat : Nat) (w : Wr) : (k.emit cycle lat w).iss.next = k.iss.next := rfl
@[simp] theorem Core.setHold_iss_next (k : Core) (h : Hold) : (k.setHold h).iss.next = k.iss.next := rfl
@[simp] theorem Core.commit_iss_next (k : Core) : k.commit.iss.next = k.iss.next := rfl
@[simp] theorem Core.emit_iss_paid (k : Core) (cycle lat : Nat) (w : Wr) : (k.emit cycle lat w).iss.paid = k.iss.paid := rfl
@[simp] theorem Core.setHold_iss_paid (k : Core) (h : Hold) : (k.setHold h).iss.paid = k.iss.paid := rfl
@[simp] theorem Core.commit_iss_paid (k : Core) : k.commit.iss.paid = k.iss.paid := rfl
@[simp] theorem Core.emit_iss_ckpt (k : Core) (cycle lat : Nat) (w : Wr) : (k.emit cycle lat w).iss.ckpt = k.iss.ckpt := rfl
@[simp] theorem Core.setHold_iss_ckpt (k : Core) (h : Hold) : (k.setHold h).iss.ckpt = k.iss.ckpt := rfl
@[simp] theorem Core.emit_pend (k : Core) (cycle lat : Nat) (w : Wr) : (k.emit cycle lat w).iss.pend = k.iss.pend ++ [⟨cycle + lat - 1, k.iss.region, w⟩] := rfl
@[simp] theorem Core.withhold_wb (k : Core) (e : Effect) : (k.withhold e).wb = k.wb ++ [e] := rfl
@[simp] theorem Core.setHold_hold (k : Core) (h : Hold) : (k.setHold h).iss.hold = h := rfl
@[simp] theorem Core.commit_rq (k : Core) : k.commit.rq = k.rq ++ k.wb := rfl
@[simp] theorem Core.commit_wb (k : Core) : k.commit.wb = [] := rfl
@[simp] theorem Core.commit_sh (k : Core) : k.commit.sh = k.regs := rfl
@[simp] theorem Core.commit_ckpt (k : Core) : k.commit.iss.ckpt = false := rfl
@[simp] theorem Core.commit_region (k : Core) : k.commit.iss.region = k.iss.region + 1 := rfl
@[simp] theorem Core.commit_regionStart (k : Core) : k.commit.iss.regionStart = k.iss.pc := rfl

end Sys2Proof.Machine
end

