-- ==== Sys2Proof/Laws/Memory.lean ====
section
/-! SUPPORT. The laws of memory: a byte read after a write, which operations leave every byte alone, and that every operation that writes bytes keeps the canonical form. -/
namespace Sys2Proof.Machine

/-! ### Bytes at the home -/

theorem Mem.byte_setByte (m : Mem) (a a' : Nat) (b : Byte) : (m.setByte a b).byte a' = if a' = a then b else m.byte a' :=
  Bank.get_put unwritten m.bytes a a' b

theorem Mem.wf_setByte {m : Mem} (a : Nat) (b : Byte) (h : m.wf = true) : (m.setByte a b).wf = true := Bank.wf_put a b h

theorem Mem.wf_write {m : Mem} (a : Nat) (bs : List Byte) (h : m.wf = true) : (m.write a bs).wf = true := Bank.wf_putList bs a h

theorem Mem.wf_writeCells (cs : List (Nat × Byte)) : ∀ {m : Mem}, m.wf = true → (m.writeCells cs).wf = true := by
  induction cs with
  | nil => exact fun h => h
  | cons c t ih => exact fun h => ih (Mem.wf_setByte c.1 c.2 h)

/-- A byte outside the written run reads as before. -/
theorem Mem.byte_write_of_lt (m : Mem) (bs : List Byte) : ∀ (a x : Nat), x < a ∨ a + bs.length ≤ x → (m.write a bs).byte x = m.byte x := by
  suffices h : ∀ (l : List Byte) (b : Bank Byte) (a x : Nat), x < a ∨ a + l.length ≤ x → (b.putList unwritten a l).get unwritten x = b.get unwritten x from
    fun a x hx => h bs m.bytes a x hx
  intro l
  induction l with
  | nil => intros; rfl
  | cons v t ih =>
    intro b a x hx
    simp only [List.length_cons] at hx
    simp only [Bank.putList]
    rw [ih _ _ _ (by omega), Bank.get_put_ne _ _ _ (by omega)]

/-- A byte that no written cell names reads as before. -/
theorem Mem.byte_writeCells_of_ne (cs : List (Nat × Byte)) : ∀ (m : Mem) (x : Nat), (∀ c ∈ cs, c.1 ≠ x) → (m.writeCells cs).byte x = m.byte x := by
  induction cs with
  | nil => intros; rfl
  | cons c t ih =>
    intro m x hx
    have hc := hx c (by simp)
    show ((m.setByte c.1 c.2).writeCells t).byte x = _
    rw [ih _ _ fun d hd => hx d (by simp [hd]), Mem.byte_setByte, if_neg (Ne.symm hc)]

/-! ### Operations that leave every byte alone -/

@[simp] theorem Mem.bytes_setDesc (m : Mem) (blk : Nat) (d : BitVec 32) : (m.setDesc blk d).bytes = m.bytes := by
  unfold Mem.setDesc; split <;> rfl
@[simp] theorem Mem.bytes_setPoison (m : Mem) (blk : Nat) (b : Bool) : (m.setPoison blk b).bytes = m.bytes := rfl
@[simp] theorem Mem.bytes_send (m : Mem) (cy ln st : Nat) (l : List Monitor) : (m.send cy ln st l).bytes = m.bytes := rfl
@[simp] theorem Mem.bytes_fire (m : Mem) (cy ln st : Nat) : (m.fire cy ln st).bytes = m.bytes := by
  unfold Mem.fire; simp only; split <;> rfl
@[simp] theorem Mem.bytes_bump (m : Mem) (cy ln : Nat) : (m.bump cy ln).bytes = m.bytes := Mem.bytes_fire _ _ _ _
@[simp] theorem Mem.bytes_l2Touch (m : Mem) (ln c u : Nat) (d : Bool) : (m.l2Touch ln c u d).bytes = m.bytes := rfl
@[simp] theorem Mem.bytes_l2Pair (m : Mem) (ln : Nat) (o : Option Nat) : (m.l2Pair ln o).bytes = m.bytes := rfl
@[simp] theorem Mem.bytes_l2Drop (m : Mem) (cy ln : Nat) : (m.l2Drop cy ln).bytes = m.bytes := by
  unfold Mem.l2Drop; rw [Mem.bytes_fire]; split <;> rfl
@[simp] theorem Mem.bytes_l2Clean (m : Mem) (ln : Nat) : (m.l2Clean ln).bytes = m.bytes := rfl

/-- The canonical form speaks of the bytes alone. -/
theorem Mem.wf_of_bytes {m n : Mem} (h : n.bytes = m.bytes) : n.wf = m.wf := by unfold Mem.wf; rw [h]

@[simp] theorem Mem.wf_setDesc (m : Mem) (blk : Nat) (d : BitVec 32) : (m.setDesc blk d).wf = m.wf := Mem.wf_of_bytes (by simp)
@[simp] theorem Mem.wf_setPoison (m : Mem) (blk : Nat) (b : Bool) : (m.setPoison blk b).wf = m.wf := rfl
@[simp] theorem Mem.wf_fire (m : Mem) (cy ln st : Nat) : (m.fire cy ln st).wf = m.wf := Mem.wf_of_bytes (by simp)
@[simp] theorem Mem.wf_bump (m : Mem) (cy ln : Nat) : (m.bump cy ln).wf = m.wf := Mem.wf_of_bytes (by simp)
@[simp] theorem Mem.wf_l2Touch (m : Mem) (ln c u : Nat) (d : Bool) : (m.l2Touch ln c u d).wf = m.wf := rfl
@[simp] theorem Mem.wf_l2Drop (m : Mem) (cy ln : Nat) : (m.l2Drop cy ln).wf = m.wf := Mem.wf_of_bytes (by simp)
@[simp] theorem Mem.wf_l2Clean (m : Mem) (ln : Nat) : (m.l2Clean ln).wf = m.wf := rfl

theorem Mem.wf_foldl {α : Type} (f : Mem → α → Mem) (hf : ∀ m x, m.wf = true → (f m x).wf = true) (l : List α) :
    ∀ m : Mem, m.wf = true → (l.foldl f m).wf = true := by
  induction l with
  | nil => exact fun _ h => h
  | cons x t ih => exact fun m h => ih _ (hf m x h)

/-! ### The state's memory -/

/-- What changes no memory keeps the state sound. -/
theorem State.sound_of_mem {s t : State} (h : t.mem = s.mem) (hs : s.sound) : t.sound := by unfold State.sound at *; rw [h]; exact hs

theorem State.sound_foldl {α : Type} (f : State → α → State) (hf : ∀ s x, s.sound → (f s x).sound) (l : List α) :
    ∀ s : State, s.sound → (l.foldl f s).sound := by
  induction l with
  | nil => exact fun _ h => h
  | cons x t ih => exact fun s h => ih _ (hf s x h)

theorem State.sound_mem {s : State} {m : Mem} (h : m.wf = true) : ({ s with mem := m } : State).sound := h

@[simp] theorem State.sound_modCore (s : State) (c : Nat) (f : Core → Core) : (s.modCore c f).sound ↔ s.sound := Iff.rfl
@[simp] theorem State.sound_modMe (s : State) (f : Core → Core) : (s.modMe f).sound ↔ s.sound := Iff.rfl
@[simp] theorem State.sound_modEng (s : State) (c : Nat) (f : MEng → MEng) : (s.modEng c f).sound ↔ s.sound := Iff.rfl
@[simp] theorem State.sound_modEngines (s : State) (f : MEng → MEng) : (s.modEngines f).sound ↔ s.sound := Iff.rfl
@[simp] theorem State.sound_modHub (s : State) (f : Hub → Hub) : (s.modHub f).sound ↔ s.sound := Iff.rfl
@[simp] theorem State.sound_out (s : State) (e : Out) : (s.out e).sound ↔ s.sound := Iff.rfl
@[simp] theorem State.sound_meter (s : State) (c e n : Nat) : (s.meter c e n).sound ↔ s.sound := Iff.rfl

theorem State.sound_reset : State.reset.sound := rfl

/-- What leaves every byte alone keeps the state sound. -/
theorem State.sound_of_bytes {s t : State} (h : t.mem.bytes = s.mem.bytes) (hs : s.sound) : t.sound := (Mem.wf_of_bytes h).trans hs

/-! ### The L2 leaves every byte alone -/

@[simp] theorem State.mem_noteLine (s : State) (who : Option Nat) (ln i n : Nat) : (s.noteLine who ln i n).mem = s.mem := by
  unfold State.noteLine; split <;> rfl

/-- A fold of steps that leave every byte alone does so too. -/
theorem State.bytes_foldl {α : Type} (f : State → α → State) (hf : ∀ s x, (f s x).mem.bytes = s.mem.bytes) (l : List α) :
    ∀ s : State, (l.foldl f s).mem.bytes = s.mem.bytes := by
  induction l with
  | nil => exact fun _ => rfl
  | cons x t ih => exact fun s => (ih _).trans (hf s x)

@[simp] theorem State.bytes_giveUp (s : State) (ln : Nat) : (s.giveUp ln).mem.bytes = s.mem.bytes := by
  unfold State.giveUp
  exact State.bytes_foldl (fun (s : State) (x : Nat × Nat) => s.out (.cacheEvict x.1 (64 * x.2))) (fun _ _ => rfl) _ _

@[simp] theorem State.bytes_l2Evict (s : State) (who : Option Nat) (ln : Nat) : (s.l2Evict who ln).mem.bytes = s.mem.bytes := by
  unfold State.l2Evict
  simp only [Mem.bytes_l2Drop, State.bytes_giveUp]
  split <;> simp

@[simp] theorem State.bytes_l2Room (s : State) (who : Option Nat) (ln : Nat) : (s.l2Room who ln).mem.bytes = s.mem.bytes := by
  unfold State.l2Room
  simp only
  repeat' split
  all_goals simp

@[simp] theorem State.bytes_l2Unpair (s : State) (who : Option Nat) (ln : Nat) : (s.l2Unpair who ln).mem.bytes = s.mem.bytes := by
  unfold State.l2Unpair
  repeat' split
  all_goals simp

@[simp] theorem State.bytes_l2Use (s : State) (who : Option Nat) (ln cls : Nat) (d : Bool) : (s.l2Use who ln cls d).mem.bytes = s.mem.bytes := by
  unfold State.l2Use
  simp only [Mem.bytes_l2Touch]
  split <;> simp

@[simp] theorem State.bytes_dropSector (s : State) (blk : Nat) : (s.dropSector blk).mem.bytes = s.mem.bytes := by
  unfold State.dropSector
  simp only
  split <;> simp

@[simp] theorem State.bytes_evictPort (port n : Nat) : ∀ (fuel : Nat) (s : State), (s.evictPort port n fuel).mem.bytes = s.mem.bytes
  | 0, _ => rfl
  | fuel + 1, s => by
    unfold State.evictPort
    repeat' split
    · rfl
    · rw [State.bytes_evictPort port n fuel]; simp
    · rfl

@[simp] theorem State.bytes_takeSector (s : State) (blk : Nat) : (s.takeSector blk).2.mem.bytes = s.mem.bytes := by
  unfold State.takeSector
  simp only
  repeat' split
  all_goals simp

@[simp] theorem State.bytes_l2Take (s : State) (who : Option Nat) (blk cls : Nat) (d : Bool) : (s.l2Take who blk cls d).mem.bytes = s.mem.bytes := by
  unfold State.l2Take
  simp only
  split <;> simp

/-! ### What merges bytes keeps the form -/

/-- The hub's back-invalidate merges the hosts' bytes and keeps the form (R331). -/
theorem State.sound_backInvalidate {s : State} (blk : Nat) (h : s.sound) : (s.backInvalidate blk).sound := by
  unfold State.backInvalidate
  simp only
  split
  · exact h
  · refine State.sound_foldl _ (fun s x hs => by simpa using hs) _ _ ?_
    show Mem.wf _ = true
    split
    · exact h
    · rw [Mem.wf_bump, Mem.wf_of_bytes (State.bytes_l2Use _ _ _ _ _)]; exact Mem.wf_writeCells _ h

theorem State.sound_snoopRaw {s : State} (blk : Nat) (h : s.sound) : (s.snoopRaw blk).sound := by
  unfold State.snoopRaw
  split
  · exact h
  · simpa using State.sound_backInvalidate blk h

/-- Bytes merging at the home keep the form (R108). -/
theorem State.sound_mergeHome {s : State} (who : Option Nat) (blk : Nat) (cells : List (Nat × Byte)) (desc : Option (BitVec 32)) (w p : Bool) (cls : Nat) (h : s.sound) :
    (s.mergeHome who blk cells desc w p cls).sound := by
  have := Mem.wf_writeCells cells (State.sound_snoopRaw blk h)
  unfold State.mergeHome State.sound
  rw [Mem.wf_of_bytes (State.bytes_l2Use _ _ _ _ _)]
  cases desc <;> simp only [Mem.wf_setDesc] <;> (repeat' split) <;> simpa using this

theorem State.sound_mergeSector {s : State} (c ln i : Nat) (h : s.sound) : (s.mergeSector c ln i).sound := by
  unfold State.mergeSector; simpa using State.sound_mergeHome _ _ _ _ _ _ _ h

/-- Recalled ownership keeps the form (R110). -/
theorem State.sound_recall {s : State} (ln : Nat) (h : s.sound) : (s.recall ln).sound := by
  unfold State.recall
  split
  · exact h
  · rename_i o _
    have h0 : ∀ b : Bool, (if b = true then s.mergeSector o ln 0 else s).sound := fun b => by
      split
      · exact State.sound_mergeSector _ _ _ h
      · exact h
    have h1 : ∀ b d : Bool, (if d = true then (if b = true then s.mergeSector o ln 0 else s).mergeSector o ln 1 else if b = true then s.mergeSector o ln 0 else s).sound := fun b d => by
      split
      · exact State.sound_mergeSector _ _ _ (h0 b)
      · exact h0 b
    unfold State.sound
    simp only [Mem.wf_bump]
    exact h1 _ _

/-- The hub's back-invalidate keeps the form: a host's modified bytes first recall ownership (R109, R331). -/
theorem State.sound_snoopBlock {s : State} (blk : Nat) (h : s.sound) : (s.snoopBlock blk).sound := by
  unfold State.snoopBlock
  refine State.sound_snoopRaw _ ?_
  split
  · exact h
  · exact State.sound_recall _ h

theorem State.sound_snoopExcl {s : State} (blk : Nat) (h : s.sound) : (s.snoopExcl blk).sound := by
  unfold State.snoopExcl
  split
  · exact State.sound_snoopBlock blk h
  · exact h

theorem State.sound_bump {s : State} (cy ln : Nat) (h : s.sound) : ({ s with mem := s.mem.bump cy ln } : State).sound := by
  unfold State.sound at *; simpa using h

theorem State.sound_writeBack {s : State} (c ln i : Nat) (h : s.sound) : (s.writeBack c ln i).sound := by
  unfold State.writeBack
  simp only
  split
  · exact h
  split
  · split
    · simpa using h
    split
    · exact State.sound_recall _ h
    · exact State.sound_bump _ _ (State.sound_mergeSector c ln i h)
  · exact State.sound_bump _ _ (State.sound_mergeSector c ln i (State.sound_recall ln h))

theorem State.sound_writeBackLine {s : State} (c ln : Nat) (h : s.sound) : (s.writeBackLine c ln).sound :=
  State.sound_writeBack _ _ _ (State.sound_writeBack _ _ _ h)

theorem State.sound_flushLine {s : State} (c ln : Nat) (h : s.sound) : (s.flushLine c ln).sound := by
  unfold State.flushLine
  simp only [State.sound_modCore]
  split
  · exact State.sound_recall _ h
  · exact State.sound_writeBackLine _ _ h

theorem State.sound_writeBackAll {s : State} (c : Nat) (h : s.sound) : (s.writeBackAll c).sound :=
  State.sound_foldl _ (fun _ x hs => State.sound_writeBackLine c x hs) _ _ h
theorem State.sound_flushAll {s : State} (c : Nat) (h : s.sound) : (s.flushAll c).sound :=
  State.sound_foldl _ (fun _ x hs => State.sound_flushLine c x hs) _ _ h

@[simp] theorem State.sound_forwardAccess (s : State) (c blk : Nat) : (s.forwardAccess c blk).sound ↔ s.sound := by
  unfold State.forwardAccess; simp only; split <;> exact Iff.rfl

theorem State.sound_l2Take {s : State} (who : Option Nat) (blk cls : Nat) (d : Bool) (h : s.sound) : (s.l2Take who blk cls d).sound :=
  State.sound_of_bytes (State.bytes_l2Take _ _ _ _ _) h

@[simp] theorem State.sound_meterPool (s : State) (c pa n : Nat) : (s.meterPool c pa n).sound ↔ s.sound := by
  unfold State.meterPool; split <;> (try split) <;> simp

theorem State.sound_meterRead {s : State} (c blk : Nat) (again : Bool) (h : s.sound) : (s.meterRead c blk again).sound := by
  unfold State.meterRead
  repeat' split
  all_goals simpa using h

/-- A read at the home keeps the form: at most a window sector comes back first (R331). -/
theorem State.sound_readHome {s : State} (c blk cls : Nat) (alloc again : Bool) (h : s.sound) : (s.readHome c blk cls alloc again).2.sound := by
  have h2 := State.sound_snoopExcl blk (State.sound_meterRead c blk again h)
  unfold State.readHome
  simp only
  repeat' split
  · exact h2
  · exact State.sound_l2Take _ _ _ _ h2
  · exact h2

theorem State.sound_makeRoom {s : State} (c ln : Nat) (h : s.sound) : (s.makeRoom c ln).sound := by
  unfold State.makeRoom
  simp only
  split
  · exact h
  split
  · exact State.sound_flushLine _ _ h
  · exact h

theorem State.sound_fillSector {s : State} (c ln i cls : Nat) (again : Bool) (h : s.sound) : (s.fillSector c ln i cls again).sound := by
  unfold State.fillSector State.putBlock
  simpa using State.sound_readHome _ _ _ _ _ (State.sound_makeRoom c ln h)

@[simp] theorem State.sound_touchL1 (s : State) (c ln ev : Nat) (r : Bool) : (s.touchL1 c ln ev r).sound ↔ s.sound := Iff.rfl

/-- A load of a block keeps the form (R103, R173). -/
theorem State.sound_readBlockOver {s : State} (own : List (Nat × Byte)) (c blk ev : Nat) (need : List Nat) (again : Bool) (h : s.sound) :
    (s.readBlockOver own c blk ev need again).2.sound := by
  unfold State.readBlockOver
  simp only
  split
  · exact h
  split
  · simpa using h
  split
  · exact State.sound_readHome _ _ _ _ _ h
  · simpa using State.sound_fillSector _ _ _ _ _ h

theorem State.sound_readBlock {s : State} (c blk ev : Nat) (need : List Nat) (h : s.sound) : (s.readBlock c blk ev need).2.sound :=
  State.sound_readBlockOver _ _ _ _ _ _ h
theorem State.sound_readEngine {s : State} (c blk ev : Nat) (again : Bool) (h : s.sound) : (s.readEngine c blk ev again).2.sound :=
  State.sound_readBlockOver _ _ _ _ _ _ h

/-- A fold whose accumulator holds a sound state ends in one, when each of its steps keeps it sound. -/
theorem State.sound_foldl_of {α β : Type} (st : β → State) (f : β → α → β) (hf : ∀ b x, (st b).sound → (st (f b x)).sound) (l : List α) :
    ∀ b : β, (st b).sound → (st (l.foldl f b)).sound := by
  induction l with
  | nil => exact fun _ h => h
  | cons x t ih => exact fun b h => ih _ (hf b x h)

theorem State.sound_readPhysOver {s : State} (own : List (Nat × Byte)) (c pa n ev : Nat) (h : s.sound) : (s.readPhysOver own c pa n ev).2.2.sound := by
  unfold State.readPhysOver
  exact State.sound_foldl_of (fun a : Option Nat × List Byte × Option Nat × State => a.2.2.2) _ (fun _ _ hs => State.sound_readBlockOver _ _ _ _ _ _ hs) _ _ h

theorem State.sound_readPhys {s : State} (c pa n ev : Nat) (h : s.sound) : (s.readPhys c pa n ev).2.2.sound := State.sound_readPhysOver _ _ _ _ _ h

theorem State.sound_sign {s : State} (c blk : Nat) (u : Bool) (h : s.sound) : (s.sign c blk u).sound := by
  unfold State.sign; split <;> simpa using h

theorem State.sound_dirtyL1 {s : State} (c : Nat) (p : Piece) (cls : Nat) (d : Option (BitVec 32)) (po : Bool) (h : s.sound) : (s.dirtyL1 c p cls d po).sound := by
  unfold State.dirtyL1; simpa using State.sound_makeRoom _ _ h

@[simp] theorem State.sound_storeTiles (s : State) (c pa n : Nat) : (s.storeTiles c pa n).sound ↔ s.sound := Iff.rfl

/-- A direct merge at the home keeps the form (R256, R334). -/
theorem State.sound_mergeDirect {s : State} (who : Option Nat) (pa : Nat) (bs : List Byte) (d : Option (BitVec 32)) (po : Bool) (cls : Nat) (h : s.sound) :
    (s.mergeDirect who pa bs d po cls).sound := by
  unfold State.mergeDirect State.sound
  simp only [Mem.wf_bump]
  exact State.sound_mergeHome who (pa / 64) _ d _ po cls (State.sound_recall _ h)

/-- What a moving page's frame takes keeps the form (R327). -/
theorem State.sound_mirror {s : State} (pa : Nat) (bs : List Byte) (po : Bool) (h : s.sound) : (s.mirror pa bs po).sound := by
  unfold State.mirror
  refine State.sound_foldl _ (fun s m hs => ?_) _ _ h
  split
  · exact State.sound_mergeDirect _ _ _ _ _ _ hs
  · exact hs

theorem State.sound_poolWrite {s : State} (c : Nat) (p : Piece) (sync : Option (Nat × Nat)) (po again : Bool) (h : s.sound) : (s.poolWrite c p sync po again).sound := by
  unfold State.poolWrite
  show ((if again = true then s else s.forwardAccess c (p.pa / 64)).mirror p.pa p.bytes po).sound
  refine State.sound_mirror _ _ _ ?_
  split
  · exact h
  · exact (State.sound_forwardAccess s c (p.pa / 64)).mpr h

theorem State.sound_cleanHome {s : State} (c ln : Nat) (h : s.sound) : (s.cleanHome c ln).sound := by
  unfold State.cleanHome State.sound
  simp only [Mem.wf_l2Clean]
  split
  · exact (State.sound_meter _ _ _ _).mpr h
  · exact h

theorem State.sound_dropHome {s : State} (c ln : Nat) (h : s.sound) : (s.dropHome c ln).sound := by
  unfold State.dropHome State.sound
  simp only [Mem.wf_l2Drop]
  exact State.sound_of_bytes (State.bytes_giveUp _ _) (State.sound_cleanHome c ln h)

theorem State.sound_scopeRecall {s : State} (scope : Nat) (lines : List Nat) (h : s.sound) : (s.scopeRecall scope lines).sound := by
  unfold State.scopeRecall
  split
  · exact State.sound_foldl _ (fun _ x hs => State.sound_recall x hs) _ _ h
  · exact h

/-- A store piece written through to the remote range keeps the form (R111). -/
theorem State.sound_writeRemote {s : State} (c ev : Nat) (p : Piece) (po again : Bool) (h : s.sound) : (s.writeRemote c ev p po again).sound := by
  unfold State.writeRemote
  refine State.sound_poolWrite _ _ _ _ _ ?_
  split <;> simpa using h

/-- A store piece performing keeps the form (R108, R111). -/
theorem State.sound_performPiece {s : State} (c ev : Nat) (p : Piece) (po again : Bool) (h : s.sound) : (s.performPiece c ev p po again).sound := by
  unfold State.performPiece
  simp only
  refine State.sound_sign _ _ _ ((State.sound_storeTiles _ _ _ _).mpr ?_)
  split
  · exact State.sound_writeRemote _ _ _ _ _ h
  have h1 : ∀ b : Bool, (if b = true then s.dirtyL1 c p ev none po else
      ({ ((s.recall (p.pa / 128)).mergeHome (some c) (p.pa / 64) p.cells none (p.bytes.length == 64) po 3) with
        mem := ((s.recall (p.pa / 128)).mergeHome (some c) (p.pa / 64) p.cells none (p.bytes.length == 64) po 3).mem.bump
          ((s.recall (p.pa / 128)).mergeHome (some c) (p.pa / 64) p.cells none (p.bytes.length == 64) po 3).cycle (p.pa / 128) } : State)).sound := fun b => by
    split
    · exact State.sound_dirtyL1 _ _ _ _ _ h
    · exact State.sound_bump _ _ (State.sound_mergeHome (some c) (p.pa / 64) p.cells none _ po 3 (State.sound_recall (p.pa / 128) h))
  split
  · exact State.sound_dropHome _ _ (h1 _)
  · exact h1 _

theorem State.sound_performStore {s : State} (c ev scope : Nat) (ps : List Piece) (h : s.sound) : (s.performStore c ev scope ps).sound :=
  State.sound_foldl_of (fun a : Option Nat × State => a.2) _ (fun _ x hs => State.sound_performPiece c ev x _ _ hs) _ _ (State.sound_scopeRecall _ _ h)

theorem State.sound_mergeRun (d : Option (BitVec 32)) : ∀ (fuel : Nat) {s : State} (pa : Nat) (bs : List Byte), s.sound → (s.mergeRun d pa bs fuel).sound
  | 0, _, _, _, h => h
  | fuel + 1, s, pa, bs, h => by
    unfold State.mergeRun
    split
    · exact h
    · exact State.sound_mergeRun d fuel _ _ (State.sound_mergeDirect _ _ _ _ _ _ h)

theorem State.sound_homeAll {s : State} (line : Nat) (h : s.sound) : (s.homeAll line).sound :=
  State.sound_snoopBlock _ (State.sound_snoopBlock _ (State.sound_recall _ h))

theorem State.sound_publishHere {s : State} (c line scope : Nat) (r : Bool) (cells : List (Nat × Byte)) (e : Option Nat) (h : s.sound) :
    (s.publishHere c line scope r cells e).sound := by
  unfold State.publishHere
  simp only [State.sound_modCore]
  refine State.sound_foldl _ (fun _ x hs => State.sound_mirror _ _ _ hs) _ _ (State.sound_mirror _ _ _ ?_)
  refine State.sound_bump _ _ (State.sound_l2Take _ _ _ _ ?_)
  exact Mem.wf_writeCells _ (Mem.wf_write _ _ h)

/-- `Publish` keeps the form (R116). -/
theorem State.sound_publish {s : State} (c line scope : Nat) (r : Bool) (cells : List (Nat × Byte)) (e : Option Nat) (h : s.sound) :
    (s.publish c line scope r cells e).sound := by
  unfold State.publish State.deadWrite
  split
  · rename_i u hu
    split at hu
    · cases hu; exact h
    · cases hu
  · exact State.sound_publishHere _ _ _ _ _ _ (State.sound_homeAll _ h)

theorem State.sound_absorb {s : State} (c : Nat) (w : Pred) (h : s.sound) : (s.absorb c w).sound := by
  unfold State.absorb
  simpa using State.sound_foldl _ (fun _ x hs => State.sound_flushLine c x hs) _ _ h

@[simp] theorem State.sound_dropRemote (s : State) (c : Nat) : (s.dropRemote c).sound ↔ s.sound := Iff.rfl

theorem State.sound_acquired {s : State} (c scope : Nat) (w : Pred) (h : s.sound) : (s.acquired c scope w).sound := by
  unfold State.acquired
  split
  · exact h
  · simp only
    split
    · simpa using State.sound_absorb c w h
    · exact State.sound_absorb c w h

theorem State.sound_keepAcquired {s : State} (c ln ev : Nat) (b : Block) (h : s.sound) : (s.keepAcquired c ln ev b).sound := by
  unfold State.keepAcquired State.putBlock
  simp only
  repeat' split
  · exact h
  all_goals simpa using State.sound_makeRoom c ln h

theorem State.sound_acquireRead {s : State} (pa n scope ev : Nat) (keep : Bool) (h : s.sound) : (s.acquireRead pa n scope ev keep).2.2.2.sound := by
  unfold State.acquireRead
  simp only
  have h1 : (if 2 ≤ scope then s.recall (pa / 128) else s).sound := by
    split
    · exact State.sound_recall _ h
    · exact h
  split
  · exact State.sound_keepAcquired _ _ _ _ (State.sound_readHome _ _ _ _ _ (State.sound_readHome _ _ _ _ _ h1))
  · exact State.sound_readHome _ _ _ _ _ (State.sound_readHome _ _ _ _ _ h1)

end Sys2Proof.Machine
end

