-- ==== Sys2Proof/Laws/Ops.lean ====
section
/-! SUPPORT. One lemma for each shared operation that says what it does: an issued write, a withheld effect, a pending result, a trap and the return from one, commit and rollback. -/
namespace Sys2Proof.Machine

/-- A write issued by the acting core (R76). -/
theorem State.emit_issues (s : State) (lat : Nat) (w : Wr) : s.issues (s.emit lat w) lat [w] := by
  refine ⟨⟨rfl, rfl, rfl, rfl, rfl, rfl, fun d hd => State.modMe_core_ne _ _ hd⟩, ?_, rfl, ?_⟩
  · show Core.onlyPend _ _; rw [State.emit_me]; rfl
  · rw [State.emit_me]; rfl

/-- Writes issued in order leave a core with them at the end of what is pending. -/
theorem Core.emit_foldl (cycle lat : Nat) (ws : List Wr) (c : Core) :
    ws.foldl (fun c w => c.emit cycle lat w) c =
      { c with iss := { c.iss with pend := c.iss.pend ++ ws.map fun w => ⟨cycle + lat - 1, c.iss.region, w⟩ } } := by
  induction ws generalizing c with
  | nil => simp
  | cons w t ih => rw [List.foldl_cons, ih]; simp [Core.emit]

/-- Several writes issued by the acting core (R76). -/
theorem State.emits_issues (s : State) (lat : Nat) (ws : List Wr) : s.issues (s.emits lat ws) lat ws := by
  refine ⟨⟨rfl, rfl, rfl, rfl, rfl, rfl, fun d hd => State.modMe_core_ne _ _ hd⟩, ?_, rfl, ?_⟩
  · show Core.onlyPend _ _; simp [State.emits, Core.onlyPend, Core.emit_foldl]
  · simp [State.emits, Core.emit_foldl]

/-- An effect withheld by the acting core (R102). -/
theorem State.withhold_withholds (s : State) (e : Effect) : s.withholds (s.withhold e) [e] := by
  refine ⟨⟨rfl, rfl, rfl, rfl, rfl, rfl, fun d hd => State.modMe_core_ne _ _ hd⟩, ?_, rfl, ?_⟩
  · show Core.onlyWithheld _ _; simp [State.withhold, Core.withhold, Core.onlyWithheld]
  · simp [State.withhold, Core.withhold]

/-- A result registered by the acting core (R78). -/
theorem State.addVar_pends (s : State) (kind : VKind) (regs : List RegName) (wr : List Wr) (ready : Option Nat) (hold : Bool) (poison : Option (Nat × W72)) :
    s.pends (s.modMe fun c => (c.addVar kind regs wr ready hold poison).2) ⟨s.me.iss.nextId, kind, s.me.iss.region, regs, wr, ready, hold, poison⟩ := by
  refine ⟨⟨rfl, rfl, rfl, rfl, rfl, rfl, fun d hd => State.modMe_core_ne _ _ hd⟩, rfl, rfl, rfl, ?_⟩
  simp [Core.addVar]

/-- A trap enters at once where nothing of a committed region is pending (R311). -/
theorem State.takeTrap_now (s : State) (c : Nat) (r : TrapReq) (h : (s.core c).committedPending = false) : s.takeTrap c r = s.enterTrap c r := by
  simp [State.takeTrap, h]
/-- Else it waits, and nothing else changes (R311). -/
theorem State.takeTrap_later (s : State) (c : Nat) (r : TrapReq) (h : (s.core c).committedPending = true) :
    s.takeTrap c r = s.modCore c fun k => { k with iss := { k.iss with trap := some r } } := by
  simp [State.takeTrap, h]
/-- A trap below level 2 stays within its core (R308 to R311). -/
theorem State.enterTrap_onlyCore (s : State) (c : Nat) (r : TrapReq) (h : (s.core c).sys.level < 2) : s.onlyCore (s.enterTrap c r) c := by
  unfold State.enterTrap
  dsimp only
  rw [if_neg (by split_ifs <;> simp only [Core.rollback, Core.commit, Core.walksSpent] <;> omega)]
  exact ⟨rfl, rfl, rfl, rfl, rfl, rfl, fun d hd => State.setCore_core_ne _ _ hd⟩

/-- What a commit leaves (R304): the same registers, in the shadow too, and WB behind RQ. -/
theorem Core.commit_spec (c : Core) : c.commit.regs = c.regs ∧ c.commit.sh = c.regs ∧ c.commit.rq = c.rq ++ c.wb ∧ c.commit.wb = [] ∧ c.commit.vec = c.vec ∧ c.commit.iss.regionStart = c.iss.pc :=
  ⟨rfl, rfl, rfl, rfl, rfl, rfl⟩
/-- What a rollback leaves (R307): the shadow's registers, the logged vectors as they were, an empty WB, and the region's start. -/
theorem Core.rollback_spec (c : Core) : c.rollback.regs = c.sh ∧ c.rollback.vec = restoreLog c.vec c.iss.wlog ∧ c.rollback.wb = [] ∧ c.rollback.rq = c.rq ∧ c.rollback.iss.pc = c.iss.regionStart :=
  ⟨rfl, rfl, rfl, rfl, rfl⟩
/-- A core that commits and then rolls back keeps what it committed (R304, R307). -/
theorem Core.rollback_commit (c : Core) : c.commit.rollback.regs = c.regs ∧ c.commit.rollback.vec = c.vec ∧ c.commit.rollback.rq = c.rq ++ c.wb ∧ c.commit.rollback.iss.pc = c.iss.pc :=
  ⟨rfl, rfl, rfl, rfl⟩

end Sys2Proof.Machine
end

