-- ==== Sys2Proof/Tests/Slice0.lean ====
section
/-! SUPPORT. The model's own tests: ill-formed operations that the checks refuse, words from the spec's encodings, and for each statement states that meet the hypotheses of its clauses, with the outcome of one transition there. Expected values are worked out by hand from the rules. -/
namespace Sys2Proof.Tests
open Sys2Proof Sys2Proof.Machine Sys2Proof.Claims
set_option maxRecDepth 20000
set_option Elab.async false

/-! ### Helpers -/

/-- What holds of the next state that a transition answers. -/
def onNext (r : Res) (p : State → Bool) : Bool := match r with | .next t => p t | _ => false
/-- The state whose core 0 is `k`. -/
def one (k : Core) : State := { cores := [(0, k)] }
/-- The fixed-latency writes that the acting core issues. -/
def issuesWr (i : Instr) (s : State) (l : List (Nat × Wr)) : Bool :=
  onNext (exec i s) fun t => t.me.iss.pend == s.me.iss.pend ++ l.map fun x => ⟨s.cycle + x.1 - 1, s.me.iss.region, x.2⟩
/-- The acting core takes a precise trap with this code, detail and address. -/
def trapsWith (i : Instr) (s : State) (code det : Nat) (a : W72) : Bool := onNext (exec i s) fun t => t == s.precise ⟨code, det, 0, 0, a⟩ && decide (s.me.sys.level < t.me.sys.level)
/-- The effects that the acting core withholds. -/
def withholdsE (i : Instr) (s : State) (l : List Effect) : Bool := onNext (exec i s) fun t => t.me.wb == s.me.wb ++ l

/-! ### Ill-formed operations, one or more for each check (R58, R62 to R64, R72) -/

theorem test_wf_zero_fields :
    ([.cnz ⟨1, 1, 1⟩, .gtos ⟨1, 1, 0⟩, .stog ⟨1, 1, 0⟩, .amov ⟨1, 1, 1⟩, .tsrd ⟨1, 1, 1⟩, .lih ⟨1, 0x80000⟩, .alih ⟨1, 0x8000000⟩, .bget ⟨1, 1, 1⟩, .br ⟨1, 0, 2⟩, .call ⟨0, 1, 2⟩,
      .ret ⟨1, 0, 1⟩, .brs ⟨1, 1, 1⟩, .lbr ⟨1, 0, 1⟩, .trap ⟨1, 0, 0⟩, .tret ⟨0, 1, 0⟩, .idle ⟨0, 0, 1⟩, .tlbinvCtx ⟨1, 1, 1⟩, .tlbinvAll ⟨1, 1, 0⟩, .stitchUnbind ⟨1, 1, 1⟩, .vadd ⟨0, 8, 0, 0, 1, 1, 1, 1⟩] : List Instr).all
      (fun i => fieldReason 1024 32 i == some 2) = true := by decide +kernel
theorem test_wf_zero_fields_more :
    ([.pref ⟨0, 0, 0, 1, 1, 0⟩, .xadd ⟨1, 1, 1, 1, 0⟩, .xshl ⟨1, 1, 1, 0, 1⟩, .xcmp ⟨1, 1, 1, 0, 8⟩, .xld ⟨1, 1, 1, 0, 0⟩, .xtov ⟨1, 1, 1, 0⟩, .xexp ⟨1, 1, 1, 4⟩, .mzero ⟨1, 0, 0, 0, 1⟩, .mpref ⟨1, 0, 0, 0, 0⟩,
      .mcancelAll ⟨0, 0, 0, 0, 0x1001⟩, .mstatEngine ⟨0, 0, 1, 1, 0x100000⟩, .mcall ⟨0, 0, 0, 1, 0⟩, .kstage ⟨0, 1, 0, 0, 0, 0, 0⟩, .kwm ⟨0, 0, 1, 1, 0, 1, 0⟩, .kcancelChannel ⟨0, 0, 0, 0, 0, 0, 4⟩, .kstat ⟨0, 0, 0, 0, 0, 1, 1⟩,
      .bsync ⟨0, 1, 0⟩, .barCfg ⟨0, 0, 0x100⟩, .relFence ⟨0, 0, 1, 0, 0⟩, .waitM ⟨0, 4, 0⟩, .waitK ⟨0, 1, 1⟩, .drain ⟨0, 1, 0, 1, 0⟩, .uadd ⟨1, 1, 1, 1⟩, .uaca ⟨1, 1⟩, .utopkg ⟨1, 1, 0⟩] : List Instr).all
      (fun i => fieldReason 1024 32 i == some 2) = true := by decide +kernel
theorem test_wf_register_classes :
    ([.aadd ⟨32, 1, 1⟩, .bset ⟨16, 1, 0⟩, .lcset ⟨4, 1, 0⟩, .mpset ⟨8, 1, 0⟩, .ceq ⟨16, 1, 1⟩, .gand ⟨1, 16, 1⟩, .tsrd ⟨1, 32, 0⟩, .pand ⟨0, 0, 0, 0, 16, 1, 1, 0⟩, .ldN64 ⟨0, 0, 0, 64, 1, 0⟩, .lda ⟨0, 0, 0, 32, 1, 0⟩] : List Instr).all
      (fun i => fieldReason 1024 32 i == some 3) = true := by decide +kernel
theorem test_wf_g0_p0_destination : fieldReason 1024 32 (.ceq ⟨0, 1, 1⟩) = some 3 ∧ fieldReason 1024 32 (.vceq ⟨0, 8, 0, 0, 0, 1, 1, 0⟩) = some 3 := by decide +kernel
/-- R59: a vector register at the kernel's vregs and an accumulator at its accs are outside their class. -/
theorem test_wf_declared_resources : fieldReason 16 4 (.vmov ⟨0, 8, 0, 0, 16, 1, 0, 0⟩) = some 3 ∧ fieldReason 17 4 (.vmov ⟨0, 8, 0, 0, 16, 1, 0, 0⟩) = none ∧ fieldReason 16 4 (.mtsclr ⟨4, 0, 0, 0, 0⟩) = some 3 := by decide +kernel
theorem test_wf_limits_scalar :
    ([.shli ⟨1, 1, 64⟩, .ctsb ⟨1, 1, 64⟩, .sexti ⟨1, 1, 0⟩, .sexti ⟨1, 1, 65⟩, .zexti ⟨1, 1, 0⟩, .atos ⟨1, 1, 2⟩, .shset ⟨5, 0, 0, 1, 0⟩, .shset ⟨1, 0, 6, 1, 0⟩, .sysrd ⟨1, 0x005⟩, .syswr ⟨1, 0x001⟩, .syswr ⟨1, 0x024⟩] : List Instr).all
      (fun i => fieldReason 1024 32 i == some 4) = true := by decide +kernel
theorem test_wf_limits_vector_types :
    ([.vadd ⟨0, 11, 0, 0, 1, 1, 1, 0⟩, .vadd ⟨0, 0, 1, 0, 1, 1, 1, 0⟩, .vadd ⟨0, 8, 0, 1, 1, 1, 1, 0⟩, .vdiv ⟨0, 0, 0, 1, 1, 1, 1, 0⟩, .vmin ⟨0, 8, 1, 0, 1, 1, 1, 0⟩, .vabs ⟨0, 4, 0, 0, 1, 1, 0, 0⟩, .vand ⟨0, 8, 0, 0, 1, 1, 1, 0⟩, .vrecip ⟨0, 0, 0, 0, 1, 1, 0, 0⟩,
      .vceq ⟨0, 13, 0, 0, 1, 1, 1, 0⟩, .vcun ⟨0, 0, 0, 0, 1, 1, 1, 0⟩, .vmov ⟨0, 13, 0, 0, 1, 1, 0, 0⟩, .pand ⟨0, 1, 0, 0, 1, 1, 1, 0⟩, .pcnt ⟨0, 0, 0, 0, 1, 1, 0, 4⟩, .vperm ⟨0, 0, 0, 0, 1, 1, 1, 1⟩, .vrot ⟨0, 8, 0, 0, 1, 1, 128⟩] : List Instr).all
      (fun i => fieldReason 1024 32 i == some 4) = true := by decide +kernel
theorem test_wf_limits_vector_values :
    ([.vconst ⟨0, 0, 0, 0, 1, 0, 128⟩, .vconst ⟨0, 4, 0, 0, 1, 0, BitVec.ofInt 20 (-1)⟩, .vconst ⟨0, 11, 0, 0, 1, 0, 256⟩, .vext ⟨0, 8, 0, 0, 0, 1, 1, 128⟩, .vcvt ⟨0, 8, 0, 0, 1, 1, 0, 9⟩, .vwiden ⟨0, 8, 0, 0, 1, 1, 0, 8⟩, .vnarrow ⟨0, 8, 0, 0, 1, 1, 1, 9⟩,
      .vaddScalar ⟨0, 11, 0, 0, 1, 1, 1, 0⟩, .vdivScalar ⟨0, 0, 0, 1, 1, 1, 1, 0⟩, .vminScalar ⟨0, 8, 1, 0, 1, 1, 1, 0⟩, .vandScalar ⟨0, 8, 0, 0, 1, 1, 1, 0⟩, .vsqrt ⟨0, 0, 0, 0, 1, 1, 0, 0⟩] : List Instr).all
      (fun i => fieldReason 1024 32 i == some 4) = true := by decide +kernel
theorem test_wf_limits_memory :
    ([.ldN8 ⟨1, 0, 0, 1, 1, 0⟩, .ldN8 ⟨0, 5, 0, 1, 1, 0⟩, .ldN8 ⟨0, 0, 7, 1, 1, 0⟩, .ldAcq .n8 ⟨0, 0, 0, 1, 1, 0⟩, .vldx ⟨0, 0, 0, 1, 1, 1, 7⟩, .stN8 ⟨0, 0, 6, 1, 1, 0⟩, .stRel .n8 ⟨1, 0, 0, 1, 1, 0⟩, .vstx ⟨0, 0, 0, 1, 1, 1, 7⟩, .cwb ⟨0, 5, 0, 0, 1, 0⟩,
      .svld ⟨0, 1, 0, 1, 1, 0, 0⟩, .svgth ⟨0, 0, 1, 1, 1, 0, 1, 0⟩, .atmAdd ⟨0, 5, 0, 1, 1, 0, 1, 0⟩, .atmCas ⟨0, 0, 6, 1, 1, 1, 1, 0⟩] : List Instr).all
      (fun i => fieldReason 1024 32 i == some 4) = true := by decide +kernel
theorem test_wf_limits_index_matrix :
    ([.xshl ⟨1, 1, 0, 0, 64⟩, .xpopc ⟨1, 1, 0, 0, 65⟩, .xcmp ⟨1, 1, 1, 0, 6⟩, .xadv ⟨1, 1, 2, 0, 0⟩, .xtov ⟨1, 1, 0, 64⟩, .mrepl ⟨0, 0, 0, 0, 0⟩, .mrepl ⟨0, 0, 0, 0, 9⟩, .mcancelId ⟨0, 0, 0, 0, 0x1000⟩, .mcancelAll ⟨0, 0, 0, 0, 0⟩, .mcancelFlush ⟨0, 0, 0, 0, 0x1000⟩, .mtopkSet ⟨0, 0, 0, 0, 9⟩,
      .mstatTile ⟨0, 0, 0, 1, 0x100000⟩, .mstatEngine ⟨0, 0, 0, 1, 0⟩, .mcall ⟨0, 0, 0, 0, 1⟩] : List Instr).all
      (fun i => fieldReason 1024 32 i == some 4) = true := by decide +kernel
theorem test_wf_limits_copy_sync_stitch :
    ([.kcopy ⟨0, 0, 6, 1, 1, 1, 0⟩, .kloop ⟨0, 0, 0, 1, 1, 1, 0⟩, .kcollAllReduce ⟨0, 0, 0, 1, 1, 1, 0x800⟩, .kcollAllGather ⟨0, 0, 3, 1, 1, 1, 0x811⟩, .kcollReduceScatter ⟨0, 0, 3, 1, 1, 1, 0x802 + 0x30⟩, .kcollBroadcast ⟨0, 0, 3, 1, 1, 1, 0x003⟩, .kstage ⟨0, 0, 0, 0, 0, 0, 1⟩, .kstageSched ⟨0, 0, 0, 0, 0, 0, 0⟩,
      .kcancelAll ⟨0, 0, 0, 0, 0, 0, 0⟩, .kcancelFlush ⟨0, 0, 0, 0, 0, 0, 1⟩, .ksyncrd ⟨1, 0, 0, 1, 0, 1, 0⟩, .ksyncrdWait ⟨0, 0, 0, 1, 0, 1, 0⟩, .bsync ⟨0, 0, 1⟩, .bsyncWait ⟨0, 0, 0⟩, .relSt ⟨5, 0, 1, 1, 0⟩, .acqLd ⟨0, 7, 1, 1, 0⟩, .relFence ⟨0, 1, 0, 0, 0⟩, .waitaddr ⟨1, 0, 1, 1, 0⟩, .waitM ⟨0, 1, 32⟩, .drain ⟨6, 0, 0, 1, 0⟩,
      .ujmp ⟨0, 0, 0, 0, 0⟩, .ubz ⟨0, 0, 0, 0, 512⟩, .uloop ⟨0, 0, 9, 0, 1⟩, .ushli ⟨1, 1, 0, 72⟩, .uldop ⟨1, 0, 0, 44⟩, .uldop ⟨1, 0, 40, 4⟩, .uacc ⟨0, 0⟩, .utopk ⟨9, 0, 0⟩] : List Instr).all
      (fun i => fieldReason 1024 32 i == some 4) = true := by decide +kernel
/-- The checks that a whole bundle adds (R72, R73): header bits, a `nop` with bits, a swap bit without an operation that has an hs field, a register written twice, and an opcode of VA in VB. -/
theorem test_wf_bundle :
    decodeBundle (BitVec.ofNat 512 (2 ^ 496)) = .error (2, 0) ∧ decodeBundle (BitVec.ofNat 512 (2 ^ 432)) = .error (2, 1) ∧ decodeBundle (BitVec.ofNat 512 (2 ^ 506)) = .error (5, 6) ∧
    decodeBundle (BitVec.ofNat 512 (0x0100_2000_0000_0000 * 2 ^ 432 + 0x50_0080_0000 * 2 ^ 40)) = .error (7, 8) ∧
    decodeBundle (BitVec.ofNat 512 (0x3000000000000000 * 2 ^ 304)) = .error (8, 3) ∧ decodeBundle (BitVec.ofNat 512 (0x3F * 2 ^ 34)) = .error (1, 9) := by decide +kernel

/-! ### Every operation's word, written out from R56, R61, R65 to R71 and R230 to R232 with distinct operands -/

theorem test_decode_scalar_system1 :
    ([(0x100e28c00000000, .add ⟨7, 5, 6⟩), (0x200e28c00000000, .sub ⟨7, 5, 6⟩), (0x300e28c00000000, .and ⟨7, 5, 6⟩),
      (0x400e28c00000000, .or ⟨7, 5, 6⟩), (0x500e28c00000000, .xor ⟨7, 5, 6⟩), (0x600e28c00000000, .andn ⟨7, 5, 6⟩),
      (0x700e28c00000000, .shl ⟨7, 5, 6⟩), (0x800e28c00000000, .shr ⟨7, 5, 6⟩), (0x900e28c00000000, .sar ⟨7, 5, 6⟩),
      (0xa00e28c00000000, .rotl ⟨7, 5, 6⟩), (0xb00e28c00000000, .minI64 ⟨7, 5, 6⟩), (0xc00e28c00000000, .maxI64 ⟨7, 5, 6⟩),
      (0xd00e28c00000000, .minN64 ⟨7, 5, 6⟩), (0xe00e28c00000000, .maxN64 ⟨7, 5, 6⟩), (0xf00e28c00000000, .mul ⟨7, 5, 6⟩),
      (0x1000e28c00000000, .mulhI64 ⟨7, 5, 6⟩), (0x1100e28c00000000, .mulhN64 ⟨7, 5, 6⟩), (0x1200e28c00000000, .divI32 ⟨7, 5, 6⟩),
      (0x1300e28c00000000, .divN32 ⟨7, 5, 6⟩), (0x1400e28c00000000, .divI64 ⟨7, 5, 6⟩), (0x1500e28c00000000, .divN64 ⟨7, 5, 6⟩),
      (0x1600e28c00000000, .remI32 ⟨7, 5, 6⟩), (0x1700e28c00000000, .remN32 ⟨7, 5, 6⟩), (0x1800e28c00000000, .remI64 ⟨7, 5, 6⟩),
      (0x1900e28c00000000, .remN64 ⟨7, 5, 6⟩), (0x2001218000000025, .addi ⟨9, 3, 37⟩)] : List (BitVec 64 × Instr)).all (fun x => rawDecode 1 x.1 == some (x.2, true) && wf x.2) = true := by decide +kernel
theorem test_decode_scalar_system2 :
    ([(0x2101218000000025, .andi ⟨9, 3, 37⟩), (0x2201218000000025, .ori ⟨9, 3, 37⟩), (0x2301218000000025, .xori ⟨9, 3, 37⟩),
      (0x2401218000000025, .shli ⟨9, 3, 37⟩), (0x2501218000000025, .shri ⟨9, 3, 37⟩), (0x2601218000000025, .sari ⟨9, 3, 37⟩),
      (0x2701218000000025, .muli ⟨9, 3, 37⟩), (0x2801218000000025, .miniI64 ⟨9, 3, 37⟩), (0x2901218000000025, .maxiI64 ⟨9, 3, 37⟩),
      (0x2a01218000000025, .sexti ⟨9, 3, 37⟩), (0x2b01218000000025, .zexti ⟨9, 3, 37⟩), (0x2c01200000012345, .li ⟨9, 0x12345⟩),
      (0x2d01200000012345, .lih ⟨9, 0x12345⟩), (0x3000e28c00000000, .ceq ⟨7, 5, 6⟩), (0x3100e28c00000000, .cne ⟨7, 5, 6⟩),
      (0x3200e28c00000000, .cltI64 ⟨7, 5, 6⟩), (0x3300e28c00000000, .cltN64 ⟨7, 5, 6⟩), (0x3400e28c00000000, .cleI64 ⟨7, 5, 6⟩),
      (0x3500e28c00000000, .cleN64 ⟨7, 5, 6⟩), (0x3600e28c00000000, .ctst ⟨7, 5, 6⟩), (0x3700e28000000000, .cnz ⟨7, 5, 0⟩),
      (0x3801218000000025, .ceqi ⟨9, 3, 37⟩), (0x3901218000000025, .cnei ⟨9, 3, 37⟩), (0x3a01218000000025, .cltiI64 ⟨9, 3, 37⟩),
      (0x3b01218000000025, .cltiN64 ⟨9, 3, 37⟩), (0x3c01218000000025, .cleiI64 ⟨9, 3, 37⟩)] : List (BitVec 64 × Instr)).all (fun x => rawDecode 1 x.1 == some (x.2, true) && wf x.2) = true := by decide +kernel
theorem test_decode_scalar_system3 :
    ([(0x3d01218000000025, .cleiN64 ⟨9, 3, 37⟩), (0x3e01218000000025, .ctsb ⟨9, 3, 37⟩), (0x4000e28c00000000, .gand ⟨7, 5, 6⟩),
      (0x4100e28c00000000, .gor ⟨7, 5, 6⟩), (0x4200e28c00000000, .gxor ⟨7, 5, 6⟩), (0x4300e28c00000000, .gandn ⟨7, 5, 6⟩),
      (0x4400e00000000000, .gtos ⟨7, 0, 0⟩), (0x4500028000000000, .stog ⟨0, 5, 0⟩), (0x4800e28c00000000, .aadd ⟨7, 5, 6⟩),
      (0x4901218000000025, .aaddi ⟨9, 3, 37⟩), (0x4a00e28c00000000, .asub ⟨7, 5, 6⟩), (0x4b00e28c00000000, .adiff ⟨7, 5, 6⟩),
      (0x4c00e00c00000000, .amov ⟨7, 0, 6⟩), (0x4d01200000012345, .ali ⟨9, 0x12345⟩), (0x4e01200000012345, .alih ⟨9, 0x12345⟩),
      (0x4f00e28200000000, .atos ⟨7, 5, 1⟩), (0x5001218000000025, .bset ⟨9, 3, 37⟩), (0x5101218000000000, .bget ⟨9, 3, 0⟩),
      (0x5200418000000025, .lcset ⟨2, 3, 37⟩), (0x5301218000000000, .lcget ⟨9, 3, 0⟩), (0x5400a18000000025, .mpset ⟨5, 3, 37⟩),
      (0x5501218000000000, .mpget ⟨9, 3, 0⟩), (0x56018c4000000005, .shset ⟨1, 2, 3, 4, 5⟩), (0x5700e28000000000, .tsrd ⟨7, 5, 0⟩),
      (0x5800007ffffffffb, .br ⟨0, 0, 0x7ffffffffb⟩), (0x5900007ffffffffb, .call ⟨0, 0, 0x7ffffffffb⟩)] : List (BitVec 64 × Instr)).all (fun x => rawDecode 1 x.1 == some (x.2, true) && wf x.2) = true := by decide +kernel
theorem test_decode_scalar_system4 :
    ([(0x5a03e00000000000, .ret ⟨31, 0, 0⟩), (0x5b00600000000007, .brs ⟨3, 0, 7⟩), (0x5c00600000000007, .calls ⟨3, 0, 7⟩),
      (0x5d00087ffffffffd, .lbr ⟨0, 1, 0x7ffffffffd⟩), (0xe000a02000000000, .sysrd ⟨5, 16⟩), (0xe100a01200000000, .syswr ⟨5, 9⟩),
      (0xe200000000000015, .trap ⟨0, 0, 21⟩), (0xe300000000000000, .tret ⟨0, 0, 0⟩), (0xe400000000000000, .idle ⟨0, 0, 0⟩),
      (0xe500e28c00000000, .tlbinvVa ⟨7, 5, 6⟩), (0xe600e00c00000000, .tlbinvCtx ⟨7, 0, 6⟩), (0xe700e00000000000, .tlbinvAll ⟨7, 0, 0⟩),
      (0xe801218000000025, .biasDev ⟨9, 3, 37⟩), (0xe901218000000025, .biasHost ⟨9, 3, 37⟩), (0xea00e28c00000000, .stitchIns ⟨7, 5, 6⟩),
      (0xeb00e28c00000000, .stitchBind ⟨7, 5, 6⟩), (0xec00e28000000000, .stitchUnbind ⟨7, 5, 0⟩), (0xed00e28c00000000, .stitchDrop ⟨7, 5, 6⟩),
      (0xee00e28000000000, .ctxEnd ⟨7, 5, 0⟩)] : List (BitVec 64 × Instr)).all (fun x => rawDecode 1 x.1 == some (x.2, true) && wf x.2) = true := by decide +kernel
theorem test_decode_vector1 :
    ([(0x101c0af00200400, .vadd ⟨3, 8, 0, 0, 0x2bc, 2, 1, 0⟩), (0x201c0af00200400, .vsub ⟨3, 8, 0, 0, 0x2bc, 2, 1, 0⟩), (0x301c0af00200400, .vmul ⟨3, 8, 0, 0, 0x2bc, 2, 1, 0⟩),
      (0x401c2af00200404, .vfma ⟨3, 8, 1, 0, 0x2bc, 2, 1, 4⟩), (0x501c2af00200404, .vfms ⟨3, 8, 1, 0, 0x2bc, 2, 1, 4⟩), (0x601c2af00200404, .vfnma ⟨3, 8, 1, 0, 0x2bc, 2, 1, 4⟩),
      (0x701c0af00200400, .vmin ⟨3, 8, 0, 0, 0x2bc, 2, 1, 0⟩), (0x801c0af00200400, .vmax ⟨3, 8, 0, 0, 0x2bc, 2, 1, 0⟩), (0x901c0af00200000, .vabs ⟨3, 8, 0, 0, 0x2bc, 2, 0, 0⟩),
      (0xa01c0af00200000, .vneg ⟨3, 8, 0, 0, 0x2bc, 2, 0, 0⟩), (0xb01b0af00200400, .vand ⟨3, 6, 0, 0, 0x2bc, 2, 1, 0⟩), (0xc01b0af00200400, .vor ⟨3, 6, 0, 0, 0x2bc, 2, 1, 0⟩),
      (0xd01b0af00200400, .vxor ⟨3, 6, 0, 0, 0x2bc, 2, 1, 0⟩), (0xe01b0af00200400, .vandn ⟨3, 6, 0, 0, 0x2bc, 2, 1, 0⟩), (0xf01b0af00200400, .vshl ⟨3, 6, 0, 0, 0x2bc, 2, 1, 0⟩),
      (0x1001b0af00200400, .vshr ⟨3, 6, 0, 0, 0x2bc, 2, 1, 0⟩), (0x1101b0af00200400, .vsar ⟨3, 6, 0, 0, 0x2bc, 2, 1, 0⟩), (0x1201b0af00200400, .vmulh ⟨3, 6, 0, 0, 0x2bc, 2, 1, 0⟩),
      (0x1301c0af00200400, .vdiv ⟨3, 8, 0, 0, 0x2bc, 2, 1, 0⟩), (0x1801c0af00200000, .vrecip ⟨3, 8, 0, 0, 0x2bc, 2, 0, 0⟩), (0x1901c0af00200000, .vrsqrt ⟨3, 8, 0, 0, 0x2bc, 2, 0, 0⟩),
      (0x1a01c0af00200000, .vsqrt ⟨3, 8, 0, 0, 0x2bc, 2, 0, 0⟩), (0x1b01c0af00200000, .vexp2 ⟨3, 8, 0, 0, 0x2bc, 2, 0, 0⟩), (0x1c01c0af00200000, .vlog2 ⟨3, 8, 0, 0, 0x2bc, 2, 0, 0⟩),
      (0x1d01c0af00200000, .vsin ⟨3, 8, 0, 0, 0x2bc, 2, 0, 0⟩), (0x1e01c0af00200000, .vcos ⟨3, 8, 0, 0, 0x2bc, 2, 0, 0⟩)] : List (BitVec 64 × Instr)).all (fun x => rawDecode 2 x.1 == some (x.2, true) && wf x.2) = true := by decide +kernel
theorem test_decode_vector2 :
    ([(0x1f01c0af00200000, .vtanh ⟨3, 8, 0, 0, 0x2bc, 2, 0, 0⟩), (0x2001c001c0200400, .vceq ⟨3, 8, 0, 0, 7, 2, 1, 0⟩), (0x2101c001c0200400, .vcne ⟨3, 8, 0, 0, 7, 2, 1, 0⟩),
      (0x2201c001c0200400, .vclt ⟨3, 8, 0, 0, 7, 2, 1, 0⟩), (0x2301c001c0200400, .vcle ⟨3, 8, 0, 0, 7, 2, 1, 0⟩), (0x2401c001c0200400, .vcgt ⟨3, 8, 0, 0, 7, 2, 1, 0⟩),
      (0x2501c001c0200400, .vcge ⟨3, 8, 0, 0, 7, 2, 1, 0⟩), (0x2601c001c0200400, .vcun ⟨3, 8, 0, 0, 7, 2, 1, 0⟩), (0x2701c001c0200101, .vclass ⟨3, 8, 0, 0, 7, 2, 0, 0x101⟩),
      (0x2801c0af00200400, .vsel ⟨3, 8, 0, 0, 0x2bc, 2, 1, 0⟩), (0x2901c0af00200404, .vperm ⟨3, 8, 0, 0, 0x2bc, 2, 1, 4⟩), (0x2a01c0af00200005, .vrot ⟨3, 8, 0, 0, 0x2bc, 2, 5⟩),
      (0x2b01c0af00002400, .vbcast ⟨3, 8, 0, 0, 0x2bc, 0, 9, 0⟩), (0x2c00400000202404, .vext ⟨0, 8, 0, 0, 0, 2, 9, 4⟩), (0x2d01c0af00202404, .vins ⟨3, 8, 0, 0, 0x2bc, 2, 9, 4⟩),
      (0x2e01c0af00200000, .vmov ⟨3, 8, 0, 0, 0x2bc, 2, 0, 0⟩), (0x2f01c0af00000005, .vconst ⟨3, 8, 0, 0, 0x2bc, 0, 5⟩), (0x3001c0af00200000, .vradd ⟨3, 8, 0, 0, 0x2bc, 2, 0, 0⟩),
      (0x3101c0af00200000, .vrmax ⟨3, 8, 0, 0, 0x2bc, 2, 0, 0⟩), (0x3201c0af00200000, .vrmin ⟨3, 8, 0, 0, 0x2bc, 2, 0, 0⟩), (0x3301b0af00200000, .vrand ⟨3, 6, 0, 0, 0x2bc, 2, 0, 0⟩),
      (0x3401b0af00200000, .vror ⟨3, 6, 0, 0, 0x2bc, 2, 0, 0⟩), (0x3501b0af00200000, .vrxor ⟨3, 6, 0, 0, 0x2bc, 2, 0, 0⟩), (0x3801c2af00200006, .vcvt ⟨3, 8, 1, 0, 0x2bc, 2, 0, 6⟩),
      (0x3901c0af00200000, .vqblk ⟨3, 8, 0, 0, 0x2bc, 2, 0, 0⟩), (0x3a01c0af00200019, .vwiden ⟨3, 8, 0, 0, 0x2bc, 2, 0, 25⟩)] : List (BitVec 64 × Instr)).all (fun x => rawDecode 2 x.1 == some (x.2, true) && wf x.2) = true := by decide +kernel
theorem test_decode_vector3 :
    ([(0x3b01caaf00200408, .vnarrow ⟨3, 9, 1, 0, 0x2bc, 2, 1, 8⟩), (0x40000001c0200400, .pand ⟨0, 0, 0, 0, 7, 2, 1, 0⟩), (0x41000001c0200400, .por ⟨0, 0, 0, 0, 7, 2, 1, 0⟩),
      (0x42000001c0200400, .pxor ⟨0, 0, 0, 0, 7, 2, 1, 0⟩), (0x43000001c0200000, .pnot ⟨0, 0, 0, 0, 7, 2, 0, 0⟩), (0x44000001c0200003, .pcnt ⟨0, 0, 0, 0, 7, 2, 0, 3⟩),
      (0x8101c0af00202400, .vaddScalar ⟨3, 8, 0, 0, 0x2bc, 2, 9, 0⟩), (0x8201c0af00202400, .vsubScalar ⟨3, 8, 0, 0, 0x2bc, 2, 9, 0⟩), (0x8301c0af00202400, .vmulScalar ⟨3, 8, 0, 0, 0x2bc, 2, 9, 0⟩),
      (0x8401c2af00202404, .vfmaScalar ⟨3, 8, 1, 0, 0x2bc, 2, 9, 4⟩), (0x8501c2af00202404, .vfmsScalar ⟨3, 8, 1, 0, 0x2bc, 2, 9, 4⟩), (0x8601c2af00202404, .vfnmaScalar ⟨3, 8, 1, 0, 0x2bc, 2, 9, 4⟩),
      (0x8701c0af00202400, .vminScalar ⟨3, 8, 0, 0, 0x2bc, 2, 9, 0⟩), (0x8801c0af00202400, .vmaxScalar ⟨3, 8, 0, 0, 0x2bc, 2, 9, 0⟩), (0x8b01b0af00202400, .vandScalar ⟨3, 6, 0, 0, 0x2bc, 2, 9, 0⟩),
      (0x8c01b0af00202400, .vorScalar ⟨3, 6, 0, 0, 0x2bc, 2, 9, 0⟩), (0x8d01b0af00202400, .vxorScalar ⟨3, 6, 0, 0, 0x2bc, 2, 9, 0⟩), (0x8e01b0af00202400, .vandnScalar ⟨3, 6, 0, 0, 0x2bc, 2, 9, 0⟩),
      (0x8f01b0af00202400, .vshlScalar ⟨3, 6, 0, 0, 0x2bc, 2, 9, 0⟩), (0x9001b0af00202400, .vshrScalar ⟨3, 6, 0, 0, 0x2bc, 2, 9, 0⟩), (0x9101b0af00202400, .vsarScalar ⟨3, 6, 0, 0, 0x2bc, 2, 9, 0⟩),
      (0x9201b0af00202400, .vmulhScalar ⟨3, 6, 0, 0, 0x2bc, 2, 9, 0⟩), (0x9301c0af00202400, .vdivScalar ⟨3, 8, 0, 0, 0x2bc, 2, 9, 0⟩)] : List (BitVec 64 × Instr)).all (fun x => rawDecode 2 x.1 == some (x.2, true) && wf x.2) = true := by decide +kernel
theorem test_decode_load :
    ([(0x4014028c00040, .ldI8 ⟨0, 1, 2, 5, 3, 64⟩), (0x8014028c00040, .ldI16 ⟨0, 1, 2, 5, 3, 64⟩), (0xc014028c00040, .ldI32 ⟨0, 1, 2, 5, 3, 64⟩),
      (0x10014028c00040, .ldN8 ⟨0, 1, 2, 5, 3, 64⟩), (0x14014028c00040, .ldN16 ⟨0, 1, 2, 5, 3, 64⟩), (0x18014028c00040, .ldN32 ⟨0, 1, 2, 5, 3, 64⟩),
      (0x1c014028c00040, .ldN64 ⟨0, 1, 2, 5, 3, 64⟩), (0x20014028c00040, .lda ⟨0, 1, 2, 5, 3, 64⟩), (0x24014028c00040, .vld ⟨0, 1, 2, 5, 3, 64⟩),
      (0x28014028c9c000, .vldx ⟨0, 1, 2, 5, 3, 9, 6⟩), (0x40000029a00040, .svld ⟨0, 0, 0, 5, 3, 1, 64⟩), (0x44000029a00040, .svlds ⟨0, 0, 0, 5, 3, 1, 64⟩),
      (0x48000029a04840, .svgth ⟨0, 0, 0, 5, 3, 1, 9, 64⟩), (0x4c000029a00040, .sld ⟨0, 0, 0, 5, 3, 1, 64⟩), (0x60014028c00040, .ldesc ⟨0, 1, 2, 5, 3, 64⟩),
      (0x64014000c00040, .pref ⟨0, 1, 2, 0, 3, 64⟩), (0x68014000c00040, .cinv ⟨0, 1, 2, 0, 3, 64⟩), (0x6c014000c00040, .cflush ⟨0, 1, 2, 0, 3, 64⟩),
      (0x4094028c00020, .ldAcq .i8 ⟨1, 1, 2, 5, 3, 32⟩), (0x20094028c00020, .ldAcq .a ⟨1, 1, 2, 5, 3, 32⟩)] : List (BitVec 64 × Instr)).all (fun x => rawDecode 4 x.1 == some (x.2, true) && wf x.2) = true := by decide +kernel
theorem test_decode_store :
    ([(0x4014028c00040, .stN8 ⟨0, 1, 2, 5, 3, 64⟩), (0x8014028c00040, .stN16 ⟨0, 1, 2, 5, 3, 64⟩), (0xc014028c00040, .stN32 ⟨0, 1, 2, 5, 3, 64⟩),
      (0x10014028c00040, .stN64 ⟨0, 1, 2, 5, 3, 64⟩), (0x14014028c00040, .sta ⟨0, 1, 2, 5, 3, 64⟩), (0x18014028c00040, .vst ⟨0, 1, 2, 5, 3, 64⟩),
      (0x1c014028c9c000, .vstx ⟨0, 1, 2, 5, 3, 9, 6⟩), (0x40000029a00040, .svst ⟨0, 0, 0, 5, 3, 1, 64⟩), (0x44000029a00040, .svsts ⟨0, 0, 0, 5, 3, 1, 64⟩),
      (0x48000029a04840, .svsct ⟨0, 0, 0, 5, 3, 1, 9, 64⟩), (0x4c000029a00040, .sst ⟨0, 0, 0, 5, 3, 1, 64⟩), (0x60014028c00040, .sdesc ⟨0, 1, 2, 5, 3, 64⟩),
      (0x64014000c00040, .cwb ⟨0, 1, 2, 0, 3, 64⟩), (0x800a620a018007, .atmAdd ⟨1, 2, 3, 4, 5, 0, 6, 7⟩), (0x840a620a018007, .atmAnd ⟨1, 2, 3, 4, 5, 0, 6, 7⟩),
      (0x880a620a018007, .atmOr ⟨1, 2, 3, 4, 5, 0, 6, 7⟩), (0x8c0a620a018007, .atmXor ⟨1, 2, 3, 4, 5, 0, 6, 7⟩), (0x900a620a018007, .atmMinI64 ⟨1, 2, 3, 4, 5, 0, 6, 7⟩),
      (0x940a620a018007, .atmMaxI64 ⟨1, 2, 3, 4, 5, 0, 6, 7⟩), (0x980a620a018007, .atmMinN64 ⟨1, 2, 3, 4, 5, 0, 6, 7⟩), (0x9c0a620a018007, .atmMaxN64 ⟨1, 2, 3, 4, 5, 0, 6, 7⟩),
      (0xa00a620a018007, .atmSwp ⟨1, 2, 3, 4, 5, 0, 6, 7⟩), (0xa40a620a498007, .atmCas ⟨1, 2, 3, 4, 5, 9, 6, 7⟩), (0xa80a620a018007, .atmFaddF32 ⟨1, 2, 3, 4, 5, 0, 6, 7⟩),
      (0x10114028c00020, .stRel .n64 ⟨2, 1, 2, 5, 3, 32⟩), (0x14114028c00020, .stRel .a ⟨2, 1, 2, 5, 3, 32⟩)] : List (BitVec 64 × Instr)).all (fun x => rawDecode 5 x.1 == some (x.2, true) && wf x.2) = true := by decide +kernel
theorem test_decode_matrix :
    ([(0x1006700028006, .mstep ⟨1, 2, 3, 4, 5, 6⟩), (0x2004000000000, .mzero ⟨1, 0, 0, 0, 0⟩), (0x3006602012011, .mdrain ⟨1, 2, 3, 4, 0x12011⟩),
      (0x4006002012011, .mdrainV ⟨1, 2, 0, 4, 0x12011⟩), (0x5002600000005, .mpin ⟨0, 2, 3, 0, 5⟩), (0x6002600000005, .munpin ⟨0, 2, 3, 0, 5⟩),
      (0x7002600000005, .minv ⟨0, 2, 3, 0, 5⟩), (0x8002600000005, .mrepl ⟨0, 2, 3, 0, 5⟩), (0x9002602000005, .mwrite ⟨0, 2, 3, 4, 5⟩),
      (0xa000600000005, .mpref ⟨0, 0, 3, 0, 5⟩), (0xb000000000005, .mcancelId ⟨0, 0, 0, 0, 5⟩), (0xb000000001000, .mcancelAll ⟨0, 0, 0, 0, 0x1000⟩),
      (0xb000000002000, .mcancelFlush ⟨0, 0, 0, 0, 0x2000⟩), (0xc000000000058, .mtopkSet ⟨0, 0, 0, 0, 88⟩), (0xd000600000005, .mtopkGet ⟨0, 0, 3, 0, 5⟩),
      (0xe002602000005, .mstatTile ⟨0, 2, 3, 4, 5⟩), (0xe000002100000, .mstatEngine ⟨0, 0, 0, 4, 0x100000⟩), (0xf006600000040, .mcall ⟨1, 2, 3, 0, 64⟩),
      (0x10004000000000, .mtsclr ⟨1, 0, 0, 0, 0⟩), (0xc5000123456789, .stitchOpcode 5 0x123456789)] : List (BitVec 64 × Instr)).all (fun x => rawDecode 6 x.1 == some (x.2, true) && wf x.2) = true := by decide +kernel
theorem test_decode_copy :
    ([(0x4033214600007, .kcopy ⟨1, 2, 3, 4, 5, 6, 7⟩), (0x8033214600007, .kloop ⟨1, 2, 3, 4, 5, 6, 7⟩), (0xc020000000000, .kstage ⟨1, 0, 0, 0, 0, 0, 0⟩),
      (0xc000000000001, .kstageSched ⟨0, 0, 0, 0, 0, 0, 1⟩), (0x10020200600007, .kwm ⟨1, 0, 0, 4, 0, 6, 7⟩), (0x14020200600007, .ksync ⟨1, 0, 0, 4, 0, 6, 7⟩),
      (0x18033214600007, .kput ⟨1, 2, 3, 4, 5, 6, 7⟩), (0x1c033214600007, .kget ⟨1, 2, 3, 4, 5, 6, 7⟩), (0x20033214600810, .kcollAllReduce ⟨1, 2, 3, 4, 5, 6, 0x810⟩),
      (0x20033214600801, .kcollAllGather ⟨1, 2, 3, 4, 5, 6, 0x801⟩), (0x20033214600822, .kcollReduceScatter ⟨1, 2, 3, 4, 5, 6, 0x822⟩), (0x20033214600803, .kcollBroadcast ⟨1, 2, 3, 4, 5, 6, 0x803⟩),
      (0x24020000000000, .kcancelChannel ⟨1, 0, 0, 0, 0, 0, 0⟩), (0x24000000000001, .kcancelAll ⟨0, 0, 0, 0, 0, 0, 1⟩), (0x24000000000002, .kcancelFlush ⟨0, 0, 0, 0, 0, 0, 2⟩),
      (0x28020000600000, .kstat ⟨1, 0, 0, 0, 0, 6, 0⟩), (0x2c020000600000, .kwmrd ⟨1, 0, 0, 0, 0, 6, 0⟩), (0x30000200600007, .ksyncrd ⟨0, 0, 0, 4, 0, 6, 7⟩),
      (0x30020200600007, .ksyncrdWait ⟨1, 0, 0, 4, 0, 6, 7⟩)] : List (BitVec 64 × Instr)).all (fun x => rawDecode 7 x.1 == some (x.2, true) && wf x.2) = true := by decide +kernel
theorem test_decode_index :
    ([(0x402460000, .xadd ⟨1, 2, 3, 0, 0⟩), (0x802460000, .xsub ⟨1, 2, 3, 0, 0⟩), (0xc02460000, .xand ⟨1, 2, 3, 0, 0⟩),
      (0x1002400007, .xshl ⟨1, 2, 0, 0, 7⟩), (0x1402400007, .xshr ⟨1, 2, 0, 0, 7⟩), (0x1802400007, .xpopc ⟨1, 2, 0, 0, 7⟩),
      (0x1c02400007, .xaddi ⟨1, 2, 0, 0, 7⟩), (0x2002460005, .xcmp ⟨1, 2, 3, 0, 5⟩), (0x2402460000, .xsel ⟨1, 2, 3, 0, 0⟩),
      (0x4002460000, .xadv ⟨1, 2, 3, 0, 0⟩), (0x4402011801, .xexp ⟨1, 2, 3, 1⟩), (0x4802418005, .xld ⟨1, 2, 0, 3, 5⟩),
      (0x4c00900003, .xfroms ⟨1, 2, 3⟩), (0x5000900003, .xtos ⟨1, 2, 3⟩), (0x5402010003, .xtov ⟨1, 2, 0, 3⟩)] : List (BitVec 64 × Instr)).all (fun x => rawDecode 8 x.1 == some (x.2, true) && wf x.2) = true := by decide +kernel
theorem test_decode_sync :
    ([(0x400800000, .bsync ⟨1, 0, 0⟩), (0x400800001, .bsyncWait ⟨1, 0, 1⟩), (0x8008000a5, .barCfg ⟨1, 0, 0xa5⟩),
      (0xc00800000, .barArrive ⟨1, 0, 0⟩), (0x1000840000, .barTest ⟨1, 2, 0⟩), (0x1406883004, .relSt ⟨1, 5, 2, 3, 4⟩),
      (0x1807083004, .acqLd ⟨1, 6, 2, 3, 4⟩), (0x1c07083004, .acqLdAll ⟨1, 6, 2, 3, 4⟩), (0x2004000000, .relFence ⟨1, 0, 0, 0, 0⟩),
      (0x2404000000, .acqFence ⟨1, 0, 0, 0, 0⟩), (0x2808083004, .waitaddr ⟨2, 0, 2, 3, 4⟩), (0x2c00000089, .waitM ⟨0, 1, 9⟩),
      (0x3000000100, .waitK ⟨0, 2, 0⟩), (0x3414003000, .drain ⟨5, 0, 0, 3, 0⟩)] : List (BitVec 64 × Instr)).all (fun x => rawDecode 9 x.1 == some (x.2, true) && wf x.2) = true := by decide +kernel
theorem test_decode_micro :
    ([(0x0, .unop), (0x400000000000000, .uend), (0x800000000000000, .uyield),
      (0xc00000000000000, .uwait), (0x1000000000000005, .ujmp ⟨0, 0, 0, 0, 5⟩), (0x1401800000000005, .ubz ⟨0, 3, 0, 0, 5⟩),
      (0x1811a00000000005, .uloop ⟨2, 3, 4, 0, 5⟩), (0x1c080400000003fd, .unext ⟨1, 0, 0, 1, 0x3fd⟩), (0x2014a00000000000, .uring ⟨0xa5⟩),
      (0x4002460000000000, .uadd ⟨1, 2, 3, 0⟩), (0x4402400000000009, .uaddi ⟨1, 2, 0, 9⟩), (0x4802400000000009, .umuli ⟨1, 2, 0, 9⟩),
      (0x4c02400000000009, .ushli ⟨1, 2, 0, 9⟩), (0x5002400000000009, .uandi ⟨1, 2, 0, 9⟩), (0x54030000000000c7, .uldop ⟨1, 1, 3, 7⟩),
      (0x5802800000000000, .uldmp ⟨1, 2⟩), (0x6003100000000000, .uacc ⟨3, 4⟩), (0x6403000000000000, .uaca ⟨3, 0⟩),
      (0x6800000000000000, .uzero), (0x8002580000000000, .ustep ⟨1, 2, 3⟩), (0x8400580000000000, .upref ⟨0, 2, 3⟩),
      (0x8802580000000000, .udrain ⟨1, 2, 3⟩), (0x8c10400000000000, .utopk ⟨8, 2, 0⟩), (0x9000400000000000, .utopkg ⟨0, 2, 0⟩)] : List (BitVec 64 × Instr)).all (fun x => decodeMicro x.1 == .ok ⟨false, 0, x.2⟩) = true := by decide +kernel
/-- Guards (R56): the invert bit and the number stand above the operands; `(!g2) br` five bundles on. -/
theorem test_decode_guard : rawDecode 1 0x5890_0000_0000_0005 = some (.br ⟨0, 0, 5⟩, true) ∧ slotGuard 1 0x5890_0000_0000_0005 = ⟨true, 2⟩ ∧ slotGuard 6 (0x01 * 2 ^ 48 + 0b10011 * 2 ^ 43) = ⟨true, 3⟩ ∧
    slotGuard 9 (0x01 * 2 ^ 34 + 0b00101 * 2 ^ 29) = ⟨false, 5⟩ := by decide +kernel
/-- R79: the worked bundle, as its 64 bytes stand in memory. -/
theorem test_decode_worked_bundle :
    (match decodeBytes (leBytes 64 0x1000_2000_8200_0000_0001_0100_4000_8000_0400_0000_0000_0000_0000_1809_2028_8000_4000_0000_0000_0000_0000_0000_0000_0000_0000_0000_0000_0000_0000_0000_0000_0000) with
      | .ok b => b.hdr == ⟨1, false, false, false, false, false, false⟩ && b.ops == [⟨1, ⟨false, 0⟩, .addi ⟨4, 4, 1⟩⟩, ⟨2, ⟨false, 0⟩, .vadd ⟨0, 8, 0, 0, 2, 0, 1, 0⟩⟩, ⟨4, ⟨false, 0⟩, .ldAcq .n32 ⟨1, 1, 1, 5, 2, 0x40⟩⟩]
      | .error _ => false) = true ∧ (leBytes 64 0x1000_2000_8200_0000_0001_0100_4000_8000_0400_0000_0000_0000_0000_1809_2028_8000_4000_0000_0000_0000_0000_0000_0000_0000_0000_0000_0000_0000_0000_0000_0000_0000).drop 61 = [0x20, 0x00, 0x10] := by decide +kernel
/-- The examples of the spec for the words of `div.i32`, `li`, `clti.i64`, `lbr`, `sysrd`, `tlbinv.va`, `bias.host` and `xld`. -/
theorem test_decode_spec_examples :
    ([(1, 0x1200_E28C_0000_0000, .divI32 ⟨7, 5, 6⟩), (1, 0x2C01_3FFF_FFFF_FFFE, .li ⟨9, BitVec.ofInt 45 (-2)⟩), (1, 0x3A00_6200_0000_0064, .cltiI64 ⟨3, 4, 100⟩), (1, 0x5D00_087F_FFFF_FFFD, .lbr ⟨0, 1, BitVec.ofInt 39 (-3)⟩),
      (1, 0xE000_A020_0000_0000, .sysrd ⟨5, 0x010⟩), (1, 0xE500_0F00_0000_0000, .tlbinvVa ⟨0, 30, 0⟩), (1, 0xE900_E180_0000_0000, .biasHost ⟨7, 3, 0⟩), (8, 0x48_0220_0001, .xld ⟨1, 1, 0, 0, 1⟩),
      (8, 0x44_0A03_1801, .xexp ⟨5, 6, 3, 1⟩), (8, 0x40_0624_0000, .xadv ⟨3, 1, 2, 0, 0⟩)] : List (Nat × BitVec 64 × Instr)).all (fun x => rawDecode x.1 x.2.1 == some (x.2.2, true)) = true := by decide +kernel

/-! ### Scalar class: O1 to O6 -/

/-- s1 = −7, s2 = 3, s3 = 2^63, s4 = 2^64 − 1; a1 = 2^72 − 1, a2 = 0x1040; g1 set; pc 0x4000. -/
def kS : Core :=
  { regs := { s := [(1, BitVec.ofInt 64 (-7)), (2, 3), (3, 0x8000000000000000), (4, 0xFFFFFFFFFFFFFFFF)], a := [(1, BitVec.allOnes 72), (2, 0x1040), (3, 0x1041)], g := [(1, true)],
              lc := [(1, ⟨2, 3⟩), (2, ⟨3, 0⟩)], b := [(15, 0xABCDE)], ix := [(1, 5)] }, iss := { pc := 0x4000, region := 2, regionStart := 0x3000 } }
/-- That core acting at cycle 100. -/
def sS : State := { one kS with cycle := 100 }

theorem test_scalar_register_results :
    ([(.add ⟨9, 4, 2⟩, 1, .s 9 2), (.sub ⟨9, 0, 2⟩, 1, .s 9 (BitVec.ofInt 64 (-3))), (.and ⟨9, 1, 2⟩, 1, .s 9 1), (.or ⟨9, 2, 3⟩, 1, .s 9 0x8000000000000003), (.xor ⟨9, 4, 3⟩, 1, .s 9 0x7FFFFFFFFFFFFFFF),
      (.andn ⟨9, 4, 2⟩, 1, .s 9 0xFFFFFFFFFFFFFFFC), (.shl ⟨9, 2, 2⟩, 1, .s 9 24), (.shr ⟨9, 3, 2⟩, 1, .s 9 0x1000000000000000), (.sar ⟨9, 3, 2⟩, 1, .s 9 0xF000000000000000), (.rotl ⟨9, 3, 2⟩, 1, .s 9 4),
      (.minI64 ⟨9, 1, 2⟩, 1, .s 9 (BitVec.ofInt 64 (-7))), (.maxI64 ⟨9, 1, 2⟩, 1, .s 9 3), (.minN64 ⟨9, 1, 2⟩, 1, .s 9 3), (.maxN64 ⟨9, 1, 2⟩, 1, .s 9 (BitVec.ofInt 64 (-7))),
      (.mul ⟨9, 1, 2⟩, 3, .s 9 (BitVec.ofInt 64 (-21))), (.mulhI64 ⟨9, 1, 2⟩, 3, .s 9 0xFFFFFFFFFFFFFFFF), (.mulhN64 ⟨9, 1, 2⟩, 3, .s 9 2)] : List (Instr × Nat × Wr)).all
      (fun x => issuesWr x.1 sS [x.2]) = true := by decide +kernel
theorem test_scalar_immediate_results :
    ([(.addi ⟨9, 2, BitVec.ofInt 39 (-4)⟩, 1, .s 9 0xFFFFFFFFFFFFFFFF), (.andi ⟨9, 1, BitVec.ofInt 39 (-2)⟩, 1, .s 9 0xFFFFFFFFFFFFFFF8), (.ori ⟨9, 2, 8⟩, 1, .s 9 11), (.xori ⟨9, 2, BitVec.ofInt 39 (-1)⟩, 1, .s 9 0xFFFFFFFFFFFFFFFC), (.shli ⟨9, 2, 63⟩, 1, .s 9 0x8000000000000000),
      (.shri ⟨9, 3, 63⟩, 1, .s 9 1), (.sari ⟨9, 3, 63⟩, 1, .s 9 0xFFFFFFFFFFFFFFFF), (.muli ⟨9, 2, BitVec.ofInt 39 (-5)⟩, 3, .s 9 (BitVec.ofInt 64 (-15))), (.miniI64 ⟨9, 2, BitVec.ofInt 39 (-1)⟩, 1, .s 9 0xFFFFFFFFFFFFFFFF), (.maxiI64 ⟨9, 1, 0⟩, 1, .s 9 0),
      (.sexti ⟨9, 2, 2⟩, 1, .s 9 0xFFFFFFFFFFFFFFFF), (.sexti ⟨9, 2, 64⟩, 1, .s 9 3), (.zexti ⟨9, 1, 1⟩, 1, .s 9 1), (.zexti ⟨9, 4, 64⟩, 1, .s 9 0xFFFFFFFFFFFFFFFF)] : List (Instr × Nat × Wr)).all
      (fun x => issuesWr x.1 sS [x.2] && wf x.1) = true := by decide +kernel
theorem test_wide_immediates :
    ([(.li ⟨9, BitVec.ofInt 45 (-2)⟩, 1, .s 9 0xFFFFFFFFFFFFFFFE), (.lih ⟨4, 0x7FFFF⟩, 1, .s 4 0xFFFFFFFFFFFFFFFF), (.lih ⟨4, 1⟩, 1, .s 4 0x00003FFFFFFFFFFF), (.ali ⟨9, BitVec.ofInt 45 (-1)⟩, 1, .a 9 (BitVec.allOnes 72)),
      (.alih ⟨2, 0x7FFFFFF⟩, 1, .a 2 0xFFFFFFE00000001040)] : List (Instr × Nat × Wr)).all (fun x => issuesWr x.1 sS [x.2] && wf x.1) = true := by decide +kernel
/-- R129: −7 by 3, −7 by −7 at 32 bits, the most negative number by −1, and a zero divisor without dze; each result is pending 6 cycles, or 2. -/
theorem test_division_results :
    ([(.divI32 ⟨9, 1, 2⟩, 106, BitVec.ofInt 64 (-2)), (.remI32 ⟨9, 1, 2⟩, 106, BitVec.ofInt 64 (-1)), (.divN32 ⟨9, 4, 1⟩, 106, 1), (.remN32 ⟨9, 4, 1⟩, 106, 6), (.divI64 ⟨9, 3, 4⟩, 106, 0x8000000000000000), (.remI64 ⟨9, 3, 4⟩, 106, 0),
      (.divN64 ⟨9, 3, 2⟩, 106, 0x2AAAAAAAAAAAAAAA), (.remN64 ⟨9, 3, 2⟩, 106, 2), (.divI64 ⟨9, 2, 0⟩, 102, 0xFFFFFFFFFFFFFFFF), (.remN64 ⟨9, 2, 0⟩, 102, 3)] : List (Instr × Nat × W64)).all
      (fun x => onNext (exec x.1 sS) fun t => t.me.iss.vpend == [⟨0, .division, 2, [.s 9], [.s 9 x.2.2], some x.2.1, false, none⟩]) = true := by decide +kernel
/-- R129, R301: with dze set and dzo clear a zero divisor traps; with dzo set it is covered once and dzo clears. -/
theorem test_division_by_zero :
    trapsWith (.divN64 ⟨9, 2, 0⟩) (one { kS with regs := { kS.regs with ckcfg := 0b010 } }) 0x04 1 0 = true ∧
    onNext (exec (.divN64 ⟨9, 2, 0⟩) (one { kS with regs := { kS.regs with ckcfg := 0b110 } })) (fun t => t.me.iss.pend == [⟨0, 2, .sys 0x000 0b010⟩] && t.me.iss.vpend.length == 1) = true := by decide +kernel
theorem test_compare_results :
    ([(.ceq ⟨2, 1, 2⟩, 1, .g 2 false), (.cne ⟨2, 1, 2⟩, 1, .g 2 true), (.cltI64 ⟨2, 1, 2⟩, 1, .g 2 true), (.cltN64 ⟨2, 1, 2⟩, 1, .g 2 false), (.cleI64 ⟨2, 2, 2⟩, 1, .g 2 true), (.cleN64 ⟨2, 1, 2⟩, 1, .g 2 false), (.ctst ⟨2, 1, 2⟩, 1, .g 2 true), (.cnz ⟨2, 0, 0⟩, 1, .g 2 false),
      (.ceqi ⟨2, 1, BitVec.ofInt 39 (-7)⟩, 1, .g 2 true), (.cnei ⟨2, 1, 7⟩, 1, .g 2 true), (.cltiI64 ⟨2, 1, 0⟩, 1, .g 2 true), (.cltiN64 ⟨2, 2, BitVec.ofInt 39 (-1)⟩, 1, .g 2 true), (.cleiI64 ⟨2, 2, 2⟩, 1, .g 2 false), (.cleiN64 ⟨2, 2, 3⟩, 1, .g 2 true), (.ctsb ⟨2, 3, 63⟩, 1, .g 2 true)] : List (Instr × Nat × Wr)).all
      (fun x => issuesWr x.1 sS [x.2]) = true := by decide +kernel
theorem test_guard_results :
    ([(.gand ⟨2, 0, 1⟩, 1, .g 2 true), (.gor ⟨2, 3, 3⟩, 1, .g 2 false), (.gxor ⟨2, 0, 1⟩, 1, .g 2 false), (.gandn ⟨2, 1, 3⟩, 1, .g 2 true), (.gtos ⟨9, 0, 0⟩, 1, .s 9 3)] : List (Instr × Nat × Wr)).all (fun x => issuesWr x.1 sS [x.2]) = true ∧
    onNext (exec (.stog ⟨0, 4, 0⟩) sS) (fun t => t.me.iss.pend.length == 15 && t.me.iss.pend.head?.map (·.wr) == some (.g 1 true) && t.me.iss.pend.getLast?.map (·.wr) == some (.g 15 true)) = true := by decide +kernel
theorem test_address_results :
    ([(.aadd ⟨9, 1, 1⟩, 1, .a 9 0xFFFFFFFFFFFFFFFFF8), (.aaddi ⟨9, 1, 1⟩, 1, .a 9 0), (.asub ⟨9, 2, 2⟩, 1, .a 9 0x103D), (.adiff ⟨9, 2, 1⟩, 1, .s 9 0x1041), (.amov ⟨9, 0, 4⟩, 1, .a 9 0xFFFFFFFFFFFFFFFF), (.atos ⟨9, 1, 0⟩, 1, .s 9 0xFFFFFFFFFFFFFFFF), (.atos ⟨9, 1, 1⟩, 1, .s 9 0xFF)] : List (Instr × Nat × Wr)).all
      (fun x => issuesWr x.1 sS [x.2]) = true := by decide +kernel
theorem test_special_register_moves :
    ([(.bset ⟨2, 4, 0⟩, 1, .b 2 0xFFFFF), (.bget ⟨9, 15, 0⟩, 1, .s 9 0xABCDE), (.lcset ⟨2, 2, 0⟩, 1, .lc 2 ⟨0, 3⟩), (.lcget ⟨9, 1, 0⟩, 1, .s 9 0x200000003), (.mpset ⟨2, 2, 0x40⟩, 1, .mp 2 0x1080), (.mpget ⟨9, 2, 0⟩, 1, .a 9 0), (.tsrd ⟨9, 3, 0⟩, 1, .s 9 0),
      (.shset ⟨0, 0, 10, 2, 0⟩, 1, .shadow 0 (shapeField 0 10).1 (shapeField 0 10).2 3)] : List (Instr × Nat × Wr)).all (fun x => issuesWr x.1 sS [x.2]) = true := by decide +kernel

/-- R137 to R139: the targets, penalties and links of the branches, with a misaligned register target for each form that has one. -/
theorem test_branches :
    ([(.br ⟨0, 0, BitVec.ofInt 39 (-1)⟩, 0x3FC0, 1, 0), (.call ⟨0, 0, 2⟩, 0x4080, 1, 1), (.ret ⟨2, 0, 0⟩, 0x1040, 3, 0), (.brs ⟨2, 0, 1⟩, 0x1080, 3, 0), (.calls ⟨2, 0, 1⟩, 0x1080, 3, 1)] : List (Instr × W72 × Nat × Nat)).all
      (fun x => onNext (exec x.1 sS) fun t => t.me.iss.next == some (x.2.1, x.2.2.1) && t.me.iss.pend == List.replicate x.2.2.2 ⟨100, 2, .a 31 0x4040⟩) = true ∧
    ([.ret ⟨3, 0, 0⟩, .brs ⟨3, 0, 0⟩, .calls ⟨3, 0, 0⟩] : List Instr).all (fun i => trapsWith i sS 0x06 1 0x1041) = true := by decide +kernel
/-- What `lbr` on loop counter `n` does: the counter it writes, g8, and its target. -/
def lbrDoes (s : State) (n : BitVec 2) (l : LoopCtr) (g8 : Bool) (to_ : Option (W72 × Nat)) : Bool :=
  onNext (exec (.lbr ⟨0, n, BitVec.ofInt 39 (-2)⟩) s) fun t => t.me.iss.next == to_ && t.me.iss.pend.any (·.wr == .lc n.toNat l) && t.me.iss.pend.any (·.wr == .g 8 g8) && t.me.iss.pend.any (·.wr == .b 8 0xABCDE)
/-- R140: an iteration left, an epilogue stage left (ec 2 or more), the last pass, at ec 1 and 0. -/
theorem test_lbr :
    lbrDoes sS 1 ⟨2, 2⟩ true (some (0x3F80, 0)) = true ∧ lbrDoes sS 2 ⟨2, 0⟩ false (some (0x3F80, 0)) = true ∧ lbrDoes sS 3 ⟨0, 0⟩ false none = true ∧
    lbrDoes (one { kS with regs := { kS.regs with lc := [(1, ⟨1, 0⟩)] } }) 1 ⟨0, 0⟩ false none = true := by decide +kernel
/-- R140, R142: with clamp set and an iteration left the counter goes to lsave, and the context stops at once when no epilogue stage is left; a forced stop recorded for the counter stops the context as its last pass ends. -/
theorem test_lbr_forced_stop :
    onNext (exec (.lbr ⟨0, 1, BitVec.ofInt 39 (-2)⟩) (one { kS with iss := { kS.iss with clamp := true } })) (fun t => !t.me.iss.clamp && t.me.iss.pend.any (·.wr == .sys 0x020 0x8000001200000003) && t.me.iss.pend.any (·.wr == .lc 1 ⟨1, 0⟩) && t.me.iss.next == some (0x3F80, 0)) = true ∧
    (let j : Job := ⟨0, 0, 0, 0, 1024, 32, 0x100000, 8192, .running, none, 0⟩
     onNext (exec (.lbr ⟨0, 1, BitVec.ofInt 39 (-2)⟩) (one { kS with job := some j, regs := { kS.regs with lc := [(1, ⟨1, 3⟩)] }, iss := { kS.iss with clamp := true } })) (fun t => t.me.job == some { j with phase := .stopped }) &&
     onNext (exec (.lbr ⟨0, 3, BitVec.ofInt 39 (-2)⟩) (one { kS with job := some j, regs := { kS.regs with lsave := 0x8000003000000001 } })) (fun t => t.me.job == some { j with phase := .stopped } && t.me.iss.next == some (0x3F80, 0))) = true := by decide +kernel
/-- R311: at level 1 a request is held: the loop goes on as without it. -/
theorem test_lbr_held :
    (let s := one { kS with iss := { kS.iss with clamp := true }, sys := { level := 1 } }
     lbrDoes s 1 ⟨2, 2⟩ true (some (0x3F80, 0)) && onNext (exec (.lbr ⟨0, 1, BitVec.ofInt 39 (-2)⟩) s) fun t => t.me.iss.clamp && !t.me.iss.pend.any (fun p => match p.wr with | .sys _ _ => true | _ => false)) = true := by decide +kernel

/-! ### System class, traps and regions: O7 to O12 -/

/-- A core at level 0 with trap registers set up, one effect withheld, one vector register logged, and its shadow behind its registers. -/
def kT : Core :=
  { regs := { s := [(1, 0x1000000000000FFF)], a := [(2, 0x5040), (30, 0x77)], ckcfg := 0 }
    sh := { a := [(2, 0x5040), (30, 0x66)] }
    sys := { tsave := 0x8000, tvec1 := 0x10000, tvec2 := 0x20000 }
    vec := [(3, 7)]
    job := some ⟨9, 2, 0, 0, 1024, 32, 0x100000, 8192, .running, none, 0⟩
    iss := { pc := 0x4080, regionStart := 0x4000, region := 5, wlog := [(3, 1), (3, 0)] }
    wb := [.waitK 1], rq := [.waitK 2] }
def sT : State := { one kT with cycle := 50 }
/-- That core with supervisor privilege. -/
def kU : Core := { kT with sys := { kT.sys with svctx := true } }
def sU : State := { one kU with cycle := 50 }

theorem test_nop : onNext (exec .nop sT) (fun t => t == sT) = true := by decide +kernel
/-- R300, R301: reads with user code's column, reads of supervisor registers with and without the privilege. -/
theorem test_sysrd :
    ([(0x001, 0), (0x002, 9), (0x020, 0)] : List (BitVec 12 × W64)).all (fun x => onNext (exec (.sysrd ⟨5, x.1⟩) sT) fun t => t.me.iss.vpend == [⟨0, .status, 5, [.s 5], [.s 5 x.2], some 51, false, none⟩]) = true ∧
    onNext (exec (.sysrd ⟨5, 0x009⟩) sU) (fun t => t.me.iss.vpend == [⟨0, .status, 5, [.s 5], [.s 5 0x10000], some 51, false, none⟩]) = true ∧ trapsWith (.sysrd ⟨5, 0x009⟩) sT 0x03 1 0 = true := by decide +kernel
theorem test_sysrd_table : (tableSys.all fun r => (r.userR || trapsWith (.sysrd ⟨5, BitVec.ofNat 12 r.n⟩) sT 0x03 1 0) &&
    onNext (exec (.sysrd ⟨5, BitVec.ofNat 12 r.n⟩) sU) fun t => t.me.iss.vpend == [⟨0, .status, 5, [.s 5], [.s 5 (r.val sU 0)], some 51, false, none⟩]) = true := by decide +kernel
/-- R300 to R303: a written value keeps the bits of its field map. -/
theorem test_syswr : issuesWr (.syswr ⟨1, 0x000⟩) sT [(1, .sys 0x000 0x1000000000000FFF)] = true ∧ trapsWith (.syswr ⟨1, 0x009⟩) sT 0x03 1 0 = true ∧ issuesWr (.syswr ⟨1, 0x009⟩) sU [(1, .sys 0x009 0x1000000000000FFF)] = true ∧
    (tableSys.all fun r => r.mask == 0 || ((r.userW || trapsWith (.syswr ⟨1, BitVec.ofNat 12 r.n⟩) sT 0x03 1 0) &&
      r.val (sU.modCore 0 fun k => k.land 5 (.sys r.n 0x123456789ABCDEFF)) 0 == 0x123456789ABCDEFF &&& r.mask &&
      tableSys.all fun o => o.n == r.n || o.val (sU.modCore 0 fun k => k.land 5 (.sys r.n 0x123456789ABCDEFF)) 0 == o.val sU 0)) = true := by decide +kernel

/-- R307 to R311, a precise trap: registers from the shadow, the write log restored, WB gone, the return address the region's start, 12 cycles and one for two log entries. -/
theorem test_precise_entry :
    (let t := sT.precise ⟨0x06, 4, 0, 0, 0xAB0000000000001234⟩
     let e := t.me
     e.sys.level == 1 && e.sys.bank1.cause == 0xAB000406 && e.sys.bank1.tret == 0x4000 && e.sys.bank1.taddr == 0x1234 && e.sys.bank1.asave == 0x66 && e.regs.ra 30 == 0x8000 && e.regs.ra 2 == 0x5040 && e.regs.rs 1 == 0 &&
     e.vec.get 0 3 == 0 && e.wb == [] && e.rq == [.waitK 2] && e.iss.pc == 0x10000 && e.iss.elig == 50 + 12 + 1 && e.sh == e.regs) = true := by decide +kernel
/-- At level 1 the second bank takes the trap and a30 points to the second save area; at level 2 the context is killed (R308, R313). -/
theorem test_precise_nested :
    (let t := (one { kT with sys := { kT.sys with level := 1 } }).precise (cause0 0x03 1)
     t.me.sys.level == 2 && t.me.sys.bank2.cause == 0x2000000000000103 && t.me.regs.ra 30 == 0x8100 && t.me.iss.pc == 0x20000 && t.me.sys.bank1 == {}) = true ∧
    ((one { kT with sys := { kT.sys with level := 2 } }).precise (cause0 0x03 1)).me.job = none := by decide +kernel
/-- R311: a write of an earlier region that is still pending makes the trap wait; it enters once nothing is pending. -/
theorem test_trap_waits :
    (let s := one { kT with iss := { kT.iss with pend := [⟨9, 4, .s 1 1⟩] } }
     let w := one { kT with iss := { kT.iss with trap := some ⟨.precise, cause0 0x03 1⟩ } }
     s.me.committedPending && (s.precise (cause0 0x03 1)).me.iss.trap == some ⟨.precise, cause0 0x03 1⟩ && (s.precise (cause0 0x03 1)).me.sys.level == 0 &&
     (w.core 0).trapDue.isSome && onNext (exec (.trapEntry 0) w) (fun t => t.me.sys.level == 1 && t.me.iss.pc == 0x10000 && t.me.iss.trap == none) && onNext (exec (.trapEntry 0) s) (fun t => t == s)) = true := by decide +kernel
/-- R310, R312, R317: a boundary trap commits; a core in `idle` returns to its `idle`. -/
theorem test_boundary_entry :
    (let w := one { kT with iss := { kT.iss with hold := .idle, poisons := [⟨0x0B, 4, 7, 0, 0x99⟩] } }
     (w.core 0).trapDue.isSome && onNext (exec (.trapEntry 0) w) fun t => t.me.sys.bank1.tret == 0x4040 && t.me.sys.bank1.cause == 0x70000040B && t.me.rq == [.waitK 2, .waitK 1] && t.me.vec.get 0 3 == 7 && t.me.regs.rs 1 == 0x1000000000000FFF && t.me.iss.poisons == []) = true := by decide +kernel
/-- R315: `trap` at user level, its return address the next bundle. -/
theorem test_trap : onNext (exec (.trap ⟨0, 0, 0x15⟩) sT) (fun t => t.me.sys.level == 1 && t.me.sys.bank1.tret == 0x40C0 && t.me.sys.bank1.cause == 0x105 && t.me.sys.bank1.taddr == 0x15 && t.me.iss.pc == 0x10000) = true := by decide +kernel
/-- R316: from level 1 and level 2 to the level below; at level 0 the privilege trap. -/
theorem test_tret :
    trapsWith (.tret ⟨0, 0, 0⟩) sT 0x03 1 0 = true ∧
    onNext (exec (.tret ⟨0, 0, 0⟩) { one { kT with sys := { kT.sys with level := 1, bank1 := { tret := 0x6040, asave := 0x55 } } } with cycle := 50 }) (fun t => t.me.sys.level == 0 && t.me.regs.ra 30 == 0x55 && t.me.iss.next == some (0x6040, 2) && t.me.iss.elig == 53 && t.me.rq == [.waitK 2, .waitK 1]) = true ∧
    onNext (exec (.tret ⟨0, 0, 0⟩) (one { kT with sys := { kT.sys with level := 2, bank2 := { tret := 0x7040, asave := 0x44 } } })) (fun t => t.me.sys.level == 1 && t.me.regs.ra 30 == 0x44 && t.me.iss.next == some (0x7040, 2)) = true := by decide +kernel
theorem test_idle : onNext (exec (.idle ⟨0, 0, 0⟩) sT) (fun t => t.me == { kT with iss := { kT.iss with hold := .idle } }) = true ∧ trapsWith (.idle ⟨0, 0, 0⟩) (one { kT with sys := { kT.sys with level := 1 } }) 0x03 1 0 = true := by decide +kernel
/-- R318 at issue, for each hub command, with and without the privilege; ctx 9 of the core where b names s0. -/
theorem test_hub_commands_issue :
    ([(.tlbinvVa ⟨5, 2, 0⟩, .tlbinvVa 9 0x5040), (.tlbinvCtx ⟨5, 0, 1⟩, .tlbinvCtx 0xFFF), (.tlbinvAll ⟨5, 0, 0⟩, .tlbinvAll), (.stitchIns ⟨5, 1, 1⟩, .stitchIns 0xFFF 0x1000000000000FFF), (.stitchBind ⟨5, 1, 1⟩, .stitchBind 0xFFF 0 0x3FF),
      (.stitchUnbind ⟨5, 1, 0⟩, .stitchUnbind 0xFFF 0), (.stitchDrop ⟨5, 1, 1⟩, .stitchDrop 0xFFF 0x3FF), (.ctxEnd ⟨5, 1, 0⟩, .ctxEnd 0xFFF), (.biasDev ⟨5, 1, 1⟩, .bias 0x1000000000001000 false), (.biasHost ⟨5, 1, 1⟩, .bias 0x1000000000001000 true)] : List (Instr × HubOp)).all
      (fun x => trapsWith x.1 sT 0x03 1 0 && onNext (exec x.1 sU) fun t => t.me.wb == [.waitK 1, .hub x.2 5 0] && t.me.iss.vpend == [⟨0, .hub, 5, [.s 5], [], none, true, none⟩]) = true := by decide +kernel
/-- R102, R304: at a checkpoint, and nowhere else. -/
theorem test_commit : onNext (exec (.commit 0) sT) (fun t => t == sT) = true ∧ onNext (exec (.commit 0) (one { kT with iss := { kT.iss with ckpt := true } })) (fun t => t.me == { kT with rq := [.waitK 2, .waitK 1], wb := [], sh := kT.regs, iss := { kT.iss with region := 6, regionStart := 0x4080, wlog := [] } }) = true := by decide +kernel
/-- R307: of two log entries of one register the older stands; a write and a load of the open region go, those of an earlier one stay. -/
theorem test_rollback :
    (let v : VarWrite := ⟨0, .load, 4, [.s 1], [], none, false, none⟩
     let e := ({ kT with iss := { kT.iss with pend := [⟨9, 5, .s 1 1⟩, ⟨9, 4, .s 2 2⟩], vpend := [v, { v with id := 1, region := 5 }] } } : Core).rollback
     e.wb == [] && e.regs == kT.sh && e.iss.pc == 0x4000 && e.iss.pend == [⟨9, 4, .s 2 2⟩] && e.iss.vpend == [v] && e.vec.get 0 3 == 0) = true := by decide +kernel
/-- R76, R77: of two writes due together the later stands; one of an earlier region reaches the shadow, one of the open region does not; s0 stays zero; one that is not due waits. -/
theorem test_fixed_writes :
    (let k : Core := { kT with iss := { kT.iss with pend := [⟨50, 4, .s 6 1⟩, ⟨49, 5, .s 6 2⟩, ⟨50, 4, .s 7 3⟩, ⟨50, 5, .s 0 9⟩, ⟨51, 4, .s 8 4⟩] } }
     onNext (exec (.fixedLatencyWrite 0) { one k with cycle := 50 }) fun t => t.me.regs.rs 6 == 2 && t.me.sh.rs 6 == 1 && t.me.sh.rs 7 == 3 && t.me.regs.rs 7 == 3 && t.me.regs.rs 0 == 0 && t.me.regs.rs 8 == 0 && t.me.iss.pend == [⟨51, 4, .s 8 4⟩]) = true := by decide +kernel

/-! ### Sync class: O13 to O15, and the transitions of barriers, waits and drains -/

/-- A job of task 4 in context 9. -/
def job9 : Job := ⟨9, 2, 4, 0, 1024, 32, 0x100000, 8192, .running, none, 0⟩
/-- A task that runs on cores 0 and 1, whose line 3 names core 0 alone. -/
def task4 : Task := ⟨1, 0, 0, none, none, [0, 1], .running, 0, 0, 0, 0, [(3, [0])], [], [], [], none, none⟩
/-- Page 0x10 of context 9 is frame page 0x20, page 0x11 frame page 0x30: readable, writable and executable by user code. Core 0 runs task 4. -/
def kM : Core :=
  { job := some job9
    tlb := [⟨9, 0x10, 12, 0x20073⟩, ⟨9, 0x11, 12, 0x30073⟩, ⟨9, 0x13, 12, 0x20013⟩]
    regs := { a := [(1, 0x10000), (2, 0x10F80), (3, 0x10001), (4, 0x13000), (5, 0x20000), (6, 0x10FFC), (7, 0x10FC0)], s := [(1, 0x8182838485868788), (2, 5)], b := [(1, 0x100)] }
    vec := [(1, 0x0F0E0D0C0B0A0908_0706050403020100)], iss := { region := 2, pc := 0x10000 } }
/-- Frame page 0x20 begins with the bytes 0x81, 0x82, …; core 0 acts. -/
def sM : State := { one kM with mem := { bytes := [(0x20000, 0x81), (0x20001, 0x82), (0x20002, 0x03), (0x20003, 0x84), (0x20007, 0x08), (0x20F80, 0x11), (0x20FFF, 0x22), (0x30000, 0x33)] }, hub := { tasks := [(4, some task4)] } }

/-- R281, R282: the mask of a line without bits outside the gang, from the next cycle on. -/
theorem test_bar_cfg : onNext (exec (.barCfg ⟨3, 0, 0xFF⟩) sM) (fun t => match t.hub.tasks.get none 4 with
    | some y => y.masks == task4.masks && y.newMasks.masks.get [0, 1] 3 == [0, 1] && y.newMasks.masks.get [0, 1] 5 == [0, 1] | none => false) = true := by decide +kernel
theorem test_bar_arrive :
    onNext (exec (.barArrive ⟨3, 0, 0⟩) sM) (fun t => t.hub.tasks.get none 4 == some { task4 with arrived := [(3, [0])] }) = true ∧
    onNext (exec (.barArrive ⟨3, 0, 0⟩) { sM with hub := { tasks := [(4, some { task4 with masks := [(3, [1])] })] } }) (fun t => t.hub.tasks.get none 4 == some { task4 with masks := [(3, [1])] }) = true := by decide +kernel
theorem test_bar_test : issuesWr (.barTest ⟨3, 7, 0⟩) sM [(2, .s 7 1)] = true ∧ issuesWr (.barTest ⟨3, 7, 0⟩) { sM with hub := { tasks := [(4, some { task4 with arrived := [(3, [0])] })] } } [(2, .s 7 0)] = true := by decide +kernel
theorem test_bsync :
    onNext (exec (.bsync ⟨3, 0, 0⟩) sM) (fun t => t.me.iss.hold == .bsync 3 0 false false) = true ∧ onNext (exec (.bsync ⟨3, 0, 0⟩) { sM with hub := { tasks := [(4, some { task4 with masks := [(3, [1])] })] } }) (fun t => t.me.iss.hold == .none) = true ∧
    onNext (exec (.bsyncWait ⟨3, 0, 1⟩) sM) (fun t => t.me.iss.hold == .none) = true ∧ onNext (exec (.bsyncWait ⟨3, 0, 1⟩) { sM with hub := { tasks := [(4, some { task4 with arrived := [(3, [0])] })] } }) (fun t => t.me.iss.hold == .bsync 3 0 true true) = true := by decide +kernel
theorem test_fences_and_waits :
    withholdsE (.relFence ⟨3, 0, 0, 0, 0⟩) sM [.relFence 3] = true ∧ withholdsE (.waitM ⟨0, 3, 4⟩) sM [.waitM 3 4] = true ∧ withholdsE (.waitK ⟨0, 5, 0⟩) sM [.waitK 5] = true ∧
    onNext (exec (.waitK ⟨0, 5, 0⟩) sM) (fun t => t.me.iss.hold == .effect 0) = true ∧
    onNext (exec (.drain ⟨5, 0, 0, 7, 0⟩) sM) (fun t => t.me.wb == [.drain 5 7 0] && t.me.iss.vpend == [⟨0, .status, 2, [.s 7], [], none, true, none⟩]) = true := by decide +kernel
/-- R288: nothing at core scope; at a wider scope the L1 is empty, and a dirty byte has gone home. -/
theorem test_acq_fence :
    (let l : L1Line := { s0 := { dirty := 1, data := 0x99 } }
     let s := { sM with cores := [(0, { kM with l1 := [(0x400, l)] })] }
     onNext (exec (.acqFence ⟨0, 0, 0, 0, 0⟩) s) (fun t => t == s) && onNext (exec (.acqFence ⟨1, 0, 0, 0, 0⟩) s) fun t => t.me.l1 == [] && t.mem.byte 0x20000 == 0x99 && t.me.regs == kM.regs) = true := by decide +kernel
/-- R279, R286: `rel.st` to a line's start, off it, to a page without write permission, and to no page. -/
theorem test_rel_st :
    withholdsE (.relSt ⟨1, 0, 1, 1, 31⟩) sM [.relSt 1 0 0x20F80 0x8182838485868788 false] = true ∧ trapsWith (.relSt ⟨1, 0, 3, 1, 0⟩) sM 0x06 9 0x10001 = true ∧
    trapsWith (.relSt ⟨1, 0, 4, 1, 0⟩) sM 0x08 9 0x13000 = true ∧ trapsWith (.relSt ⟨1, 0, 5, 1, 0⟩) sM 0x07 9 0x20000 = true := by decide +kernel
/-- R279, R287, R290: acquires and `waitaddr` in the beacon bytes (byte 56 is the last), beyond them, off 8 bytes, and without a page. -/
theorem test_acquires :
    ([.acqLd ⟨1, 0, 1, 7, 0⟩, .acqLdAll ⟨1, 0, 1, 7, 0⟩] : List Instr).all (fun i => onNext (exec i sM) fun t => t.me.iss.vpend.map (fun v => (v.wr, v.hold, v.regs)) == [([.s 7 0x0800000084038281], true, [.s 7])]) = true ∧
    ([.acqLd ⟨1, 0, 7, 7, 0⟩, .acqLdAll ⟨1, 0, 7, 7, 0⟩, .waitaddr ⟨2, 0, 7, 7, 0⟩] : List Instr).all (fun i => trapsWith i sM 0x06 9 0x10FC0) = true ∧
    ([.acqLd ⟨1, 0, 3, 7, 0⟩, .acqLdAll ⟨1, 0, 3, 7, 0⟩, .waitaddr ⟨2, 0, 3, 7, 0⟩] : List Instr).all (fun i => trapsWith i sM 0x06 9 0x10001) = true ∧
    ([.acqLd ⟨1, 0, 5, 7, 0⟩, .acqLdAll ⟨1, 0, 5, 7, 0⟩, .waitaddr ⟨2, 0, 5, 7, 0⟩] : List Instr).all (fun i => trapsWith i sM 0x07 9 0x20000) = true ∧
    onNext (exec (.waitaddr ⟨2, 0, 1, 2, 0⟩) sM) (fun t => t.me.wb == [.waitaddr 0x20000 2 5] && t.me.iss.hold == .effect 0) = true := by decide +kernel
/-- R119, R287: the words of a beacon's signature join the acquire signatures, and an L1 line that hits goes. -/
theorem test_acquire_absorbs :
    (let s := { sM with mem := { sM.mem with bytes := (List.range 64).foldl (fun b i => Bank.put unwritten b (0x20040 + i) 0xFF) sM.mem.bytes }, cores := [(0, { kM with l1 := [(0x777, { used := 1 })] })] }
     onNext (exec (.acqLd ⟨1, 0, 1, 7, 0⟩) s) fun t => t.me.as_ == ⟨BitVec.allOnes 512, BitVec.allOnes 512, BitVec.allOnes 512⟩ && t.me.line 0x777 == {}) = true := by decide +kernel

/-- R281, R283: a line whose cores have arrived fires; one that still waits for a core does not. -/
theorem test_barrier_fire :
    (let s := { sM with cycle := 100, hub := { tasks := [(4, some { task4 with arrived := [(3, [0])] })] }, cores := [(0, { kM with iss := { kM.iss with hold := .bsync 3 7 true false } })] }
     onNext (exec (.barrierFire 4 3) s) (fun t => t.hub.tasks.get none 4 == some task4 && t.me.iss.hold == .none && t.me.iss.elig == 110) && onNext (exec (.barrierFire 4 3) sM) fun t => t == sM) = true := by decide +kernel
/-- R290, R292, R408: the request goes its way to the home; there a word that differs sends status 0 back; an equal one leaves a monitor; a core that is being stopped ends its wait with 5. -/
theorem test_waitaddr_register :
    (let k (at_ : Option Nat) (v : W64) : Core := { kM with rq := [.waitaddr 0x20000 7 v, .waitK 1], rqAt := at_, iss := { kM.iss with hold := .effect 2 } }
     let s (k : Core) : State := { sM with cycle := 100, cores := [(0, k)] }
     onNext (exec (.effectPerform 0) (s (k none 5))) (fun t => match t.me.rqAt with | some n => 100 < n && t.me.rq.length == 2 | none => false) &&
     onNext (exec (.waitaddrRegister 0) (s (k (some 101) 5))) (fun t => t == s (k (some 101) 5)) &&
     onNext (exec (.waitaddrRegister 0) (s (k (some 100) 5))) (fun t => t.mem.msgs.map (fun m => (m.core, m.reg, m.status)) == [(0, 7, 0)] && t.me.iss.hold == .parked 2 && t.me.rq == [.waitK 1]) &&
     onNext (exec (.waitaddrRegister 0) (s (k (some 100) 0x0800000084038281))) (fun t => t.mem.mons == [⟨0x400, 0, 7, 100⟩] && t.me.iss.hold == .parked 2 && t.me.rq == [.waitK 1]) &&
     onNext (exec (.waitaddrRegister 0) (s { k (some 100) 5 with job := some { job9 with due := some 500 } })) fun t => t.me.regs.rs 7 == 5 && t.me.iss.hold == .none && t.mem.msgs == [] && t.me.iss.elig == 103) = true := by decide +kernel
theorem test_wake_and_timeout :
    (let s := { sM with cycle := 100, mem := { sM.mem with msgs := [⟨0, 7, 1, 100⟩] }, cores := [(0, { kM with iss := { kM.iss with hold := .parked 0 } })] }
     let w (n : BitVec 48) := { sM with cycle := 100, mem := { sM.mem with mons := [⟨0x400, 0, 7, 40⟩] }, cores := [(0, { kM with sys := { wtmo := n } })] }
     onNext (exec (.wakeMessage 0) s) (fun t => t.me.regs.rs 7 == 1 && t.me.sh.rs 7 == 1 && t.mem.msgs == [] && t.me.iss.elig == 101 && t.me.iss.hold == .none) &&
     onNext (exec (.waitaddrTimeout 0) (w 60)) (fun t => t.me.regs.rs 7 == 2 && t.mem.mons == []) && onNext (exec (.waitaddrTimeout 0) (w 61)) (fun t => t == w 61) && onNext (exec (.waitaddrTimeout 0) (w 0)) fun t => t == w 0) = true := by decide +kernel
/-- R121, R122: at core scope 0 and the counts stay; at pool scope the remote writes' failures, whose count alone clears; at net scope the counts of both kinds with their causes. A drain waits at pool scope for a remote write in flight and at net scope for a put that has not been answered, but not for one whose answer is held. -/
theorem test_drain_complete :
    (let s (sc : Nat) := { sM with cores := [(0, { kM with rq := [.drain sc 7 0], iss := { kM.iss with vpend := [⟨0, .status, 2, [.s 7], [], none, true, none⟩] }, poolFail := 2, poolCause := 1, netFail := 1, netCause := 2 })] }
     onNext (exec (.drainComplete 0) (s 0)) (fun t => t.me.regs.rs 7 == 0 && t.me.poolFail == 2 && t.me.iss.vpend == [] && t.me.rq == []) && onNext (exec (.drainComplete 0) (s 5)) (fun t => t.me.regs.rs 7 == 0x300000003 && t.me.poolFail == 0 && t.me.netFail == 0) &&
     onNext (exec (.drainComplete 0) (s 4)) (fun t => t.me.regs.rs 7 == 0x200000001 && t.me.poolFail == 0 && t.me.netFail == 1 && t.me.netCause == 2) &&
     (let w (sc : Nat) : State := { s sc with mem := { sM.mem with inflight := [⟨3, 0, 0x100000000000010, [7], 0, none, false, 0, none⟩] } }
      let n (sc : Nat) (a : Option RemoteResult) : State := { s sc with hub := { net := [⟨8, 0, 3, true, none, false, 4, 1, none, none, a, none, 0, 0, none⟩] } }
      onNext (exec (.drainComplete 0) (w 4)) (fun t => t == w 4) && onNext (exec (.drainComplete 0) (w 3)) (fun t => t.me.rq == []) && onNext (exec (.drainComplete 0) (n 5 none)) (fun t => t == n 5 none) && onNext (exec (.drainComplete 0) (n 4 none)) (fun t => t.me.rq == []) &&
      onNext (exec (.drainComplete 0) (n 5 (some .dead))) fun t => t.me.rq == [])) = true := by decide +kernel

/-! ### Memory class: O16 to O20 -/

/-- The write of a pending load, where the transition registers one. -/
def loadsWr (i : Instr) (s : State) (l : List Wr) : Bool := onNext (exec i s) fun t => t.me.iss.vpend.map (fun v => (v.kind, v.wr, v.hold)) == [(.load, l, false)]
/-- The bytes of a store withheld, piece by piece. -/
def storesAt (i : Instr) (s : State) (l : List (Nat × List Byte)) : Bool := onNext (exec i s) fun t => match t.me.wb with
  | [.store ps _ _] => ps.map (fun p => (p.pa, p.bytes)) == l
  | _ => false
def ma (a : BitVec 5) (off : BitVec 22) : MA := ⟨0, 0, 0, 5, a, off⟩

/-- R170: sign and zero extension of the bytes 0x81, 0x82, 0x03, 0x84, 0, 0, 0, 0x08. -/
theorem test_loads :
    ([(.ldI8 (ma 1 0), .s 5 0xFFFFFFFFFFFFFF81), (.ldI16 (ma 1 0), .s 5 0xFFFFFFFFFFFF8281), (.ldI32 (ma 1 0), .s 5 0xFFFFFFFF84038281), (.ldN8 (ma 1 0), .s 5 0x81), (.ldN16 (ma 1 0), .s 5 0x8281), (.ldN32 (ma 1 0), .s 5 0x84038281),
      (.ldN64 (ma 1 0), .s 5 0x0800000084038281), (.lda (ma 1 0), .a 5 0x0800000084038281), (.vld (ma 1 0), .v 5 (BitVec.allOnes 4096) 0x0800000084038281)] : List (Instr × Wr)).all (fun x => loadsWr x.1 sM [x.2]) = true := by decide +kernel
/-- R160: the address of format MX; a vector load over a page boundary takes its upper half from the next page. -/
theorem test_vldx : loadsWr (.vldx ⟨0, 0, 0, 5, 2, 2, 6⟩) { sM with cores := [(0, { kM with regs := { kM.regs with s := [(2, 1)], a := [(2, 0x10E00)] } })] } [.v 5 (BitVec.allOnes 4096) (BitVec.ofNat 4096 (0x11 * 2 ^ (8 * 0x140) + 0x22 * 2 ^ (8 * 0x1BF) + 0x33 * 2 ^ (8 * 0x1C0)))] = true := by decide +kernel
/-- R161 to R163: alignment before translation, translation before permission. -/
theorem test_load_checks :
    ([(.ldI16 (ma 3 0), 0x06, 0x10001), (.ldN64 (ma 1 4), 0x06, 0x10004), (.lda (ma 1 8), 0x06, 0x10008), (.vld (ma 1 32), 0x06, 0x10020), (.vldx ⟨0, 0, 0, 5, 3, 0, 0⟩, 0x06, 0x10001), (.ldN64 (ma 5 0), 0x07, 0x20000), (.ldAcq .n64 (ma 5 0), 0x07, 0x20000)] : List (Instr × Nat × W72)).all
      (fun x => trapsWith x.1 sM x.2.1 4 x.2.2) = true := by decide +kernel
/-- R103, R108: a load sees the core's own withheld store, then its L1's dirty byte, then memory. -/
theorem test_load_own_stores :
    (let l : L1Line := { s0 := { valid := true, data := 0x0A0B0C0D } }
     let s := { sM with cores := [(0, { kM with l1 := [(0x400, l)], wb := [.store [⟨0x20001, [0x77], false⟩] 0 0] })] }
     loadsWr (.ldN32 (ma 1 0)) s [.s 5 0x0A0B770D] && onNext (exec (.ldN32 (ma 1 0)) sM) fun t => t.mem.bytes == sM.mem.bytes) = true := by decide +kernel
/-- R171: the beacon bytes end at 63; an acquire holds later memory operations. -/
theorem test_load_acquire :
    onNext (exec (.ldAcq .i32 (ma 1 0)) sM) (fun t => t.me.iss.vpend.map (fun v => (v.wr, v.hold)) == [([.s 5 0xFFFFFFFF84038281], true)]) = true ∧ trapsWith (.ldAcq .n8 (ma 1 64)) sM 0x06 4 0x10040 = true ∧ trapsWith (.ldAcq .n32 (ma 3 0)) sM 0x06 4 0x10001 = true ∧
    onNext (exec (.ldAcq .a (ma 1 48)) sM) (fun t => t.me.iss.vpend.map (fun v => v.wr) == [[.a 5 0]]) = true := by decide +kernel
/-- R170, R172 with R102: the bytes of each store, lowest first, cut at 64-byte blocks and pages. -/
theorem test_stores :
    (let m := fun (a : BitVec 5) (o : BitVec 22) => (⟨0, 0, 0, 1, a, o⟩ : MA)
     storesAt (.stN8 (m 1 63)) sM [(0x2003F, [0x88])] && storesAt (.stN16 (m 1 2)) sM [(0x20002, [0x88, 0x87])] && storesAt (.stN32 (m 1 4)) sM [(0x20004, [0x88, 0x87, 0x86, 0x85])] && storesAt (.stN64 (m 1 8)) sM [(0x20008, [0x88, 0x87, 0x86, 0x85, 0x84, 0x83, 0x82, 0x81])] &&
     storesAt (.sta ⟨0, 0, 0, 6, 1, 16⟩) sM [(0x20010, [0xFC, 0x0F, 1, 0, 0, 0, 0, 0, 0, 0, 0, 0, 0, 0, 0, 0])] &&
     onNext (exec (.vst (m 7 0)) sM) (fun t => match t.me.wb with | [.store ps _ _] => ps.map (fun p => (p.pa, p.bytes.length)) == [(0x20FC0, 64), (0x30000, 64), (0x30040, 64), (0x30080, 64), (0x300C0, 64), (0x30100, 64), (0x30140, 64), (0x30180, 64)] && (match ps with | p :: _ => p.bytes.take 16 == (List.range 16).map (BitVec.ofNat 8) | [] => false) | _ => false) &&
     onNext (exec (.vstx ⟨0, 0, 0, 1, 1, 2, 6⟩) sM) fun t => match t.me.wb with | [.store (p :: _) _ _] => p.pa == 0x20140 | _ => false) = true := by decide +kernel
theorem test_store_checks :
    ([(.stN16 (ma 3 0), 0x06, 0x10001), (.sta (ma 1 8), 0x06, 0x10008), (.vst (ma 1 32), 0x06, 0x10020), (.vstx ⟨0, 0, 0, 5, 3, 0, 0⟩, 0x06, 0x10001), (.stN64 (ma 5 0), 0x07, 0x20000), (.stN64 (ma 4 0), 0x08, 0x13000), (.stRel .n64 (ma 4 0), 0x08, 0x13000), (.stRel .n8 (ma 1 64), 0x06, 0x10040)] : List (Instr × Nat × W72)).all
      (fun x => trapsWith x.1 sM x.2.1 5 x.2.2) = true ∧ withholdsE (.stRel .n16 ⟨2, 1, 3, 1, 1, 62⟩) sM [.storeRel 1 3 ⟨0x2003E, [0x88, 0x87], false⟩] = true := by decide +kernel

/-- A core with 0x1000 bytes of scratchpad: bytes 1 to 8 at 0x100, load and store shapes with 4-byte rows 8 apart, p1 with the lanes 0 and 2 of 4 bytes, v2 with the lane offsets 0x100, 0x104, 0xFFD, 0x1000. -/
def kP : Core :=
  { job := some { job9 with scratch := 0x1000 }
    regs := { b := [(1, 0x100), (2, 0xE00), (3, 0xE01), (4, 0xE04)], p := [(1, 0x0F0F), (2, 0xFFFF)], s := [(5, 0x1122334455667788)]
              shAct := [(4, BitVec.ofNat 128 (2 + 8 * 2 ^ 4 + 2 * 2 ^ 28)), (5, BitVec.ofNat 128 (2 + 8 * 2 ^ 4 + 2 ^ 28 + 2 ^ 32)), (8, BitVec.ofNat 128 (2 + 8 * 2 ^ 4 + 2 * 2 ^ 28)), (9, BitVec.ofNat 128 (2 + 8 * 2 ^ 4 + 2 ^ 28 + 2 ^ 32)), (6, BitVec.ofNat 128 (2 + 6 * 2 ^ 4)), (10, BitVec.ofNat 128 (2 + 6 * 2 ^ 4))] }
    vec := [(1, 0x0F0E0D0C0B0A09080706050403020100), (2, 0x00001000_00000FFD_00000004_00000000), (3, 0x00000004_00000000_00000000_00000000)]
    scr := (List.range 8).map fun i => (0x100 + i, BitVec.ofNat 8 (i + 1)) }
def sP : State := one kP
def mp (b : BitVec 4) (hs : BitVec 2) (off : BitVec 20) : MP := ⟨0, 0, 0, 5, b, hs, off⟩
theorem test_scratchpad_loads :
    issuesWr (.svld (mp 1 0 0)) sP [(6, .v 5 (BitVec.allOnes 4096) 0x0807060504030201)] = true ∧ issuesWr (.sld (mp 1 0 0)) sP [(6, .s 5 0x0807060504030201)] = true ∧
    issuesWr (.svlds (mp 1 0 0)) sP [(6, .v 5 (BitVec.allOnes 4096) 0x04030201)] = true ∧ issuesWr (.svld (mp 1 0 4)) sP [(6, .v 5 (BitVec.allOnes 4096) 0x08070605)] = true ∧
    ([(.svld (mp 3 0 0), 0x06, 0xE01), (.svld (mp 4 0 0), 0x09, 0xE04), (.svlds (mp 3 0 0), 0x06, 0xE01), (.svlds (mp 1 2 0), 0x06, 0x100), (.svlds (mp 2 0 0), 0x09, 0x1000), (.sld (mp 4 0 0), 0x06, 0xE04), (.sld (mp 2 0 0x200), 0x09, 0x1000)] : List (Instr × Nat × W72)).all (fun x => trapsWith x.1 sP x.2.1 4 x.2.2) = true ∧
    onNext (exec (.svld (mp 2 0 0)) sP) (fun t => t.me.sys.level == 0) = true := by decide +kernel
/-- R167: lanes 0 and 1 read, lanes 2 (misaligned) and 3 (past the end) give zero and enter vfm; where the shape traps, only an active lane out of range does. -/
theorem test_gather :
    onNext (exec (.svgth ⟨0, 0, 0, 5, 0, 0, 2, 0x100⟩) { sP with cores := [(0, { kP with vec := [(2, 0x00000F00_00000EFD_00000004_00000000)] })] }) (fun t => t.me.regs.vfm == 0b1100 && t.me.iss.pend == [⟨5, 0, .v 5 (BitVec.ofNat 4096 (2 ^ 128 - 1)) 0x0807060504030201⟩]) = true ∧
    trapsWith (.svgth ⟨0, 0, 0, 5, 0, 1, 2, 0⟩) sP 0x09 4 0xFFD = true ∧
    onNext (exec (.svgth ⟨0, 0, 0, 5, 1, 1, 3, 0⟩) sP) (fun t => t.me.regs.vfm == 0 && t.me.iss.pend.length == 1) = true := by decide +kernel
theorem test_scratchpad_stores :
    withholdsE (.svst { mp 1 0 0 with data := 1 }) sP [.scratch ((List.range 512).map fun j => (0x100 + j, BitVec.ofNat 8 (if j < 16 then j else 0)))] = true ∧
    onNext (exec (.svsts { mp 1 0 0 with data := 1 }) sP) (fun t => match t.me.wb with | [.scratch cs] => lastCell cs 0x100 == some 0 && lastCell cs 0x108 == some 4 && lastCell cs 0x11B == some 15 && lastCell cs 0x104 == none | _ => false) = true ∧
    withholdsE (.sst (mp 1 0 0)) sP [.scratch [(0x100, 0x88), (0x101, 0x77), (0x102, 0x66), (0x103, 0x55), (0x104, 0x44), (0x105, 0x33), (0x106, 0x22), (0x107, 0x11)]] = true ∧
    ([(.svst (mp 3 0 0), 0x06, 0xE01), (.svst (mp 4 0 0), 0x09, 0xE04), (.svsts (mp 3 0 0), 0x06, 0xE01), (.svsts (mp 1 2 0), 0x06, 0x100), (.svsts (mp 2 0 0), 0x09, 0x1000), (.sst (mp 4 0 0), 0x06, 0xE04), (.sst (mp 2 0 0x200), 0x09, 0x1000)] : List (Instr × Nat × W72)).all (fun x => trapsWith x.1 sP x.2.1 5 x.2.2) = true := by decide +kernel
/-- R167: of two lanes for one offset the higher stands; a lane out of range is recorded and writes nothing; the trapping shape. -/
theorem test_scatter :
    onNext (exec (.svsct ⟨0, 0, 0, 1, 0, 0, 3, 0x100⟩) sP) (fun t => match t.me.wb with | [.scratch cs] => lastCell cs 0x100 == some 8 && lastCell cs 0x104 == some 12 && lastCell cs 0x108 == none | _ => false) = true ∧
    onNext (exec (.svsct ⟨0, 0, 0, 1, 0, 0, 2, 0⟩) sP) (fun t => t.me.regs.vfm == 0b1100 && match t.me.wb with | [.scratch cs] => lastCell cs 4 == some 4 && lastCell cs 0xFFD == none | _ => false) = true ∧ trapsWith (.svsct ⟨0, 0, 0, 1, 0, 1, 2, 0⟩) sP 0x09 5 0xFFD = true := by decide +kernel

/-- R175, R178: descriptors and cache operations, with and without a page; the address needs no alignment. -/
theorem test_descriptors_cache :
    onNext (exec (.ldesc (ma 3 0)) sM) (fun t => t.me.iss.vpend.map (fun v => v.wr) == [[.s 5 0xA4007F00]]) = true ∧ onNext (exec (.sdesc { ma 3 0 with data := 1 }) sM) (fun t => t.me.wb == [.sdesc 0x20001 0x85868788 false 0]) = true ∧
    onNext (exec (.cwb (ma 3 0)) sM) (fun t => t.me.wb == [.cwb 0x20001 0]) = true ∧ onNext (exec (.pref (ma 5 0)) sM) (fun t => t == sM) = true ∧ onNext (exec (.pref (ma 3 0)) sM) (fun t => t.mem.bytes == sM.mem.bytes && t.me.regs == kM.regs) = true ∧
    ([(.ldesc (ma 5 0), 0x07, 4), (.cinv (ma 5 0), 0x07, 4), (.cflush (ma 5 0), 0x07, 4), (.cflush (ma 4 0), 0x08, 4), (.sdesc (ma 4 0), 0x08, 5), (.cwb (ma 5 0), 0x07, 5)] : List (Instr × Nat × Nat)).all (fun x => onNext (exec x.1 sM) fun t => t.me.sys.bank1.cause.toNat % 65536 == x.2.1 + 256 * x.2.2) = true := by decide +kernel
/-- R178: `cinv` drops a dirty byte, `cflush` writes it home; both leave the line out of the L1. -/
theorem test_cinv_cflush :
    (let s := { sM with cores := [(0, { kM with l1 := [(0x400, ({ s0 := { dirty := 1, data := 0x99 } } : L1Line))] })] }
     onNext (exec (.cinv (ma 1 5)) s) (fun t => t.me.line 0x400 == {} && t.mem.byte 0x20000 == 0x81) && onNext (exec (.cflush (ma 1 5)) s) fun t => t.me.line 0x400 == {} && t.mem.byte 0x20000 == 0x99) = true := by decide +kernel
/-- R176 at issue: an atomic, with an ordering in the beacon bytes and beyond them, misaligned and without write permission. -/
theorem test_atomic_issue :
    ([Instr.atmAdd, .atmAnd, .atmOr, .atmXor, .atmMinI64, .atmMaxI64, .atmMinN64, .atmMaxN64, .atmSwp, .atmCas] : List (MT → Instr)).all (fun f => onNext (exec (f ⟨1, 1, 0, 9, 1, 2, 1, 56⟩) sM) (fun t => (match t.me.wb with
        | [.atomic _ 1 1 0 p x y 9 0] => p.pa == 0x20038 && p.bytes.length == 8 && x == 0x8182838485868788 && y == 5 | _ => false) && t.me.iss.vpend.map (fun v => (v.kind, v.regs, v.hold)) == [(.atomic, [.s 9], true)]) &&
      trapsWith (f ⟨1, 1, 0, 9, 1, 2, 1, 64⟩) sM 0x06 5 0x10040 && trapsWith (f ⟨0, 1, 0, 9, 1, 2, 3, 0⟩) sM 0x06 5 0x10001 && trapsWith (f ⟨0, 1, 0, 9, 1, 2, 4, 0⟩) sM 0x08 5 0x13000) = true ∧
    onNext (exec (.atmFaddF32 ⟨0, 1, 0, 9, 1, 0, 1, 68⟩) sM) (fun t => match t.me.wb with | [.atomic .fadd 0 1 0 p _ _ 9 0] => p.pa == 0x20044 && p.bytes.length == 4 | _ => false) = true := by decide +kernel
theorem test_atomic_values :
    AtomOp.add.new 0xFFFFFFFFFFFFFFFF 2 0 = some 1 ∧ AtomOp.minI.new 0x8000000000000000 1 0 = some 0x8000000000000000 ∧ AtomOp.maxN.new 0x8000000000000000 1 0 = some 0x8000000000000000 ∧ AtomOp.cas.new 5 9 5 = some 9 ∧ AtomOp.cas.new 5 9 6 = none ∧
    AtomOp.fadd.new 0x3F800000 0x40000000 0 = some 0x40400000 ∧ AtomOp.fadd.new 0x7F800000 0xFF800000 0 = some 0x7FC00000 := by decide +kernel

/-! ### Vector class: O21 to O27 -/

/-- One masked vector write, with its low bits under the mask. -/
def vecWr (i : Instr) (s : State) (lat d : Nat) (mask val : Vec) : Bool := onNext (exec i s) fun t => match t.me.iss.pend with
  | [⟨due, _, .v r m v⟩] => due == s.cycle + lat - 1 && r == d && m == mask && v &&& m == val
  | _ => false
/-- One write of a whole vector register, looked at lane by lane. -/
def vecAll (i : Instr) (s : State) (lat d w : Nat) (l : List Nat) : Bool := onNext (exec i s) fun t => match t.me.iss.pend with
  | [⟨due, _, .v r m v⟩] => due == s.cycle + lat - 1 && r == d && m == BitVec.allOnes 4096 && (List.range l.length).map (laneAt w v) == l
  | _ => false
/-- p1 activates the bytes 0 to 7. v2 and v3 hold the low 64 bits given. -/
def sV (a b c : Nat) (sc : W64 := 0) : State :=
  one { regs := { p := [(1, 0xFF), (2, 0xF0)], s := [(9, sc)] }, vec := [(2, BitVec.ofNat 4096 a), (3, BitVec.ofNat 4096 b), (4, BitVec.ofNat 4096 c)] }
def vr (ty : BitVec 4) (vc : BitVec 10 := 4) (rm : BitVec 2 := 0) (sat : BitVec 1 := 0) : VR := ⟨1, ty, rm, sat, 7, 2, 3, vc⟩
def vs (ty : BitVec 4) (rm : BitVec 2 := 0) (sat : BitVec 1 := 0) : VS := ⟨1, ty, rm, sat, 7, 2, 9, 4⟩
def m64 : Vec := 0xFFFFFFFFFFFFFFFF
/-- R150 on two FP32 lanes a = (1.0, −2.0), b = (3.0, 0.5), c = (10.0, −0.0). -/
theorem test_arith_f32 :
    ([(Instr.vadd, 0xBFC00000_40800000), (.vsub, 0xC0200000_C0000000), (.vmul, 0xBF800000_40400000), (.vfma, 0xBF800000_41500000), (.vfms, 0xBF800000_C0E00000), (.vfnma, 0x3F800000_40E00000)] : List ((VR → Instr) × Vec)).all
      (fun x => vecWr (x.1 (vr 8)) (sV 0xC0000000_3F800000 0x3F000000_40400000 0x80000000_41200000) 4 7 m64 x.2) = true ∧
    vecWr (.vdiv (vr 8)) (sV 0xC0000000_3F800000 0x3F000000_40400000 0) 8 7 m64 0xC0800000_3EAAAAAB = true := by decide +kernel
/-- R150 on eight i8 lanes: modulo 2^8, clamped, the minimum by −1, and a zero divisor. -/
theorem test_arith_i8 :
    (let s := sV 0x80_7F_01_FE_07_F9_05_80 0xFF_7F_02_02_00_02_FB_80 0x01_01_01_01_01_01_01_01
     vecWr (.vadd (vr 0)) s 4 7 m64 0x7F_FE_03_00_07_FB_00_00 && vecWr (.vadd (vr 0 4 0 1)) s 4 7 m64 0x80_7F_03_00_07_FB_00_80 && vecWr (.vsub (vr 0)) s 4 7 m64 0x81_00_FF_FC_07_F7_0A_00 && vecWr (.vmul (vr 0)) s 4 7 m64 0x80_01_02_FC_00_F2_E7_00 &&
     vecWr (.vfma (vr 0)) s 4 7 m64 0x81_02_03_FD_01_F3_E8_01 && vecWr (.vfms (vr 0)) s 4 7 m64 0x7F_00_01_FB_FF_F1_E6_FF && vecWr (.vfnma (vr 0)) s 4 7 m64 0x81_00_FF_05_01_0F_1A_01 && vecWr (.vdiv (vr 0)) s 8 7 m64 0x80_01_00_FF_FF_FD_FF_01 &&
     vecWr (.vmul (vr 0 4 0 1)) s 4 7 m64 0x7F_7F_02_FC_00_F2_E7_7F) = true := by decide +kernel
/-- R147: the VS forms take s[9][7:0] in every lane; here 3. -/
theorem test_arith_scalar :
    (let s := sV 0x80_7F_01_FE_07_F9_05_80 0 0x01_01_01_01_01_01_01_01 0x103
     vecWr (.vaddScalar (vs 0)) s 4 7 m64 0x83_82_04_01_0A_FC_08_83 && vecWr (.vsubScalar (vs 0)) s 4 7 m64 0x7D_7C_FE_FB_04_F6_02_7D && vecWr (.vmulScalar (vs 0)) s 4 7 m64 0x80_7D_03_FA_15_EB_0F_80 && vecWr (.vfmaScalar (vs 0)) s 4 7 m64 0x81_7E_04_FB_16_EC_10_81 &&
     vecWr (.vfmsScalar (vs 0)) s 4 7 m64 0x7F_7C_02_F9_14_EA_0E_7F && vecWr (.vfnmaScalar (vs 0)) s 4 7 m64 0x81_84_FE_07_EC_16_F2_81 && vecWr (.vdivScalar (vs 0)) s 8 7 m64 0xD6_2A_00_00_02_FE_01_D6 &&
     vecWr (.vminScalar (vs 0)) s 4 7 m64 0x80_03_01_FE_03_F9_03_80 && vecWr (.vmaxScalar (vs 0)) s 4 7 m64 0x03_7F_03_03_07_03_05_03 && vecWr (.vandScalar (vs 0)) s 4 7 m64 0x00_03_01_02_03_01_01_00 && vecWr (.vorScalar (vs 0)) s 4 7 m64 0x83_7F_03_FF_07_FB_07_83 &&
     vecWr (.vxorScalar (vs 0)) s 4 7 m64 0x83_7C_02_FD_04_FA_06_83 && vecWr (.vandnScalar (vs 0)) s 4 7 m64 0x80_7C_00_FC_04_F8_04_80 && vecWr (.vmulhScalar (vs 0)) s 4 7 m64 0xFE_01_00_FF_00_FF_00_FE) = true := by decide +kernel
/-- R147, R151: a scalar count is the whole scalar: 0x103 clears, 3 shifts. -/
theorem test_shifts_scalar :
    ([(Instr.vshlScalar, 0x00_F8_08_F0_38_C8_28_00, 0), (.vshrScalar, 0x10_0F_00_1F_00_1F_00_10, 0), (.vsarScalar, 0xF0_0F_00_FF_00_FF_00_F0, 0xFF_00_00_FF_00_FF_00_FF)] : List ((VS → Instr) × Vec × Vec)).all
      (fun x => vecWr (x.1 (vs 0)) (sV 0x80_7F_01_FE_07_F9_05_80 0 0 3) 4 7 m64 x.2.1 && vecWr (x.1 (vs 0)) (sV 0x80_7F_01_FE_07_F9_05_80 0 0 0x103) 4 7 m64 x.2.2) = true := by decide +kernel
/-- R151 on eight lanes. -/
theorem test_lane_ops :
    (let s := sV 0x80_7F_01_FE_07_F9_05_80 0xFF_7F_02_02_00_09_FB_80 0
     vecWr (.vmin (vr 0)) s 4 7 m64 0x80_7F_01_FE_00_F9_FB_80 && vecWr (.vmax (vr 0)) s 4 7 m64 0xFF_7F_02_02_07_09_05_80 && vecWr (.vmin (vr 4)) s 4 7 m64 0x80_7F_01_02_00_09_05_80 && vecWr (.vand (vr 0)) s 4 7 m64 0x80_7F_00_02_00_09_01_80 && vecWr (.vor (vr 0)) s 4 7 m64 0xFF_7F_03_FE_07_F9_FF_80 &&
     vecWr (.vxor (vr 0)) s 4 7 m64 0x7F_00_03_FC_07_F0_FE_00 && vecWr (.vandn (vr 0)) s 4 7 m64 0x00_00_01_FC_07_F0_04_00 && vecWr (.vmulh (vr 0)) s 4 7 m64 0x00_3F_00_FF_00_FF_FF_40 && vecWr (.vmulh (vr 4)) s 4 7 m64 0x7F_3F_00_01_00_08_04_40) = true := by decide +kernel
theorem test_shifts :
    (let s := sV 0x80_7F_01_FE_07_F9_05_80 0xFF_07_02_01_00_09_08_07 0
     vecWr (.vshl (vr 0)) s 4 7 m64 0x00_80_04_FC_07_00_00_00 && vecWr (.vshr (vr 0)) s 4 7 m64 0x00_00_00_7F_07_00_00_01 && vecWr (.vsar (vr 0)) s 4 7 m64 0xFF_00_00_FF_07_FF_00_FF) = true := by decide +kernel
/-- R151: magnitude and negation, plain and saturating; −0, and a NaN made canonical. -/
theorem test_abs_neg :
    (let s := sV 0x80_7F_01_FE_07_F9_05_80 0 0
     let f := sV 0xFFC00001_80000000 0 0
     vecWr (.vabs (vr 0)) s 4 7 m64 0x80_7F_01_02_07_07_05_80 && vecWr (.vabs (vr 0 4 0 1)) s 4 7 m64 0x7F_7F_01_02_07_07_05_7F && vecWr (.vneg (vr 0)) s 4 7 m64 0x80_81_FF_02_F9_07_FB_80 && vecWr (.vneg (vr 0 4 0 1)) s 4 7 m64 0x7F_81_FF_02_F9_07_FB_7F &&
     vecWr (.vabs (vr 8)) f 4 7 m64 0x7FC00000_00000000 && vecWr (.vneg (vr 8)) f 4 7 m64 0x7FC00000_00000000) = true := by decide +kernel
/-- R150: rounding down gives −0 for an exact zero sum; R151: −0 is below +0, and a NaN stays. -/
theorem test_float_corners :
    vecWr (.vadd (vr 8 4 3)) (sV 0x7F800000_3F800000 0xFF800000_BF800000 0) 4 7 m64 0x7FC00000_80000000 = true ∧ vecWr (.vmin (vr 8)) (sV 0x7F800001_00000000 0x3F800000_80000000 0) 4 7 m64 0x7FC00000_80000000 = true ∧
    vecWr (.vdiv (vr 8)) (sV 0x00000000_C0000000 0x80000000_00000000 0) 8 7 m64 0x7FC00000_FF800000 = true := by decide +kernel
/-- R145: only the lanes that the predicate leaves active are written. -/
theorem test_predicated : vecWr (.vadd { vr 8 with p := 2 }) (sV 0xC0000000_3F800000 0x3F000000_40400000 0) 4 7 0xFFFFFFFF_00000000 0xBFC00000_00000000 = true := by decide +kernel

/-- R152: special and exact cases of every transcendental; the root of 4.0 is 2.0, of −1.0 NaN. -/
theorem test_transcendentals :
    ([(Instr.vrecip, 0xFF800000_7F800000), (.vrsqrt, 0xFF800000_7F800000), (.vexp2, 0x3F800000_3F800000), (.vlog2, 0xFF800000_FF800000), (.vsin, 0x80000000_00000000), (.vcos, 0x3F800000_3F800000), (.vtanh, 0x80000000_00000000)] : List ((VR → Instr) × Vec)).all
      (fun x => vecWr (x.1 (vr 8)) (sV 0x80000000_00000000 0 0) 8 7 m64 x.2) = true ∧
    vecWr (.vsqrt (vr 8)) (sV 0xBF800000_40800000 0 0) 8 7 m64 0x7FC00000_40000000 = true := by decide +kernel
/-- Inputs of the clauses of R152 over values: a NaN, a negative number, an integer and a half-integer. -/
theorem test_transcendental_inputs :
    f32 0x7F800001 = .nan ∧ f32 0xC0000000 = .fin true (2 ^ 23) (-22) ∧ (f32 0xC0400000 = .fin true (3 * 2 ^ 22) (-((22 : Nat) : Int)) ∧ f32 0x3FC00000 = .fin false (3 * 2 ^ 22) (-((23 : Nat) : Int)) ∧ 2 * (3 * 2 ^ 22) = 3 * 2 ^ 23) := by decide +kernel

/-- One write of a whole predicate register. -/
def predWr (i : Instr) (s : State) (d : Nat) (v : Pred) : Bool := issuesWr i s [(4, .p d (BitVec.allOnes 512) v)]
/-- R153 on the FP32 lanes (1.0, −0.0, NaN) against (2.0, +0.0, 1.0). -/
theorem test_compares :
    ([(Instr.vceq, 0x0F0), (.vcne, 0xF0F), (.vclt, 0x00F), (.vcle, 0x0FF), (.vcgt, 0), (.vcge, 0x0F0), (.vcun, 0xF00)] : List ((VR → Instr) × Pred)).all
      (fun x => predWr (x.1 { vr 8 0 with p := 3 }) { sV 0x7FC00000_80000000_3F800000 0x3F800000_00000000_40000000 0 with cores := [(0, { regs := { p := [(3, 0xFFF)] }, vec := [(2, 0x7FC00000_80000000_3F800000), (3, 0x3F800000_00000000_40000000)] })] } 7 x.2) = true ∧
    predWr (.vclt (vr 0)) (sV 0xFF 0x01 0) 7 0x01 = true ∧ predWr (.vclt (vr 4)) (sV 0xFF 0x01 0) 7 0 = true := by decide +kernel
/-- R153: every class of a BF16 lane: −∞, −1, negative subnormal, −0, +0, subnormal, 1, +∞, NaN; the mask takes classes 0, 2, 4, 6 and 8. -/
theorem test_vclass :
    predWr (.vclass { vr 9 0b101010101 with p := 0 }) (sV 0x7FC0_7F80_3F80_0001_0000_8000_8001_BF80_FF80 0 0) 7 (BitVec.ofNat 512 (0b11_00_11_00_11_00_11_00_11 + ((2 ^ 512 - 1) - (2 ^ 18 - 1)))) = true := by decide +kernel
theorem test_predicates :
    (let s := one { regs := { p := [(2, 0b1100), (3, 0b1010)] } }
     predWr (.pand ⟨0, 0, 0, 0, 7, 2, 3, 0⟩) s 7 0b1000 && predWr (.por ⟨0, 0, 0, 0, 7, 2, 3, 0⟩) s 7 0b1110 && predWr (.pxor ⟨0, 0, 0, 0, 7, 2, 3, 0⟩) s 7 0b0110 && predWr (.pnot ⟨0, 0, 0, 0, 7, 2, 0, 0⟩) s 7 (~~~ (0b1100 : Pred)) &&
     issuesWr (.pcnt ⟨0, 0, 0, 0, 7, 2, 0, 0⟩) s [(4, .s 7 2)] && issuesWr (.pcnt ⟨0, 0, 0, 0, 7, 2, 0, 1⟩) s [(4, .s 7 1)] && issuesWr (.pcnt ⟨0, 0, 0, 0, 7, 0, 0, 3⟩) s [(4, .s 7 64)]) = true := by decide +kernel

/-- R155 on i16 lanes 1, 2, 3, 4 of v2 and 9, 0x81, 2, 0 of v3. -/
theorem test_moves :
    (let s := sV 0x0004_0003_0002_0001 0x0000_0002_0101_0009 0x00BB_00AA 0xFFFF8001
     vecAll (.vsel { vr 1 0 with p := 2 }) s 4 7 16 [9, 0x101, 3, 4, 0] && vecWr (.vmov (vr 1)) s 4 7 m64 0x0004_0003_0002_0001 && vecWr (.vperm (vr 1)) s 4 7 m64 0x0001_0003_00BB_0000 && vecWr (.vrot ⟨1, 1, 0, 0, 7, 2, 2⟩) s 4 7 m64 0x0000_0000_0004_0003 && vecWr (.vrot ⟨1, 1, 0, 0, 7, 2, 255⟩) s 4 7 m64 0x0003_0002_0001_0000 &&
     vecWr (.vbcast (vs 1)) s 4 7 m64 0x8001_8001_8001_8001 && vecWr (.vins { vs 1 with vc := 2 }) s 4 7 m64 0x0004_8001_0002_0001 && issuesWr (.vext { vs 1 with p := 0, vc := 3 }) s [(4, .s 9 4)]) = true := by decide +kernel
theorem test_constants :
    (let s := sV 0xFFFE 0 0
     vecWr (.vconst ⟨2, 8, 0, 0, 7, 0, 0x3F800⟩) s 4 7 0xFFFFFFFF_00000000 0x3F800000_00000000 && vecWr (.vconst ⟨1, 9, 0, 0, 7, 0, 0x3F80⟩) s 4 7 m64 0x3F80_3F80_3F80_3F80 && vecWr (.vconst ⟨1, 3, 0, 0, 7, 0, 0xFFFFE⟩) s 4 7 m64 0xFFFFFFFFFFFFFFFE && vecWr (.vconst ⟨1, 11, 0, 0, 7, 0, 0x7E⟩) s 4 7 m64 0x7E7E7E7E7E7E7E7E &&
     issuesWr (.vext { vs 1 with p := 0, vc := 0 }) s [(4, .s 9 0xFFFFFFFFFFFFFFFE)] && issuesWr (.vext { vs 5 with p := 0, vc := 0 }) s [(4, .s 9 0xFFFE)]) = true := by decide +kernel

/-- R156: under p1 only the i8 lanes 0 to 7 count; the result fills every lane. -/
theorem test_reductions :
    (let s := sV 0x80_7F_01_FE_07_F9_05_80 0 0
     vecAll (.vradd (vr 0)) s 8 7 8 [0x83, 0x83, 0x83] && vecAll (.vrmax (vr 0)) s 8 7 8 [0x7F, 0x7F] && vecAll (.vrmin (vr 0)) s 8 7 8 [0x80, 0x80] && vecAll (.vrmax (vr 4)) s 8 7 8 [0xFE] && vecAll (.vrmin (vr 4)) s 8 7 8 [0x01] && vecAll (.vrand (vr 0)) s 8 7 8 [0] && vecAll (.vror (vr 0)) s 8 7 8 [0xFF] &&
     vecAll (.vrxor (vr 0)) s 8 7 8 [0x80 ^^^ 0x7F ^^^ 0x01 ^^^ 0xFE ^^^ 0x07 ^^^ 0xF9 ^^^ 0x05 ^^^ 0x80] && vecAll (.vradd (vr 8)) (sV 0xC0000000_3F800000 0 0) 8 7 32 [0xBF800000, 0xBF800000]) = true := by decide +kernel

/-- R157: the worked conversion of 0x7E with and without sat; widening of both halves; narrowing from two registers. -/
theorem test_conversions :
    vecWr (.vcvt (vr 0 11 1 1)) (sV 0x7E 0 0) 4 7 m64 0x7F = true ∧ vecWr (.vcvt (vr 0 11 1 0)) (sV 0x7E 0 0) 4 7 m64 0xC0 = true ∧ vecWr (.vcvt (vr 8 8 0 1)) (sV 0xFF800000_7F800001 0 0) 4 7 m64 0xFF7FFFFF_7FC00000 = true ∧
    vecWr (.vwiden (vr 1 0)) (sV 0x80_7F_01_FE 0 0) 4 7 m64 0xFF80_007F_0001_FFFE = true ∧ vecWr (.vwiden (vr 1 16)) (sV (0xFE * 2 ^ 2048) 0 0) 4 7 m64 0xFFFE = true ∧
    (onNext (exec (.vnarrow { vr 0 1 with p := 0 }) (sV 0x0102_FFFE 0x0003 0)) fun t => match t.me.iss.pend with | [⟨3, _, .v 7 m v⟩] => m == BitVec.allOnes 4096 && laneAt 8 v 0 == 0xFE && laneAt 8 v 1 == 0x02 && laneAt 8 v 256 == 3 && laneAt 8 v 2 == 0 | _ => false) = true := by decide +kernel
/-- R158: the fragment (7.1): data 0xD8, 0x01 and the descriptor 0x8B4A_7F06; a NaN gives 0xA300_FF06. -/
theorem test_vqblk :
    vecAll (.vqblk { vr 8 0 with p := 0 }) (sV 0x3E4CCCCD_3F333333_C0466666_40A66666 0 0) 8 7 32 ([0x1D8] ++ List.replicate 63 0 ++ [0x8B4A7F06, 0]) = true ∧ vecAll (.vqblk { vr 8 0 with p := 0 }) (sV 0x7FC00000 0 0) 8 7 32 (List.replicate 64 0 ++ [0xA300FF06]) = true := by decide +kernel

/-! ### Index class: O28 and O29 -/

/-- ix1 = 5, ix2 = −1, ix3 = 0xF0F0; shapes of the index engine: 0 plain 4-byte elements at 0x10000, 1 a cursor over 3 elements there, 2 scratchpad bytes pairs at 0x100, 3 the event 7. -/
def kX : Core :=
  { kM with scr := [(0x100, 1), (0x101, 2), (0x102, 3)]
            job := some { job9 with scratch := 0x200 }
            regs := { kM.regs with
              ix := [(1, 5), (2, 0xFFFFFFFFFFFFFFFF), (3, 0xF0F0), (4, 0x00000007_00000001), (5, 0x00000009_FFFFFFFF), (6, 0x00000007_00000004), (7, 0xFFFFFFFF_00000001), (8, 0xFFFFFFFF_00000002), (9, 0x8), (10, 3)]
              shAct := [(16, BitVec.ofNat 128 (0x10000 + 2 * 2 ^ 72)), (17, BitVec.ofNat 128 (0x10000 + 2 ^ 75 + 3 * 2 ^ 79)), (18, BitVec.ofNat 128 (0x100 + 2 ^ 72 + 2 ^ 74)), (19, BitVec.ofNat 128 (0x10000 + 7 * 2 ^ 76))] } }
def sX : State := { sM with cores := [(0, kX)] }
theorem test_index_arithmetic :
    ([(.xadd ⟨9, 1, 2, 0, 0⟩, 4), (.xsub ⟨9, 1, 2, 0, 0⟩, 6), (.xand ⟨9, 2, 3, 0, 0⟩, 0xF0F0), (.xshl ⟨9, 2, 0, 0, 63⟩, 0x8000000000000000), (.xshr ⟨9, 2, 0, 0, 60⟩, 15), (.xpopc ⟨9, 3, 0, 0, 6⟩, 2), (.xpopc ⟨9, 2, 0, 0, 64⟩, 64), (.xaddi ⟨9, 1, 0, 0, 0x7FFA⟩, 0xFFFFFFFFFFFFFFFF),
      (.xsel ⟨3, 1, 2, 0, 0⟩, 0xFFFFFFFFFFFF0F0F), (.xfroms ⟨2, 9, 0x7FFFF⟩, 4)] : List (Instr × W64)).all (fun x => issuesWr x.1 sX [(2, .ix (match x.1 with | .xsel _ => 3 | _ => 9) x.2)]) = true ∧
    issuesWr (.xtos ⟨7, 1, 2⟩) sX [(2, .s 7 7)] = true ∧ issuesWr (.xtov ⟨1, 7, 0, 63⟩) sX [(2, .v 7 (BitVec.ofNat 4096 ((2 ^ 64 - 1) * 2 ^ 4032)) (BitVec.ofNat 4096 (5 * 2 ^ 4032)))] = true := by decide +kernel
/-- R185: the codes eq, ne, unsigned < and ≤, signed < and ≤ on (5, −1), (−1, 5) and (5, 5). -/
theorem test_xcmp :
    ([(0, [false, false, true]), (1, [true, true, false]), (2, [true, false, false]), (3, [true, false, true]), (4, [false, true, false]), (5, [false, true, true])] : List (BitVec 15 × List Bool)).all
      (fun x => ([(1, 2), (2, 1), (1, 1)] : List (BitVec 4 × BitVec 4)).map (fun y => issuesWr (.xcmp ⟨9, y.1, y.2, 0, x.1⟩) sX [(2, .ix 9 0xFFFFFFFFFFFFFFFF)]) == x.2) = true ∧ issuesWr (.xcmp ⟨9, 1, 2, 0, 0⟩) sX [(2, .ix 9 0)] = true := by decide +kernel
/-- R187: element −4 + 5 of 4 bytes, a cursor within and past its list, a scratchpad pair, the event 7, and the traps of each kind. -/
theorem test_xld :
    loadsWr (.xld ⟨9, 1, 0, 0, 0x7FFC⟩) sX [.ix 9 0x08000000] = true ∧ loadsWr (.xld ⟨9, 4, 0, 1, 0⟩) sX [.ix 9 0x08000000_00000001] = true ∧ loadsWr (.xld ⟨9, 4, 0, 1, 2⟩) sX [.ix 9 0xFFFFFFFF_00000003] = true ∧ loadsWr (.xld ⟨9, 5, 0, 1, 1⟩) sX [.ix 9 0x84038281_00000000] = true ∧
    loadsWr (.xld ⟨9, 1, 0, 2, 0x7FFC⟩) sX [.ix 9 0x0003] = true ∧ onNext (exec (.xld ⟨9, 1, 0, 3, 0⟩) sX) (fun t => t == sX.precise ⟨1, 0x48, 0, 0, 0⟩) = true ∧
    trapsWith (.xld ⟨9, 3, 0, 2, 0⟩) sX 0x09 8 0x1E2E0 = true ∧ trapsWith (.xld ⟨9, 1, 0, 2, 0⟩) { sX with cores := [(0, { kX with regs := { kX.regs with shAct := [(18, BitVec.ofNat 128 (0x101 + 2 ^ 72 + 2 ^ 74))] } })] } 0x06 8 0x10B = true ∧
    trapsWith (.xld ⟨9, 3, 0, 0, 0⟩) sX 0x07 8 0x4C3C0 = true := by decide +kernel
/-- R189: the smaller key moves on, wrapping its position; equal keys match; both ended. -/
theorem test_xadv :
    issuesWr (.xadv ⟨9, 4, 5, 0, 0⟩) sX [(2, .ix 4 0x00000007_00000002), (2, .ix 9 0xFFFFFFFFFFFFFFFF)] = true ∧ issuesWr (.xadv ⟨9, 7, 5, 0, 0⟩) sX [(2, .ix 5 0x00000009_00000000), (2, .ix 9 0xFFFFFFFFFFFFFFFF)] = true ∧
    issuesWr (.xadv ⟨9, 4, 6, 0, 0⟩) sX [(2, .ix 9 0x00000001_00000004), (2, .ix 4 0x00000007_00000002), (2, .ix 6 0x00000007_00000005)] = true ∧ issuesWr (.xadv ⟨9, 7, 8, 0, 0⟩) sX [(2, .ix 9 0xFFFFFFFFFFFFFFFF)] = true := by decide +kernel
/-- R190 with q = 1: group 0 has the positions 0 and 2 (0b1000), group 1 is illegal. -/
theorem test_xexp :
    onNext (exec (.xexp ⟨9, 7, 2, 1⟩) sX) (fun t => match t.me.iss.pend with
      | [⟨1, _, .v 7 mv v⟩, ⟨1, _, .p 2 mp p⟩] => laneAt 32 v 32 == 64 && laneAt 32 v 33 == 66 && laneAt 32 v 34 == 0xFFFFFFFF && laneAt 32 mv 31 == 0 && laneAt 32 mv 63 == 0xFFFFFFFF && laneAt 32 mv 64 == 0 && p == BitVec.ofNat 512 (0xFF * 2 ^ 128) && mp == BitVec.ofNat 512 ((2 ^ 128 - 1) * 2 ^ 128)
      | _ => false) = true := by decide +kernel

/-! ### Matrix class at issue: O30 to O33 -/

/-- The page 0x200 of 2 MiB is frame 0x200000, page 0x800 of 2 MiB is readable only, the pages 0x400 to 0x403 are scattered. Shapes: 0 has FP8 (code 4) operands and results, 1 is all zero, 2 has its activations in the scratchpad, 3 is silent. -/
def sh0 : Nat := 4 * 2 ^ 52 + 4 * 2 ^ 56 + 4 * 2 ^ 60 + 2 * 2 ^ 16 + 127 * 2 ^ 72 + 2 ^ 83
def jobG : Job := { job9 with scratch := 0x1000, vregs := 64 }
def kG : Core :=
  { kM with
    job := some jobG
    tlb := [⟨9, 0x200, 21, 0x200073⟩, ⟨9, 0x800, 21, 0x800013⟩, ⟨9, 0x400, 12, 0x400073⟩, ⟨9, 0x401, 12, 0x402073⟩, ⟨9, 0x402, 12, 0x403073⟩, ⟨9, 0x403, 12, 0x404073⟩]
    vec := [(1, 0x0102), (2, BitVec.ofNat 4096 (0xA4007F00 * 2 ^ 2048 + 0xA4007F01 * 2 ^ 2080 + 0xCD))]
    regs := { mp := [(1, 0x200000), (2, 0x200100), (3, 0x400000), (4, 0x600000), (5, 0x200040), (6, 0x800000), (7, 0x200001)], shAct := [(0, BitVec.ofNat 128 sh0), (2, BitVec.ofNat 128 (sh0 + 1 + 2 ^ 88)), (3, BitVec.ofNat 128 (2 ^ 92))] } }
def sG : State := one kG
/-- The effects withheld where a command registers a pending result. -/
def withheldE (i : Instr) (s : State) (l : List Effect) : Bool := onNext (exec i s) fun t => t.me.wb == l && t.me.sys.level == 0
/-- R201 at issue: tile 2, activations from memory or from the scratchpad, and every check of a step. -/
theorem test_mstep :
    withheldE (.mstep ⟨3, 0, 1, 2, 2, 1⟩) sG [.matrix (.step 3 0x208000 4 0x208000 0x200140 (BitVec.ofNat 128 sh0)) false] = true ∧
    withheldE (.mstep ⟨3, 2, 1, 0, 2, 48⟩) sG [.matrix (.step 3 0x208000 4 0x208000 0xC00 (BitVec.ofNat 128 (sh0 + 1 + 2 ^ 88))) false] = false ∧
    withheldE (.mstep ⟨3, 2, 1, 0, 2, 47⟩) sG [.matrix (.step 3 0x208000 4 0x208000 0xBC0 (BitVec.ofNat 128 (sh0 + 1 + 2 ^ 88))) false] = true ∧
    ([(.mstep ⟨3, 2, 1, 0, 2, 48⟩, 0x09, 0xC00), (.mstep ⟨3, 0, 5, 2, 0, 0⟩, 0x06, 0x200040), (.mstep ⟨3, 0, 3, 2, 0, 0⟩, 0x0E, 0x400000), (.mstep ⟨3, 0, 4, 2, 0, 0⟩, 0x07, 0x600000), (.mstep ⟨3, 0, 1, 7, 0, 0⟩, 0x06, 0x200001)] : List (Instr × Nat × W72)).all (fun x => trapsWith x.1 sG x.2.1 6 x.2.2) = true ∧
    onNext (exec (.mstep ⟨3, 1, 1, 2, 0, 0⟩) sG) (fun t => t == sG.precise ⟨1, 0x46, 0, 0, 0⟩) = true := by decide +kernel
theorem test_mzero_topk : withheldE (.mzero ⟨3, 0, 0, 0, 0⟩) sG [.matrix (.zero 3) false] = true ∧ withheldE (.mtsclr ⟨3, 0, 0, 0, 0⟩) sG [.matrix (.tsclr 3) false] = true ∧ withheldE (.mtopkSet ⟨0, 0, 0, 0, 0x58⟩) sG [.matrix (.topkSet 8 5) false] = true := by decide +kernel
/-- R208, R212 at issue: sixteen rows 128 bytes apart; the silent shape; each check; the four registers of an 8-bit `mdrain.v`, and a range past the 64 declared. -/
theorem test_drains :
    onNext (exec (.mdrain ⟨3, 0, 1, 1, 0x4001⟩) sG) (fun t => match t.me.wb with | [.matrix (.drain 3 va dst b top _) false] => va == 0x200040 && dst == (List.range 16).map (fun m => ⟨0x200040 + 128 * m, 128, false⟩) && b == 0x0102 && top == BitVec.ofNat 4096 (0xA4007F00 * 2 ^ 2048 + 0xA4007F01 * 2 ^ 2080 + 0xCD) | _ => false) = true ∧
    withheldE (.mdrain ⟨3, 3, 4, 1, 0⟩) sG [.matrix (.drain 3 0x600000 [] 0x0102 0 (BitVec.ofNat 128 (2 ^ 92))) false] = true ∧
    ([(.mdrain ⟨3, 0, 7, 1, 0⟩, 0x06, 0x200001), (.mdrain ⟨3, 0, 4, 1, 0⟩, 0x07, 0x600000), (.mdrain ⟨3, 0, 6, 1, 0⟩, 0x08, 0x800000), (.mtopkGet ⟨0, 0, 7, 0, 0⟩, 0x06, 0x200001), (.mtopkGet ⟨0, 0, 6, 0, 1⟩, 0x08, 0x800040)] : List (Instr × Nat × W72)).all (fun x => trapsWith x.1 sG x.2.1 6 x.2.2) = true ∧
    onNext (exec (.mdrain ⟨3, 1, 1, 1, 0⟩) sG) (fun t => t == sG.precise ⟨1, 0x46, 0, 0, 0⟩) = true ∧
    withheldE (.mtopkGet ⟨0, 0, 1, 0, 1⟩) sG [.matrix (.topkGet 0x200040 [⟨0x200040, 1024, false⟩]) false] = true ∧
    onNext (exec (.mdrainV ⟨3, 0, 0, 1, 60⟩) sG) (fun t => t.me.iss.vpend.map (fun v => (v.kind, v.regs, v.ready)) == [(.engine, [.v 60, .v 61, .v 62, .v 63], none)] && t.me.wb.length == 1) = true ∧
    onNext (exec (.mdrainV ⟨3, 0, 0, 1, 61⟩) sG) (fun t => t == sG.precise ⟨1, 0x36, 0, 0, 0⟩) = true ∧ onNext (exec (.mdrainV ⟨3, 1, 0, 1, 5⟩) sG) (fun t => t == sG.precise ⟨1, 0x46, 0, 0, 0⟩) = true ∧
    onNext (exec (.mdrainV ⟨3, 3, 0, 1, 1000⟩) sG) (fun t => t.me.iss.vpend.map (fun v => v.regs) == [[]] && t.me.wb.length == 1) = true := by decide +kernel
/-- R214, R215 at issue. -/
theorem test_tile_commands :
    withheldE (.mpin ⟨0, 0, 1, 0, 1⟩) sG [.direct (.pin 0x204000 4 1 0x204000) false] = true ∧ withheldE (.munpin ⟨0, 0, 1, 0, 1⟩) sG [.direct (.unpin 0x204000 4 0x204000) false] = true ∧ withheldE (.minv ⟨0, 0, 1, 0, 1⟩) sG [.direct (.inv 0x204000 4 0x204000) false] = true ∧
    withheldE (.mrepl ⟨0, 0, 1, 0, 0x13⟩) sG [.direct (.repl 0x204000 4 1 3 0x204000) false] = true ∧
    ([Instr.mpin, .munpin, .minv, .mrepl, .mwrite] : List (MD → Instr)).all (fun f => onNext (exec (f ⟨0, 1, 1, 0, 0⟩) sG) (fun t => t == sG.precise ⟨1, 0x46, 0, 0, 0⟩) &&
      trapsWith (f ⟨0, 0, 5, 0, 0⟩) sG 0x06 6 0x200040 && trapsWith (f ⟨0, 0, 4, 0, 0⟩) sG 0x07 6 0x600000 && trapsWith (f ⟨0, 0, 3, 0, 0⟩) sG 0x0E 6 0x400000) = true ∧
    trapsWith (.mwrite ⟨0, 0, 6, 2, 0⟩) sG 0x08 6 0x800000 = true ∧ onNext (exec (.mpin ⟨0, 0, 6, 0, 0⟩) sG) (fun t => t.me.sys.level == 0) = true ∧
    onNext (exec (.mwrite ⟨0, 0, 1, 2, 0x105⟩) sG) (fun t => match t.me.wb with
      | [.mwrite ps ds, .matrix (.write 0x204000 4 5 0x204000 _ false) false] => ps.map (fun p => (p.pa, p.bytes.length)) == [(0x204280, 64), (0x2042C0, 64)] && ds == [(0x204280, 0xA4007F00), (0x2042C0, 0xA4007F01)] | _ => false) = true ∧
    onNext (exec (.mwrite ⟨0, 0, 1, 2, 0x185⟩) sG) (fun t => match t.me.wb with | [.mwrite _ [], .matrix (.write _ _ _ _ _ true) _] => true | _ => false) = true := by decide +kernel

/-- A partition with the pre-emption budget 100. -/
def partCfg : PartRec := ⟨1, 0x77, [], [], 0, 0, 0, 0, 0, 0, 0, 100, 0, 0, 0, [], 0, 0, 0, [], none⟩
def sB (w : BitVec 64) : State := { sG with cores := [(0, { kG with eng := { pattern := [(5, w)] } })], hub := { parts := [(2, some { cfg := partCfg })] } }
theorem test_matrix_control :
    withheldE (.mpref ⟨0, 0, 1, 0, 0xC003⟩) sG [.direct (.pref 0x200030 3 0 3) false] = true ∧ withheldE (.mcancelId ⟨0, 0, 0, 0, 3⟩) sG [.direct (.cancelId 3) false] = true ∧ withheldE (.mcancelAll ⟨0, 0, 0, 0, 0⟩) sG [.direct .cancelAll false] = true ∧ withheldE (.mcancelFlush ⟨0, 0, 0, 0, 0⟩) sG [.direct .flush false] = true := by decide +kernel
/-- R226, R250: depths 17 + 83 = 100 and 2 × 42 + 16 = 100 fit the budget, one more does not; entry 1 begins no built-in; an opcode bound with depth 100 at entry 3, with depth 101, and not bound. -/
theorem test_stitch_calls :
    (let st (b : Bool) (e d : Nat) (w : BitVec 43) : Effect := .matrix (.stitch b e d w [0, 0x200000, 0x200100, 0x400000, 0x600000, 0x200040, 0x800000, 0x200001] [BitVec.ofNat 128 sh0, 0x7F#128 <<< 72, BitVec.ofNat 128 (sh0 + 1 + 2 ^ 88), BitVec.ofNat 128 (2 ^ 92)]) false
     let bad (i : Instr) (w : BitVec 64) (n : Nat) := onNext (exec i (sB w)) fun t => t == (sB w).precise ⟨1, n, 0, 0, 0⟩
     withheldE (.mcall ⟨1, 2, 3, 4, BitVec.ofNat 23 (83 * 1024)⟩) (sB 0) [st true 0 100 (BitVec.ofNat 43 (2 ^ 38 + 2 * 2 ^ 36 + 3 * 2 ^ 33 + 4 * 2 ^ 23 + 83 * 1024))] && withheldE (.mcall ⟨0, 0, 0, 0, BitVec.ofNat 23 (41 * 1024 + 64)⟩) (sB 0) [st true 64 100 (BitVec.ofNat 43 (41 * 1024 + 64))] &&
     bad (.mcall ⟨0, 0, 0, 0, BitVec.ofNat 23 (84 * 1024)⟩) 0 0x46 && bad (.mcall ⟨0, 0, 0, 0, BitVec.ofNat 23 (42 * 1024 + 64)⟩) 0 0x46 && bad (.mcall ⟨0, 0, 0, 0, 1⟩) 0 0x46 &&
     withheldE (.stitchOpcode 5 7) (sB (BitVec.ofNat 64 (100 * 2 ^ 16 + 2 ^ 15 + 3))) [st false 3 100 7] && bad (.stitchOpcode 5 7) (BitVec.ofNat 64 (101 * 2 ^ 16 + 2 ^ 15 + 3)) 0x66 && bad (.stitchOpcode 5 7) (BitVec.ofNat 64 (100 * 2 ^ 16 + 3)) 0x66) = true := by decide +kernel
/-- R218: not mapped, mapped and absent, a pinned group of generation 7 with one valid instance, and the engine. -/
theorem test_mstat :
    (let e : MEng := { insts := [⟨0, 0x204000, 4, 7, 1, 0, .valid, [], 0⟩, ⟨1, 0x204000, 4, 7, 1, 4, .filling, [], 0⟩], pins := [⟨0x204000, 4, 1, false⟩], mrp := 0x8203, frozen := some ⟨⟨1, 0, 0, 0, 0⟩, 0, 0, false, false, none⟩, q := [⟨0, .zero 0, false, .waiting, 0, 0, 0, 0, 0⟩], pfLost := 70000 }
     let s := { sG with cores := [(0, { kG with eng := e })] }
     issuesWr (.mstatTile ⟨0, 0, 1, 9, 1⟩) s [(4, .s 9 0x400071F)] && issuesWr (.mstatTile ⟨0, 0, 1, 9, 0⟩) s [(4, .s 9 0x4000001)] && issuesWr (.mstatTile ⟨0, 0, 4, 9, 0⟩) s [(4, .s 9 0)] && issuesWr (.mstatTile ⟨0, 0, 3, 9, 0⟩) s [(4, .s 9 0)] && issuesWr (.mstatTile ⟨0, 0, 5, 9, 0⟩) s [(4, .s 9 0)] && issuesWr (.mstatTile ⟨0, 1, 1, 9, 0⟩) s [(4, .s 9 0)] &&
     onNext (exec (.mstatEngine ⟨0, 0, 0, 9, 0⟩) s) fun t => match t.me.iss.pend with | [⟨3, _, .s 9 v⟩] => v.toNat % 64 == 1 && v.getLsbD 6 && v.toNat / 2 ^ 12 % 65536 == 0x8203 && v.toNat / 2 ^ 33 == 65535 | _ => false) = true := by decide +kernel

/-! ### Micro-words: O34 -/

/-- A running stitch at word 10 of bank 1 in cycle 50: mt1 = 5, mt2 = −1, mt3 = 0; the loop counters 0 and 1; ring 0b101; accumulator 2 + 3; declared depth 9, 8 steps and 100 words behind it. Its shape 0 has its activations in the scratchpad. -/
def q0 : Seq := { entry := 0, bank0 := false, upc := 10, mt := [(1, 5), (2, BitVec.ofInt 72 (-1)), (4, 0x12345)], ml := [(0, ⟨3, 2⟩), (1, ⟨2, 0⟩), (2, ⟨1, 0⟩)], sp := 0b101, abase := 2, acnt := 4, aoff := 3, steps := 8, words := 100, depth := 9 }
def eS (q : Seq) (yr : Bool := false) (fr : Option Frozen := none) : MEng :=
  { q := [⟨0, .stitch false 0 9 0x7ABCDEF0123 [0x11, 0x22] [BitVec.ofNat 128 (2 ^ 88)], false, .running, 0, 0, 0, 0, 0⟩], seq := some q, banks := [(1, ⟨some 9, [], 0⟩)], nextId := 7, yieldReq := yr, frozen := fr }
def sStitch (q : Seq) (yr : Bool := false) : State := { one { kG with eng := eS q yr } with cycle := 50 }
/-- The word leads to the micro-state `q'`, and nothing else changes but the last use of the bank. -/
def microGo (i : Instr) (s : State) (q' : Seq) : Bool := onNext (exec i s) fun t => t == s.modMe fun c => { c with eng := { c.eng with seq := some q', banks := [(1, ⟨some 9, [], 50⟩)] } }
def qn (q : Seq) : Seq := { q with words := 101, upc := 11, elig := 51 }
def qh (q : Seq) (n : Nat) : Seq := { q with words := 101, upc := n, elig := 52 }
/-- The stitch freezes the engine with this cause. -/
def microBad (i : Instr) (s : State) (code det prog : Nat) (fatal : Bool) : Bool := onNext (exec i s) fun t => match t.me.eng.frozen, t.me.eng.seq with
  | some f, some q => f.cause.code == code && f.cause.det == det && f.cause.prog == prog && f.fatal == fatal && q.st == .faulted fatal && q.words == 100 && q.upc == 10 && t.me.eng.mrp.getLsbD 15
  | _, _ => false
theorem test_micro_control :
    microGo .unop (sStitch q0) (qn q0) = true ∧ microGo .uend (sStitch q0) { qn q0 with st := .ended } = true ∧ microGo .uwait (sStitch q0) (qn q0) = true ∧ microGo .uyield (sStitch q0) { qn q0 with steps := 0, words := 0 } = true ∧
    microGo .uyield (sStitch q0 true) { qn q0 with steps := 0, words := 0, st := .yielding } = true ∧
    (let busy := { q0 with sq := [⟨3, .zero 0, false, .waiting, 0, 0, 0, 0, 0⟩] }
     onNext (exec .uwait (sStitch busy)) (fun t => t == sStitch busy) && onNext (exec .uyield (sStitch busy true)) fun t => t == sStitch busy true) = true ∧
    microGo (.uring ⟨0xA5⟩) (sStitch q0) { qn q0 with sp := 0xA5 } = true ∧ microGo (.uacc ⟨30, 5⟩) (sStitch q0) { qn q0 with abase := 30, acnt := 5, aoff := 0 } = true ∧ microGo (.uaca ⟨2, 0⟩) (sStitch q0) { qn q0 with aoff := 1 } = true := by decide +kernel
/-- R234, R235: transfers by −4 and by 3 words; loops with the count 5 and 0; counters that count on, run out with and without the ring. -/
theorem test_micro_transfers :
    microGo (.ujmp ⟨0, 0, 0, 0, disp10 (-4)⟩) (sStitch q0) (qh q0 6) = true ∧ microGo (.ubz ⟨0, 3, 0, 0, 3⟩) (sStitch q0) (qh q0 13) = true ∧ microGo (.ubz ⟨0, 1, 0, 0, 3⟩) (sStitch q0) (qn q0) = true ∧
    microGo (.uloop ⟨3, 1, 6, 0, 3⟩) (sStitch q0) { qn q0 with ml := q0.ml ++ [(3, ⟨6, 4⟩)] } = true ∧ microGo (.uloop ⟨0, 3, 6, 0, 3⟩) (sStitch q0) { qh q0 14 with ml := [(1, ⟨2, 0⟩), (2, ⟨1, 0⟩)] } = true ∧
    microGo (.unext ⟨0, 0, 0, 0, disp10 (-3)⟩) (sStitch q0) { qh q0 7 with ml := [(0, ⟨3, 1⟩), (1, ⟨2, 0⟩), (2, ⟨1, 0⟩)] } = true ∧ microGo (.unext ⟨0, 0, 0, 1, disp10 (-3)⟩) (sStitch q0) { qh q0 7 with ml := [(0, ⟨3, 1⟩), (1, ⟨2, 0⟩), (2, ⟨1, 0⟩)], sp := 0b1011 } = true ∧
    microGo (.unext ⟨1, 0, 0, 1, disp10 (-3)⟩) (sStitch q0) { qh q0 7 with ml := [(0, ⟨3, 2⟩), (1, ⟨1, 0⟩), (2, ⟨1, 0⟩)], sp := 0b1010 } = true ∧ microGo (.unext ⟨1, 0, 0, 0, disp10 (-3)⟩) (sStitch q0) { qn q0 with ml := [(0, ⟨3, 2⟩), (2, ⟨1, 0⟩)] } = true ∧
    microGo (.unext ⟨2, 0, 0, 1, disp10 (-3)⟩) (sStitch q0) { qn q0 with ml := [(0, ⟨3, 2⟩), (1, ⟨2, 0⟩)], sp := 0b1010 } = true := by decide +kernel
/-- R236, R237: mt7 from 5 and −1; bits of the operand word 0x7ABC_DEF0_123; the matrix parameter 1 as captured. -/
theorem test_micro_temporaries :
    ([(.uadd ⟨7, 1, 2, 0⟩, 4), (.uaddi ⟨7, 1, 0, BitVec.ofInt 41 (-7)⟩, BitVec.ofInt 72 (-2)), (.umuli ⟨7, 1, 0, BitVec.ofInt 41 (-3)⟩, BitVec.ofInt 72 (-15)), (.ushli ⟨7, 2, 0, 71⟩, 0x800000000000000000), (.uandi ⟨7, 1, 0, BitVec.ofInt 41 (-2)⟩, 4),
      (.uldop ⟨7, 0, 8, 8⟩, 0x01), (.uldop ⟨7, 1, 16, 8⟩, BitVec.ofInt 72 (-17)), (.uldop ⟨7, 0, 16, 8⟩, 0xEF), (.uldmp ⟨7, 1⟩, 0x22)] : List (Instr × W72)).all (fun x => microGo x.1 (sStitch q0) { qn q0 with mt := q0.mt ++ [(7, x.2)] }) = true := by decide +kernel
/-- The word issues one command of the stitch. -/
def microPut (i : Instr) (q : Seq) (st : Nat) (o : MOp) : Bool := onNext (exec i (sStitch q)) fun t => match t.me.eng.seq with
  | some r => r == { qn q with steps := q.steps + st, sq := q.sq ++ [⟨7, o, false, .waiting, 0, 0, 0, 0, 0⟩] } && t.me.eng.nextId == 8 | none => false
theorem test_micro_commands :
    microPut .uzero q0 0 (.zero 5) = true ∧ microPut (.ustep ⟨1, 4, 0⟩) q0 1 (.stepVa 5 5 0x12345 (BitVec.ofNat 128 (2 ^ 88))) = true ∧ microPut (.udrain ⟨1, 4, 0⟩) q0 0 (.drainM 5 0x12345 5 (BitVec.ofNat 128 (2 ^ 88))) = true ∧
    microPut (.utopk ⟨8, 2, 0⟩) q0 0 (.topkSet 8 0x7FFFF) = true ∧ microPut (.utopkg ⟨0, 4, 0⟩) q0 0 (.topkGetVa 0x12345) = true ∧ microGo (.upref ⟨0, 4, 0⟩) (sStitch q0) (qn q0) = true ∧
    onNext (exec (.upref ⟨0, 4, 1⟩) (sStitch q0)) (fun t => t.me.eng.seq == some q0 && t.hub.walks.map (·.pipes) == [[0]]) = true ∧ onNext (exec (.upref ⟨0, 4, 1⟩) ((sStitch q0).modMe fun k => { k with noPage := [(1, 9, 0x12)] })) (fun t => t.me.eng.seq == some (qn q0) && t.hub.walks == []) = true ∧
    (let full := { q0 with sq := (List.range 16).map fun n => ⟨20 + n, .zero 0, false, .waiting, 0, 0, 0, 0, 0⟩ }
     ([.uzero, .ustep ⟨1, 4, 0⟩, .udrain ⟨1, 4, 0⟩, .utopk ⟨8, 2, 0⟩, .utopkg ⟨0, 4, 0⟩] : List Instr).all fun i => onNext (exec i (sStitch full)) fun t => t == sStitch full) = true := by decide +kernel
/-- R243, R59: the step beyond the declared depth, and an accumulator beyond the declared ones (window at 2 of a job with 5). -/
theorem test_micro_faults :
    ([.unop, .uend, .uwait, .uyield, .uring ⟨0⟩, .uacc ⟨0, 1⟩, .uaca ⟨1, 0⟩, .ujmp ⟨0, 0, 0, 0, 1⟩, .ubz ⟨0, 1, 0, 0, 1⟩, .uloop ⟨0, 1, 1, 0, 1⟩, .unext ⟨0, 0, 0, 0, 1⟩, .uadd ⟨1, 1, 1, 0⟩, .uaddi ⟨1, 1, 1, 0⟩, .umuli ⟨1, 1, 1, 0⟩, .ushli ⟨1, 1, 1, 0⟩, .uandi ⟨1, 1, 1, 0⟩,
      .uldop ⟨1, 0, 0, 1⟩, .uldmp ⟨1, 0⟩, .uzero, .ustep ⟨1, 4, 0⟩, .udrain ⟨1, 4, 0⟩, .utopk ⟨8, 2, 0⟩, .utopkg ⟨0, 4, 0⟩, .upref ⟨0, 4, 0⟩] : List Instr).all (fun i => microBad i (sStitch { q0 with steps := 10 }) 0x12 6 10 true) = true ∧
    microBad (.ustep ⟨1, 4, 0⟩) (sStitch { q0 with steps := 9 }) 0x12 6 9 true = true ∧ onNext (exec .unop (sStitch { q0 with steps := 9 })) (fun t => t.me.eng.frozen == none) = true ∧
    ([.uzero, .ustep ⟨1, 4, 0⟩, .udrain ⟨1, 4, 0⟩] : List Instr).all (fun i => microBad i { one { kG with job := some { jobG with accs := 5 }, eng := eS q0 } with cycle := 50 } 0x01 0x36 0 false) = true := by decide +kernel

/-! ### Copy class at issue: O35 and O36 -/

/-- a1 = 0x100 and a2 = 0x10000 and a3 = 0x1C0; shape 0 copies 4 rows of 64 bytes from device memory to scratchpad rows 128 apart, in 2 buffers; shape 1 is within the scratchpad, one row; shape 2 has no bytes; shape 3 has the destination rows downward. -/
def kh0 : Nat := 64 + 3 * 2 ^ 20 + 128 * 2 ^ 32 + 64 * 2 ^ 56 + 2 ^ 88 + 2 ^ 110
def kK : Core :=
  { kM with
    job := some { job9 with scratch := 0x1000 }
    regs := { a := [(1, 0x100), (2, 0x10000), (3, 0x1C0), (4, 0xD80), (5, 0x180)], s := [(1, 0x100000), (2, 0x20), (3, 0x1010), (4, 0x200007), (5, 0x20007)]
              shAct := [(12, BitVec.ofNat 128 kh0), (13, BitVec.ofNat 128 (64 + 2 ^ 88 + 2 ^ 89)), (15, BitVec.ofNat 128 (64 + 3 * 2 ^ 20 + (2 ^ 24 - 128) * 2 ^ 32 + 64 * 2 ^ 56 + 2 ^ 88))] }
    scr := [(0x100, 5)]
    ch := [(3, { q := [], released := 9, filled := 11, nfail := 70000, wm := some ⟨0x100, 0x40, some 0x120, []⟩ })] }
def sK : State := { one kK with hub := { ctxs := [(9, some { part := 2, sup := false, root := 0, save := 0, slots := 0, groups := [(7, some ⟨1, [0, 1, 2]⟩)] })] } }
def kcmd (op : COp) (h : BitVec 128) (d o : W72) : CopyCmd := ⟨op, 2, h, d, o, false, 9, 0, false, 0, 0, [], false, [], 0, 0⟩
theorem test_copy_commands :
    (let h := BitVec.ofNat 128 kh0
     withheldE (.kcopy ⟨3, 0, 2, 1, 2, 2, 8⟩) sK [.copy 3 (kcmd .copy h 0x108 0x10020)] && withheldE (.kloop ⟨3, 0, 2, 1, 2, 1, 6⟩) sK [.copy 3 (kcmd (.loop 6 0x100000) h 0x100 0x10000)] && withheldE (.kput ⟨3, 0, 2, 1, 2, 2, 8⟩) sK [.copy 3 (kcmd (.put 0x20) h 0x108 0x10000)] &&
     withheldE (.kget ⟨3, 0, 2, 1, 2, 2, 8⟩) sK [.copy 3 (kcmd (.get 0x20) h 0x108 0x10000)] && withheldE (.kcollAllReduce ⟨3, 1, 2, 1, 3, 4, 0x820⟩) sK [.copy 3 (kcmd (.coll 0 2 8 7 0x20) (BitVec.ofNat 128 (64 + 2 ^ 88 + 2 ^ 89)) 0x100 0x1C0)] &&
     withheldE (.kcollAllGather ⟨3, 1, 2, 1, 3, 4, 0x820⟩) sK [.copy 3 (kcmd (.coll 1 2 8 7 0x20) (BitVec.ofNat 128 (64 + 2 ^ 88 + 2 ^ 89)) 0x100 0x1C0)] && withheldE (.kcollReduceScatter ⟨3, 1, 2, 1, 3, 4, 0x820⟩) sK [.copy 3 (kcmd (.coll 2 2 8 7 0x20) (BitVec.ofNat 128 (64 + 2 ^ 88 + 2 ^ 89)) 0x100 0x1C0)] &&
     withheldE (.kcollBroadcast ⟨3, 1, 2, 1, 3, 5, 0x820⟩) sK [.copy 3 (kcmd (.coll 3 2 8 7 2) (BitVec.ofNat 128 (64 + 2 ^ 88 + 2 ^ 89)) 0x100 0x1C0)]) = true := by decide +kernel
/-- R254: a shape without bytes; a side that ends past 0x1000 (rows at 0xD80, + 384 + 64) or begins below 0; two overlapping scratchpad sides; the group's size decides: three rows of the all-gather from 0x180 reach 0x1C0. -/
theorem test_copy_checks :
    ([.kcopy ⟨3, 2, 2, 1, 2, 2, 0⟩, .kput ⟨3, 2, 2, 1, 2, 2, 0⟩, .kget ⟨3, 2, 2, 1, 2, 2, 0⟩, .kloop ⟨3, 3, 2, 1, 2, 1, 6⟩, .kcollBroadcast ⟨3, 0, 2, 1, 2, 4, 0x820⟩, .kcollBroadcast ⟨3, 1, 2, 1, 3, 4, 0x820⟩, .kcollAllReduce ⟨3, 1, 2, 1, 3, 3, 0x820⟩] : List Instr).all
      (fun x => onNext (exec x sK) fun t => t == sK.precise ⟨1, 0x47, 0, 0, 0⟩) = true ∧
    withheldE (.kcopy ⟨3, 0, 2, 4, 2, 2, 0xC0⟩) sK [.copy 3 (kcmd .copy (BitVec.ofNat 128 kh0) 0xE40 0x10020)] = true ∧
    ([(.kcopy ⟨3, 0, 2, 4, 2, 2, 0xC1⟩, 0x09, 0xE41), (.kget ⟨3, 0, 2, 4, 2, 2, 0xC1⟩, 0x09, 0xE41), (.kcopy ⟨3, 3, 2, 1, 2, 2, 0⟩, 0x09, 0x100), (.kcollAllGather ⟨3, 1, 2, 5, 3, 4, 0x820⟩, 0x0F, 0x180)] : List (Instr × Nat × W72)).all (fun x => trapsWith x.1 sK x.2.1 7 x.2.2) = true ∧
    onNext (exec (.kcopy ⟨3, 1, 2, 3, 1, 2, 0⟩) sK) (fun t => t.me.sys.level == 0) = true ∧ trapsWith (.kcopy ⟨3, 1, 2, 3, 5, 2, 0⟩) sK 0x0F 7 0x1C0 = true := by decide +kernel
theorem test_copy_control :
    withheldE (.ksync ⟨3, 0, 2, 1, 0, 2, 0x10⟩) sK [.copy 3 { kcmd (.sync 0x20) 0 0x110 0 with scope := 2 }] = true ∧ withheldE (.kstage ⟨3, 0, 0, 0, 0, 0, 0⟩) sK [.kstage 3] = true ∧ withheldE (.kstageSched ⟨0, 0, 0, 0, 0, 0, 0⟩) sK [.kstageSched kK.regs false] = true ∧
    withheldE (.kcancelChannel ⟨3, 0, 0, 0, 0, 0, 0⟩) sK [.kcancel 0 3] = true ∧ withheldE (.kcancelAll ⟨0, 0, 0, 0, 0, 0, 0⟩) sK [.kcancel 1 0] = true ∧ withheldE (.kcancelFlush ⟨0, 0, 0, 0, 0, 0, 0⟩) sK [.kcancel 2 0] = true ∧
    ([.ksync ⟨3, 0, 2, 1, 0, 2, 8⟩, .ksyncrd ⟨3, 0, 2, 1, 0, 2, 8⟩, .ksyncrdWait ⟨3, 0, 2, 1, 0, 2, 8⟩] : List Instr).all (fun i => trapsWith i sK 0x06 7 0x108) = true ∧ ([.ksync ⟨3, 0, 2, 1, 0, 2, 0xF00⟩, .ksyncrd ⟨3, 0, 2, 1, 0, 2, 0xF00⟩, .ksyncrdWait ⟨3, 0, 2, 1, 0, 2, 0xF00⟩] : List Instr).all (fun i => trapsWith i sK 0x09 7 0x1000) = true := by decide +kernel
/-- R263, R265, R268, R274: the arm takes the stall rule at once; the results pending. -/
theorem test_copy_results :
    onNext (exec (.kwm ⟨3, 0, 2, 1, 0, 2, 0⟩) sK) (fun t => (t.me.chan 3).wm == some ⟨0x100, 0x20, none, []⟩ && t.me.wb == [.copy 3 (kcmd (.wm 0x20) 0 0x100 0)]) = true ∧ onNext (exec (.kwm ⟨3, 0, 2, 1, 0, 0, 0⟩) sK) (fun t => (t.me.chan 3).wm == none && t.me.wb.length == 1) = true ∧ trapsWith (.kwm ⟨3, 0, 2, 1, 0, 3, 0⟩) sK 0x09 7 0x100 = true ∧
    ([(.ksyncrd ⟨3, 0, 2, 1, 0, 2, 0⟩, .sync 0x100 none, [], false), (.ksyncrdWait ⟨3, 0, 2, 1, 0, 2, 0⟩, .sync 0x100 (some 0x20), [], true), (.kwmrd ⟨3, 0, 0, 0, 0, 2, 0⟩, .status, [.s 2 0x120], false), (.kwmrd ⟨4, 0, 0, 0, 0, 2, 0⟩, .status, [.s 2 0xFFFFFFFFFFFFFFFF], false),
      (.kstat ⟨3, 0, 0, 0, 0, 2, 0⟩, .status, [.s 2 (BitVec.ofNat 64 (9 * 2 ^ 8 + 11 * 2 ^ 28 + 65535 * 2 ^ 48))], false)] : List (Instr × VKind × List Wr × Bool)).all
      (fun x => onNext (exec x.1 sK) fun t => t.me.iss.vpend == [⟨0, x.2.1, 2, [.s 2], x.2.2.1, some 4, x.2.2.2, none⟩]) = true := by decide +kernel

/-! ### Results, effects, caches, sync: O37 to O40 -/

/-- Core 0 in cycle 10 with results pending: number 0 a load into s3, 1 a vector load into v4 of an open region, 2 a poisoned load into a5, 3 a division into s6 of a committed region, 4 a load that is not ready, 5 an index load. -/
def kR : Core :=
  { iss := { region := 5, nextId := 6
             vpend := [⟨0, .load, 5, [.s 3], [.s 3 7], some 10, false, none⟩, ⟨1, .load, 5, [.v 4], [.v 4 0xFF 0x1234], some 9, false, none⟩, ⟨2, .load, 5, [.a 5], [.a 5 1], some 10, false, some (4, 0x777)⟩,
                       ⟨3, .division, 4, [.s 6], [.s 6 8], some 10, false, none⟩, ⟨4, .load, 5, [.a 7], [.a 7 1], some 11, false, none⟩, ⟨5, .load, 4, [.ix 2], [.ix 2 9], some 10, false, none⟩, ⟨6, .load, 5, [.a 7], [.a 7 0x22], some 3, false, none⟩, ⟨8, .load, 5, [.s 0], [.s 0 3], some 3, false, none⟩] }
    vec := [(4, 0xABCD)] }
def sR : State := { one kR with cycle := 10 }
theorem test_load_complete :
    onNext (exec (.loadComplete 0 0) sR) (fun t => t.me.regs.s == [(3, 7)] && t.me.sh.s == [] && t.me.iss.vpend.length == 7) = true ∧ onNext (exec (.loadComplete 0 1) sR) (fun t => t.me.vec == [(4, 0xAB34)] && t.me.iss.wlog == [(4, 0xABCD)]) = true ∧
    onNext (exec (.loadComplete 0 2) sR) (fun t => t.me.regs.a == [] && t.me.iss.poisons == [⟨0x0B, 4, 1029, 0, 0x777⟩] && t.me.iss.vpend.length == 7) = true ∧ onNext (exec (.loadComplete 0 4) sR) (fun t => t.me == kR) = true ∧
    onNext (exec (.loadComplete 0 5) sR) (fun t => t.me.regs.ix == [(2, 9)] && t.me.sh.ix == [(2, 9)]) = true ∧ onNext (exec (.loadComplete 0 6) sR) (fun t => t.me.regs.a == [(7, 0x22)]) = true ∧ onNext (exec (.loadComplete 0 8) sR) (fun t => t.me.regs == {} && t.me.iss.vpend.length == 7) = true ∧
    onNext (exec (.divisionComplete 0) sR) (fun t => t.me.regs.s == [(6, 8)] && t.me.sh.s == [(6, 8)]) = true ∧
    onNext (exec (.loadComplete 0 0) { one { kR with iss := { kR.iss with pend := [⟨9, 5, .s 3 9⟩, ⟨10, 5, .s 3 8⟩] } } with cycle := 10 }) (fun t => t.me.regs.s == [(3, 7)] && t.me.iss.pend == [⟨10, 5, .s 3 8⟩]) = true := by decide +kernel

/-- Core 0 with the given effects in RQ. -/
def sQ (l : List Effect) (k : Core := {}) : State := { one { k with rq := l, rqAt := some 0 } with mem := { bytes := [(0x20000, 0x81)] } }
theorem test_effect_perform :
    onNext (exec (.effectPerform 0) (sQ [])) (fun t => t == sQ []) = true ∧ onNext (exec (.effectPerform 0) (sQ [.scratch [(5, 1), (6, 2), (5, 3)], .waitK 1])) (fun t => t.me.scr == [(5, 3), (6, 2)] && t.me.rq == [.waitK 1] && t.me.rqAt == none) = true ∧
    onNext (exec (.effectPerform 0) (sQ [.waitK 1] { rqFrom := 1 })) (fun t => t == sQ [.waitK 1] { rqFrom := 1 }) = true ∧
    onNext (exec (.effectPerform 0) (sQ [.store [⟨0x2003E, [0x77, 0x66], false⟩] 0 0])) (fun t => let x := (t.me.line 0x400).sec 0x800; x.dirty == 0xC000000000000000 && x.byte 62 == 0x77 && x.byte 63 == 0x66 && t.mem.bytes == [(0x20000, 0x81)] && t.me.rq == []) = true ∧
    onNext (exec (.effectPerform 0) (sQ [.matrix (.zero 3) true])) (fun t => t.me.eng.q == [⟨0, .zero 3, true, .waiting, 0, 0, 0, 0, 0⟩] && t.me.rq == []) = true ∧
    (let full := sQ [.matrix (.zero 3) true] { eng := { q := (List.range 32).map fun n => ⟨n, .zero 0, false, .waiting, 0, 0, 0, 0, 0⟩ } }
     onNext (exec (.effectPerform 0) full) fun t => t == full) = true := by decide +kernel
theorem test_effect_copy :
    (let m : CopyCmd := ⟨.copy, 0, BitVec.ofNat 128 (64 + 2 ^ 88 + 2 ^ 89), 0, 0x100, false, 0, 0, false, 0, 0, [], false, [], 0, 0⟩
     let busy := { ({} : Chan) with q := [m], running := true }
     onNext (exec (.effectPerform 0) (sQ [.copy 2 m] { ch := [(2, busy)] })) (fun t => (t.me.chan 2).q == [m, m] && t.me.rq == []) &&
     (let s := sQ [.copy 2 m] { ch := [(2, { busy with q := List.replicate 8 m })] }
      onNext (exec (.effectPerform 0) s) fun t => t == s)) = true := by decide +kernel

/-- An L1 line 0x400 with byte 1 of its first sector dirty. -/
def lD (own : Bool) (v : Nat) : L1Line := { s0 := { dirty := 2, data := 0x9900 }, owned := own, ver := v }
def sL (l : L1Line) (ver : Nat := 3) : State := { one { l1 := [(0x400, l)] } with mem := { bytes := [(0x20000, 0x81), (0x20002, 0x03)], ver := [(0x400, ver)], owner := if l.owned then [(0x400, some 0)] else [] } }
theorem test_write_back :
    onNext (exec (.writeBack 0 0x400 0) (sL (lD true 3))) (fun t => t.mem.bytes == [(0x20000, 0x81), (0x20001, 0x99), (0x20002, 0x03)] && t.mem.ver == [(0x400, 4)] && (t.me.line 0x400).ver == 4 && ((t.me.line 0x400).sec 0).dirty == 0) = true ∧
    onNext (exec (.writeBack 0 0x400 0) (sL (lD true 2))) (fun t => t.mem.bytes == [(0x20000, 0x81), (0x20002, 0x03)] && ((t.me.line 0x400).sec 0).dirty == 0 && ((t.me.line 0x400).sec 0).valid == false) = true ∧ onNext (exec (.writeBack 0 0x400 1) (sL (lD true 3))) (fun t => t == sL (lD true 3)) = true ∧
    onNext (exec (.writeBack 0 0x400 0) (sL (lD false 0))) (fun t => t.mem.bytes == [(0x20000, 0x81), (0x20001, 0x99), (0x20002, 0x03)] && t.mem.ver == [(0x400, 4)] && ((t.me.line 0x400).sec 0).dirty == 0) = true ∧
    (let s := sL (lD false 0)
     let o : L1Line := { s0 := { dirty := 5, data := 0x110022 }, owned := true, ver := 3 }
     onNext (exec (.writeBack 0 0x400 0) { s with cores := s.cores ++ [(9, { l1 := [(0x400, o)] })], mem := { s.mem with owner := [(0x400, some 9)] } }) fun t => t.mem.bytes == [(0x20000, 0x22), (0x20001, 0x99), (0x20002, 0x11)] && t.mem.ver == [(0x400, 5)] && t.mem.owner == [] && (t.core 9).l1 == []) = true := by decide +kernel
theorem test_evict :
    onNext (exec (.evict 0 0x400) (sL (lD false 0))) (fun t => t == sL (lD false 0)) = true ∧ onNext (exec (.evict 0 0x400) (sL { used := 1, owned := true })) (fun t => t == sL { used := 1, owned := true }) = true ∧ onNext (exec (.evict 0 0x400) (sL { used := 1 })) (fun t => t.me.l1 == []) = true := by decide +kernel
theorem test_fill :
    onNext (exec (.fill 0 0x400 0) (sL (lD false 0))) (fun t => let x := (t.me.line 0x400).sec 0; x.valid && x.dirty == 2 && x.byte 0 == 0x81 && x.byte 1 == 0x99 && x.byte 2 == 0x03 && t.mem.bytes == [(0x20000, 0x81), (0x20002, 0x03)]) = true ∧
    onNext (exec (.fill 0 0x400 0) (sL { s0 := { valid := true } })) (fun t => t == sL { s0 := { valid := true } }) = true := by decide +kernel
/-- R110: with 2,048 lines owned in cluster 0 the oldest, 0x400, is recalled: its owner keeps no copy and its dirty byte goes home. -/
theorem test_directory :
    (let s := { sL (lD true 3) with mem := { (sL (lD true 3)).mem with dirs := [(0, 0x400 :: (List.range 2047).map (0x1000 + ·))] } }
     onNext (exec (.directoryRecall 0) s) fun t => t.me.line 0x400 == {} && t.mem.owner.get none 0x400 == none && 3 < t.mem.ver.get 0 0x400 && t.mem.byte 0x20001 == 0x99) = true ∧ onNext (exec (.directoryRecall 0) (sL {})) (fun t => t == sL {}) = true := by decide +kernel
/-- R179: the words of the line 0x400 that are not 0 differ from its first one by 3 bytes, and its partner stays; with byte 0x20003 set they do not, and it goes. -/
theorem test_l2_evict :
    (let s (a : Nat) : State := { mem := { bytes := [(0x20000, 0x81), (a, 0x03)], l2 := [(0x400, { here := true, mate := some 0x480 }), (0x480, { here := true, mate := some 0x400 })] } }
     onNext (exec (.l2CompressionEvict 0x400) (s 0x2000A)) (fun t => t == s 0x2000A) && onNext (exec (.l2CompressionEvict 0x480) (s 0x2000B)) (fun t => t == s 0x2000B) && onNext (exec (.l2CompressionEvict 0x500) (s 0x2000A)) (fun t => t == s 0x2000A) &&
     onNext (exec (.l2CompressionEvict 0x400) (s 0x2000B)) fun t => t.mem.bytes == (s 0x2000B).mem.bytes && (t.mem.l2.get {} 0x400).here && !(t.mem.l2.get {} 0x480).here) = true := by decide +kernel

/-! ### Memory behind the homes, and translation: O41 and O42 -/

/-- Memory that holds 64-bit words at the given places. -/
def memWords (l : List (Nat × Nat)) : List Host.Cell := l.foldl (fun b x => (List.range 8).foldl (fun b i => Bank.put unwritten b (x.1 + i) (BitVec.ofNat 8 (x.2 / 256 ^ i % 256))) b) []
/-- The pool window of port 0, which is in service, with one write in flight. -/
def sW (l : LinkState) : State :=
  { mem := { inflight := [⟨3, 1, 0x100000000000010, [7, 8], 0, none, false, 0, none⟩, ⟨4, 0, 0x100000000000020, [1], 0, none, false, 0, none⟩] }
    hub := { windows := [⟨0x100000000000000, 0x1000000, 0, .pool, 2⟩], boot := { links := [(14, l)] } } }
/-- R111, R122: the write performs; it is refused, dead or poisoned; its port is down. -/
theorem test_pool_write_perform :
    onNext (exec (.poolWritePerform 3 (.ok [])) (sW .up)) (fun t => t.mem.bytes == [(0x100000000000010, 7), (0x100000000000011, 8)] && t.mem.ver == [(0x2000000000000, 1)] && t.mem.inflight.map (·.id) == [4]) = true ∧
    ([(.dead, .up, 1), (.refused, .up, 2), (.poison, .degraded, 4), (.ok [], .down, 1)] : List (RemoteResult × LinkState × BitVec 3)).all (fun x => onNext (exec (.poolWritePerform 3 x.1) (sW x.2.1)) fun t =>
      t.mem.bytes == [] && t.mem.ver == [] && t.mem.inflight.map (·.id) == [4] && (t.core 1).poolFail == 1 && (t.core 1).poolCause == x.2.2 && (t.core 0).poolFail == 0) = true := by decide +kernel
/-- The window of the frame 2 is exposed; the page 0x21 is under host bias, the page 0x22 flips. -/
def sE : State := { mem := { bytes := [(0x20000, 0x81), (0x21040, 0x55)], bias := [(0x21, true)], flipping := [0x22], ver := [(0x400, 3)] }, hub := { exposed := some (0x20000, 0x10000, 2) } }
theorem test_host_read :
    (let d (b : Byte) := b :: List.replicate 63 0
     onNext (exec (.cxlHostRead 1 0x1FFFF .none) sE) (fun t => t == sE) && onNext (exec (.cxlHostRead 1 0x30000 .none) sE) (fun t => t == sE) && onNext (exec (.cxlHostRead 1 0x20008 .exclusive) sE) (fun t => t == { sE with outbox := [.hostData 1 (d 0x81)] }) &&
     onNext (exec (.cxlHostRead 1 0x21044 .exclusive) sE) (fun t => t == { sE with outbox := [.hostData 1 (d 0x55)], mem := { sE.mem with fabric := [(0x841, ⟨[1], true, [], 0⟩)] } }) && onNext (exec (.cxlHostRead 1 0x21044 .none) sE) (fun t => t == { sE with outbox := [.hostData 1 (d 0x55)] }) &&
     onNext (exec (.cxlHostRead 1 0x22000 .shared) sE) fun t => t == { sE with mem := { sE.mem with held := [.read 1 0x22000 .shared] } }) = true := by decide +kernel
theorem test_host_write :
    onNext (exec (.cxlHostWrite 1 0x30000 [1]) sE) (fun t => t == sE) = true ∧ onNext (exec (.cxlHostWrite 1 0x22000 [1]) sE) (fun t => t == { sE with mem := { sE.mem with held := [.write 1 0x22000 [1]] } }) = true ∧
    onNext (exec (.cxlHostWrite 1 0x20000 [1, 2]) sE) (fun t => t.mem.bytes == [(0x20000, 1), (0x20001, 2), (0x21040, 0x55)] && t.mem.ver == [(0x400, 4)] && t.outbox == [.hostAck 1]) = true ∧
    onNext (exec (.cxlHostWrite 1 0x21041 [9]) sE) (fun t => t.mem.bytes == [(0x20000, 0x81), (0x21040, 0x55), (0x21041, 9)] && t.outbox == [.hostAck 1]) = true := by decide +kernel
theorem test_cxl_others :
    onNext (exec (.cxlHostPoolWrite 0x100000000000010 [7]) { sW .up with hub := { budgetUsed := [(0, 0x4000000000000), (0, 0x4000000000009)] } }) (fun t => t.mem.bytes == [(0x100000000000010, 7)] && t.hub.budgetUsed == [(0, 0x4000000000009)]) = true ∧
    onNext (exec (.cxlBudgetChange 1 1) { hub := { budgetUsed := [(1, 0x4000000000000), (0, 0x4000000000005), (1, 0x4000000000009)] } }) (fun t => t.hub.budgetUsed == [(0, 0x4000000000005), (1, 0x4000000000009)] && t.hub.budgets == [(1, 1)] && t.outbox.getLast? == some (.budgetAck 1 1)) = true ∧
    onNext (exec (.cxlIoQueueWrite 2 0 0) {}) (fun t => t == { outbox := [.ioUnsupported 2] }) = true := by decide +kernel
/-- Partition 2 owns the frame 2 and the queue pair 9, whose port is 1. -/
def sRma (st : LinkState) (ps : PartSt := .running) : State :=
  { mem := { bytes := [(0x20000, 0x81)] }, hub := { frameOwner := [(2, 3)], parts := [(2, some { cfg := { partCfg with qpFirst := 8, qpCount := 2 }, st := ps, queues := [] })], boot := { links := [(19, st)] } } }
theorem test_rma :
    onNext (exec (.rmaWrite 9 0x20001 [5, 6]) (sRma .up)) (fun t => t.mem.bytes == [(0x20000, 0x81), (0x20001, 5), (0x20002, 6)] && t.outbox == [.rmaDone 9]) = true ∧ onNext (exec (.rmaWrite 9 0x20001 [5, 6]) (sRma .down)) (fun t => t == sRma .down) = true ∧
    ([(0x2FFFF, [5, 6], PartSt.running), (0x20000, [], .running), (0x20000, [1], .capturing), (0x20000, [1], .resetting)] : List (Nat × List Byte × PartSt)).all (fun x => onNext (exec (.rmaWrite 9 x.1 x.2.1) (sRma .up x.2.2)) fun t => t == { sRma .up x.2.2 with outbox := [.rmaError 9] }) = true ∧
    onNext (exec (.rmaRead 9 0x20000 2) (sRma .up .capturing)) (fun t => t.mem == (sRma .up).mem && t.outbox == [.rmaData 9 [0x81, 0]]) = true ∧ onNext (exec (.rmaRead 9 0x2FFFF 2) (sRma .up)) (fun t => t.outbox == [.rmaError 9]) = true ∧ onNext (exec (.rmaRead 9 0x20000 2) (sRma .down)) (fun t => t == sRma .down) = true ∧
    onNext (exec (.send 2 0 false) (sRma .up)) (fun t => t == sRma .up) = true ∧
    (let s := { sRma .up with hub := { (sRma .up).hub with parts := [(2, some { cfg := { partCfg with qpFirst := 8, qpCount := 2 }, st := .running, queues := [{ cfg := ⟨0x20000, 8, 1, 0, 0, 0⟩ }] })] } }
     onNext (exec (.send 2 0 true) s) (fun t => t.outbox == [.rmaError 9]) && onNext (exec (.rmaWrite 9 0x20800 [1]) s) fun t => t.outbox == [.rmaError 9]) = true := by decide +kernel

/-- Context 9 of partition 2, which owns the frame 2, maps the page 0x10 to 0x20000 and the page 0x11 to the pool window, movable, by one table at 0x1000 whose entry 0 is the table itself. -/
def sJ : State :=
  { mem := { bytes := memWords [(0x1000, 0x1001), (0x1080, 0x20073), (0x1088, 0x100000000000A73), (0x100000000000000, 0x34)] }
    hub := { frameOwner := [(2, 3)], windows := [⟨0x100000000000000, 0x1000000, 0, .pool, 2⟩], parts := [(2, some { cfg := { partCfg with migthr := 5 }, pool := [7, 8] })], ctxs := [(9, some { part := 2, sup := false, root := 0x1000, save := 0, slots := 0 })] }
    cores := [(0, { job := some job9 }), (1, { job := some job9 })] }
/-- The move of the page 0x11 into the frame 7. -/
def mvJ : Move := ⟨9, 2, 0x11, 12, 0x100000000000000, 7, 0x1088, [0x100000000000A73], 100, false⟩
theorem test_tlb_walk :
    onNext (exec (.tlbWalk 0 0x10008) sJ) (fun t => match t.hub.walks with | [w] => w.vpn == 0x10 && w.ctx == 9 && w.cores == [0] && w.cluster == 0 && w.pipes == [] && w.due.any (24 + 2400 < ·) && t.cores == sJ.cores | _ => false) = true ∧
    onNext (exec (.tlbWalk 0 0x10008) { sJ with hub := { sJ.hub with stlb := [(0, [⟨9, 0x10, 12, 0x20073⟩])] } }) (fun t => t.me.tlb == [⟨9, 0x10, 12, 0x20073⟩] && t.me.iss.elig == 24) = true ∧
    (let s := { sJ with cores := [(0, { job := some job9, tlb := [⟨9, 0x10, 12, 0x20073⟩] })] }
     onNext (exec (.tlbWalk 0 0x10008) s) fun t => t == s) = true := by decide +kernel
theorem test_tlb_walk_complete :
    (let s (vpn : Nat) (x : Bool) := { sJ with cycle := 100, hub := { sJ.hub with walks := [⟨0, 9, vpn, 0, [0], [1], some 100, x, []⟩] } }
     onNext (exec (.tlbWalkComplete 0 9 0x10) (s 0x10 false)) (fun t => t.hub.walks == [] && t.hub.stlb == [(0, [⟨9, 0x10, 12, 0x20073⟩])] && (t.core 0).tlb == [⟨9, 0x10, 12, 0x20073⟩] && (t.core 0).ptlb == [] && (t.core 1).tlb == [] && (t.core 1).ptlb == [⟨9, 0x10, 12, 0x20073⟩]) &&
     onNext (exec (.tlbWalkComplete 0 9 0x10) (s 0x10 true)) (fun t => t == { s 0x10 true with hub := { sJ.hub with walks := [] } }) && onNext (exec (.tlbWalkComplete 0 9 0x12) (s 0x12 false)) fun t => t.hub.walks == [] && t.hub.stlb == [] && (t.core 0).noPage == [(0, 9, 0x12)] && (t.core 1).noPage == [(1, 9, 0x12)]) = true := by decide +kernel
theorem test_remote_forward :
    onNext (exec (.remoteForward 9 0x11008) sJ) (fun t => t.hub.migr == [(9, 0x11, 1)]) = true ∧ onNext (exec (.remoteForward 9 0x11008) { sJ with hub := { sJ.hub with migr := [(9, 0x11, 255)] } }) (fun t => t.hub.migr == [(9, 0x11, 255)]) = true ∧ onNext (exec (.remoteForward 9 0x10008) sJ) (fun t => t == sJ) = true ∧
    onNext (exec .migrationCounterHalve { hub := { migr := [(9, 1, 7), (9, 2, 1)] } }) (fun t => t == { hub := { migr := [(9, 1, 3), (9, 2, 0)] } }) = true := by decide +kernel
/-- R327: below the threshold of 5; without a free frame; the frame 7 taken, its copy under way. -/
theorem test_page_migration :
    (let s (n : Nat) (pool : List Nat) := { sJ with hub := { sJ.hub with migr := [(9, 0x11, n)], parts := [(2, some { cfg := { partCfg with migthr := 5 }, pool := pool })] } }
     onNext (exec (.pageMigration 9 0x11) (s 4 [7])) (fun t => t == s 4 [7]) && onNext (exec (.pageMigration 9 0x11) (s 5 [])) (fun t => t == s 0 []) &&
     onNext (exec (.pageMigration 9 0x11) (s 5 [7])) fun t => t.mem == sJ.mem && (match t.hub.moves with
       | [m] => m == { mvJ with due := m.due } && 0 < m.due | _ => false) && match t.hub.parts.get none 2 with | some y => y.pool == [] | none => false) = true := by decide +kernel
/-- R327: the copy not ended; the entry changed meanwhile, and the frame is freed; the entry rewritten; and the end of the move, once no captured translation to the old page is left. -/
theorem test_page_move :
    (let s (m : Move) (cyc : Nat) (k : Core := {}) := { sJ with cycle := cyc, cores := [(0, k)], hub := { sJ.hub with moves := [m], parts := [(2, some { cfg := { partCfg with migthr := 5 } })] } }
     let ls (t : State) := match t.hub.parts.get none 2 with | some y => y.miglog | none => []
     onNext (exec (.pageMigration 9 0x11) (s mvJ 99)) (fun t => t == s mvJ 99) &&
     onNext (exec (.pageMigration 9 0x11) (s { mvJ with vals := [0x100000000000A72] } 100)) (fun t => t.hub.moves == [] && t.hub.scrub == [(7, 2)] && t.mem == sJ.mem) &&
     onNext (exec (.pageMigration 9 0x11) (s mvJ 100)) (fun t => t.hub.moves == [{ mvJ with moved := true }] && t.mem.read64 0x1088 == 0x70073 && t.mem.byte 0x70000 == 0x34 && t.mem.byte 0x100000000000000 == 0x34 && ls t == []) &&
     (let b := s { mvJ with moved := true } 100 { wb := [.cwb 0x100000000000040 0] }
      onNext (exec (.pageMigration 9 0x11) b) fun t => t == b) &&
     onNext (exec (.pageMigration 9 0x11) (s { mvJ with moved := true } 100)) fun t => t.hub.moves == [] && ls t == [(9, 0x11000)] && t.mem.bytes == sJ.mem.bytes) = true := by decide +kernel
theorem test_frame_scrub :
    (let s (k : Core) := { one k with mem := { bytes := [(0x1FFFF, 1), (0x20000, 2), (0x2FFFF, 3), (0x30000, 4)], desc := [(0x800, 1)] }, hub := { scrub := [(2, 4)], parts := [(4, some { cfg := partCfg, pool := [9] })] } }
     onNext (exec (.frameReuseScrub 2) (s {})) (fun t => t.mem.bytes == [(0x1FFFF, 1), (0x30000, 4)] && t.mem.desc == [] && t.hub.scrub == [] && t.hub.frameOwner == [(2, 5)] && (match t.hub.parts.get none 4 with | some y => y.pool == [9, 2] | none => false)) &&
     (let b := s { wb := [.cwb 0x20040 0] }
      onNext (exec (.frameReuseScrub 2) b) fun t => t == b)) = true := by decide +kernel
theorem test_hub_command_complete :
    (let s (op : HubOp) (closed : Bool) := { sJ with cycle := 300, cores := [(0, { job := some job9, iss := { vpend := [⟨5, .hub, 0, [.s 7], [], none, true, none⟩] } })]
                                                     hub := { sJ.hub with ctxs := [(9, some { part := 2, sup := false, root := 0x1000, save := 0, slots := 0, closed := closed })], cmds := [⟨0, op, 7, 5, 100, 9, [], none, none⟩] } }
     ([(.tlbinvCtx 9, false, 0), (.tlbinvVa 9 0x10000, false, 0), (.tlbinvCtx 9, true, 1), (.tlbinvVa 8 0, false, 1), (.stitchDrop 8 0, false, 1), (.ctxEnd 8, false, 1)] : List (HubOp × Bool × W64)).all
       fun x => onNext (exec (.hubCommandComplete 0) (s x.1 x.2.1)) fun t => t.hub.cmds == [] && t.me.regs.rs 7 == x.2.2 && t.me.iss.vpend == [] && t.mem == sJ.mem) = true := by decide +kernel

/-! ### Engines: O43 to O46 -/

/-- Core 0 in cycle 100 with this engine. -/
def sN (e : MEng) (k : Core := {}) : State := { one { k with eng := e, job := some jobG } with cycle := 100 }
def ent (op : MOp) (st : MSt) (gen : Nat := 0) (pa : Nat := 0) (fmt : Nat := 0) : MEntry := ⟨0, op, false, st, gen, pa, fmt, 0, 0⟩
def stepOp : MOp := .step 3 0x204000 4 0x204000 0 (BitVec.ofNat 128 (sh0 + 2 ^ 88))
theorem test_entry_ready :
    onNext (exec (.matrixEntryReady 0 0) { sN { q := [ent (.zero 3) .waiting] } with cores := [(0, { eng := { q := [ent (.zero 3) .waiting] }, acc := [(47, 1), (48, 2), (63, 3), (64, 4)], accPoison := [(50, true)] })] })
      (fun t => t.me.acc == [(47, 1), (64, 4)] && t.me.accPoison == [] && t.me.eng.q == [ent (.zero 3) (.ending 100)]) = true ∧
    (let i : Inst := ⟨5, 0x204000, 4, 7, 1, 4, .filling, [], 0⟩
     onNext (exec (.matrixEntryReady 0 0) (sN { q := [ent stepOp .waiting], insts := [i] })) fun t => t.me.eng == { q := [ent stepOp .bound 7 0x204000 4], insts := [i] }) = true := by decide +kernel
/-- R199: the step of an 8-bit shape takes 128 cycles in the array 1 of frame 4. -/
theorem test_step_dispatch :
    (let i : Inst := ⟨5, 0x204000, 4, 7, 1, 4, .valid, [], 0⟩
     onNext (exec (.stepDispatch 0 0) (sN { q := [ent stepOp .bound 7 0x204000 4], insts := [i] })) fun t => t.me.eng == { q := [ent stepOp .running 7 0x204000 4], insts := [{ i with time := 100 }], runs := [⟨1, 0, 5, 100, 0, 128, []⟩] }) = true := by decide +kernel
/-- A running step whose tile has the rows (1.0, −2.0) and (2.0, 0); its activations are 2.0 and 1.0 at the scratchpad's start, in E4M3. -/
def kStep (rows cycle0 : Nat) : MEng :=
  { q := [{ ent stepOp .running 7 0x204000 4 with rows := rows }], runs := [⟨1, 0, 5, cycle0, rows, 128, []⟩]
    insts := [⟨5, 0x204000, 4, 7, 1, 4, .valid, ⟨0xC038, 0xA4007F00, false⟩ :: ⟨0, 0xA4007F00, false⟩ :: ⟨0x40, 0xA4007F00, false⟩ :: List.replicate 253 ⟨0, 0xA4007F00, false⟩, 0⟩] }
/-- R199, R201: the first row is due after 16 + 8 cycles; the step then counts it. -/
theorem test_step_row :
    onNext (exec (.stepRowWrite 0 1) (sN (kStep 0 77))) (fun t => t == sN (kStep 0 77)) = true ∧ onNext (exec (.stepRowWrite 0 1) (sN (kStep 0 76))) (fun t => t.me.eng.q.map (·.rows) == [1] && t.me.eng.runs.length == 1) = true ∧
    onNext (exec (.stepRowWrite 0 1) (sN (kStep 15 0))) (fun t => t.me.eng.q.map (fun m => (m.rows, m.st)) == [(16, .ending 100)] && t.me.eng.runs == []) = true ∧
    (match (sN (kStep 0 76)).dueRun 0 1 with | some r => (match (sN (kStep 0 76)).nextRow 0 r with | some (m, .ok _) => m.id == 0 | _ => false) | none => false) = true := by decide +kernel
/-- R95: 2·1 + 1·2 = 4.0 and 2·(−2) + 1·0 = −4.0 on an accumulator of 0 and 1.0. -/
theorem test_step_sum : stepRow 0x3F80000000000000 [f32 0x40000000, f32 0x3F800000] [[f32 0x3F800000, f32 0xC0000000], [f32 0x40000000, f32 0]] &&& 0xFFFFFFFFFFFFFFFF = 0xC0400000_40800000 := by decide +kernel

theorem test_command_complete :
    (let z (n : Nat) : MEng := { q := [ent (.zero 3) (.ending n)] }
     let d : MEng := { q := [{ ent (.drain 3 0 [] 0 0 0) (.ending 99) with status := 0x10001 }] }
     onNext (exec (.matrixCommandComplete 0 0) (sN (z 101))) (fun t => t == sN (z 101)) && onNext (exec (.matrixCommandComplete 0 0) (sN (z 100))) (fun t => t == sN {}) &&
     onNext (exec (.matrixCommandComplete 0 0) (sN d)) fun t => t.me.eng.q == [] && t.me.tsNew == [(3, 105, 0x10001)]) = true := by decide +kernel
theorem test_tile_fill_end :
    (let b (z : Bool) : List Block := ⟨0, 0, z⟩ :: List.replicate 127 ⟨0, 0, false⟩
     let i (st : InstState) (bs : List Block) (n : Nat) : Inst := ⟨5, 0x204000, 8, 7, 1, 4, st, bs, n⟩
     let s (x : Inst) := sN { insts := [x] }
     onNext (exec (.tileFillEnd 0 5) (s (i .filling [] 0))) (fun t => t == s (i .filling [] 0)) && onNext (exec (.tileFillEnd 0 5) (s (i (.copying 2) [] 101))) (fun t => t == s (i (.copying 2) [] 101)) && onNext (exec (.tileFillEnd 0 5) (s (i (.copying 2) [] 100))) (fun t => t == s (i .valid [] 100)) &&
     onNext (exec (.tileFillEnd 0 5) (s (i .filling (b false) 0))) (fun t => t == s (i .valid (b false) 100)) && onNext (exec (.tileFillEnd 0 5) (s (i .filling (b true) 0))) fun t => t.me.eng.insts == []) = true := by decide +kernel
/-- R194, R200: a step behind another on its accumulator fills early into frame 0, next to the instance in the frames 2 and 3. -/
theorem test_early_fill :
    (let e : MEng := { q := [{ ent stepOp .bound with id := 9, gen := 5, pa := 0x600000, fmt := 4 }, ent stepOp .waiting], insts := [⟨5, 0x600000, 4, 5, 1, 2, .valid, [], 0⟩], nextId := 10, fillcount := 6 }
     onNext (exec (.earlyFill 0 0) (sN e)) fun t => t.me.eng == { e with insts := e.insts ++ [⟨10, 0x204000, 4, 6, 1, 0, .filling, [], 0⟩], nextId := 11, fillcount := 7 }) = true := by decide +kernel
/-- R196: two bound steps wait for one instance in array 0; the copy goes to array 1 (frame 4) and takes 256 cycles. -/
theorem test_replica :
    (let m : MEntry := ent stepOp .bound 7 0x204000 4
     let i : Inst := ⟨5, 0x204000, 4, 7, 1, 0, .valid, [], 0⟩
     onNext (exec (.replicaCopy 0 5) (sN { q := [m, { m with id := 1 }], insts := [i], nextId := 6 })) fun t => t.me.eng.insts == [i, { i with id := 6, frame := 4, st := .copying 5, time := 356 }]) = true := by decide +kernel
/-- R217, R325: a request with no tile left, with one whose page is to be walked, and whose walk has found nothing, with a resident one, and with one to fill. -/
theorem test_prefetch :
    (let p (l : List (Nat × Nat × Nat)) : Prefetch := ⟨3, 0, none, 0, false, some l⟩
     let s (l : List (Nat × Nat × Nat)) (is : List Inst) := sN { pfq := [p l], insts := is } { ptlb := kG.tlb }
     let i : Inst := ⟨5, 0x204000, 4, 7, 1, 0, .valid, [], 0⟩
     onNext (exec (.prefetchService 0) (s [] [])) (fun t => t.me.eng == {}) && onNext (exec (.prefetchService 0) (s [(0x600000, 4, 1)] [])) (fun t => t.hub.walks.map (·.pipes) == [[0]]) && onNext (exec (.prefetchService 0) ((s [(0x600000, 4, 1)] []).modCore 0 fun k => { k with noPage := [(1, 9, 0x600)] })) (fun t => t.me.eng == { pfLost := 1 }) && onNext (exec (.prefetchService 0) (s [(0x204000, 4, 1)] [i])) (fun t => t.me.eng == { pfq := [p []], insts := [i] }) &&
     onNext (exec (.prefetchService 0) (s [(0x204000, 4, 1), (0x208000, 4, 1)] [])) fun t => t.me.eng == { pfq := [p [(0x208000, 4, 1)]], insts := [⟨0, 0x204000, 4, 0, 1, 0, .filling, [], 0⟩], nextId := 1, fillcount := 1 }) = true := by decide +kernel
theorem test_parity : onNext (exec (.arrayParityError 0 1) (sN (kStep 3 76))) (fun t => t.me.eng.runs == [] && t.me.eng.insts == [] && t.me.eng.q.map (fun m => (m.st, m.rows)) == [(.waiting, 3)] && t.hub.errs == [⟨.array 0 1, [100]⟩]) = true := by decide +kernel
theorem test_matrix_deferred :
    onNext (exec (.matrixDeferredFault 0 0) (sN { q := [ent (.topkGetVa 0x200001) .waiting] } { iss := { region := 6 }, ptlb := kG.tlb })) (fun t => match t.me.eng.frozen with
      | some f => f.cause == ⟨0x06, 6, 0, 0, 0x200001⟩ && f.region == 6 && !f.delivered && t.me.eng.mrp == 0x8000 && t.me.eng.q.length == 1 | none => false) = true := by decide +kernel

/-- R227, R244: bank 2 holds the image of context 9; a fresh start, a start after a yield, and none without a bank. -/
theorem test_stitch_start :
    (let m (st : MSt) : MEntry := ent (.stitch false 20 9 0 [] []) st
     let e (tag : Nat) (st : MSt) (q : Option Seq) : MEng := { q := [m st], banks := [(2, ⟨some tag, [], 4⟩)], seq := q }
     let y : Seq := { q0 with st := .yielding }
     onNext (exec (.stitchStart 0) (sN (e 9 .waiting none))) (fun t => t.me.eng == { e 9 .running (some { entry := 0, bank0 := false, upc := 20, depth := 9, elig := 101 }) with q := [m .running] }) &&
     onNext (exec (.stitchStart 0) (sN (e 9 .running (some y)))) (fun t => t.me.eng.seq == some { y with st := .running, steps := 0, words := 0, elig := 101 }) && onNext (exec (.stitchStart 0) (sN (e 8 .waiting none))) (fun t => t == sN (e 8 .waiting none)) &&
     (let z (b : Bool) : State := sN { q := [ent (.stitch true 20 9 0 [] []) .waiting], bank0 := b }
      onNext (exec (.stitchStart 0) (z true)) (fun t => t.me.eng.seq.map (fun q => { q with prog := [] }) == some { entry := 0, bank0 := true, upc := 20, depth := 9, elig := 101 }) && onNext (exec (.stitchStart 0) (z false)) (fun t => t == z false) && onNext (exec (.stitchBankReload 0) (z false)) fun t => t == z false)) = true := by decide +kernel
/-- R224: the invalid bank 1, else the least recently used; the reload ends after 4,000 cycles with the context's image. -/
theorem test_stitch_reload :
    (let e (l : Bank StitchBank) : MEng := { q := [ent (.stitch false 20 9 0 [] []) .waiting], banks := l }
     let r (due : Nat) : State := { sN { banks := [(3, ⟨none, [], 42⟩)], reload := [(3, 9, due), (1, 9, 500)] } with hub := { ctxs := [(9, some { part := 2, sup := false, root := 0, save := 0, slots := 0, image := [(4, 0x77)] })] } }
     onNext (exec (.stitchBankReload 0) (sN (e [(2, ⟨some 8, [], 4⟩)]))) (fun t => t.me.eng.reload == [(1, 9, 4100)]) && onNext (exec (.stitchBankReload 0) (sN (e [(1, ⟨some 7, [], 5⟩), (2, ⟨some 8, [], 4⟩), (3, ⟨some 6, [], 9⟩)]))) (fun t => t.me.eng.reload == [(2, 9, 4100)] && (t.me.eng.banks.get {} 2).tag == none) &&
     onNext (exec (.stitchBankReloadEnd 0) (r 101)) (fun t => t == r 101) && onNext (exec (.stitchBankReloadEnd 0) (r 100)) fun t => t.me.eng == { banks := [(3, ⟨some 9, [(4, 0x77)], 42⟩)], reload := [(1, 9, 500)] }) = true := by decide +kernel
theorem test_stitch_store_error :
    onNext (exec (.stitchStoreError 0) (sStitch q0)) (fun t => (t.me.eng.banks.get {} 1).tag == none && (match t.me.eng.frozen with | some f => f.fatal && f.cause.code == 0x13 && f.cause.prog == 10 && f.cause.det == 6 && !f.delivered | none => false)) = true := by decide +kernel

/-- R240, R324: the activation rows at 0x10000, a page that the context's table maps, wait for it in the load pipes, and then bring their lines to the L2. -/
theorem test_upref :
    (let e := eS { q0 with mt := [(4, 0x10000)] }
     let s (l : List TlbEntry) : State := { sJ with cores := [(0, { kG with ptlb := l, eng := { e with q := e.q.map fun m => { m with op := .stitch false 0 9 0 [] [BitVec.ofNat 128 sh0] } } })], cycle := 50 }
     onNext (exec (.upref ⟨0, 4, 0⟩) (s [])) (fun t => t.hub.walks.map (fun w => (w.vpn, w.pipes)) == [(0x10, [0])] && t.me.eng == (s []).me.eng && t.mem == sJ.mem) &&
     onNext (exec (.upref ⟨0, 4, 0⟩) (s [⟨9, 0x10, 12, 0x20073⟩])) fun t => t.hub.walks == [] && (t.mem.l2.get {} 0x400).here && t.me.eng.seq.map (fun q => q.upc) == some 11) = true := by decide +kernel
/-- Channel 3 of core 0 in cycle 100 runs a command within the scratchpad: one row of 16 bytes from 0x100 to 0x200, in 2 buffers. -/
def hS : BitVec 128 := BitVec.ofNat 128 (16 + 16 * 2 ^ 32 + 2 ^ 88 + 2 ^ 89 + 2 ^ 110)
def cm (op : COp) : CopyCmd := { kcmd op hS 0x200 0x100 with scope := 5 }
def sC (m : CopyCmd) (f r : Nat := 0) (run : Bool := true) : State :=
  { one { kK with scr := [(0x100, 5), (0x10F, 6), (0x110, 7)], ch := [(3, { q := [m], running := run, filled := f, released := r })] } with
    cycle := 100, hub := { sK.hub with tasks := [(4, some task4)], ctxs := [(9, some { part := 2, sup := false, root := 0, save := 0, slots := 0, groups := [(7, some ⟨0, [0, 1]⟩)] })] } }
theorem test_copy_piece :
    onNext (exec (.copyPieceWrite 0 3) (sC (cm .copy))) (fun t => t.me.scr == [(0x100, 5), (0x10F, 6), (0x110, 7), (0x200, 5), (0x20F, 6)] && (t.me.chan 3).q.map (·.piece) == [1]) = true ∧ onNext (exec (.copyPieceWrite 0 3) (sC { cm .copy with from_ := 101 })) (fun t => t == sC { cm .copy with from_ := 101 }) = true ∧
    onNext (exec (.copyComplete 0 3) (sC { cm .copy with piece := 1 })) (fun t => (t.me.chan 3).q == [] && !(t.me.chan 3).running) = true := by decide +kernel
/-- R260: the third iteration of two buffers starts once one is released. -/
theorem test_kloop_iteration :
    (let m (i : Nat) : CopyCmd := { cm (.loop 4 0x1000) with iter := i }
     onNext (exec (.kloopIterationStart 0 3) (sC (m 1) 1 0)) (fun t => (t.me.chan 3).q == [{ m 1 with iterOn := true }]) && onNext (exec (.kloopIterationStart 0 3) (sC (m 2) 2 0)) (fun t => t == sC (m 2) 2 0) &&
     onNext (exec (.kloopIterationStart 0 3) (sC (m 2) 2 1)) fun t => (t.me.chan 3).q == [{ m 2 with iterOn := true }]) = true := by decide +kernel
theorem test_remote_refused :
    (let s := { sC { cm (.get 1) with acks := [8] } with hub := { (sC (cm .copy)).hub with net := [⟨8, 0, 3, false, none, false, 4, 1, none, none, none, none, 0, 0, none⟩] } }
     onNext (exec (.remoteAcknowledge 8 .refused) s) fun t => t.hub.net == [] && t.me.netFail == 1 && t.me.netCause == 2 && (t.me.chan 3).nfail == 1 && (t.me.chan 3).q.map (fun q => (q.acks, q.failed)) == [([], true)] && t.me.scr == s.me.scr) = true := by decide +kernel
/-- The sent collective 8 of channel 3: member 0 of two, with its contribution. -/
def sColl (kind : Nat) : State :=
  let m := { cm (.coll kind 0 2 7 0) with acks := [8] }
  let s := sC m
  { s with hub := { s.hub with net := [⟨8, 0, 3, false, none, false, 4, 1, none, none, none, some { cmd := m, group := ⟨0, [0, 1]⟩, own := 5 :: List.replicate 14 0 ++ [6], dst := [], blocks := [] }, 0, 0, none⟩] } }
theorem test_collective :
    onNext (exec (.collectiveComplete 0 8 [] 2) (sColl 0)) (fun t => t.me.netFail == 1 && t.me.netCause == 2 && (t.me.chan 3).nfail == 1 && (t.me.chan 3).q.map (fun q => (q.acks, q.iterOn)) == [([], true)] && t.hub.net == [] && t.me.scr == (sC (cm .copy)).me.scr) = true ∧
    onNext (exec (.collectiveComplete 0 8 [[], (List.range 16).map (BitVec.ofNat 8)] 0) (sColl 1)) (fun t => t.me.scr.getList 0 0x200 33 == 5 :: List.replicate 14 0 ++ 6 :: (List.range 16).map (BitVec.ofNat 8) ++ [0] && (t.me.chan 3).q.map (fun q => (q.acks, q.iterOn)) == [([], true)] && t.hub.net == []) = true ∧
    onNext (exec (.relayChunkForward 0 8 0 [] 0) (sColl 3)) (fun t => t.me.scr == [(0x100, 5), (0x10F, 6), (0x110, 7), (0x200, 5), (0x20F, 6)] && t.hub.net.map (fun o => o.coll.map (·.chunk)) == [some 1]) = true := by decide +kernel
/-- R255: the origin's page does not translate. -/
theorem test_copy_deferred :
    (let m : CopyCmd := kcmd .copy (BitVec.ofNat 128 (16 + 2 ^ 88)) 0x200 0x999000
     onNext (exec (.copyDeferredFault 0 3) (sC m)) fun t => match (t.me.chan 3).frozen with | some f => f.cause == ⟨0x07, 7, 0, 48, 0x999000⟩ && !f.delivered && f.region == 2 | none => false) = true := by decide +kernel

/-- R264: bytes 0x100 to 0x11F of the watermark 0x100 to 0x13F are written. -/
theorem test_watermark :
    (let s (hi : Nat) := { one { kK with iss := { wmWait := some (3, 4, 0x118, hi) } } with cycle := 100 }
     onNext (exec (.watermarkWaitRelease 0) (s 0x120)) (fun t => t.me.iss.wmWait == none) && onNext (exec (.watermarkWaitRelease 0) (s 0x121)) (fun t => t == s 0x121) &&
     onNext (exec (.copyUnderrun 0) (s 0x121)) fun t => t.me.iss.wmWait == none && t.me.sys.level == 1 && t.me.sys.bank1.cause.toNat % 65536 == 0x410 && t.me.sys.bank1.taddr == 0x118) = true := by decide +kernel
/-- R203, R255, R312: a fault of region 4, of the engine or of channel 3, enters from region 5 at pc 0x10040, not while region 4 is open, and the engine stays frozen. -/
theorem test_deferred_delivery :
    (let f : Frozen := ⟨⟨0x06, 6, 0, 0, 0x777⟩, 0, 4, false, false, none⟩
     let s (r : Nat) := one { job := some jobG, eng := { frozen := some f }, iss := { region := r, pc := 0x10040 } }
     onNext (exec (.deferredFaultDelivery 0) (s 5)) (fun t => t.me.eng.frozen == some { f with delivered := true } && t.me.sys.level == 1 && t.me.sys.bank1.cause == 0x8000000000000606 && t.me.sys.bank1.tret == 0x10040 && t.me.sys.bank1.taddr == 0x777) &&
     onNext (exec (.deferredFaultDelivery 0) (s 4)) (fun t => t == s 4) &&
     onNext (exec (.deferredFaultDelivery 0) (one { job := some jobG, ch := [(3, { frozen := some { f with cause := ⟨0x07, 7, 0, 48, 0x999000⟩ } })], iss := { region := 5, pc := 0x10040 } })) (fun t => ((t.me.chan 3).frozen.map (·.delivered)) == some true && t.me.sys.level == 1 && t.me.sys.bank1.tret == 0x10040 && t.me.sys.bank1.taddr == 0x999000) && onNext (exec (.deferredFaultDelivery 0) (one { job := some jobG })) fun t => t == one { job := some jobG }) = true := by decide +kernel

/-! ### Commands at the head of RQ: O59 and O60 -/

/-- Core 0 in cycle 100 with an effect at the head of RQ, before another. The line 0x400 has the generation 7 and the wake 0x10, and a monitor stands on it; the core's own signatures are WS.P = 4, AS.P = 1 and WS.L = 8. -/
def sH (e : Effect) (at_ : Option Nat := none) (k : Core := {}) : State :=
  { one { k with rq := [e, .waitK 1], rqAt := at_, ws := ⟨4, 8, 0⟩, as_ := ⟨1, 0, 0⟩ } with
    cycle := 100, mem := { bytes := [(0x20000, 3), (0x20008, 7), (0x20040, 0x10)], mons := [⟨0x400, 1, 7, 40⟩], ver := [(0x400, 2)] } }
/-- The head left; device memory, the version of line 0x400 and core 0's signatures are as given. -/
def headIs (r : Res) (m : List Host.Cell) (v : Nat) (ws as_ : Sigs) : Bool :=
  onNext r fun t => t.me.rq == [.waitK 1] && t.me.rqAt == none && t.mem.bytes == m && t.mem.ver == [(0x400, v)] && t.me.ws == ws && t.me.as_ == as_ && (t.mem.mons == []) == decide (v = 3)
/-- R101, R121: a release that is not due, that waits for a remote write or a put; one whose L1 is dirty sends the bytes home first. -/
theorem test_release_waits :
    (let w (sc : Nat) : State := { sH (.relFence sc) (some 100) with mem := { (sH (.relFence sc)).mem with inflight := [⟨3, 0, 0x100000000000010, [7], 0, none, false, 0, none⟩] } }
     let n (sc : Nat) : State := { sH (.relFence sc) (some 100) with hub := { net := [⟨8, 0, 3, true, none, false, 4, 1, none, none, none, none, 0, 0, none⟩] } }
     let same (s : State) := onNext (exec (.effectPerform 0) s) fun t => t == s
     same (sH (.relFence 2) (some 101)) && same (w 4) && same (n 5) && onNext (exec (.effectPerform 0) (w 3)) (fun t => t.me.rq == [.waitK 1]) && onNext (exec (.effectPerform 0) (n 4)) (fun t => t.me.rq == [.waitK 1]) &&
     onNext (exec (.effectPerform 0) (sH (.relFence 2) none { l1 := [(0x500, { s0 := { dirty := 1, data := 0x99 } })] })) fun t => t.me.rq.length == 2 && t.me.rqAt.isSome && ((t.me.line 0x500).sec 0).dirty == 0 && t.mem.byte 0x28000 == 0x99) = true := by decide +kernel
/-- R116, R286, R288: fences; a `rel.st` of the value 0x55 makes generation 8 and a wake of its signatures alone; a store-release ORs them into it; at core scope both stay in the L1. -/
theorem test_releases :
    onNext (exec (.effectPerform 0) (sH (.relFence 0))) (fun t => t == { sH (.relFence 0) with cores := [(0, { (sH (.relFence 0)).me with rq := [.waitK 1] })] }) = true ∧
    onNext (exec (.effectPerform 0) (sH (.relFence 2) (some 100))) (fun t => t == { sH (.relFence 2) with cores := [(0, { (sH (.relFence 2)).me with rq := [.waitK 1], rqFrom := 100 })] }) = true ∧
    headIs (exec (.effectPerform 0) (sH (.relSt 2 0 0x20000 0x55 false) (some 100))) [(0x20000, 0x55), (0x20008, 8), (0x20040, 5)] 3 ⟨0, 8 ||| wakeHash 0x800, wakeHash 0x800⟩ ⟨0, 0, 0⟩ = true ∧
    headIs (exec (.effectPerform 0) (sH (.relSt 4 0 0x20000 0x55 true) (some 100))) [(0x20000, 0x55), (0x20008, 8), (0x20040, 8)] 3 ⟨4, 0, 0⟩ ⟨1, 0, 0⟩ = true ∧
    headIs (exec (.effectPerform 0) (sH (.storeRel 2 0 ⟨0x20004, [9], true⟩) (some 100))) [(0x20000, 3), (0x20004, 9), (0x20008, 7), (0x20040, 0x15)] 3 ⟨0, 8, 0⟩ ⟨0, 0, 0⟩ = true ∧
    (let d (e : Effect) (i : Nat) (b : Byte) := onNext (exec (.effectPerform 0) (sH e)) fun t => ((t.me.line 0x400).sec 0).dirty.getLsbD i && ((t.me.line 0x400).sec 0).byte i == b && t.mem.bytes == (sH e).mem.bytes && t.me.ws == ⟨4 ||| wakeHash 0x800, 8 ||| wakeHash 0x800, wakeHash 0x800⟩
     d (.relSt 0 0 0x20000 0x55 false) 8 8 && d (.relSt 0 0 0x20000 0x55 false) 0 0x55 && d (.storeRel 0 0 ⟨0x20004, [9], false⟩) 4 9) = true := by decide +kernel
/-- R176: 3 + 5 at the home; a compare that fails leaves the word, and enters nothing; acquire takes the line's wake, release publishes. -/
theorem test_atomics_perform :
    (let v : VarWrite := ⟨5, .atomic, 0, [.s 7], [], none, true, none⟩
     let k : Core := { iss := { vpend := [v] } }
     let at_ (o : AtomOp) (ord : Nat) (x y : W64) : State := sH (.atomic o ord 2 0 ⟨0x20000, [], false⟩ x y 7 5) (some 100) k
     let gets (r : Res) := onNext r fun t => t.me.iss.vpend.map (fun x => (x.id, x.wr)) == [(5, [.s 7 3])] && t.me.iss.vpend.all fun x => x.ready.any (100 ≤ ·)
     let m (b : Byte) (w : Byte) : List Host.Cell := [(0x20000, b), (0x20008, 7), (0x20040, w)]
     let h := wakeHash 0x800
     gets (exec (.effectPerform 0) (at_ .add 0 5 0)) && headIs (exec (.effectPerform 0) (at_ .add 0 5 0)) (m 8 0x10) 3 ⟨4 ||| h, 8 ||| h, h⟩ ⟨1, 0, 0⟩ && headIs (exec (.effectPerform 0) (at_ .cas 0 4 9)) (m 3 0x10) 3 ⟨4, 8, 0⟩ ⟨1, 0, 0⟩ &&
     gets (exec (.effectPerform 0) (at_ .add 1 5 0)) && onNext (exec (.effectPerform 0) (at_ .add 1 5 0)) (fun t => t.me.as_ == ⟨0x11, 0x10, 0x10⟩ && t.mem.bytes == m 8 0x10) &&
     gets (exec (.effectPerform 0) (at_ .add 2 5 0)) && headIs (exec (.effectPerform 0) (at_ .add 2 5 0)) (m 8 0x15) 3 ⟨0, 8 ||| h, h⟩ ⟨0, 0, 0⟩) = true := by decide +kernel
theorem test_sdesc_performs :
    headIs (exec (.effectPerform 0) (sH (.sdesc 0x20010 0x77 false 2))) (sH (.waitK 0)).mem.bytes 3 ⟨4 ||| wakeHash 0x800, 8 ||| wakeHash 0x800, wakeHash 0x800⟩ ⟨1, 0, 0⟩ = true ∧
    onNext (exec (.effectPerform 0) (sH (.sdesc 0x20010 0x77 false 2))) (fun t => t.mem.descOf 0x800 == 0x77 && t.mem.descOf 0x801 == 0xA4007F00) = true ∧
    onNext (exec (.effectPerform 0) (sH (.sdesc 0x100000000000010 0x77 false 2))) (fun t => t.mem == (sH (.waitK 0)).mem && t.me.rq == [.waitK 1]) = true := by decide +kernel

/-- The engine that a direct command leaves. -/
def engGets (r : Res) (e : MEng) : Bool := onNext r fun t => t == { sH (.waitK 0) with cores := [(0, { (sH (.waitK 0)).me with rq := [.waitK 1], eng := e })] }
theorem test_direct_commands :
    (let engIs (o : MDirect) (e e' : MEng) : Bool := engGets (exec (.effectPerform 0) (sH (.direct o false) none { eng := e })) e'
     let i (st : InstState) : Inst := ⟨5, 0x204000, 4, 7, 1, 4, st, [], 0⟩
     let p (n : Nat) : Prefetch := ⟨n, 0, none, 0x99, false, none⟩
     let full : MEng := { pfq := List.replicate 16 (p 3) }
     engIs (.pin 0x204000 4 2 0x10000) { pins := [⟨0x204000, 4, 2, false⟩] } { pins := [⟨0x204000, 4, 2, false⟩] } && onNext (exec (.effectPerform 0) (sH (.direct (.pin 0x204000 4 2 0x10000) false))) (fun t => t.me.eng.pins.map (fun p => (p.pa, p.fmt)) == [(0x204000, 4)] && t.me.rq == [.waitK 1]) &&
     engIs (.unpin 0x204000 4 0x10000) { pins := [⟨0x204000, 4, 2, false⟩, ⟨0x204000, 8, 2, false⟩] } { pins := [⟨0x204000, 8, 2, false⟩] } &&
     engIs (.inv 0x204000 4 0x10000) { insts := [i .valid, { i .filling with id := 6, frame := 0 }, { i .valid with id := 7, pa := 0x300000, frame := 8 }] } { insts := [{ i .valid with id := 7, pa := 0x300000, frame := 8 }] } &&
     (let w := sH (.direct (.inv 0x204000 4 0x10000) false) none { eng := { q := [ent stepOp .waiting] } }
      onNext (exec (.effectPerform 0) w) fun t => t == w) &&
     engIs (.repl 0x204000 4 1 3 0x10000) {} { insts := [⟨0, 0x204000, 4, 0, 1, 0, .filling, [], 0⟩], nextId := 1, fillcount := 1, repl := [(0x204000, 4, 1, 3)] } &&
     engIs (.pref 0x99 3 1 2) {} { pfq := [⟨3, 1, some 612, 0x99, false, none⟩] } && engIs (.pref 0x99 3 1 0) full { full with pfLost := 1 } && engIs (.cancelId 3) { pfq := [p 3, p 4] } { pfq := [p 4] } && engIs .cancelAll { pfq := [p 3, p 4] } {} && engIs .flush full full) = true := by decide +kernel
/-- R214: 24 pinned tiles of 8 KiB hold every pinnable frame; the next pin freezes the engine. A flush of the frozen engine drops the faulting command and the later one. -/
theorem test_pin_refused_and_flush :
    (let e : MEng := { insts := (List.range 24).map fun n => ⟨n, 0x800000 + 0x2000 * n, 8, 7, 1, n, .valid, [], 0⟩, pins := (List.range 24).map fun n => ⟨0x800000 + 0x2000 * n, 8, 1, false⟩ }
     let f : Frozen := ⟨⟨0x06, 6, 0, 0, 0x777⟩, 8, 4, true, false, none⟩
     let d (n : Nat) : MEntry := { ent (.drainV 3 n n 0 0 0) .waiting with id := n }
     e.pinRefused 8 && onNext (exec (.effectPerform 0) (sH (.direct (.pin 0x204000 8 2 0x10000) false) none { eng := e })) (fun t => t.me.eng.frozen.map (fun f => (f.cause.code, f.cause.addr, f.delivered)) == some (0x11, 0x10000, false) && t.me.eng.mrp.getLsbD 15 && t.me.eng.pins == e.pins) &&
     onNext (exec (.effectPerform 0) (sH (.direct .flush false) none { eng := { frozen := some f, mrp := 0x8000, q := [d 7, d 8, d 9] }, iss := { vpend := [⟨7, .engine, 0, [.v 7], [], none, false, none⟩, ⟨8, .engine, 0, [.v 8], [], none, false, none⟩] } })) fun t =>
       t.me.eng.frozen == none && t.me.eng.mrp == 0 && t.me.eng.q == [d 7] && t.me.iss.vpend.map (·.id) == [7]) = true := by decide +kernel
/-- R196, R293, R294: the waits end once their queues are short enough. -/
theorem test_waits_at_head :
    (let k (e : MEng) (q : List CopyCmd) : Core := { eng := e, ch := [(2, { q := q })], iss := { hold := .effect 2 } }
     let ends (o : Effect) (e : MEng) (q : List CopyCmd := []) := onNext (exec (.effectPerform 0) (sH o none (k e q))) fun t => t.me.rq == [.waitK 1] && t.me.iss.hold == .none && t.me.iss.elig == 103
     let waits (o : Effect) (e : MEng) (q : List CopyCmd := []) := onNext (exec (.effectPerform 0) (sH o none (k e q))) fun t => t == sH o none (k e q)
     let z : MEntry := ent (.zero 3) .waiting
     ends (.waitM 3 1) { q := [z] } && waits (.waitM 3 0) { q := [z] } && ends (.waitM 2 0) { q := [z] } && waits (.waitM 2 0) { pfq := [⟨3, 0, none, 0x99, false, none⟩] } && ends (.waitK 0xFFFB) {} [cm .copy] && waits (.waitK 4) {} [cm .copy] && ends (.waitK 4) {}) = true := by decide +kernel
/-- R196, R261: a filled buffer of a loop is released; none of a channel without one. R273: a cancel drops the commands of channel 3, enters the block 0x800 that they wrote in WS, and leaves what a put has sent. -/
theorem test_channel_commands :
    (let m : CopyCmd := { cm (.loop 4 0x1000) with wrote := [(0x800, false)] }
     let s (e : Effect) (run : Bool := true) : State := let b := sC m 2 1 run
       { b with cores := [(0, { b.me with rq := [e, .waitK 1] })], hub := { b.hub with net := [⟨8, 0, 3, true, none, false, 4, 1, none, none, none, none, 0, 16, none⟩] } }
     onNext (exec (.effectPerform 0) (s (.kstage 3))) (fun t => t == { s (.kstage 3) with cores := [(0, { (s (.kstage 3)).me with rq := [.waitK 1], ch := [(3, { q := [m], running := true, filled := 2, released := 2 })] })] }) &&
     onNext (exec (.effectPerform 0) (s (.kstage 3) false)) (fun t => t.me.chan 3 == (s (.kstage 3) false).me.chan 3 && t.me.rq == [.waitK 1]) && onNext (exec (.effectPerform 0) (s (.kstage 4))) (fun t => t.me.chan 3 == (s (.kstage 4)).me.chan 3 && t.me.chan 4 == {}) &&
     ([(0, 3), (1, 0)] : List (Nat × Nat)).all (fun x => onNext (exec (.effectPerform 0) (s (.kcancel x.1 x.2))) fun t => (t.me.chan 3).q == [] && !(t.me.chan 3).running && t.me.rq == [.waitK 1] && t.mem == (s (.kstage 3)).mem && t.hub.net.map (·.id) == [8] && t.me.ws.p &&& wakeHash 0x800 == wakeHash 0x800) &&
     onNext (exec (.effectPerform 0) (s (.kcancel 2 3))) fun t => t.me.chan 3 == (s (.kstage 3)).me.chan 3 && t.me.rq == [.waitK 1]) = true := by decide +kernel

/-! ### Transitions of the hub: O47 to O52 -/

/-- The queue of partition 2 for the tests: 8 records at 0x20000, 4 completions at 0x21000, bound to endpoint 1, which is the queue pair 9 on the port of link 19. -/
def qCfg : QueueRec := ⟨0x20000, 8, 1, 0x21000, 4, 0⟩
def sQueue (y : Queue) (words : List (Nat × Nat) := []) (st : PartSt := .running) (pool : List Nat := [7, 8]) (links : Bank LinkState := [(19, .up)]) : State :=
  { mem := { bytes := memWords words }, cycle := 100
    hub := { frameOwner := [(2, 3)], parts := [(2, some { cfg := { partCfg with qpFirst := 8, qpCount := 2, epi := 50 }, st := st, queues := [y], pool := pool })]
             ctxs := [(9, some { part := 2, sup := false, root := 0, save := 0, slots := 4 })], boot := { links := links } } }
/-- Queue 0 of partition 2 after a transition. -/
def q2 (t : State) : Option Queue := match t.hub.parts.get none 2 with | some x => x.queues[0]? | none => none
/-- R335, R337, R338, R371: a port that is down, the wrong endpoint, a captured partition, each error code, and a move of wr. -/
theorem test_doorbell :
    (let y : Queue := { cfg := qCfg, state := 1, rd := 5, wr := 6 }
     let err (y : Queue) (w : BitVec 32) (n : Nat) := onNext (exec (.doorbell 2 0 9 w) (sQueue y)) fun t => q2 t == some { y with state := 2, err := n, cwr := 1 } && t.outbox == [.rmaDone 9]
     onNext (exec (.doorbell 2 0 9 7) (sQueue y (links := []))) (fun t => t == sQueue y (links := [])) && onNext (exec (.doorbell 2 0 8 7) { sQueue y with hub := { (sQueue y).hub with boot := { links := [(18, .up)] } } }) (fun t => t.outbox == [.rmaError 8]) &&
     onNext (exec (.doorbell 2 0 9 7) (sQueue y [] .capturing)) (fun t => t == { sQueue y [] .capturing with outbox := [.rmaDone 9] }) &&
     onNext (exec (.doorbell 2 0 9 13) (sQueue y)) (fun t => t == { sQueue { y with wr := 13 } with outbox := [.rmaDone 9] }) &&
     err { y with cfg := { qCfg with base := 0x30000 } } 7 1 && err { y with cfg := { qCfg with size := 7 } } 7 2 && err y 14 3 && err y 5 4 && onNext (exec (.doorbell 2 0 9 7) (sQueue { y with cfg := { qCfg with csize := 3 } })) fun t => t.outbox == [.rmaDone 9, .mctl 3 [2, 0, 2]]) = true := by decide +kernel
/-- A record of one stage with 2 tasks, and one of two stages whose output queue takes one frame. -/
def recWords : List (Nat × Nat) := [(0x20000, 0x908010100), (0x20008, 0x500000000), (0x20020, 0x1234), (0x20028, 0xABCD), (0x20040, 0x10000), (0x20048, 0x1000_0010_0101), (0x20058, 2)]
def recWords2 : List (Nat × Nat) := [(0x20000, 0x908020100), (0x20020, 0x1234), (0x20040, 0x10000), (0x20048, 0x1000_0010_0102), (0x20050, 0x1_0004_0000), (0x20058, 2), (0x20060, 0x20000), (0x20068, 0x1000_0010_0101)]
def yF : Queue := { cfg := qCfg, state := 1, wr := 1 }
/-- R337 to R339: nothing to read, and a version of 2. -/
theorem test_record_fetch :
    onNext (exec (.recordFetch 2 0) (sQueue { yF with wr := 0 } recWords)) (fun t => t == sQueue { yF with wr := 0 } recWords) &&
    onNext (exec (.recordFetch 2 0) (sQueue yF [(0x20000, 0x908010200)])) (fun t => q2 t == some { yF with rd := 1, cwr := 1 } && t.mem.byte 0x2100C == 4 && t.mem.byte 0x2100D == 1) = true := by decide +kernel
/-- What a launch took from its record. -/
def launchIs (t : State) (l : Launch) : Bool := t.hub.launches.get none 1 == some l && t.hub.tasks.map (·.1) == [1]
/-- R340, R362, R370: a launch of one stage, which can run on 2 cores, with a timer of 5 µs that counts from the fetch; one of two stages, which takes the frame 7; and none without a frame. -/
theorem test_launch :
    onNext (exec (.recordFetch 2 0) (sQueue yF recWords)) (fun t => launchIs t ⟨2, 0, 0, 9, 0, 10, false, true, 0, 50, 0, 5, [], 0x1234, 0xABCD, [{ cfg := ⟨0x10000, 1, 1, 16, 0x1000, 0, 0, 0, 2⟩ }], [], 2, .running, none, 0, none, [], none, none, none⟩ && q2 t == some { yF with rd := 1, timer := some 100 }) = true ∧
    onNext (exec (.recordFetch 2 0) (sQueue yF recWords2)) (fun t => (t.hub.launches.get none 1).map (fun l => (l.frames, l.stages.map fun z => z.slots.map (·.addr))) == some ([7], [[0x70000, 0x70040, 0x70080, 0x700C0], []]) && (t.hub.parts.get none 2).map (·.pool) == some [8]) = true ∧
    onNext (exec (.recordFetch 2 0) (sQueue yF recWords2 .running [])) (fun t => t.hub.launches == [] && t.mem.byte 0x2100C == 7) = true := by decide +kernel
theorem test_queue_recover :
    (let y : Queue := { cfg := qCfg, state := 2, err := 3, rd := 1, wr := 6 }
     onNext (exec (.queueRecover 2 0 9) (sQueue y)) (fun t => t == sQueue { y with rd := 9, wr := 9, state := 1, err := 0 }) && onNext (exec (.queueRecover 2 0 9) (sQueue { y with state := 1 })) fun t => t == sQueue { y with state := 1 }) = true := by decide +kernel
/-- A launch of partition 2 with one stage of gangs of one core. -/
def lch (st : LaunchSt) : Launch := ⟨2, 0, 4, 9, 0, 10, false, true, 0, 50, 0, 0, [], 0x1234, 0xABCD, [{ cfg := ⟨0x10000, 1, 1, 16, 0x1000, 0, 0, 0, 2⟩, started := 1 }], [5], 1, st, none, 0, none, [], none, none, none⟩
theorem test_launch_ends :
    (let s (st : LaunchSt) (rec : Option (Nat × W64) := none) : State := { sQueue { cfg := qCfg, state := 1 } with hub := { (sQueue { cfg := qCfg, state := 1 }).hub with launches := [(3, some { lch st with stopRec := rec })] } }
     onNext (exec (.cutComplete 3) (s .cutting (some (6, 0x55)))) (fun t => t.hub.launches.get none 3 == some (lch .stopped) && t.mem.byte 0x21000 == 0x55 && t.mem.byte 0x21008 == 6 && t.mem.byte 0x2100C == 1) &&
     onNext (exec (.cutComplete 3) (s .running)) (fun t => t == s .running) && onNext (exec (.launchEnd 3) (s .cutting)) (fun t => t == s .cutting) &&
     onNext (exec (.launchEnd 3) (s (.ending 3))) fun t => t.hub.launches == [] && t.hub.scrub == [(5, 2)] && t.mem.byte 0x21008 == 4 && t.mem.byte 0x2100C == 3 && t.mem.byte 0x21000 == 0xCD) = true := by decide +kernel

/-- Task 6 of launch 3 in cycle 1,000,000; cluster 0 is awake and its core 0 runs something else. -/
def tsk (st : TaskSt) (cores : List Nat) : Task := ⟨3, 0, 0, none, none, cores, st, 900, 0, 0, 0, [], [], [], [], none, none⟩
def sD (x : Task) (k : Core := {}) (cl : ClusterSt := { awake := true }) : State :=
  { sQueue { cfg := qCfg, state := 1 } with
    cycle := 1000000, cores := [(0, { job := some job9, lastCtx := some 9 }), (1, k)]
    hub := { (sQueue { cfg := qCfg, state := 1 }).hub with launches := [(3, some (lch .running))], tasks := [(6, some x)], nextTask := 6, clusters := [(0, cl)] } }
/-- R348, R350: core 1, from another context; nothing for a gated cluster without power. -/
theorem test_placement :
    onNext (exec .placement (sD (tsk .ready []))) (fun t => t.hub.tasks.get none 6 == some { tsk .running [1] with index := 1, sliceFrom := 1000000 } &&
      (match (t.core 1).job with | some j => { j with phase := .running } == ⟨9, 2, 6, 0, 16, 1, 0x1000, 50, .running, none, 0⟩ && (match j.phase with | .starting _ => true | _ => false) | none => false) && (match t.hub.launches.get none 3 with | some l => l.stages.map (·.started) == [2] && l.lastStage == some 0 | none => false)) = true ∧
    onNext (exec .placement (sD (tsk .ready []) {} {})) (fun t => t == sD (tsk .ready []) {} {}) = true ∧ (sD (tsk .ready [])).readyOrder.map (·.1) = [6] ∧ (sD (tsk .ready [])).roomOf (tsk .ready []) = some 0 := by decide +kernel
theorem test_cluster_power :
    (let s (cl : ClusterSt) : State := { sD (tsk .ready []) with hub := { (sD (tsk .ready [])).hub with clusters := [(1, cl)] }, cores := [(9, { l1 := [(5, {})], eng := { insts := [⟨5, 0x204000, 4, 7, 1, 4, .valid, [], 0⟩] } })] }
     onNext (exec (.clusterWake 1) (s { waking := some 1000001 })) (fun t => t == s { waking := some 1000001 }) && onNext (exec (.clusterWake 1) (s { waking := some 1000000 })) (fun t => t == s { awake := true, busyAt := 1000000 }) &&
     onNext (exec (.clusterGate 1) (s { awake := true, busyAt := 800001 })) (fun t => t == s { awake := true, busyAt := 800001 }) &&
     onNext (exec (.clusterGate 1) (s { awake := true, busyAt := 800000 })) fun t => !(t.hub.clusters.get {} 1).awake && (t.core 9).l1 == [] && (t.core 9).eng.insts == []) = true := by decide +kernel
/-- R344, R345: a core that another context held. -/
theorem test_core_start :
    (let j : Job := ⟨9, 2, 6, 3, 16, 1, 0x1000, 50, .starting 1000000, none, 0⟩
     let s (j : Job) := sD { tsk .running [1] with index := 5 } { job := some j, lastCtx := some 8, vec := [(1, 7)], scr := [(1, 7)], regs := { s := [(9, 9)] } }
     onNext (exec (.coreStart 1) (s { j with phase := .starting 1000001 })) (fun t => t == s { j with phase := .starting 1000001 }) &&
     onNext (exec (.coreStart 1) (s j)) fun t => (t.core 1).job == some { j with phase := .running } && (t.core 1).regs == { a := [(0, 0x1234)], s := [(1, 5), (3, 3), (4, 1)] } && (t.core 1).iss.pc == 0x10000 && (t.core 1).vec == [] && (t.core 1).scr == []) = true := by decide +kernel
theorem test_task_end :
    (let j (p : Phase) : Job := ⟨9, 2, 6, 0, 16, 1, 0x1000, 50, p, none, 0⟩
     let s (p : Phase) := sD (tsk .running [1]) { job := some (j p) }
     onNext (exec (.taskEnd 6) (s .running)) (fun t => t == s .running) &&
     (let g (p : Phase) := { sD (tsk .running [1, 2]) { job := some (j .done) } with cores := [(1, { job := some (j .done) }), (2, { job := some { j p with rank := 1 } })] }
      onNext (exec (.taskEnd 6) (g .running)) (fun t => t == g .running) && onNext (exec (.taskEnd 6) (g .done)) fun t => (t.core 1).job == none && (t.core 2).job == none && t.hub.tasks.get none 6 == none) &&
     onNext (exec (.taskEnd 6) (s .done)) fun t => (t.core 1).job == none && (match t.hub.launches.get none 3 with | some l => l.stages.map (·.ended) == [1] | none => false) && t.hub.tasks.get none 6 == none) = true := by decide +kernel
/-- R347, R351, R352: a task ready for 100 ms; a gang whose slice of 100 µs is over while a task of context 8 waits; a gang whose stage halts in a trace cut. -/
theorem test_preemption :
    (let s (n : Nat) : State := { sD (tsk .ready []) with cycle := n }
     let j : Job := ⟨9, 2, 6, 0, 16, 1, 0x1000, 50, .running, none, 7⟩
     let b (n : Nat) : State := { sQueue { cfg := qCfg, state := 1 } with
       cycle := n, cores := (List.range 8).map fun i => (i, { job := some { j with task := if i == 1 then 6 else 99 } })
       hub := { parts := [(2, some { cfg := { partCfg with slice := 100 }, st := .running, queues := [{ cfg := qCfg }] })], clusters := [(0, { awake := true })], ctxs := [(8, some { part := 2, sup := false, root := 0, save := 0, slots := 4 })]
                launches := [(3, some (lch .running)), (4, some { lch .running with ctx := 8 })], tasks := [(6, some (tsk .running [1])), (7, some { tsk .ready [] with launch := 4 })] } }
     let c (h : Bool) : State := { sD (tsk .running [1]) { job := some j } with hub := { (sD (tsk .running [1])).hub with launches := [(3, some { lch .cutting with trace := true, stages := [{ cfg := ⟨0x10000, 1, 1, 16, 0x1000, 0, 0, 0, 2⟩, halted := h }] })] } }
     let stops (i : Instr) (s : State) (bud : Nat) := onNext (exec i s) fun t => t.hub.tasks.get none 6 == some (tsk .stopping [1]) && (t.core 1).job == some { j with due := some (s.cycle + bud), issued := 0 } && (t.core 1).iss.clamp && (t.core 1).eng.yieldReq && t.core 2 == s.core 2
     onNext (exec (.priorityAging 6) (s 400000900)) (fun t => t.hub.tasks.get none 6 == some { tsk .ready [] with aged := 1 }) && onNext (exec (.priorityAging 6) (s 400000899)) (fun t => t == s 400000899) &&
     (let h := { s 400000900 with hub := { (s 0).hub with launches := [(3, some (lch .stopped))] } }
      onNext (exec (.priorityAging 6) h) fun t => t == h) &&
     (let g : State := { c true with hub := { (c true).hub with tasks := [(6, some (tsk .running [1, 2]))] }, cores := [(1, { job := some j }), (2, { job := some { j with rank := 1 } }), (3, { job := some { j with task := 99 } })] }
      onNext (exec (.preemptGang 6) g) fun t => (t.hub.tasks.get none 6).map (·.st) == some .stopping && [1, 2].all (fun n => (t.core n).job.map (·.due) == some (some (g.cycle + 200)) && (t.core n).iss.clamp) && t.core 3 == g.core 3) &&
     stops (.sliceEnd 6) (b 400000) 200 && onNext (exec (.sliceEnd 6) (b 399999)) (fun t => t == b 399999) &&
     stops (.preemptGang 6) (c true) 200 && onNext (exec (.preemptGang 6) (c false)) fun t => t == c false) = true := by decide +kernel
/-- R307, R313, R352: the hard stop and the stuck handler, from cycle 1,000,000. -/
theorem test_stops :
    (let j (d : Nat) : Job := ⟨9, 2, 6, 0, 16, 1, 0x1000, 50, .running, some d, 7⟩
     let s (d lev : Nat) := { sD (tsk .stopping [1]) { job := some (j d), regs := { s := [(1, 9)] }, sh := { s := [(1, 4)] }, wb := [.cwb 0 0], sys := { level := lev }, iss := { pc := 0x10040, regionStart := 0x10000, clamp := true } } with }
     onNext (exec (.hardStop 1) (s 1000001 0)) (fun t => t == s 1000001 0) && onNext (exec (.hardStop 1) (s 1000000 1)) (fun t => t == s 1000000 1) &&
     onNext (exec (.hardStop 1) (s 1000000 0)) (fun t => (t.core 1).job == some { j 1000000 with phase := .halted } && (t.core 1).regs.rs 1 == 4 && (t.core 1).wb == [] && (t.core 1).iss.pc == 0x10000 && !(t.core 1).iss.clamp) &&
     onNext (exec (.stuckHandlerKill 1) (s 991809 1)) (fun t => t == s 991809 1) && onNext (exec (.stuckHandlerKill 1) (s 991808 1)) fun t => (t.core 1).job == none && (t.core 0).job == none) = true := by decide +kernel
/-- R142, R352: the save of a stopped gang, and its loop on resume. -/
theorem test_save_and_resume :
    (let j (p : Phase) : Job := ⟨9, 2, 6, 0, 1, 0, 0, 50, p, none, 7⟩
     let s (k : Core) (st : TaskSt) := sD (tsk st [1]) k
     onNext (exec (.gangStateSave 6) (s { job := some (j .running) } .stopping)) (fun t => t == s { job := some (j .running) } .stopping) &&
     (s { job := some (j .halted), regs := { s := [(1, 9)] } } .stopping).quiet 1 &&
     (let k : Core := { job := some (j .stopped), regs := { lsave := 0x8000001500000007, g := [(3, true)] } }
      onNext (exec (.forcedStopResume 1) (s k .running)) (fun t => let r := (t.core 1).regs; r.rlc 1 == ⟨5, 6⟩ && r.rg 8 && !r.rg 9 && r.rg 3 && !r.lsave.getLsbD 63 && (t.core 1).job == some (j .running)) && onNext (exec (.forcedStopResume 1) (s k .stopping)) fun t => t == s k .stopping)) = true := by decide +kernel

/-- R292, R352: a parked core stops at once, with status 5 in its register. -/
theorem test_parked_stop :
    (let j : Job := ⟨9, 2, 6, 0, 16, 1, 0x1000, 50, .running, some 1000000, 7⟩
     let s := { sD (tsk .stopping [1]) { job := some j, iss := { hold := .parked 2, region := 3 } } with mem := { mons := [⟨0x400, 1, 7, 40⟩] } }
     onNext (exec (.hardStop 1) s) fun t => (t.core 1).job == some { j with phase := .halted } && (t.core 1).regs.s == [(7, 5)]) = true := by decide +kernel
/-- R352: the save of one core with one vector register moves 4,096 + 512 bytes in 18 cycles; then the task is ready with its core saved. -/
theorem test_save :
    (let j : Job := ⟨9, 2, 6, 0, 1, 0, 0, 50, .halted, none, 7⟩
     let s (d : Option Nat) := sD { tsk .stopping [1] with saveAt := d } { job := some j, regs := { s := [(1, 9)] }, vec := [(0, 5)] }
     onNext (exec (.gangStateSave 6) (s none)) (fun t => t == s (some 1000018)) && onNext (exec (.gangStateSave 6) (s (some 1000001))) (fun t => t == s (some 1000001)) &&
     onNext (exec (.gangStateSave 6) (s (some 1000000))) fun t => (t.core 1).job == none && match t.hub.tasks.get none 6 with
       | some y => y.st == .ready && y.cores == [] && y.saveAt == none && y.saved.map (fun v => (v.flat, v.core.regs.s, v.core.vec.get 0 0)) == [(1, [(1, 9)], 5)] | none => false) = true := by decide +kernel

/-- A record that breaks no limit: cluster 0, the lowest 100 frames, ring at frame 0, root and save area at 0x40000 and 0. -/
def recOne : PartRec := ⟨1, 0x77, List.replicate 8 0, List.replicate 8 0, 100, 1, 8, 2, 4, 4, 50, 100, 100, 0, 0, [], 0x40000, 0, 0, [], none⟩
def sUp : State := { hub := { boot := { stage := 5, group := 4, links := (List.range 26).map fun i => (i, .up) } } }
theorem test_partition_create :
    onNext (exec (.partitionCreate 2 { recOne with epi := 0 }) sUp) (fun t => t == { sUp with outbox := [.mctl 4 [2, 0, 0]] }) = true ∧ onNext (exec (.partitionCreate 2 recOne) { sUp with hub := { sUp.hub with boot := { sUp.hub.boot with stage := 4 } } }) (fun t => t.hub.parts == []) = true ∧
    onNext (exec (.partitionCreate 2 { recOne with clusters := 0x100 }) { sUp with hub := { sUp.hub with boot := { sUp.hub.boot with links := sUp.hub.boot.links.put .down 8 .degraded } } }) (fun t => t.hub.parts == []) = true ∧
    onNext (exec (.partitionCreate 2 recOne) sUp) (fun t => t.outbox == [.mctl 4 [2, 0, 1]] && t.hub.frameOwner.get 0 99 == 3 && t.hub.frameOwner.get 0 100 == 0 && t.hub.ctxs == [(0, some { part := 2, sup := true, root := 0x40000, save := 0, slots := 0 })] &&
      (match t.hub.parts.get none 2 with | some x => x.st == .halted && x.capFrames == [1] && x.pool.take 3 == [2, 3, 8] && x.pool.length == 94 && x.queues.length == 16 | none => false)) = true := by decide +kernel

/-- R11, R359: the entries 0 and 3 of the ring 0 in place of entry 5; nothing where a gang of the partition runs. -/
theorem test_rering :
    (let r := { recOne with ring := 0x20 :: List.replicate 7 0 }
     let n := { recOne with ring := 9 :: List.replicate 7 0 }
     let s (l : Bank (Option Task)) : State := { hub := { parts := [(2, some { cfg := r })], ring := [(5, some 2)], launches := [(3, some (lch .running))], tasks := l } }
     onNext (exec (.partitionCreate 2 n) (s [])) (fun t => t.hub.ring == [(0, some 2), (3, some 2)] && t.outbox == [.mctl 10 [2]] && (t.hub.parts.get none 2).map (·.cfg) == some n) &&
     onNext (exec (.partitionCreate 2 n) (s [(6, some (tsk .running [1]))])) fun t => t.hub == (s [(6, some (tsk .running [1]))]).hub && t.outbox == [.mctl 4 [2, 0, 0]]) = true := by decide +kernel
/-- Partition 2 with its control ring at 0x100000 in frame 16, the record words from there on, the write index `wr`, and context 9. -/
def sRing (wr : Nat) (words : List (Nat × Nat)) (pool : List Nat := [30]) (ctxmax : Nat := 4) : State :=
  { mem := { bytes := memWords ((0x101000, wr) :: words) }
    hub := { frameOwner := [(16, 3), (20, 3), (21, 3), (22, 3), (23, 3), (40, 3), (41, 4), (48, 3)], parts := [(2, some { cfg := { partCfg with qpFirst := 8, qpCount := 2, ctxmax := ctxmax, ctlbase := 0x100000 }, st := .running, pool := pool })]
             ctxs := [(9, some { part := 2, sup := false, root := 0x200000, save := 0, slots := 0 })] } }
/-- The record's status byte and the done index. -/
def ctlSays (i : Instr) (s : State) (status : Nat) (p : State → Bool) : Bool :=
  onNext (exec i s) fun t => t.mem.byte 0x100001 == BitVec.ofNat 8 status && t.mem.byte 0x101010 == 1 && p t
/-- R360, R361: op 9, a spare field that is not 0, and a context that is not the partition's, each with status 1; a new root takes context 9's cached translations and cancels its walk, and leaves those of context 8. -/
theorem test_control_records :
    ctlSays (.createContext 2) (sRing 1 [(0x100000, 9)]) 1 (fun t => t.hub.ctxs == (sRing 0 []).hub.ctxs) = true ∧
    ctlSays (.bindEndpoint 2) (sRing 1 [(0x100000, 0x900010003), (0x100008, 0x90005)]) 1 (fun t => t.hub.ctxs == (sRing 0 []).hub.ctxs) = true ∧ ctlSays (.bindEndpoint 2) (sRing 1 [(0x100000, 0x800000003), (0x100008, 0x90005)]) 1 (fun t => t.hub.ctxs == (sRing 0 []).hub.ctxs) = true ∧
    (let r := sRing 1 [(0x100000, 0x900000002), (0x100008, 0x140000)]
     let e (c : Nat) : TlbEntry := ⟨c, 0x10, 12, 0x20073⟩
     let s : State := { r with cores := [(0, { tlb := [e 9, e 8], ptlb := [e 9] })], hub := { r.hub with stlb := [(0, [e 8, e 9])], walks := [⟨0, 9, 0x11, 0, [0], [], none, false, []⟩] } }
     ctlSays (.setRoot 2) s 0 fun t => (t.core 0).tlb == [e 8] && (t.core 0).ptlb == [] && t.hub.stlb == [(0, [e 8])] && t.hub.walks.all (·.cancelled)) = true := by decide +kernel
/-- R360, R361: create context at a root off 256 KiB, with no identifier left, and done; set root; bind endpoint; an overrun; an empty ring. -/
theorem test_control_ring :
    (let c (o root : Nat) := sRing 1 [(0x100000, o), (0x100008, root)]
     ctlSays (.createContext 2) (c 1 0x150000) 1 (fun t => t.hub.ctxs == (c 1 0).hub.ctxs) && ctlSays (.createContext 2) (sRing 1 [(0x100000, 1), (0x100008, 0x140000)] [] 1) 2 (fun t => t.hub.ctxs == (c 1 0).hub.ctxs) &&
     ctlSays (.createContext 2) (c 1 0x140000) 0 (fun t => t.hub.ctxs.get none 0 == some { part := 2, sup := false, root := 0x140000, save := 0, slots := 0 }) &&
     ctlSays (.setRoot 2) (c 0x900000002 0x140000) 0 (fun t => t.hub.ctxs.get none 9 == some { part := 2, sup := false, root := 0x140000, save := 0, slots := 0 }) &&
     ctlSays (.setRoot 2) { c 0x900000002 0x140000 with hub := { (c 0 0).hub with launches := [(3, some (lch .running))] } } 3 (fun t => t.hub.ctxs == (c 1 0).hub.ctxs) &&
     ctlSays (.bindEndpoint 2) (sRing 1 [(0x100000, 0x900000003), (0x100008, 0x90005), (0x100010, 0x777), (0x100018, 0x88)]) 0 (fun t => (t.hub.ctxs.get none 9).map (·.endpoints) == some [(5, some ⟨9, 0x777, 0x88⟩)]) &&
     ctlSays (.bindEndpoint 2) (sRing 1 [(0x100000, 0x900000003), (0x100008, 0xA0005)]) 1 (fun t => t.hub.ctxs == (c 1 0).hub.ctxs) &&
     onNext (exec (.takeFrames 2) (sRing 65 [(0x100000, 1)])) (fun t => (t.hub.parts.get none 2).map (·.ctlStop) == some true && t.mem == (sRing 65 [(0x100000, 1)]).mem) && onNext (exec (.makeGroup 2) (sRing 0 [])) fun t => t == sRing 0 []) = true := by decide +kernel
/-- R361: with the page 0x10 of context 9 mapped to 0x300000 by a table at 0x200000 whose entry 0 is the table itself: group 7 of the endpoints 5 and 6, this module second; too many frames and none; frame 40 freed, and frame 41, which another partition owns, not. -/
theorem test_control_ring_memory :
    (let m := [(0x200000, 0x200001), (0x200080, 0x300073), (0x100010, 0x10000)]
     let s (l : List (Nat × Nat)) (v : Nat) := sRing 1 (l ++ m ++ [(0x300000, v)])
     ctlSays (.makeGroup 2) (s [(0x100000, 0x900000004), (0x100008, 0x100020007)] 0x60005) 0 (fun t => (t.hub.ctxs.get none 9).map (·.groups) == some [(7, some ⟨1, [5, 6]⟩)]) &&
     ctlSays (.makeGroup 2) (s [(0x100000, 0x900000004), (0x100008, 0x200020007)] 0x60005) 1 (fun t => t.hub.ctxs == (sRing 0 []).hub.ctxs) &&
     ctlSays (.takeFrames 2) (s [(0x100000, 0x900000005), (0x100008, 2)] 0) 2 (fun t => (t.hub.parts.get none 2).map (·.pool) == some [30]) && ctlSays (.takeFrames 2) (s [(0x100000, 0x900000005)] 0) 0 (fun t => (t.hub.parts.get none 2).map (·.pool) == some [30]) &&
     ctlSays (.takeFrames 2) (s [(0x100000, 0x900000005), (0x100008, 1)] 0) 0 (fun t => (t.hub.parts.get none 2).map (·.pool) == some [] && t.mem.read64 0x300000 == 0x1E0000) &&
     ctlSays (.takeFrames 2) (sRing 1 (m ++ [(0x100000, 0x900000005), (0x100008, 1), (0x100010, 0x12000)])) 1 (fun t => (t.hub.parts.get none 2).map (·.pool) == some [30] && t.hub.frameOwner == (sRing 0 []).hub.frameOwner) &&
     ctlSays (.freeFrames 2) (s [(0x100000, 0x900000006)] 0) 0 (fun t => t.hub.frameOwner == (sRing 0 []).hub.frameOwner) &&
     ctlSays (.freeFrames 2) (s [(0x100000, 0x900000006), (0x100008, 1)] 0x280000) 0 (fun t => t.hub.frameOwner.get 0 40 == 0 && t.hub.scrub == [(40, 2)]) &&
     ctlSays (.freeFrames 2) (s [(0x100000, 0x900000006), (0x100008, 1)] 0x290000) 1 fun t => t.hub.frameOwner == (sRing 0 []).hub.frameOwner && t.hub.scrub == []) = true := by decide +kernel

/-- R370 to R373 and R399. -/
theorem test_capture :
    (let y (n : Nat) : Queue := { cfg := qCfg, state := 1, timer := some n }
     let s (n : Nat) (st : PartSt) (ls : Bank (Option Launch) := []) : State := { sQueue (y n) [] st with cycle := 20100, hub := { (sQueue (y n) [] st).hub with launches := ls }, cores := [(1, { job := some job9, regs := { s := [(1, 9)] }, wb := [.cwb 0 0] })] }
     let ls := [(3, some { lch .running with wdog := 5 })]
     let frozen (i : Instr) (tr : Nat) := onNext (exec i (s 100 .running ls)) fun t => (t.hub.parts.get none 2).map (fun x => (x.st, x.trigger, x.frozenAt, x.queues.map (·.timer))) == some (.capturing, tr, 20100, [none]) && (t.core 1).job == some { job9 with phase := .frozen }
     frozen (.watchdogExpiry 2 0) 0 && frozen (.operatorCaptureRequest 2) 0xFF && onNext (exec (.watchdogExpiry 2 0) (s 101 .running ls)) (fun t => t == s 101 .running ls) && onNext (exec (.watchdogExpiry 2 0) (s 100 .running)) (fun t => t == s 100 .running) &&
     onNext (exec (.watchdogExpiry 2 0) (s 100 .running [(3, some (lch .running))])) (fun t => t == s 100 .running [(3, some (lch .running))]) && onNext (exec (.operatorCaptureRequest 2) (s 100 .halted)) (fun t => t == s 100 .halted) &&
     onNext (exec (.captureDumpComplete 2) (s 100 .capturing)) (fun t => (t.hub.parts.get none 2).map (fun x => (x.st, x.drainBy)) == some (.resetting, some 40020100) && (t.core 1).wb == []) &&
     onNext (exec (.captureDumpComplete 2) (s 100 .running)) (fun t => t == s 100 .running) &&
     onNext (exec (.partitionReset 2) (s 100 .running)) (fun t => t == s 100 .running) && onNext (exec (.partitionEnable 2) (s 100 .halted)) fun t => t == s 100 .running) = true := by decide +kernel
/-- R345, R372, R407: a reset waits for the pool write that a core still performs, then clears for 1,024 cycles, and ends the partition's launch with status 6; the last one ends a shutdown. -/
theorem test_partition_reset :
    (let s (by_ : Option Nat) (rq : List Effect) (cl : Option Nat) : State := { sQueue { cfg := qCfg, state := 1 } with
       cores := [(1, { job := some job9, regs := { s := [(1, 9)] }, rq := rq })]
       hub := { parts := [(2, some { cfg := partCfg, st := .resetting, queues := [{ cfg := qCfg, state := 1 }], trigger := 0xFF, resetBy := by_ })], launches := [(3, some (lch .running))], boot := { closing := cl } } }
     let st (t : State) := (t.hub.parts.get none 2).map fun x => (x.st, x.resetBy, x.queues.map (·.state))
     onNext (exec (.partitionReset 2) (s none [.cwb 0 0] none)) (fun t => t == s none [.cwb 0 0] none) && onNext (exec (.partitionReset 2) (s none [] none)) (fun t => st t == some (.resetting, some 1124, [1]) && t.cores == (s none [] none).cores) &&
     onNext (exec (.partitionReset 2) (s (some 101) [] none)) (fun t => t == s (some 101) [] none) &&
     onNext (exec (.partitionReset 2) (s (some 100) [] none)) (fun t => st t == some (.halted, none, [0]) && t.outbox == [.mctl 5 [2]] && (t.core 1).job == none && (t.core 1).regs == {} && t.hub.launches == [] && t.mem.byte 0x2100C == 6 && t.mem.byte 0x2100D == 0xFF) &&
     onNext (exec (.partitionReset 2) (s (some 100) [] (some 1))) fun t => t.outbox == [.mctl 5 [2], .mctl 9 [1]] && t.hub.boot.off && t.hub.boot.closing == none) = true := by decide +kernel
/-- R373, R398: the dump of a partition with one frame, whose core 1 runs context 9 at level 0 with ckcfg 5: 3,140 bytes of it take 4,800 cycles; the record stands from offset 64 on and the head after it. -/
theorem test_dump :
    (let x : Part := { cfg := partCfg, st := .capturing, frozenAt := 8000, frozenUpd := 3, trigger := 4, frozenQueues := List.replicate 16 { cfg := qCfg }, capFrames := [5] }
     let s (n : Nat) : State := { cycle := n, cores := [(1, { job := some { job9 with phase := .frozen }, regs := { ckcfg := 5 }, iss := { pc := 0x10040 } })], hub := { parts := [(2, some x)] } }
     let d := (s 0).dump 2 x
     d.length == 3140 && onNext (exec (.captureDumpComplete 2) (s 12799)) (fun t => t == s 12799) &&
     onNext (exec (.captureDumpComplete 2) (s 12800)) fun t => (t.hub.parts.get none 2).map (fun x => (x.st, x.drainBy, x.capOff, x.capCount)) == some (.resetting, some 40012800, 3204, 1) && (t.mem.read64 0x50000).toNat == 3204 + 2 ^ 32 &&
       t.mem.read64 0x50040 == 0x02040C440002 && t.mem.read64 0x50048 == 3 && t.mem.read64 0x50050 == 2 && t.mem.read64 0x50180 == 0x0009000100000000 && t.mem.read64 0x501CC == 5) = true := by decide +kernel
/-- R360: enabling a partition whose control ring an overrun has stopped resets the ring: the done index, the beacon's too, is the write index. -/
theorem test_enable :
    (let s : State := { mem := { bytes := memWords [(0x101000, 7)] }, hub := { parts := [(2, some { cfg := { partCfg with ctlbase := 0x100000 }, st := .halted, ctlStop := true })] } }
     onNext (exec (.partitionEnable 2) s) fun t => (t.hub.parts.get none 2).map (fun x => (x.st, x.ctlStop, x.ctlDone)) == some (.running, false, 7) && t.mem.byte 0x101010 == 7) = true := by decide +kernel
/-- R372: 10 ms after the dump what one launch of the partition still waits for counts as failed. -/
theorem test_drain_timeout :
    (let s (n : Nat) : State := { sQueue { cfg := qCfg } [] .resetting with hub := { (sQueue { cfg := qCfg } [] .resetting).hub with
       parts := [(2, some { cfg := partCfg, st := .resetting, drainBy := some n })], launches := [(3, some (lch .running))], net := [⟨8, 0, 3, false, none, false, 6, 3, none, none, none, none, 0, 0, none⟩, ⟨9, 0, 3, false, none, false, 6, 77, none, none, none, none, 0, 0, none⟩] } }
     onNext (exec (.captureDrainTimeout 2) (s 101)) (fun t => t == s 101) && onNext (exec (.captureDrainTimeout 2) (s 100)) fun t => t.hub.net.map (·.id) == [9] && (t.hub.launches.get none 3).map (·.nfail) == some 1 && (t.hub.parts.get none 2).map (·.drainBy) == some none) = true := by decide +kernel
/-- R366: the premises of the update's clause, with a counter at its end, and with counts of two cores; the energy's coefficients are the implementation's, so the update itself is not evaluated. -/
theorem test_meter_update_premise : (let s : State := { hub := { meters := [(146, 2 ^ 64 - 1)], live := [(146, 3)] } }
    s.hub.meters.get 0 (16 * 9 + 2) < 2 ^ 64 ∧ s.hub.live.get 0 (16 * 9 + 2) = 3) ∧
    (let s : State := { cores := [(1, { job := some job9, count := [(2, 5), (7, 1)] }), (2, { job := some { job9 with ctx := 8 }, count := [(2, 9)] })] }
     (s.cores.map (·.1)).Nodup ∧ (∀ x ∈ s.cores, ∀ y ∈ x.2.count, y.1 < 16) ∧ coreCounts s 9 2 = 5 ∧ coreCounts s 8 2 = 9) := by decide +kernel
/-- R367, R368: the second's estimate of 300, in a package whose sensors give 9 / 2; a record read in a session, and a closed one, which goes. -/
theorem test_meters :
    (let h : Hub := { (sQueue { cfg := qCfg }).hub with meters := [(146, 2 ^ 64 - 1), (157, 1000)], updates := 7 }
     let m (op closed : Bool) : State := { hub := { h with boot := { session := op }, ctxs := [(9, some { part := 2, sup := false, root := 0, save := 0, slots := 4, closed := closed })] } }
     let o : Out := .meter 9 2 0x77 7 [0, 0, 2 ^ 64 - 1, 0, 0, 0, 0, 0, 0, 0, 0, 0, 0, 1000, 0, 0]
     onNext (exec (.energyScale 9 2) { hub := { h with live := [(2 ^ 20 + 9, 300)] } }) (fun t => t.hub.meters.get 0 157 == 704 && t.hub.live == []) &&
     onNext (exec (.energyScale 3 0) (m true false)) (fun t => t == m true false) && onNext (exec (.meterReading 9) (m false false)) (fun t => t == m false false) &&
     onNext (exec (.meterReading 9) (m true false)) (fun t => t == { m true false with outbox := [o] }) && onNext (exec (.meterReading 9) (m true true)) fun t => t.outbox == [o] && t.hub.ctxs == []) = true := by decide +kernel

/-- R401 to R404: stages, measurements, a session, a link group, a port that trains late, and the supplies. -/
theorem test_boot :
    (let s (b : Boot) : State := { hub := { boot := b }, cycle := 500 }
     let up : Boot := { stage := 5, group := 4 }
     onNext (exec (.bootStageVerify 0x77 (some ⟨[], none⟩)) (s { stage := 4 })) (fun t => t == s { stage := 5, digests := [(5, 0x77)] }) && onNext (exec (.bootStageVerify 0x77 none) (s { stage := 4 })) (fun t => t == { s { stage := 4, failed := true } with outbox := [.mctl 6 [5]] }) &&
     onNext (exec (.bootStageVerify 0x77 (some ⟨[], none⟩)) (s up)) (fun t => t == s up) &&
     (let w : Window := ⟨0x100000000000000, 0x1000000, 0, .pool, 0⟩
      onNext (exec (.bootStageVerify 0x77 (some ⟨[w], some (0x20000, 0x10000)⟩)) (s { stage := 2, health := { retired := [.array 3 1] } })) fun t => t.hub == { retired := [.array 3 1], boot := { stage := 3, digests := [(3, 0x77)], windows := [w], exposed := some (0x20000, 0x10000) } }) &&
     onNext (exec (.bootStageVerify 0x77 (some ⟨[], none⟩)) (s { stage := 3 })) (fun t => t.hub.boot == { stage := 4, digests := [(4, 0x77)] } && (t.core 255).eng == { bank0 := true } && (t.core 256).eng == {}) && onNext (exec .getVersion (s {})) (fun t => t == { s {} with outbox := [.mgmt [0x12]] }) &&
     onNext (exec .getMeasurements (s { stage := 1, digests := [(1, 0x102)] })) (fun t => t == { s { stage := 1, digests := [(1, 0x102)] } with outbox := [.mgmt (2 :: 1 :: List.replicate 238 0)] }) &&
     onNext (exec .keyExchange (s up)) (fun t => t == s up) && onNext (exec .keyExchange (s { up with attested := true })) (fun t => t == s { up with attested := true, session := true }) &&
     onNext (exec (.linkTraining [.port 16 64, .port 8 64]) (s { stage := 5, group := 2 })) (fun t => t.hub.boot == { stage := 5, group := 3, links := [(14, .up), (15, .degraded)], upAt := 500 }) &&
     onNext (exec (.linkRetryUp 14 (.port 16 64)) (s up)) (fun t => t == { s { up with links := [(14, .up)] } with outbox := [.mctl 8 [14, 2]] }) && onNext (exec (.linkRetryUp 13 .full) (s up)) (fun t => t == s up) && onNext (exec (.linkRetryUp 18 .full) (s { up with group := 3 })) (fun t => t == s { up with group := 3 }) &&
     onNext (exec (.linkRetryUp 14 (.port 4 32)) (s { up with group := 3 })) (fun t => t.hub.boot.links == [(14, .degraded)]) &&
     onNext (exec (.linkDown 14) (s { up with links := [(14, .up)] })) (fun t => t == { s up with outbox := [.mctl 8 [14, 0]] }) &&
     onNext (exec .stagedPowerUp (s { up with upAt := 501 })) (fun t => t == s { up with upAt := 501 }) && onNext (exec .stagedPowerUp (s { up with upAt := 500 })) fun t => t == s { up with diesUp := 1, upAt := 400500 }) = true := by decide +kernel
theorem test_attestation :
    onNext (exec .getMeasurements { hub := { boot := { stage := 5, group := 4 } } }) (fun t => t.hub.boot.attested && t.outbox.length == 1) = true ∧ exec .getCapabilities {} = .next { outbox := [.mgmt Config.capabilities] } ∧ exec .getCertificate {} = .next { outbox := [.mgmt Config.certificate] } :=
  ⟨by decide +kernel, rfl, rfl⟩
/-- R405, R407: above 70 W (50 W on a hot die) one step up, below 63 W one down, in between as before; at 8 and above 70 W matrix steps wait. -/
theorem test_power :
    (let s (n : Nat) : State := { hub := { clusters := [(1, { throttle := n })] } }
     let th (n w k : Nat) (h : Bool) := ({ throttle := n } : ClusterSt).cap w == { throttle := k, holdSteps := h }
     th 3 (70 * 2 ^ 20 + 1) 4 false && th 3 (70 * 2 ^ 20) 3 false && th 3 (63 * 2 ^ 20) 3 false && th 3 (63 * 2 ^ 20 - 1) 2 false && th 0 0 0 false && th 8 (71 * 2 ^ 20) 8 true && ({ throttle := 3, hot := true } : ClusterSt).cap (50 * 2 ^ 20 + 1) == { throttle := 4, hot := true } && ({ throttle := 3, hot := true } : ClusterSt).cap (45 * 2 ^ 20) == { throttle := 3, hot := true } && onNext (exec (.powerManagerTick 1) (s 3)) (fun t => (t.hub.clusters.get {} 1).throttle == 2) &&
     onNext (exec (.thermalCap 0 true) (s 3)) (fun t => (t.hub.clusters.get {} 1) == { throttle := 3, hot := true } && (t.hub.clusters.get {} 8).hot == false) &&
     onNext (exec .shutdown { hub := { clusters := [(1, { awake := true })] } }) (fun t => t.hub.boot.off && !(t.hub.clusters.get {} 1).awake && t.outbox.length == 1) &&
     (let r : State := { hub := { parts := [(2, some { cfg := partCfg, st := .running })], clusters := [(1, { awake := true })] }, cycle := 5 }
      onNext (exec .shutdown r) fun t => t.hub.boot.closing.isSome && !t.hub.boot.off && t.outbox == [] && t.hub.clusters == r.hub.clusters && (t.hub.parts.get none 2).map (fun x => (x.st, x.trigger, x.frozenAt)) == some (.capturing, 0xFF, 5)) &&
     onNext (exec .moduleReset { s 3 with cycle := 7, hub := { retired := [.array 3 1], updates := 9, boot := { stage := 5 } }, outbox := [.hostAck 1] }) fun t => t.cycle == 0 && t.hub == { boot := { health := { retired := [.array 3 1] } } } && t.outbox == [.hostAck 1] && t.cores == []) = true := by decide +kernel
/-- R13, R374, R375: the third corrected error of a location in a minute retires it; the stack 1 of die 0 holds the block 16 of line 8, not the block 5 of line 2. -/
theorem test_errors :
    (let loc : ErrLoc := .hbmRow 0 1 2 3 4
     onNext (exec (.correctedError loc) { cycle := 7 }) (fun t => t == { cycle := 7, hub := { errs := [⟨loc, [7]⟩] } }) && onNext (exec (.correctedError loc) { cycle := 9, hub := { errs := [⟨loc, [7, 8]⟩] } }) (fun t => t.hub.retired == [loc] && t.outbox.length == 1) &&
     onNext (exec (.correctedError loc) { cycle := 240000000007, hub := { errs := [⟨loc, [7, 8]⟩] } }) (fun t => t.hub.errs == [⟨loc, [8, 240000000007]⟩] && t.hub.retired == []) &&
     onNext (exec (.uncorrectableError loc [16, 5]) {}) fun t => t.mem.poison == [(16, true)] && t.hub.retired == [loc]) = true := by decide +kernel

/-! ### One step and the checks at issue: O55 and O56 -/

/-- A bundle with the header `h`, the slot-1 word `w` and the slot-6 word `k`, every other slot empty. -/
def bun (h w : Nat) : Nat := h * 2 ^ 496 + w * 2 ^ 432
/-- R61, R65: `addi s4 = s4 + 1` with a stall count of 1. -/
def addiW : Nat := bun 0x1000 0x2000_8200_0000_0001
def sF : State := State.reset.withFetchWord 512 addiW
def addiOp : SlotOp := ⟨1, ⟨false, 0⟩, .addi ⟨4, 4, 1⟩⟩
def addiH : Header := ⟨1, false, false, false, false, false, false⟩
/-- The hypotheses of the bundle clause of O55 hold together. -/
theorem test_step_bundle_premises :
    actsNext sF 0 ∧ sF.microStep 0 = none ∧ atBundle sF 0 (BitVec.ofNat 512 addiW) ∧ (sF.at_ 0).interlocked (decodeHeader (BitVec.ofNat 512 addiW)) (rawOps (BitVec.ofNat 512 addiW)) = false ∧
    decodeBundleIn ((sF.at_ 0).decEnv (decodeHeader (BitVec.ofNat 512 addiW))) (BitVec.ofNat 512 addiW) = .ok ⟨addiH, [addiOp]⟩ ∧ unhindered (sF.at_ 0) ⟨addiH, [addiOp]⟩ [addiOp] :=
  ⟨⟨by decide +kernel, by decide +kernel, [], sF.core 0, [], by decide +kernel, by simp⟩, by decide +kernel, by unfold atBundle; decide +kernel, by decide +kernel, by decide +kernel, by unfold unhindered comes; decide +kernel⟩
/-- The write of s4 is due in the next cycle, the pc has moved by 64 bytes, and the next bundle is eligible after the stall. -/
theorem test_step_bundle : onNext (step sF) (fun t => t.me.iss.pend.map (fun p => p.wr) == [.s 4 1] && t.me.iss.pc == 64 && t.me.iss.elig == 2 && t.cycle == 0) = true := by decide +kernel
/-- R97: a transition of the agenda that a rule admits acts; a slot's operation that no bundle issues, and a result of a core that a capture has frozen, are dropped. -/
theorem test_step_agenda :
    step { agenda := [Instr.getVersion] } = .next { outbox := [.mgmt [0x12]] } ∧ step { agenda := [Instr.addi ⟨4, 4, 1⟩] } = .next {} ∧ ({} : State).admits (.loadComplete 0 0) = true ∧
    onNext (step { one { kM with job := some { job9 with phase := .frozen } } with agenda := [Instr.loadComplete 0 0] }) (fun t => t.agenda == []) = true := ⟨rfl, rfl, by decide +kernel, by decide +kernel⟩
/-- The hypotheses of the micro-word clause of O55 hold together, and the step is the word's transition: t1 = t2 + 9. -/
def sMicro : State := State.reset.withFetchWord 64 0x4402400000000009
theorem test_step_micro :
    actsNext sMicro 0 ∧
    (match (sMicro.core 0).eng.seq with
     | some q => q.st == .running && (sMicro.core 0).eng.frozen == none && decide (q.elig ≤ sMicro.cycle) && decodeMicro ((sMicro.core 0).eng.word (sMicro.core 0).ctx q) == .ok ⟨false, 0, .uaddi ⟨1, 2, 0, 9⟩⟩ && q.pred false 0 &&
         onNext (exec (.uaddi ⟨1, 2, 0, 9⟩) (sMicro.at_ 0)) (fun t => t != sMicro.at_ 0 && (match step sMicro with | .next x => x == t | _ => false) && (match t.me.eng.seq with | some q => q.t 1 == 9 | none => false))
     | none => false) = true := ⟨⟨by decide +kernel, by decide +kernel, [], sMicro.core 0, [], by decide +kernel, by simp⟩, by decide +kernel⟩

/-- The acting core of `sF` with another issue state and other registers. -/
def uF (iss : Issue := sF.me.iss) (regs : Regs := {}) : State := (sF.at_ 0).modMe fun k => { k with iss := iss, regs := regs }
/-- The acting core with a pending result. -/
def uV (v : VarWrite) : State := uF { sF.me.iss with vpend := [v] }
def w512 (n : Nat) : BitVec 512 := BitVec.ofNat 512 n
/-- R78, R79, R106: a bundle that reads s4 while its result is pending, a second division, and a load of the worked bundle while an acquire holds it; none of these holds an `addi`. -/
theorem test_waits :
    (let v (k : VKind) (r : List RegName) (h : Bool) : VarWrite := ⟨0, k, 0, r, [], none, h, none⟩
     (uV (v .load [.s 4] false)).issueWord (w512 addiW) == none && ((uV (v .load [.s 5] false)).issueWord (w512 addiW)).isSome &&
     (uV (v .division [] false)).issueWord (w512 (bun 0 0x1200_E28C_0000_0000)) == none && ((uV (v .division [] false)).issueWord (w512 addiW)).isSome &&
     (uV (v .load [] true)).issueWord (w512 (0x18_0920_2880_0040 * 2 ^ 248)) == none && ((uV (v .load [] true)).issueWord (w512 addiW)).isSome) = true := by decide +kernel
/-- R203, R208: a bundle that reads v1 while a drain of the frozen engine is to write it waits for that engine, and the core notes it. -/
theorem test_waits_for_engine :
    (let u := (uV ⟨0, .engine, 0, [.v 1], [], none, false, none⟩).modMe fun k => { k with eng := { frozen := some ⟨⟨0x06, 6, 0, 0, 0x777⟩, 0, 0, false, false, none⟩ } }
     (u.issueWord (w512 (0x0100_4000_8000_0400 * 2 ^ 368))).map (fun t => t.me == { u.me with iss := { u.me.iss with onEngine := true } }) == some true) = true := by decide +kernel
/-- R352: the bundle of a core that is asked to stop counts, and at its bound the hard stop is due in this cycle. -/
theorem test_stop_counts :
    (let s (n : Nat) : State := { sF with cores := sF.cores.map fun x => (x.1, { x.2 with job := x.2.job.map fun j => { j with due := some 900, issued := n, budget := 50 } }) }
     onNext (step (s 48)) (fun t => t.me.job.map (fun j => (j.issued, j.due)) == some (49, some 900)) && onNext (step (s 49)) fun t => t.me.job.map (fun j => (j.issued, j.due)) == some (50, some 0)) = true := by decide +kernel
/-- R72, R73: header bit 496, an unassigned opcode in slot 1, and the M slot's swap bit without an operation there; each is the precise trap with its reason and slot. -/
theorem test_illegal_bundles :
    ([(1 * 2 ^ 496, 2, 0), (bun 0 0xFE00_0000_0000_0000, 1, 1), (bun 0x0400 0x2000_8200_0000_0001, 5, 6)] : List (Nat × Nat × Nat)).all (fun x =>
      (uF).issueWord (w512 x.1) == some ((uF).precise (cause0 0x01 (16 * x.2.1 + x.2.2)))) = true := by decide +kernel
/-- R79: with the scoreboard on, a read of s4 while its write is in flight, in slot 1; off, the bundle issues. -/
theorem test_scoreboard :
    (let u (c : BitVec 3) : State := uF { sF.me.iss with pend := [⟨3, 0, .s 4 7⟩] } { ckcfg := c }
     (u 1).issueWord (w512 addiW) == some ((u 1).precise (cause0 0x02 1)) && (((u 0).issueWord (w512 addiW)).map fun t => t.me.iss.pend.length) == some 2) = true := by decide +kernel
/-- R55, R57: `(!g0) mstep` does nothing; its swap bit exchanges the shape register 2, whose active and shadow values both are a step's; a shape that is none raises reason 4 in slot 6 all the same. -/
def mstepW (swap : Nat) : Nat := bun (0x1000 + swap) 0 + (0x1006700028006 + 2 ^ 47) * 2 ^ 136
/-- A shape of a step, with class `c`. -/
def shS (c : Nat) : BitVec 128 := BitVec.ofNat 128 (4 * 2 ^ 52 + 4 * 2 ^ 56 + 4 * 2 ^ 60 + 127 * 2 ^ 72 + c * 2 ^ 83)
theorem test_false_guard :
    (let sh : Regs := { shAct := [(2, shS 1)], shShd := [(2, shS 2)] }
     let u := uF { sF.me.iss with pc := 64 } sh
     let at_ (h : Header) : Bool := match decodeBundleIn (u.decEnv h) (w512 (mstepW 0x400)) with | .ok b => b.ops.map (fun o => (o.slot, o.guard)) == [(6, ⟨true, 0⟩)] | .error _ => false
     at_ (decodeHeader (w512 (mstepW 0x400))) && ((u.issueWord (w512 (mstepW 0))).map fun t => t.me.regs == sh && t.me.iss.pc == 128 && t.me.wb == []) == some true &&
     ((u.issueWord (w512 (mstepW 0x400))).map fun t => t.me.regs.shape 0 2 == shS 2 && t.me.regs.shapeShadow 0 2 == shS 1 && t.me.wb == []) == some true &&
     (uF).issueWord (w512 (mstepW 0)) == some ((uF).precise (cause0 0x01 0x46))) = true := by decide +kernel
/-- Its bundle. -/
def mstepB : Bundle := ⟨addiH, [⟨6, ⟨true, 0⟩, .mstep ⟨1, 2, 3, 4, 5, 6⟩⟩]⟩
def uS : State := uF sF.me.iss { shAct := [(2, shS 1)] }
theorem test_false_guard_premise :
    uS.interlocked (decodeHeader (w512 (mstepW 0))) (rawOps (w512 (mstepW 0))) = false ∧ decodeBundleIn (uS.decEnv (decodeHeader (w512 (mstepW 0)))) (w512 (mstepW 0)) = .ok mstepB ∧ unhindered uS mstepB [] :=
  ⟨by decide +kernel, by decide +kernel, by unfold unhindered comes; decide +kernel⟩
/-- O57's premise: reset is sound. -/
theorem test_reset_sound : State.reset.sound := by unfold State.sound; decide +kernel

end Sys2Proof.Tests
end

/-! What an agent other than a core changes when bytes merge at a home whose line nobody owns and whose sector no host holds (R108, R173, R179, R330): the bytes, the version, the L2's bookkeeping, and nothing that instructions compute with. -/
namespace Sys2Proof.Machine
open Sys2Proof.Claims

/-! ### Bytes of a list of cells -/

/-- The bytes `bs` with their addresses, from `pa` on. -/
def cellsFrom (pa : Nat) : List Byte → List (Nat × Byte)
  | [] => []
  | b :: t => (pa, b) :: cellsFrom (pa + 1) t

theorem range_map_zip (bs : List Byte) : ∀ pa n : Nat, ((List.range n).map (pa + ·)).zip bs = cellsFrom pa (bs.take n) := by
  induction bs with
  | nil => simp [cellsFrom]
  | cons b t ih =>
    intro pa n
    cases n with
    | zero => rfl
    | succ n =>
      rw [List.range_succ_eq_map, List.map_cons, List.map_map, List.zip_cons_cons, List.take_succ_cons, cellsFrom, ← ih (pa + 1) n]
      simp [Function.comp_def, Nat.add_assoc, Nat.add_comm 1]

/-- The cells as the model's operations write them. -/
theorem range_zip_map (pa : Nat) (bs : List Byte) :
    (((List.range bs.length).zip bs).map fun (i, b) => (pa + i, b)) = cellsFrom pa bs := by
  have h := range_map_zip bs pa bs.length
  rw [List.take_length, List.zip_map_left] at h
  exact h

theorem cellsFrom_append (bs ds : List Byte) : ∀ pa, cellsFrom pa (bs ++ ds) = cellsFrom pa bs ++ cellsFrom (pa + bs.length) ds := by
  induction bs with
  | nil => simp [cellsFrom]
  | cons b t ih => intro pa; simp [cellsFrom, ih, Nat.add_assoc, Nat.add_comm 1]

theorem mem_cellsFrom {bs : List Byte} : ∀ {pa : Nat} {c : Nat × Byte}, c ∈ cellsFrom pa bs → pa ≤ c.1 ∧ c.1 < pa + bs.length := by
  induction bs with
  | nil => intro pa c h; cases h
  | cons b t ih =>
    intro pa c h
    rcases List.mem_cons.mp h with rfl | h
    · simp
    · have := ih h; simp only [List.length_cons]; omega

@[simp] theorem lastOf_nil (a : Nat) (old : Byte) : lastOf [] a old = old := rfl

theorem lastOf_append (cs ds : List (Nat × Byte)) (a : Nat) (old : Byte) : lastOf (cs ++ ds) a old = lastOf ds a (lastOf cs a old) := by
  unfold lastOf
  rw [List.reverse_append, List.find?_append]
  cases ds.reverse.find? (fun x => x.1 == a) <;> rfl

@[simp] theorem lastOf_cons (c : Nat × Byte) (cs : List (Nat × Byte)) (a : Nat) (old : Byte) :
    lastOf (c :: cs) a old = lastOf cs a (if a = c.1 then c.2 else old) := by
  rw [← List.singleton_append, lastOf_append]
  congr 1
  by_cases h : a = c.1
  · simp [lastOf, h]
  · simp [lastOf, h, Ne.symm h]

/-- Cells elsewhere leave a byte alone. -/
theorem lastOf_of_ne {cs : List (Nat × Byte)} {a : Nat} (old : Byte) (h : ∀ c ∈ cs, c.1 ≠ a) : lastOf cs a old = old := by
  induction cs generalizing old with
  | nil => rfl
  | cons c t ih => rw [lastOf_cons, if_neg (h c (by simp)).symm, ih _ fun d hd => h d (by simp [hd])]

/-- A run of bytes read back at one address. -/
theorem lastOf_cellsFrom (bs : List Byte) (a : Nat) : ∀ (pa : Nat) (old : Byte),
    lastOf (cellsFrom pa bs) a old = if pa ≤ a then bs[a - pa]?.getD old else old := by
  induction bs with
  | nil => intro pa old; simp [cellsFrom]
  | cons b t ih =>
    intro pa old
    rw [cellsFrom, lastOf_cons, ih]
    rcases Nat.lt_trichotomy a pa with h | rfl | h
    · simp [show ¬pa ≤ a by omega, show ¬pa + 1 ≤ a by omega, show a ≠ pa by omega]
    · simp
    · obtain ⟨k, rfl⟩ : ∃ k, a = pa + 1 + k := ⟨a - pa - 1, by omega⟩
      simp [show pa + 1 + k - pa = k + 1 by omega, show pa ≤ pa + 1 + k by omega, show pa + 1 + k ≠ pa by omega]

/-- A byte after cells are written: the last cell that names it gives its value. -/
theorem Mem.byte_writeCells (cs : List (Nat × Byte)) (a : Nat) : ∀ m : Mem, (m.writeCells cs).byte a = lastOf cs a (m.byte a) := by
  induction cs with
  | nil => intro m; rfl
  | cons c t ih =>
    intro m
    show ((m.setByte c.1 c.2).writeCells t).byte a = _
    rw [ih, lastOf_cons, Mem.byte_setByte]

/-- Cells are bytes, and change nothing else of the memory. -/
theorem Mem.writeCells_eq (cs : List (Nat × Byte)) : ∀ m : Mem, m.writeCells cs = { m with bytes := (m.writeCells cs).bytes } := by
  induction cs with
  | nil => intro m; rfl
  | cons c t ih => intro m; exact ih (m.setByte c.1 c.2)

/-! ### What the L2's own moves change -/

/-- From `m` to `n` only presence in the L2, monitors and their messages may differ. -/
def Mem.onlyL2 (m n : Mem) : Prop := n = { m with l2 := n.l2, mons := n.mons, msgs := n.msgs, sends := n.sends }

theorem Mem.onlyL2.trans {m n k : Mem} (h : m.onlyL2 n) (h' : n.onlyL2 k) : m.onlyL2 k := by
  unfold Mem.onlyL2 at *
  rw [h', h]
theorem Mem.onlyL2_l2Pair (m : Mem) (ln : Nat) (o : Option Nat) : m.onlyL2 (m.l2Pair ln o) := rfl
theorem Mem.onlyL2_l2Touch (m : Mem) (ln c u : Nat) (d : Bool) : m.onlyL2 (m.l2Touch ln c u d) := rfl
theorem Mem.onlyL2_fire (m : Mem) (cy ln st : Nat) : m.onlyL2 (m.fire cy ln st) := by
  unfold Mem.fire; simp only; split <;> rfl
theorem Mem.onlyL2_l2Drop (m : Mem) (cy ln : Nat) : m.onlyL2 (m.l2Drop cy ln) := by
  unfold Mem.l2Drop
  refine Mem.onlyL2.trans ?_ (Mem.onlyL2_fire _ cy ln 4)
  split <;> rfl

@[simp] theorem Mem.l2_fire (m : Mem) (cy ln st : Nat) : (m.fire cy ln st).l2 = m.l2 := by
  unfold Mem.fire; simp only; split <;> rfl

/-- What a move of the L2 for core `who`, or for nobody, may change: its own bookkeeping, the counts of R365, the remote sectors that the home holds, and only CXL.cache evictions leave the module (R173, R330). -/
structure State.l2Moves (who : Option Nat) (s t : State) : Prop where
  mem : s.mem.onlyL2 t.mem
  hub : t.hub = { s.hub with live := t.hub.live, budgetUsed := t.hub.budgetUsed }
  out : ∃ l, t.outbox = s.outbox ++ l ∧ ∀ x ∈ l, ∃ p a, x = .cacheEvict p a
  keep : ∀ d, (s.core d).keeps (t.core d)
  still : who = none → t.cores = s.cores

theorem Core.keeps.refl (k : Core) : k.keeps k := ⟨rfl, rfl, rfl, rfl, rfl, rfl, rfl, rfl, rfl⟩
theorem Core.keeps.trans {a b c : Core} (h : a.keeps b) (h' : b.keeps c) : a.keeps c := by
  obtain ⟨h1, h2, h3, h4, h5, h6, h7, h8, h9⟩ := h
  obtain ⟨g1, g2, g3, g4, g5, g6, g7, g8, g9⟩ := h'
  exact ⟨g1.trans h1, g2.trans h2, g3.trans h3, g4.trans h4, g5.trans h5, g6.trans h6, g7.trans h7, g8.trans h8, g9.trans h9⟩
theorem allKeep_refl (s : State) : allKeep s s := fun _ => Core.keeps.refl _
theorem allKeep_of_cores {s t : State} (h : t.cores = s.cores) : allKeep s t := fun d => by
  unfold State.core; rw [h]; exact Core.keeps.refl _
theorem allKeep_trans {s t u : State} (h : allKeep s t) (h' : allKeep t u) : allKeep s u := fun d => (h d).trans (h' d)

/-- A change of one core that keeps what its instructions compute with. -/
theorem allKeep_modCore (s : State) (c : Nat) (f : Core → Core) (hf : ∀ k : Core, k.keeps (f k)) : allKeep s (s.modCore c f) := fun d => by
  by_cases h : d = c
  · rw [h, State.modCore_core_same]; exact hf _
  · rw [State.modCore_core_ne s f h]; exact Core.keeps.refl _

theorem allKeep_meter (s : State) (c i n : Nat) : allKeep s (s.meter c i n) :=
  allKeep_modCore s c _ fun k => by split <;> exact Core.keeps.refl _

namespace State.l2Moves

theorem refl (who : Option Nat) (s : State) : State.l2Moves who s s :=
  ⟨rfl, rfl, ⟨[], by simp⟩, allKeep_refl s, fun _ => rfl⟩

theorem trans {who : Option Nat} {s t u : State} (h : State.l2Moves who s t) (h' : State.l2Moves who t u) : State.l2Moves who s u := by
  obtain ⟨l, hl, hl'⟩ := h.out
  obtain ⟨k, hk, hk'⟩ := h'.out
  refine ⟨h.mem.trans h'.mem, by rw [h'.hub, h.hub], ⟨l ++ k, by rw [hk, hl, List.append_assoc], ?_⟩, fun d => (h.keep d).trans (h'.keep d), fun e => (h'.still e).trans (h.still e)⟩
  intro x hx
  exact (List.mem_append.mp hx).elim (hl' x) (hk' x)

/-- A move within the L2's own bookkeeping. -/
theorem ofMem {who : Option Nat} {s : State} {m : Mem} (h : s.mem.onlyL2 m) : State.l2Moves who s { s with mem := m } :=
  ⟨h, rfl, ⟨[], by simp⟩, allKeep_refl s, fun _ => rfl⟩

end State.l2Moves

theorem State.l2Moves_noteLine (who : Option Nat) (s : State) (ln i n : Nat) : State.l2Moves who s (s.noteLine who ln i n) := by
  unfold State.noteLine
  cases who with
  | some c => exact ⟨rfl, rfl, ⟨[], by simp⟩, allKeep_meter s c i n, fun h => by cases h⟩
  | none => exact ⟨rfl, rfl, ⟨[], by simp⟩, allKeep_refl s, fun _ => rfl⟩

/-- Messages leave the module in order. -/
theorem State.foldl_out {α : Type} (f : α → Out) (l : List α) : ∀ s : State,
    l.foldl (fun (s : State) x => s.out (f x)) s = { s with outbox := s.outbox ++ l.map f } := by
  induction l with
  | nil => intro s; simp
  | cons x t ih => intro s; rw [List.foldl_cons, ih]; simp [State.out]

theorem State.l2Moves_giveUp (who : Option Nat) (s : State) (ln : Nat) : State.l2Moves who s (s.giveUp ln) := by
  unfold State.giveUp
  simp only [State.foldl_out fun x : Nat × Nat => .cacheEvict x.1 (64 * x.2)]
  refine ⟨rfl, rfl, ⟨_, rfl, ?_⟩, allKeep_refl s, fun _ => rfl⟩
  intro x hx
  obtain ⟨y, -, rfl⟩ := List.mem_map.mp hx
  exact ⟨_, _, rfl⟩

theorem State.l2Moves_l2Evict (who : Option Nat) (s : State) (ln : Nat) : State.l2Moves who s (s.l2Evict who ln) := by
  unfold State.l2Evict
  refine State.l2Moves.trans ?_ (.trans (State.l2Moves_giveUp who _ ln) (.ofMem (Mem.onlyL2_l2Drop _ _ _)))
  split
  · exact State.l2Moves_noteLine who s ln 9 128
  · exact .refl who s

/-- Two lines come to share an entry. -/
theorem State.l2Moves_pair (who : Option Nat) (s : State) (a b : Nat) (x y : Option Nat) :
    State.l2Moves who s { s with mem := (s.mem.l2Pair a x).l2Pair b y } :=
  .ofMem (Mem.onlyL2.trans (Mem.onlyL2_l2Pair _ a x) (Mem.onlyL2_l2Pair _ b y))

theorem State.l2Moves_l2Room (who : Option Nat) (s : State) (ln : Nat) : State.l2Moves who s (s.l2Room who ln) := by
  unfold State.l2Room
  simp only
  split
  · exact .refl who s
  split
  · exact ⟨rfl, rfl, ⟨[], by simp⟩, allKeep_refl s, fun _ => rfl⟩
  split
  · exact .refl who s
  next x t _ =>
    refine .trans (State.l2Moves_l2Evict who s (t.foldl l2Worse x).1) ?_
    split
    · split
      · exact State.l2Moves_pair who _ _ _ _ _
      · exact State.l2Moves_l2Evict who _ _
    · exact .refl who _

theorem State.l2Moves_l2Unpair (who : Option Nat) (s : State) (ln : Nat) : State.l2Moves who s (s.l2Unpair who ln) := by
  unfold State.l2Unpair
  split
  · split
    · exact .refl who s
    · exact .trans (State.l2Moves_noteLine who s _ 14 1) (State.l2Moves_l2Evict who _ _)
  · exact .refl who s

theorem State.l2Moves_l2Use (who : Option Nat) (s : State) (ln cls : Nat) (d : Bool) : State.l2Moves who s (s.l2Use who ln cls d) := by
  unfold State.l2Use
  refine State.l2Moves.trans ?_ (.ofMem (Mem.onlyL2_l2Touch _ _ _ _ _))
  split
  · exact State.l2Moves_l2Unpair who s ln
  · exact State.l2Moves_l2Room who s ln

end Sys2Proof.Machine

/-! ### Bytes merging at a quiet home -/
namespace Sys2Proof.Machine
open Sys2Proof.Claims

/-- From `s` to `t` an agent that is no core has written `cs` at their homes: memory reads so, ownership and the fabric's states stay, no core differs, and the hub differs in counts and held remote sectors alone (R108, R256, R334). -/
structure State.writesHome (s t : State) (cs : List (Nat × Byte)) : Prop where
  bytes : ∀ a, t.mem.byte a = lastOf cs a (s.mem.byte a)
  owner : t.mem.owner = s.mem.owner
  fabric : t.mem.fabric = s.mem.fabric
  cores : t.cores = s.cores
  hub : t.hub = { s.hub with live := t.hub.live, budgetUsed := t.hub.budgetUsed }
  out : ∃ l, t.outbox = s.outbox ++ l ∧ ∀ x ∈ l, ∃ p a, x = .cacheEvict p a

theorem State.writesHome.refl (s : State) : s.writesHome s [] := ⟨fun _ => rfl, rfl, rfl, rfl, rfl, [], by simp⟩

theorem State.writesHome.trans {s t u : State} {cs ds : List (Nat × Byte)} (h : s.writesHome t cs) (h' : t.writesHome u ds) : s.writesHome u (cs ++ ds) := by
  obtain ⟨l, hl, hl'⟩ := h.out
  obtain ⟨k, hk, hk'⟩ := h'.out
  refine ⟨fun a => by rw [h'.bytes, h.bytes, lastOf_append], h'.owner.trans h.owner, h'.fabric.trans h.fabric, h'.cores.trans h.cores, by rw [h'.hub, h.hub],
    l ++ k, by rw [hk, hl, List.append_assoc], ?_⟩
  intro x hx
  exact (List.mem_append.mp hx).elim (hl' x) (hk' x)

theorem State.writesHome.frameOwner {s t : State} {cs : List (Nat × Byte)} (h : s.writesHome t cs) : t.hub.frameOwner = s.hub.frameOwner := by rw [h.hub]

/-- Cells from one address on stand there. -/
theorem State.writesHome.wroteAt {s t : State} {pa : Nat} {bs : List Byte} (h : s.writesHome t (cellsFrom pa bs)) : Claims.wroteAt s t pa bs := fun a => by
  rw [h.bytes, lastOf_cellsFrom]
  cases bs[a - pa]? <;> rfl

/-- Followed by one message, it only evicts before that. -/
theorem State.writesHome.evictsThen {s t : State} {cs : List (Nat × Byte)} (h : s.writesHome t cs) (o : Out) : Claims.evictsThen s (t.out o) o := by
  obtain ⟨l, hl, hl'⟩ := h.out
  exact ⟨l, by rw [State.out_outbox, hl], hl'⟩

/-- A window sector that no host holds is not taken back (R331). -/
theorem State.snoopRaw_of_noFabric {s : State} {blk : Nat} (h : s.mem.fabric = []) : s.snoopRaw blk = s := by
  simp [State.snoopRaw, h, Bank.get]

theorem State.recall_of_noOwner {s : State} {ln : Nat} (h : s.mem.owner.get none ln = none) : s.recall ln = s := by
  simp [State.recall, h]

theorem Mem.onlyL2.eqs {m n : Mem} (h : m.onlyL2 n) : n.bytes = m.bytes ∧ n.owner = m.owner ∧ n.fabric = m.fabric ∧ n.ver = m.ver ∧ n.inflight = m.inflight := by
  rw [h]; exact ⟨rfl, rfl, rfl, rfl, rfl⟩

/-- From `m` to `n` the cells `cs` have been written, poison and descriptors may differ, and nothing else does. -/
def Mem.takes (m n : Mem) (cs : List (Nat × Byte)) : Prop := n = { m with bytes := (m.writeCells cs).bytes, poison := n.poison, desc := n.desc }

theorem Mem.takes_writeCells (m : Mem) (cs : List (Nat × Byte)) : m.takes (m.writeCells cs) cs := by
  unfold Mem.takes; rw [Mem.writeCells_eq]
theorem Mem.takes.setPoison {m n : Mem} {cs : List (Nat × Byte)} (h : m.takes n cs) (blk : Nat) (po : Bool) : m.takes (n.setPoison blk po) cs := by
  unfold Mem.takes at *; rw [h]; rfl
theorem Mem.takes.setDesc {m n : Mem} {cs : List (Nat × Byte)} (h : m.takes n cs) (blk : Nat) (d : BitVec 32) : m.takes (n.setDesc blk d) cs := by
  unfold Mem.setDesc
  split
  · exact h
  · unfold Mem.takes at *; rw [h]

theorem Mem.takes.eqs {m n : Mem} {cs : List (Nat × Byte)} (h : m.takes n cs) :
    n.bytes = (m.writeCells cs).bytes ∧ n.owner = m.owner ∧ n.fabric = m.fabric ∧ n.ver = m.ver ∧ n.inflight = m.inflight := by
  rw [h]; exact ⟨rfl, rfl, rfl, rfl, rfl⟩

/-- A merge at a home whose sector no host holds: the bytes, the block's poison and descriptor, then the L2 takes the line (R108). -/
theorem State.mergeHome_quiet (s : State) (who : Option Nat) (blk : Nat) (cs : List (Nat × Byte)) (desc : Option (BitVec 32)) (whole po : Bool) (cls : Nat)
    (hf : s.mem.fabric = []) : ∃ m : Mem, s.mem.takes m cs ∧ State.l2Moves who { s with mem := m } (s.mergeHome who blk cs desc whole po cls) := by
  unfold State.mergeHome
  rw [State.snoopRaw_of_noFabric hf]
  refine ⟨_, ?_, State.l2Moves_l2Use who _ (blk / 2) cls true⟩
  have h := s.mem.takes_writeCells cs
  cases desc <;> dsimp only <;> split_ifs
  · exact h.setPoison blk po
  · exact h.setPoison blk true
  · exact h
  · exact (h.setPoison blk po).setDesc blk _
  · exact (h.setPoison blk true).setDesc blk _
  · exact h.setDesc blk _

/-- Memory whose bytes are those of cells written reads so. -/
theorem Mem.byte_of_bytes {m n : Mem} {cs : List (Nat × Byte)} (h : n.bytes = (m.writeCells cs).bytes) (a : Nat) : n.byte a = lastOf cs a (m.byte a) := by
  rw [← Mem.byte_writeCells]; exact congrArg (fun b => Bank.get unwritten b a) h

/-- A version raised (R109). -/
theorem Mem.bump_eq (m : Mem) (cy ln : Nat) : ({ m with ver := m.ver.put 0 ln (m.ver.get 0 ln + 1) } : Mem).onlyL2 (m.bump cy ln) := Mem.onlyL2_fire _ _ _ _

/-- A merge on behalf of nobody, where no core owns the line and no host holds a sector (R108, R109, R110). -/
theorem State.mergeDirect_quiet {s : State} {pa : Nat} (bs : List Byte) (desc : Option (BitVec 32)) (po : Bool) (cls : Nat)
    (ho : s.mem.owner.get none (pa / 128) = none) (hf : s.mem.fabric = []) :
    s.writesHome (s.mergeDirect none pa bs desc po cls) (cellsFrom pa bs) ∧
    (s.mergeDirect none pa bs desc po cls).mem.ver.get 0 (pa / 128) = s.mem.ver.get 0 (pa / 128) + 1 := by
  unfold State.mergeDirect
  simp only [State.recall_of_noOwner ho, range_zip_map]
  obtain ⟨m, hm, hl⟩ := s.mergeHome_quiet none (pa / 64) (cellsFrom pa bs) desc (bs.length == 64) po cls hf
  generalize s.mergeHome none (pa / 64) (cellsFrom pa bs) desc (bs.length == 64) po cls = u at hl ⊢
  obtain ⟨hb, howner, hfabric, hver, -⟩ := hl.mem.eqs
  obtain ⟨hb', howner', hfabric', hver', -⟩ := (u.mem.bump_eq u.cycle (pa / 128)).eqs
  obtain ⟨hbm, howner_m, hfabric_m, hver_m, -⟩ := hm.eqs
  refine ⟨⟨fun a => ?_, howner'.trans (howner.trans howner_m), hfabric'.trans (hfabric.trans hfabric_m), hl.still rfl, hl.hub, hl.out⟩, ?_⟩
  · exact Mem.byte_of_bytes (hb'.trans (hb.trans hbm)) a
  · rw [hver', Bank.get_put_same, hver, hver_m]

/-- Memory where nobody owns a line and no host holds a sector. -/
def State.quietHomes (s : State) : Prop := s.mem.owner = [] ∧ s.mem.fabric = []

theorem State.writesHome.quiet {s t : State} {cs : List (Nat × Byte)} (h : s.writesHome t cs) (hq : s.quietHomes) : t.quietHomes :=
  ⟨h.owner.trans hq.1, h.fabric.trans hq.2⟩

theorem State.mergeDirect_writesHome {s : State} (hq : s.quietHomes) (pa : Nat) (bs : List Byte) (desc : Option (BitVec 32)) (po : Bool) (cls : Nat) :
    s.writesHome (s.mergeDirect none pa bs desc po cls) (cellsFrom pa bs) :=
  (State.mergeDirect_quiet bs desc po cls (by rw [hq.1]; rfl) hq.2).1

theorem State.mergeRun_nil (s : State) (desc : Option (BitVec 32)) (pa : Nat) : ∀ fuel, s.mergeRun desc pa [] fuel = s
  | 0 => rfl
  | _ + 1 => rfl

/-- A run within one block is one merge. -/
theorem State.mergeRun_one (s : State) (desc : Option (BitVec 32)) {pa : Nat} {bs : List Byte} (hne : bs ≠ []) (hd : bs.length ≤ 64 - pa % 64) :
    s.mergeRun desc pa bs (bs.length + 1) = s.mergeDirect none pa bs (if bs.length = 64 then desc else none) false 3 := by
  rw [State.mergeRun, if_neg (by simpa using hne)]
  dsimp only
  rw [min_eq_left hd, List.take_length, List.drop_length, State.mergeRun_nil]

/-- A run of merges, block by block, writes its bytes from its first address on. -/
theorem State.mergeRun_writesHome (desc : Option (BitVec 32)) : ∀ (fuel : Nat) {s : State} (pa : Nat) (bs : List Byte), s.quietHomes → bs.length < fuel →
    s.writesHome (s.mergeRun desc pa bs fuel) (cellsFrom pa bs)
  | 0, _, _, _, _, h => absurd h (Nat.not_lt_zero _)
  | fuel + 1, s, pa, bs, hq, h => by
    unfold State.mergeRun
    split
    · next he => rw [List.isEmpty_iff.mp he]; exact .refl s
    · next he =>
      have hne : 0 < bs.length := List.length_pos_iff.mpr fun e => he (by rw [e]; rfl)
      simp only
      generalize hn : min bs.length (64 - pa % 64) = n
      have h1 := State.mergeDirect_writesHome hq pa (bs.take n) (if n = 64 then desc else none) false 3
      have h2 := State.mergeRun_writesHome desc fuel (pa + n) (bs.drop n) (h1.quiet hq) (by rw [List.length_drop]; omega)
      have hcells : cellsFrom pa bs = cellsFrom pa (bs.take n) ++ cellsFrom (pa + n) (bs.drop n) := by
        conv_lhs => rw [← List.take_append_drop n bs, cellsFrom_append, List.length_take, min_eq_left (by omega : n ≤ bs.length)]
      rw [hcells]
      exact h1.trans h2

end Sys2Proof.Machine

/-! Accesses that reach memory from outside the cores (R14, R111, R122, R330 to R335). -/
namespace Sys2Proof.Machine
open Sys2Proof.Claims

/-! ### Remote writes (R111, R122) -/

theorem exec_poolWritePerform (id : Nat) (r : RemoteResult) (s : State) : exec (.poolWritePerform id r) s = execPoolWritePerform id r s := rfl

theorem Hub.remoteResult_of_portUp {s : State} {pa : Nat} (h : portUp s pa) (r : RemoteResult) : s.hub.remoteResult pa r = r := by
  obtain ⟨w, hw, hup⟩ := h
  simp [Hub.remoteResult, Hub.windowAt, hw, Hub.linkUp, cxlLink, hup]

theorem Hub.remoteResult_of_not_portUp {s : State} {pa : Nat} (h : ¬portUp s pa) (r : RemoteResult) : s.hub.remoteResult pa r = .dead := by
  unfold Hub.remoteResult
  split
  · next w hw =>
    refine if_neg fun hup => h ⟨w, hw, ?_⟩
    simpa [Hub.linkUp, cxlLink] using hup
  · rfl

theorem State.meterPool_frame (s : State) (c pa n : Nat) : (s.meterPool c pa n).mem = s.mem ∧ allKeep s (s.meterPool c pa n) := by
  unfold State.meterPool
  split
  · split
    · exact ⟨rfl, allKeep_refl s⟩
    · exact ⟨rfl, allKeep_meter s c 10 n⟩
  · exact ⟨rfl, allKeep_refl s⟩

/-- The bytes that a write sends are counted, and nothing else differs (R365). -/
theorem State.meterSent_frame (s : State) (w : PoolWrite) : (s.meterSent w).mem = s.mem ∧ allKeep s (s.meterSent w) := by
  unfold State.meterSent
  split
  · exact s.meterPool_frame _ _ _
  · split
    · split <;> exact ⟨rfl, allKeep_refl s⟩
    · exact ⟨rfl, allKeep_refl s⟩

theorem State.mem_poolSync (s : State) (w : PoolWrite) : (s.poolSync w).mem = s.mem := by
  unfold State.poolSync; split
  · split <;> rfl
  · rfl
theorem State.poolSync_of_none (s : State) {w : PoolWrite} (h : w.sync = none) : s.poolSync w = s := by
  unfold State.poolSync; rw [h]

/-- Write `id` leaves the in-flight set. -/
def State.taken (s : State) (id : Nat) : State := { s with mem := { s.mem with inflight := s.mem.inflight.filter fun x => x.id != id } }

/-- The state that a remote write leaves once it has succeeded (R111). -/
def State.landed (s : State) (w : PoolWrite) : State :=
  let u := s.meterSent w
  let m := u.mem.writeCells (cellsFrom w.pa w.bytes)
  let m := if w.bytes.length = 64 || w.poison then m.setPoison (w.pa / 64) w.poison else m
  (({ u with mem := m.bump u.cycle (w.pa / 128) } : State).l2Unpair (u.sentBy w) (w.pa / 128)).poolSync w

theorem State.landed_spec (s : State) (w : PoolWrite) :
    (wroteAt s (s.landed w) w.pa w.bytes ∧ (s.landed w).mem.inflight = s.mem.inflight) ∧
    (s.landed w).mem.ver.get 0 (w.pa / 128) = s.mem.ver.get 0 (w.pa / 128) + 1 ∧ (w.sync = none → allKeep s (s.landed w)) := by
  obtain ⟨hmem, hkeep⟩ := s.meterSent_frame w
  unfold State.landed
  dsimp only
  generalize s.meterSent w = u at hmem hkeep ⊢
  have hm := u.mem.takes_writeCells (cellsFrom w.pa w.bytes)
  replace hm : u.mem.takes (if (decide (w.bytes.length = 64) || w.poison) = true then (u.mem.writeCells (cellsFrom w.pa w.bytes)).setPoison (w.pa / 64) w.poison
      else u.mem.writeCells (cellsFrom w.pa w.bytes)) (cellsFrom w.pa w.bytes) := by
    split
    · exact hm.setPoison _ _
    · exact hm
  generalize (if (decide (w.bytes.length = 64) || w.poison) = true then (u.mem.writeCells (cellsFrom w.pa w.bytes)).setPoison (w.pa / 64) w.poison
      else u.mem.writeCells (cellsFrom w.pa w.bytes)) = m at hm ⊢
  have hl := State.l2Moves_l2Unpair (u.sentBy w) { u with mem := m.bump u.cycle (w.pa / 128) } (w.pa / 128)
  obtain ⟨hb, -, -, hv, hi⟩ := ((m.bump_eq u.cycle (w.pa / 128)).trans hl.mem).eqs
  obtain ⟨hbm, -, -, hvm, him⟩ := hm.eqs
  rw [hmem] at hbm hvm him
  refine ⟨⟨fun a => ?_, ?_⟩, ?_, fun hs => ?_⟩
  · rw [State.mem_poolSync, Mem.byte_of_bytes (hb.trans hbm), lastOf_cellsFrom]
    cases w.bytes[a - w.pa]? <;> rfl
  · rw [State.mem_poolSync, hi, him]
  · rw [State.mem_poolSync, hv, Bank.get_put_same, hvm]
  · rw [State.poolSync_of_none _ hs]
    exact allKeep_trans hkeep hl.keep

theorem State.poolWritePerform_ok {s : State} {w : PoolWrite} (hw : s.mem.inflight.find? (fun x => x.id == w.id) = some w) (hup : portUp s w.pa) (d : List Byte) :
    ∃ t, exec (.poolWritePerform w.id (.ok d)) s = .next t ∧ t.mem.inflight = s.mem.inflight.filter (fun x => x.id != w.id) ∧ wroteAt s t w.pa w.bytes ∧
      t.mem.ver.get 0 (w.pa / 128) = s.mem.ver.get 0 (w.pa / 128) + 1 ∧ (w.sync = none → allKeep s t) := by
  have hexec : exec (.poolWritePerform w.id (.ok d)) s = .next ((s.taken w.id).landed w) := by
    simp only [exec_poolWritePerform, execPoolWritePerform, hw, Hub.remoteResult_of_portUp hup, range_zip_map]; rfl
  obtain ⟨hmem, hver, hkeep⟩ := (s.taken w.id).landed_spec w
  exact ⟨_, hexec, hmem.2, hmem.1, hver, hkeep⟩

theorem State.poolWritePerform_fails {s : State} {w : PoolWrite} {r : RemoteResult} (hw : s.mem.inflight.find? (fun x => x.id == w.id) = some w)
    (e : RemoteResult) (he : s.hub.remoteResult w.pa r = e) (hne : ∀ d, e ≠ .ok d) :
    ∃ t, exec (.poolWritePerform w.id r) s = .next t ∧ t.mem = { s.mem with inflight := s.mem.inflight.filter fun x => x.id != w.id } ∧
      (t.core w.core).poolFail = (s.core w.core).poolFail + 1 ∧
      (t.core w.core).poolCause = (s.core w.core).poolCause ||| BitVec.ofNat 3 (causeBits e) ∧ allKeep s t := by
  refine ⟨({ s with mem := { s.mem with inflight := s.mem.inflight.filter fun x => x.id != w.id } } : State).modCore w.core fun k => k.poolFailure (causeBits e), ?_, rfl, ?_, ?_, ?_⟩
  · cases e with
    | ok d => exact absurd rfl (hne d)
    | dead | refused | poison => simp only [exec_poolWritePerform, execPoolWritePerform, hw, he]
  · exact congrArg Core.poolFail (State.modCore_core_same _ _ _)
  · exact congrArg Core.poolCause (State.modCore_core_same _ _ _)
  · exact allKeep_modCore _ _ _ fun k => Core.keeps.refl _

/-- A remote write lands or fails as its port answers (R111, R122). -/
theorem State.poolWritePerform_spec {s : State} {w : PoolWrite} {r : RemoteResult} (hw : s.mem.inflight.find? (fun x => x.id == w.id) = some w) :
    let rest := s.mem.inflight.filter fun x => x.id != w.id
    (portUp s w.pa → ∀ d, r = .ok d → ∃ t, exec (.poolWritePerform w.id r) s = .next t ∧ t.mem.inflight = rest ∧ wroteAt s t w.pa w.bytes ∧
      t.mem.ver.get 0 (w.pa / 128) = s.mem.ver.get 0 (w.pa / 128) + 1 ∧ (w.sync = none → allKeep s t)) ∧
    (∀ e, (portUp s w.pa ∧ r = e ∨ ¬portUp s w.pa ∧ e = .dead) → (∀ d, e ≠ .ok d) → ∃ t, exec (.poolWritePerform w.id r) s = .next t ∧
      t.mem = { s.mem with inflight := rest } ∧ (t.core w.core).poolFail = (s.core w.core).poolFail + 1 ∧
      (t.core w.core).poolCause = (s.core w.core).poolCause ||| (match e with | .ok _ => 0 | .dead => 1 | .refused => 2 | .poison => 4) ∧ allKeep s t) := by
  refine ⟨?_, fun e he hne => ?_⟩
  · rintro hup d rfl
    exact State.poolWritePerform_ok hw hup d
  · have hres : s.hub.remoteResult w.pa r = e := by
      rcases he with ⟨hup, rfl⟩ | ⟨hdown, rfl⟩
      · exact Hub.remoteResult_of_portUp hup r
      · exact Hub.remoteResult_of_not_portUp hdown r
    have h := State.poolWritePerform_fails hw e hres hne
    cases e <;> exact h

/-! ### The exposed window (R331, R333) -/

theorem exec_cxlHostRead (host pa : Nat) (want : HostWant) (s : State) : exec (.cxlHostRead host pa want) s = execCxlHostRead host pa want s := rfl
theorem exec_cxlHostWrite (host pa : Nat) (data : List Byte) (s : State) : exec (.cxlHostWrite host pa data) s = execCxlHostWrite host pa data s := rfl
theorem exec_cxlHostPoolWrite (pa : Nat) (data : List Byte) (s : State) : exec (.cxlHostPoolWrite pa data) s = execCxlHostPoolWrite pa data s := rfl

theorem inWindow_iff (s : State) (pa : Nat) : inWindow s.hub.exposed pa = true ↔ exposedAt s pa := by
  unfold inWindow exposedAt
  cases s.hub.exposed with
  | none => simp
  | some w => obtain ⟨b, n, o⟩ := w; simp

/-- Outside the window a host's access does nothing (R333; log entry 81). -/
theorem State.hostOutside {s : State} {pa : Nat} (h : ¬exposedAt s pa) (host : Nat) :
    (∀ want, exec (.cxlHostRead host pa want) s = .next s) ∧ ∀ data, exec (.cxlHostWrite host pa data) s = .next s := by
  have hw : inWindow s.hub.exposed pa = false := by rw [← Bool.not_eq_true, inWindow_iff]; exact h
  exact ⟨fun want => by simp [exec_cxlHostRead, execCxlHostRead, hw], fun data => by simp [exec_cxlHostWrite, execCxlHostWrite, hw]⟩

/-- While its page flips a host's access is held (R333). -/
theorem State.hostHeld {s : State} {pa : Nat} (h : exposedAt s pa) (hf : pa / 4096 ∈ s.mem.flipping) (host : Nat) :
    (∀ want, exec (.cxlHostRead host pa want) s = .next { s with mem := { s.mem with held := s.mem.held ++ [.read host pa want] } }) ∧
    ∀ data, data.length ≤ 64 - pa % 64 → exec (.cxlHostWrite host pa data) s = .next { s with mem := { s.mem with held := s.mem.held ++ [.write host pa data] } } := by
  have hw := (inWindow_iff s pa).mpr h
  refine ⟨fun want => ?_, fun data hd => ?_⟩
  · simp [exec_cxlHostRead, execCxlHostRead, hw, hf]
  · simp [exec_cxlHostWrite, execCxlHostWrite, hw, hf, List.take_of_length_le hd]

/-- Otherwise it is served at the home (R331). -/
theorem State.hostServed {s : State} {pa : Nat} (h : exposedAt s pa) (hf : pa / 4096 ∉ s.mem.flipping) (host : Nat) :
    (∀ want, exec (.cxlHostRead host pa want) s = .next (s.hostRead host pa want)) ∧
    ∀ data, data.length ≤ 64 - pa % 64 → exec (.cxlHostWrite host pa data) s = .next (s.hostWrite host pa data) := by
  have hw := (inWindow_iff s pa).mpr h
  refine ⟨fun want => ?_, fun data hd => ?_⟩
  · simp [exec_cxlHostRead, execCxlHostRead, hw, hf]
  · simp [exec_cxlHostWrite, execCxlHostWrite, hw, hf, List.take_of_length_le hd]

/-- A host's read of a sector that nobody holds (R331): the bytes at the home leave, and the fabric's state becomes what the read asked for where the page is under host bias. -/
theorem State.hostRead_quiet {s : State} (hf : s.mem.fabric = []) (host pa : Nat) :
    (∀ want, s.mem.bias.get false (pa / 4096) = false ∨ want = .none → s.hostRead host pa want = s.out (.hostData host (sectorOf s pa))) ∧
    (s.mem.bias.get false (pa / 4096) = true → s.hostRead host pa .exclusive =
      { s.out (.hostData host (sectorOf s pa)) with mem := { s.mem with fabric := [(pa / 64, ⟨[host], true, [], 0⟩)] } }) := by
  have hsec : (List.range 64).map (fun i => s.mem.byte (64 * (pa / 64) + i)) = sectorOf s pa := by
    unfold sectorOf; rw [Nat.mul_comm]
  refine ⟨fun want hb => ?_, fun hb => ?_⟩
  · rcases hb with hb | rfl
    · simp [State.hostRead, hf, Bank.get, hsec, hb]
    · simp [State.hostRead, hf, Bank.get, hsec]
  · simp [State.hostRead, hf, Bank.get, hsec, hb, Bank.put, Bank.erase, Bank.ins]

/-- A change of the engines alone keeps what instructions compute with. -/
theorem State.core_modEngines (s : State) (f : MEng → MEng) (d : Nat) : (s.core d).keeps ((s.modEngines f).core d) := by
  unfold State.core State.modEngines
  induction s.cores with
  | nil => exact Core.keeps.refl _
  | cons x t ih =>
    obtain ⟨i, k⟩ := x
    by_cases h : i = d
    · simp only [List.map_cons, Bank.get, h, if_true]; exact Core.keeps.refl k
    · simpa only [List.map_cons, Bank.get, h, if_false] using ih

/-- A host's write to a sector that nobody holds, of a line that no core owns: a Write-back at the home, then the acknowledgement (R331). -/
theorem State.hostWrite_quiet {s : State} {pa : Nat} (ho : s.mem.owner.get none (pa / 128) = none) (hf : s.mem.fabric = []) (host : Nat) (data : List Byte) :
    wroteAt s (s.hostWrite host pa data) pa data ∧ (s.hostWrite host pa data).mem.ver.get 0 (pa / 128) = s.mem.ver.get 0 (pa / 128) + 1 ∧
    evictsThen s (s.hostWrite host pa data) (.hostAck host) ∧ allKeep s (s.hostWrite host pa data) := by
  obtain ⟨u, hu, hmem, hout, hkeep⟩ : ∃ u : State, s.hostWrite host pa data = (u.mergeDirect none pa data none false 3).out (.hostAck host) ∧ u.mem = s.mem ∧
      u.outbox = s.outbox ∧ allKeep s u := by
    by_cases hb : s.mem.bias.get false (pa / 4096) = true
    · refine ⟨s, ?_, rfl, rfl, allKeep_refl s⟩
      simp [State.hostWrite, hb, hf, Bank.get, State.snoopBlock, State.snoopRaw]
    · refine ⟨s.modEngines fun e => e.invalidate fun i => i.holds (2 * (pa / 64 / 2)) || i.holds (2 * (pa / 64 / 2) + 1), ?_, rfl, rfl, s.core_modEngines _⟩
      simp only [State.hostWrite, hb, if_false, Bool.false_eq_true]
  rw [← hmem] at ho hf
  obtain ⟨hw, hv⟩ := State.mergeDirect_quiet data none false 3 ho hf
  rw [hu]
  refine ⟨fun a => ?_, by rw [State.out_mem, hv, hmem], ?_, allKeep_trans hkeep (allKeep_of_cores hw.cores)⟩
  · have := hw.wroteAt a
    rw [State.out_mem, this, hmem]
  · obtain ⟨l, hl, hl'⟩ := hw.evictsThen (.hostAck host)
    exact ⟨l, by rw [hl, hout], hl'⟩

/-- A host's write to pool memory (R111, R292): its bytes stand, and the home keeps no copy of the line. -/
theorem State.hostPoolWrite (s : State) {pa : Nat} (hlo : 0x100000000000000 ≤ pa) (hhi : pa < 0x200000000000000) (data : List Byte) (hd : data.length ≤ 64 - pa % 64) :
    ∃ t, exec (.cxlHostPoolWrite pa data) s = .next t ∧ wroteAt s t pa data ∧ t.cores = s.cores ∧ (t.mem.l2.get {} (pa / 128)).here = false ∧
      ∀ x ∈ t.hub.budgetUsed, x.2 / 2 ≠ pa / 128 := by
  have hr : isRemote pa = true := by simp only [isRemote, Bool.and_eq_true, decide_eq_true_eq]; exact ⟨hlo, hhi⟩
  refine ⟨({ s with mem := (s.mem.writeCells (cellsFrom pa data)).l2Drop s.cycle (pa / 128) } : State).modHub fun h =>
    { h with budgetUsed := h.budgetUsed.filter fun (x : Nat × Nat) => x.2 / 2 != pa / 128 }, ?_, fun a => ?_, rfl, ?_, fun x hx => ?_⟩
  · simp only [exec_cxlHostPoolWrite, execCxlHostPoolWrite, hr, List.take_of_length_le hd, range_zip_map]; rfl
  · rw [State.modHub_mem, Mem.byte_of_bytes (Mem.bytes_l2Drop _ _ _), lastOf_cellsFrom]
    cases data[a - pa]? <;> rfl
  · rw [State.modHub_mem]
    simp [Mem.l2Drop]
  · simpa using (List.mem_filter.mp hx).2

/-! ### A port's budget (R330) -/

theorem exec_cxlBudgetChange (port budget : Nat) (s : State) : exec (.cxlBudgetChange port budget) s = execCxlBudgetChange port budget s := rfl

/-- What giving up remote sectors changes: the sectors held, the L2's bookkeeping, and what leaves. -/
structure State.givesUp (s t : State) : Prop where
  mem : s.mem.onlyL2 t.mem
  cores : t.cores = s.cores
  hub : t.hub = { s.hub with budgetUsed := t.hub.budgetUsed }
  out : ∃ l, t.outbox = s.outbox ++ l

theorem State.givesUp.trans {s t u : State} (h : s.givesUp t) (h' : t.givesUp u) : s.givesUp u := by
  obtain ⟨l, hl⟩ := h.out
  obtain ⟨k, hk⟩ := h'.out
  exact ⟨h.mem.trans h'.mem, h'.cores.trans h.cores, by rw [h'.hub, h.hub], l ++ k, by rw [hk, hl, List.append_assoc]⟩

theorem State.givesUp_dropSector (s : State) (blk : Nat) : s.givesUp (s.dropSector blk) := by
  unfold State.dropSector
  dsimp only
  split
  · exact ⟨rfl, rfl, rfl, [], by simp⟩
  · exact ⟨Mem.onlyL2_l2Drop _ _ _, rfl, rfl, [], by simp⟩
theorem State.budgetUsed_dropSector (s : State) (blk : Nat) : (s.dropSector blk).hub.budgetUsed = s.hub.budgetUsed.filter fun x => x.2 != blk := by
  unfold State.dropSector
  dsimp only
  split <;> rfl

/-- A port's sectors above `n` go, one by one (R330); with fuel for all of them no more than `n` are left. -/
theorem State.evictPort_spec (port n : Nat) : ∀ (fuel : Nat) (s : State), s.givesUp (s.evictPort port n fuel) ∧
    (s.hub.budgetUsed.length < fuel → ((s.evictPort port n fuel).hub.budgetUsed.filter fun x => x.1 == port).length ≤ n)
  | 0, s => ⟨⟨rfl, rfl, rfl, [], by simp [State.evictPort]⟩, fun h => absurd h (Nat.not_lt_zero _)⟩
  | fuel + 1, s => by
    unfold State.evictPort
    split
    · next x t hx =>
      split
      · next ht => exact ⟨⟨rfl, rfl, rfl, [], by simp⟩, fun _ => by rw [hx]; exact ht⟩
      · obtain ⟨h1, h2⟩ := State.evictPort_spec port n fuel ((s.dropSector x.2).out (.cacheEvict port (64 * x.2)))
        have hd : s.givesUp ((s.dropSector x.2).out (.cacheEvict port (64 * x.2))) :=
          (s.givesUp_dropSector x.2).trans ⟨rfl, rfl, rfl, [_], rfl⟩
        refine ⟨hd.trans h1, fun hl => h2 ?_⟩
        have hmem : x ∈ s.hub.budgetUsed := (List.mem_filter.mp (by rw [hx]; simp : x ∈ s.hub.budgetUsed.filter fun x => x.1 == port)).1
        have hlt : (s.hub.budgetUsed.filter fun y => y.2 != x.2).length < s.hub.budgetUsed.length :=
          List.length_filter_lt_length_iff_exists.mpr ⟨x, hmem, by simp⟩
        rw [State.out_hub, State.budgetUsed_dropSector]
        omega
    · next hx => exact ⟨⟨rfl, rfl, rfl, [], by simp⟩, fun _ => by rw [hx]; exact Nat.zero_le n⟩

theorem State.budgetChange (s : State) (port budget : Nat) : ∃ t, exec (.cxlBudgetChange port budget) s = .next t ∧ t.hub.budgets = s.hub.budgets.put 0 port budget ∧
    (t.hub.budgetUsed.filter fun x => x.1 == port).length ≤ budget ∧ (∃ l, t.outbox = s.outbox ++ l ++ [.budgetAck port budget]) ∧ s.sameBytes t ∧ t.cores = s.cores := by
  obtain ⟨h, hfew⟩ := State.evictPort_spec port budget (s.hub.budgetUsed.length + 1) s
  obtain ⟨l, hl⟩ := h.out
  refine ⟨_, exec_cxlBudgetChange port budget s, ?_, hfew (Nat.lt_succ_self _), ⟨l, ?_⟩, fun a => ?_, h.cores⟩
  · rw [State.out_hub, State.modHub_hub, h.hub]
  · rw [State.out_outbox, State.modHub_outbox, hl]
  · exact congrArg (fun b => Bank.get unwritten b a) h.mem.eqs.1

/-! ### Ultra Ethernet (R334, R335, R371) -/

theorem exec_rmaWrite (qp pa : Nat) (data : List Byte) (s : State) : exec (.rmaWrite qp pa data) s = execRmaWrite qp pa data s := rfl
theorem exec_rmaRead (qp pa n : Nat) (s : State) : exec (.rmaRead qp pa n) s = execRmaRead qp pa n s := rfl
theorem exec_send (p q : Nat) (toQueue : Bool) (s : State) : exec (.send p q toQueue) s = execSend p q toQueue s := rfl

end Sys2Proof.Machine

namespace Sys2Proof.Machine
open Sys2Proof.Claims

/-! ### Bytes of a number -/

/-- Byte `i` of the number that a list of bytes holds (R1). -/
theorem leVal_div_mod (l : List Byte) : ∀ i, leVal l / 256 ^ i % 256 = (l.getD i 0).toNat := by
  induction l with
  | nil => intro i; simp [leVal]
  | cons b t ih =>
    intro i
    have hb := b.isLt
    cases i with
    | zero => simp only [leVal, pow_zero, Nat.div_one, List.getD_cons_zero]; omega
    | succ i =>
      rw [leVal, pow_succ', ← Nat.div_div_eq_div_mul, List.getD_cons_succ, ← ih i, show (b.toNat + 256 * leVal t) / 256 = leVal t by omega]

/-- Byte `i` cut from a word of `w` bits. -/
theorem extract_ofNat (w n : Nat) {i : Nat} (hi : 8 * i + 8 ≤ w) : (BitVec.ofNat w n).extractLsb' (8 * i) 8 = BitVec.ofNat 8 (n / 256 ^ i) := by
  apply BitVec.eq_of_toNat_eq
  rw [BitVec.extractLsb'_toNat, BitVec.toNat_ofNat, BitVec.toNat_ofNat, Nat.shiftRight_eq_div_pow, pow_mul]
  obtain ⟨k, rfl⟩ : ∃ k, w = 8 * i + 8 + k := ⟨w - (8 * i + 8), by omega⟩
  rw [pow_add, pow_add, pow_mul, mul_assoc, Nat.mod_mul_right_div_self]
  exact Nat.mod_mul_right_mod _ _ _

/-- Byte `i` cut from the word that bytes make. -/
theorem extract_leVal (w : Nat) (l : List Byte) {i : Nat} (hi : 8 * i + 8 ≤ w) :
    (BitVec.ofNat w (leVal l)).extractLsb' (8 * i) 8 = l.getD i 0 := by
  rw [extract_ofNat w _ hi]
  apply BitVec.eq_of_toNat_eq
  rw [BitVec.toNat_ofNat, ← leVal_div_mod l i]

theorem Bank.getD_getList {α : Type} (d : α) (b : Bank α) : ∀ (n k i : Nat), i < n → (Bank.getList d b k n).getD i d = b.get d (k + i)
  | 0, _, _, h => absurd h (Nat.not_lt_zero _)
  | n + 1, k, 0, _ => rfl
  | n + 1, k, i + 1, h => by
    rw [Bank.getList, List.getD_cons_succ, Bank.getD_getList d b n (k + 1) i (by omega)]
    congr 1; omega

theorem Mem.block_byte (m : Mem) (blk : Nat) {i : Nat} (hi : i < 64) : (m.block blk).extractLsb' (8 * i) 8 = m.byte (64 * blk + i) := by
  rw [Mem.block, extract_leVal 512 _ (by omega)]
  exact Bank.getD_getList unwritten m.bytes 64 (64 * blk) i hi

/-- With no line owned the authoritative copy is the home's (R100). -/
theorem State.authByte_of_noOwner {s : State} (ho : s.mem.owner = []) (a : Nat) :
    (s.authBlock (a / 64)).data.extractLsb' (8 * (a % 64)) 8 = s.mem.byte a := by
  have h : s.authBlock (a / 64) = ⟨s.mem.block (a / 64), s.mem.descOf (a / 64), s.mem.poisoned (a / 64)⟩ := by
    simp [State.authBlock, ho, Bank.get]
  rw [h, Mem.block_byte _ _ (Nat.mod_lt _ (by omega)), Nat.div_add_mod]

/-! ### RMA accesses and sends (R334, R335) -/

theorem Hub.qpUp_iff (h : Hub) (qp : Nat) : h.qpUp qp = true ↔ h.boot.links.get .down (18 + qp % 8) ≠ .down := by
  simp [Hub.qpUp, Hub.linkUp, ueLink]

theorem State.rma_down {s : State} {qp : Nat} (h : s.hub.boot.links.get .down (18 + qp % 8) = .down) (pa n : Nat) (data : List Byte) :
    exec (.rmaWrite qp pa data) s = .next s ∧ exec (.rmaRead qp pa n) s = .next s := by
  have hq : s.hub.qpUp qp = false := by rw [← Bool.not_eq_true, Hub.qpUp_iff]; exact not_not_intro h
  exact ⟨by simp [exec_rmaWrite, execRmaWrite, hq], by simp [exec_rmaRead, execRmaRead, hq]⟩

section
variable {s : State} {qp p : Nat} {x : Part} (hp : s.hub.partOfQp qp = some (p, x)) (hup : s.hub.boot.links.get .down (18 + qp % 8) ≠ .down)
include hp hup

theorem State.rmaWrite_refused {pa : Nat} {data : List Byte} (h : data = [] ∨ s.hub.ownsFrames p pa data.length = false ∨ x.st = .capturing ∨ x.st = .resetting) :
    sends (.rmaWrite qp pa data) s (.rmaError qp) := by
  have hc : (data.isEmpty || !s.hub.ownsFrames p pa data.length || x.st == .capturing || x.st == .resetting || x.queueRefuses qp pa data.length) = true := by
    rcases h with h | h | h | h <;> simp [h]
  unfold sends
  simp only [exec_rmaWrite, execRmaWrite, (Hub.qpUp_iff _ _).mpr hup, hp, hc, if_true, Bool.not_true, if_false, Bool.false_eq_true]
  rfl

/-- A write that the partition's frames take, where it has no queues: a Write-back at the home, and its acknowledgement (R334, R335). -/
theorem State.rmaWrite_done {pa : Nat} {data : List Byte} (hne : data ≠ []) (hown : s.hub.ownsFrames p pa data.length = true) (hst : x.st = .running)
    (hqs : x.queues = []) (hd : data.length ≤ 64 - pa % 64) (ho : s.mem.owner.get none (pa / 128) = none) (hf : s.mem.fabric = []) :
    ∃ t, exec (.rmaWrite qp pa data) s = .next t ∧ wroteAt s t pa data ∧ evictsThen s t (.rmaDone qp) ∧ t.cores = s.cores := by
  have hc : (data.isEmpty || !s.hub.ownsFrames p pa data.length || x.st == .capturing || x.st == .resetting || x.queueRefuses qp pa data.length) = false := by
    simp [hne, hown, hst, Part.queueRefuses, hqs]
  have hrun := State.mergeRun_one s (some defaultDesc) hne hd
  have hw := (State.mergeDirect_quiet data (if data.length = 64 then some defaultDesc else none) false 3 ho hf).1
  rw [← hrun] at hw
  refine ⟨((s.mergeRun (some defaultDesc) pa data (data.length + 1)).modHub fun h => h.note (idleRec p) 12 data.length).out (.rmaDone qp), ?_, hw.wroteAt,
    hw.evictsThen (.rmaDone qp), hw.cores⟩
  simp only [exec_rmaWrite, execRmaWrite, (Hub.qpUp_iff _ _).mpr hup, hp, hc, if_false, Bool.not_true, Bool.false_eq_true]

theorem State.rmaRead_refused {pa n : Nat} (h : n = 0 ∨ s.hub.ownsFrames p pa n = false) : sends (.rmaRead qp pa n) s (.rmaError qp) := by
  have hc : (decide (n = 0) || !s.hub.ownsFrames p pa n) = true := by
    rcases h with h | h <;> simp [h]
  unfold sends
  simp only [exec_rmaRead, execRmaRead, (Hub.qpUp_iff _ _).mpr hup, hp, hc, if_true, Bool.not_true, if_false, Bool.false_eq_true]
  rfl

theorem State.rmaRead_done {pa n : Nat} (hn : n ≠ 0) (hown : s.hub.ownsFrames p pa n = true) (ho : s.mem.owner = []) :
    ∃ t, exec (.rmaRead qp pa n) s = .next t ∧ t.mem = s.mem ∧ t.cores = s.cores ∧
      t.outbox = s.outbox ++ [.rmaData qp ((List.range n).map fun i => s.mem.byte (pa + i))] := by
  have hc : (decide (n = 0) || !s.hub.ownsFrames p pa n) = false := by simp [hn, hown]
  refine ⟨(s.modHub fun h => h.note (idleRec p) 11 n).out (.rmaData qp ((List.range n).map fun i => s.mem.byte (pa + i))), ?_, rfl, rfl, rfl⟩
  simp only [exec_rmaRead, execRmaRead, (Hub.qpUp_iff _ _).mpr hup, hp, hc, if_false, Bool.not_true, Bool.false_eq_true, State.authByte_of_noOwner ho]

end

/-- A send feeds a collective, and one that aims at a queue is refused (R334). -/
theorem State.send_spec {s : State} {p : Nat} {x : Part} (hp : s.hub.parts.get none p = some x) (q : Nat) :
    exec (.send p q false) s = .next s ∧ ∀ y, x.queues[q]? = some y → sends (.send p q true) s (.rmaError (x.cfg.qpFirst + y.cfg.ep)) := by
  refine ⟨by simp [exec_send, execSend], fun y hy => ?_⟩
  simp [sends, exec_send, execSend, Hub.part?, hp, hy, State.out]

/-- Settles O41, clause by clause: a remote write lands or fails as its port answers, a host's access to the exposed window is dropped, held or served, and the ports and queue pairs answer as their rules say. -/
theorem outsideAccesses : Obligations.OutsideAccesses := by
  refine ⟨fun s w r hw => State.poolWritePerform_spec hw, fun s host pa => ⟨fun h => State.hostOutside h host, fun h hf => State.hostHeld h hf host, fun h hf hq => ?_,
    fun hlo hhi data hd => s.hostPoolWrite hlo hhi data hd⟩, State.budgetChange, fun s port p q => rfl, fun s qp pa data n p x hp => ⟨fun hdown => State.rma_down hdown pa n data,
    fun hup => ⟨State.rmaWrite_refused hp hup, State.rmaWrite_done hp hup, State.rmaRead_refused hp hup, State.rmaRead_done hp hup⟩⟩, fun s p q x hp => State.send_spec hp q⟩
  obtain ⟨hread, hwrite⟩ := State.hostServed h hf host
  obtain ⟨hplain, hexcl⟩ := State.hostRead_quiet hq host pa
  refine ⟨fun want hb => (hread want).trans (congrArg _ (hplain want hb)), fun hb => ⟨_, hread .exclusive, ?_⟩, fun data hd ho => ⟨_, hwrite data hd, State.hostWrite_quiet ho hq host data⟩⟩
  rw [hexcl hb]
  exact ⟨rfl, rfl, rfl, rfl⟩

end Sys2Proof.Machine

/-! Where an uncorrectable error retires a way of a cache (R374, R375). -/
namespace Sys2Proof.Machine
open Sys2Proof.Claims

/-- Slice 0 with its 16 ways out of use and no spare left for any, while its L2 still holds line 0 (R179, R375). -/
def overfullSlice : State :=
  let gone := (List.range 16).map (ErrLoc.sramColumn .l2Slice 0)
  { mem := { l2 := [(0, { here := true })] }, hub := { retired := gone, noSpare := gone } }

/-- An uncorrectable error in one more column of that slice evicts the line at once (R375), whether a spare is left for it or not. -/
theorem uncorrectableError_evicts :
    ∃ t, exec (.uncorrectableError (.sramColumn .l2Slice 0 16) [0]) overfullSlice = .next t ∧ t.mem.l2 = [] := by
  refine ⟨_, rfl, ?_⟩
  cases hspare : Config.spareLeft (locNums (.sramColumn .l2Slice 0 16))
  · simp only [State.retireLoc, hspare]; decide +kernel
  · simp only [State.retireLoc, hspare]; decide +kernel

/-- Refutes O52: its last clause lets an uncorrectable error change nothing of memory but the poison of the block that it names, and the retirement that follows (R375) evicts the lines that stand above the ways left: the line of `overfullSlice`, which the clause keeps in the L2, is gone. -/
theorem not_bootAndPower : ¬ Obligations.BootAndPower := by
  intro h
  obtain ⟨-, -, -, -, -, -, -, -, -, -, -, herr⟩ := h overfullSlice
  obtain ⟨t, ht, hheld, -, -⟩ := (herr (.sramColumn .l2Slice 0 16)).2 0 rfl
  have hkept : t.mem.l2 = overfullSlice.mem.l2 := by rw [hheld (by decide)]
  obtain ⟨u, hu, hgone⟩ := uncorrectableError_evicts
  obtain rfl : t = u := Host.Outcome.next.inj (ht.symm.trans hu)
  exact absurd (hkept.symm.trans hgone) (by decide)

end Sys2Proof.Machine

/-! Partition management and the control ring (R358, R360, R361). -/
namespace Sys2Proof.Machine
open Sys2Proof.Claims

/-! ### Banks mapped, filtered and painted -/

theorem Bank.get_map {α β : Type} (d : α) (e : β) (g : α → β) (hg : g d = e) (b : Bank α) (k : Nat) :
    Bank.get e (b.map fun x => (x.1, g x.2)) k = g (b.get d k) := by
  induction b with
  | nil => exact hg.symm
  | cons x t ih =>
    obtain ⟨i, v⟩ := x
    by_cases h : i = k <;> simp [Bank.get, h, ih]

theorem Bank.get_filter_ne {α : Type} [BEq α] [LawfulBEq α] (d v : α) (hv : v ≠ d) (b : Bank α) (k : Nat) :
    Bank.get d (b.filter fun x => x.2 != v) k ≠ v ∧ (b.get d k ≠ v → Bank.get d (b.filter fun x => x.2 != v) k = b.get d k) := by
  induction b with
  | nil => exact ⟨fun h => hv h.symm, fun _ => rfl⟩
  | cons x t ih =>
    obtain ⟨i, w⟩ := x
    by_cases hw : w = v
    · rw [List.filter_cons_of_neg (by simp [hw])]
      refine ⟨ih.1, fun h => ?_⟩
      have hi : i ≠ k := fun e => h (by simp [Bank.get, e, hw])
      simp only [Bank.get, hi, if_false] at h ⊢
      exact ih.2 h
    · rw [List.filter_cons_of_pos (by simp [hw])]
      by_cases hi : i = k
      · simp only [Bank.get, hi, if_true]
        exact ⟨hw, fun _ => trivial⟩
      · simp only [Bank.get, hi, if_false]
        exact ih

/-- A fold whose hits set a value and whose other steps keep it. -/
theorem foldl_paints {β ι γ : Type} (f : β → ι → β) (val : β → γ) (v : γ) (hit : ι → Prop) (hhit : ∀ b x, hit x → val (f b x) = v)
    (hmiss : ∀ b x, ¬hit x → val (f b x) = val b) (l : List ι) : ∀ b, ((∃ x ∈ l, hit x) → val (l.foldl f b) = v) ∧ ((¬∃ x ∈ l, hit x) → val (l.foldl f b) = val b) := by
  induction l with
  | nil => exact fun b => ⟨by simp, fun _ => rfl⟩
  | cons x t ih =>
    intro b
    obtain ⟨h1, h2⟩ := ih (f b x)
    rw [List.foldl_cons]
    by_cases ht : ∃ y ∈ t, hit y
    · exact ⟨fun _ => h1 ht, fun h => absurd (by obtain ⟨y, hy, hh⟩ := ht; exact ⟨y, by simp [hy], hh⟩) h⟩
    · by_cases hx : hit x
      · exact ⟨fun _ => (h2 ht).trans (hhit b x hx), fun h => absurd ⟨x, by simp, hx⟩ h⟩
      · refine ⟨fun ⟨y, hy, hh⟩ => ?_, fun _ => (h2 ht).trans (hmiss b x hx)⟩
        rcases List.mem_cons.mp hy with rfl | hy
        · exact absurd hh hx
        · exact absurd ⟨y, hy, hh⟩ ht

/-! ### Partitions and contexts -/

theorem State.modPart_of_some {s : State} {p : Nat} {x : Part} (h : s.hub.parts.get none p = some x) (f : Part → Part) :
    s.modPart p f = s.modHub fun h => h.setPart p (f x) := by
  simp [State.modPart, Hub.part?, h]
theorem Hub.get_setPart (h : Hub) (p : Nat) (x : Part) : (h.setPart p x).parts.get none p = some x := Bank.get_put_same none h.parts p (some x)
/-- A context's record replaced. -/
def Hub.setCtx (h : Hub) (c : Nat) (y : Ctx) : Hub := { h with ctxs := h.ctxs.put none c (some y) }
theorem Hub.get_setCtx (h : Hub) (c : Nat) (y : Ctx) : (h.setCtx c y).ctxs.get none c = some y := Bank.get_put_same none h.ctxs c (some y)
theorem Hub.get_setCtx_ne (h : Hub) {c d : Nat} (y : Ctx) (hd : d ≠ c) : (h.setCtx c y).ctxs.get none d = h.ctxs.get none d := Bank.get_put_ne none h.ctxs (some y) hd
theorem Hub.modCtx_of_some {h : Hub} {c : Nat} {y : Ctx} (hc : h.ctxs.get none c = some y) (f : Ctx → Ctx) : h.modCtx c f = h.setCtx c (f y) := by
  simp [Hub.modCtx, Hub.ctx?, hc, Hub.setCtx]

/-! ### Creation (R11, R358, R359) -/

theorem exec_partitionCreate (p : Nat) (r : PartRec) (s : State) : exec (.partitionCreate p r) s = execPartitionCreate p r s := rfl

theorem partitionCreate_refused {s : State} {p : Nat} {r : PartRec} (hok : s.hub.recordOk p r = false) (hre : s.hub.reringOk p r = false) :
    sends (.partitionCreate p r) s (.mctl 4 [p, 0, 0]) := by
  simp only [sends, exec_partitionCreate, execPartitionCreate, hre, hok, if_false, Bool.false_eq_true]
  rfl

/-- Entry `e` of a ring's mask is set and stands at place `k` of the slot table. -/
def slotNamed (k : Nat) (x : BitVec 64 × Nat) (e : Nat) : Prop := x.1.getLsbD e = true ∧ 64 * x.2 + e = k

/-- One ring's mask written: the entries that it names are the partition's, the others stay. -/
theorem writeMask_get (p k : Nat) (x : BitVec 64 × Nat) (b : Bank (Option Nat)) :
    let b' := (List.range 64).foldl (fun b e => if x.1.getLsbD e then Bank.put none b (64 * x.2 + e) (some p) else b) b
    ((∃ e ∈ List.range 64, slotNamed k x e) → b'.get none k = some p) ∧ ((¬∃ e ∈ List.range 64, slotNamed k x e) → b'.get none k = b.get none k) := by
  refine foldl_paints _ (fun b => b.get none k) (some p) (slotNamed k x) ?_ ?_ _ b
  · rintro b e ⟨hb, rfl⟩
    simp only [hb, if_true, Bank.get_put_same]
  · intro b e hn
    by_cases hb : x.1.getLsbD e = true
    · simp only [hb, if_true]
      exact Bank.get_put_ne none b (some p) fun hk => hn ⟨hb, hk.symm⟩
    · simp only [hb, if_false, Bool.false_eq_true]

/-- The place of entry `e` of ring `i` is named by that ring's mask alone. -/
theorem exists_slotNamed_iff {ring : List (BitVec 64)} (hlen : ring.length = 8) {i e : Nat} (hi : i < 8) (he : e < 64) :
    (∃ x ∈ ring.zip (List.range 8), ∃ e' ∈ List.range 64, slotNamed (64 * i + e) x e') ↔ (ring.getD i 0).getLsbD e = true := by
  have hget : ring.getD i 0 = ring[i] := by simp [hlen, hi]
  rw [hget]
  constructor
  · rintro ⟨x, hx, e', he', hb, hk⟩
    obtain ⟨j, hj, rfl⟩ := List.mem_iff_getElem.mp hx
    have hk' : 64 * j + e' = 64 * i + e := by simpa using hk
    have := List.mem_range.mp he'
    obtain ⟨rfl, rfl⟩ : j = i ∧ e' = e := by omega
    simpa using hb
  · intro hb
    exact ⟨(ring[i], i), List.mem_iff_getElem.mpr ⟨i, by simp [hlen, hi], by simp⟩, e, List.mem_range.mpr he, hb, rfl⟩

/-- A slot-table entry is the partition's where its mask says so, and else what it was, but no longer the partition's (R11). -/
theorem Hub.get_writeRing (h : Hub) (p : Nat) {ring : List (BitVec 64)} (hlen : ring.length = 8) {i e : Nat} (hi : i < 8) (he : e < 64) :
    let new := (h.writeRing p ring).get none (64 * i + e)
    let old := h.ring.get none (64 * i + e)
    ((ring.getD i 0).getLsbD e = true → new = some p) ∧ ((ring.getD i 0).getLsbD e = false → new ≠ some p ∧ (old ≠ some p → new = old)) := by
  intro new old
  obtain ⟨hnamed, hother⟩ : ((ring.getD i 0).getLsbD e = true → new = some p) ∧
      (¬(ring.getD i 0).getLsbD e = true → new = Bank.get none (h.ring.filter fun x => x.2 != some p) (64 * i + e)) := by
    rw [← exists_slotNamed_iff hlen hi he]
    exact foldl_paints _ (fun b => Bank.get none b (64 * i + e)) (some p) (fun x => ∃ e' ∈ List.range 64, slotNamed (64 * i + e) x e')
      (fun b x => (writeMask_get p _ x b).1) (fun b x => (writeMask_get p _ x b).2) _ _
  refine ⟨hnamed, fun hb => ?_⟩
  rw [hother (by rw [hb]; exact Bool.false_ne_true)]
  exact Bank.get_filter_ne none (some p) (by simp) h.ring (64 * i + e)

theorem partitionCreate_rerings {s : State} {p : Nat} {r : PartRec} (hre : s.hub.reringOk p r = true) (hlen : r.ring.length = 8) :
    ∃ t x y, exec (.partitionCreate p r) s = .next t ∧ t.outbox = s.outbox ++ [.mctl 10 [p]] ∧ t.mem = s.mem ∧ t.cores = s.cores ∧
      s.hub.parts.get none p = some x ∧ t.hub.parts.get none p = some y ∧ y = { x with cfg := r } ∧ ∀ i < 8, ∀ e < 64,
        let bit := (r.ring.getD i 0).getLsbD e
        let old := s.hub.ring.get none (64 * i + e)
        let new := t.hub.ring.get none (64 * i + e)
        (bit = true → new = some p) ∧ (bit = false → new ≠ some p ∧ (old ≠ some p → new = old)) := by
  obtain ⟨x, hx⟩ : ∃ x, s.hub.parts.get none p = some x := by
    unfold Hub.reringOk at hre
    split at hre
    · next x hx => exact ⟨x, hx⟩
    · cases hre
  refine ⟨(({ s with hub := { s.hub with ring := s.hub.writeRing p r.ring } } : State).modHub fun h => h.setPart p { x with cfg := r }).out (.mctl 10 [p]), x, { x with cfg := r }, ?_,
    rfl, rfl, rfl, hx, Hub.get_setPart _ p _, rfl, fun i hi e he => s.hub.get_writeRing p hlen hi he⟩
  rw [exec_partitionCreate, execPartitionCreate, if_pos hre, State.modPart_of_some (s := { s with hub := { s.hub with ring := s.hub.writeRing p r.ring } }) hx]

/-- The frames that a list names pass to the partition. -/
theorem get_ownFrames (p : Nat) {f : Nat} {l : List Nat} (h : f ∈ l) (b : Bank Nat) : (l.foldl (fun b f => Bank.put 0 b f (p + 1)) b).get 0 f = p + 1 :=
  (foldl_paints (fun b f => Bank.put 0 b f (p + 1)) (fun b => b.get 0 f) (p + 1) (fun g => g = f) (fun b g hg => by rw [hg]; exact Bank.get_put_same 0 b f _)
    (fun b g hg => Bank.get_put_ne 0 b _ (Ne.symm hg)) l b).1 ⟨f, h, rfl⟩

/-- A record within the limits asks for at least one capture frame, and its frames have room for them beside those that it names (R358). -/
theorem Hub.recordOk_capbuf {h : Hub} {p : Nat} {r : PartRec} (hok : h.recordOk p r = true) :
    1 ≤ r.capbuf ∧ r.capbuf ≤ ((h.framesFor r).filter fun f => !(recordNamed r).contains f).length := by
  simp only [Hub.recordOk, Bool.and_eq_true, decide_eq_true_eq] at hok
  tauto

/-- The head of an empty capture ring is written at the start of its first frame (R373). -/
theorem State.capHead_writesHome {s : State} {p f : Nat} {x : Part} {l : List Nat} (hq : s.quietHomes) (hx : s.hub.parts.get none p = some x) (hf : x.capFrames = f :: l)
    (hoff : x.capOff = 64) (hcount : x.capCount = 0) : s.writesHome (s.capHead p) (cellsFrom (65536 * f) [64, 0, 0, 0, 0, 0, 0, 0]) := by
  have h := State.mergeDirect_writesHome hq (x.capAddr 0) (leList 4 x.capOff ++ leList 4 x.capCount) none false 3
  have hbytes : leList 4 64 ++ leList 4 0 = ([64, 0, 0, 0, 0, 0, 0, 0] : List Byte) := by decide
  have haddr : x.capAddr 0 = 65536 * f := by simp [Part.capAddr, hf, Nat.mul_comm]
  rw [hoff, hcount, hbytes, haddr] at h
  simp only [State.capHead, Hub.part?, hx, hf, hoff, hcount, hbytes, haddr, List.isEmpty_cons, Bool.false_eq_true, if_false]
  exact h

/-- A record within the limits: the partition, its supervisor context and its frames are entered, then the head of its capture ring is written (R358, R359). -/
theorem partitionCreate_enters {s : State} {p c : Nat} {r : PartRec} (hre : s.hub.reringOk p r = false) (hok : s.hub.recordOk p r = true) (hc : s.hub.newCtx = some c) :
    ∃ (x : Part) (u : State) (wf : List Nat), exec (.partitionCreate p r) s = .next ((u.capHead p).out (.mctl 4 [p, c, 1])) ∧
      u.mem = s.mem ∧ u.cores = s.cores ∧ u.outbox = s.outbox ∧ u.hub.parts = s.hub.parts.put none p (some x) ∧
      u.hub.ctxs = s.hub.ctxs.put none c (some { part := p, sup := true, root := r.supRoot, save := r.supSave, slots := r.supSlots }) ∧
      u.hub.frameOwner = (s.hub.framesFor r ++ wf).foldl (fun b f => Bank.put 0 b f (p + 1)) s.hub.frameOwner ∧
      x.cfg = r ∧ x.st = .halted ∧ x.capFrames = ((s.hub.framesFor r).filter fun f => !(recordNamed r).contains f).take r.capbuf ∧ x.capOff = 64 ∧ x.capCount = 0 := by
  have hexec := exec_partitionCreate p r s
  simp only [execPartitionCreate, hre, hok, hc, if_false, Bool.false_eq_true] at hexec
  exact ⟨_, _, _, hexec, rfl, rfl, rfl, rfl, rfl, rfl, rfl, rfl, rfl, rfl, rfl⟩

theorem partitionCreate_makes {s : State} {p c : Nat} {r : PartRec} (hre : s.hub.reringOk p r = false) (hok : s.hub.recordOk p r = true) (hc : s.hub.newCtx = some c)
    (hq : s.quietHomes) : ∃ t x y, exec (.partitionCreate p r) s = .next t ∧ evictsThen s t (.mctl 4 [p, c, 1]) ∧ t.cores = s.cores ∧
      (∃ f l, x.capFrames = f :: l ∧ wroteAt s t (65536 * f) [64, 0, 0, 0, 0, 0, 0, 0]) ∧
      t.hub.parts.get none p = some x ∧ x.cfg = r ∧ x.st = .halted ∧ x.capFrames.length = r.capbuf ∧ (∀ f ∈ s.hub.framesFor r, t.hub.frameOwner.get 0 f = p + 1) ∧
      t.hub.ctxs.get none c = some y ∧ y.part = p ∧ y.sup = true ∧ y.root = r.supRoot := by
  obtain ⟨hpos, hroom⟩ := Hub.recordOk_capbuf hok
  obtain ⟨x, u, wf, hexec, hmem, hcores, hout, hparts, hctxs, howner, hcfg, hst, hcap, hoff, hcount⟩ := partitionCreate_enters hre hok hc
  have hlen : x.capFrames.length = r.capbuf := by rw [hcap, List.length_take, min_eq_left hroom]
  obtain ⟨f, l, hf⟩ := List.exists_cons_of_length_pos (by omega : 0 < x.capFrames.length)
  have hx : u.hub.parts.get none p = some x := by rw [hparts, Bank.get_put_same]
  have hw := State.capHead_writesHome (by unfold State.quietHomes; rw [hmem]; exact hq) hx hf hoff hcount
  obtain ⟨k, hk, hk'⟩ := hw.evictsThen (.mctl 4 [p, c, 1])
  refine ⟨_, x, { part := p, sup := true, root := r.supRoot, save := r.supSave, slots := r.supSlots }, hexec, ⟨k, by rw [hk, hout], hk'⟩, hw.cores.trans hcores, ⟨f, l, hf, fun a => ?_⟩, ?_, hcfg, hst, hlen, fun g hg => ?_, ?_, rfl, rfl, rfl⟩
  · have := hw.wroteAt a
    rw [State.out_mem, this, hmem]
  · rw [State.out_hub, hw.hub]; exact hx
  · rw [State.out_hub, hw.hub]
    exact (congrArg (Bank.get 0 · g) howner).trans (get_ownFrames p (List.mem_append_left wf hg) _)
  · rw [State.out_hub, hw.hub]
    exact (congrArg (Bank.get none · c) hctxs).trans (Bank.get_put_same _ _ _ _)

end Sys2Proof.Machine

/-! ### One control record (R360) -/
namespace Sys2Proof.Machine
open Sys2Proof.Claims

theorem exec_createContext (p : Nat) (s : State) : exec (.createContext p) s = execCreateContext p s := rfl
theorem exec_setRoot (p : Nat) (s : State) : exec (.setRoot p) s = execSetRoot p s := rfl
theorem exec_bindEndpoint (p : Nat) (s : State) : exec (.bindEndpoint p) s = execBindEndpoint p s := rfl
theorem exec_makeGroup (p : Nat) (s : State) : exec (.makeGroup p) s = execMakeGroup p s := rfl
theorem exec_takeFrames (p : Nat) (s : State) : exec (.takeFrames p) s = execTakeFrames p s := rfl
theorem exec_freeFrames (p : Nat) (s : State) : exec (.freeFrames p) s = execFreeFrames p s := rfl

/-- The record that stands next is of a running partition, and has its place in the ring (R360). -/
theorem State.ctlNext_some {s : State} {p a : Nat} {x : Part} {bs : List Byte} (h : s.ctlNext p = some (x, a, bs)) :
    s.hub.parts.get none p = some x ∧ a = x.cfg.ctlbase + 64 * (x.ctlDone % 64) := by
  unfold State.ctlNext at h
  split at h
  · cases h
  · next y hy =>
    split_ifs at h
    obtain ⟨rfl, rfl, -⟩ : y = x ∧ y.cfg.ctlbase + 64 * (y.ctlDone % 64) = a ∧ _ = bs := by simpa using h
    exact ⟨hy, rfl⟩

/-- From `s` to `t` a record at `a` of partition `p`, which is `y` in `s`, has been answered: the done index has risen, and but for the counts, the remote sectors held and the answer's own bytes nothing else differs; without a new identifier those bytes are the status and the done index. -/
structure State.ctlAnswered (s t : State) (p a ctlbase : Nat) (y : Part) (id : Option Nat) : Prop where
  cores : t.cores = s.cores
  hub : t.hub = { s.hub with parts := s.hub.parts.put none p (some { y with ctlDone := (y.ctlDone + 1) % 2 ^ 64 }), live := t.hub.live, budgetUsed := t.hub.budgetUsed }
  bytes : id = none → ∀ b, b ≠ a + 1 → (b < ctlbase + 4112 ∨ ctlbase + 4120 ≤ b) → t.mem.byte b = s.mem.byte b

theorem State.ctlAnswered.part {s t : State} {p a n : Nat} {y : Part} {id : Option Nat} (h : s.ctlAnswered t p a n y id) :
    t.hub.parts.get none p = some { y with ctlDone := (y.ctlDone + 1) % 2 ^ 64 } := by
  rw [h.hub]; exact Hub.get_setPart s.hub p _

@[simp] theorem length_leList : ∀ n x, (leList n x).length = n
  | 0, _ => rfl
  | n + 1, x => by rw [leList, List.length_cons, length_leList n]

/-- The cells of an answer with status `st`: the status, the identifier, the done index. -/
def answerCells (a ctlbase done st : Nat) (id : Option Nat) : List (Nat × Byte) :=
  cellsFrom (a + 1) (leList 1 st) ++ (match id with | some c => cellsFrom (a + 4) (leList 2 c) | none => []) ++ cellsFrom (ctlbase + 4096 + 16) (leList 8 (done + 1))

theorem State.ctlAnswer_spec {s : State} {p a : Nat} {x y : Part} (hq : s.quietHomes) (hp : s.hub.parts.get none p = some y) (st : Nat) (id : Option Nat)
    (ha : a + 10 ≤ x.cfg.ctlbase + 4096) :
    s.ctlAnswered (s.ctlAnswer p a x st id) p a x.cfg.ctlbase y id ∧ (s.ctlAnswer p a x st id).mem.byte (a + 1) = BitVec.ofNat 8 st := by
  obtain ⟨u, hu, hw⟩ : ∃ u : State, s.ctlAnswer p a x st id = u.modPart p (fun x => { x with ctlDone := (x.ctlDone + 1) % 2 ^ 64 }) ∧
      s.writesHome u (answerCells a x.cfg.ctlbase x.ctlDone st id) := by
    refine ⟨_, rfl, ?_⟩
    have h1 := State.mergeDirect_writesHome hq (a + 1) (leList 1 st) none false 3
    cases id with
    | none =>
      have h2 := h1.trans (State.mergeDirect_writesHome (h1.quiet hq) (x.cfg.ctlbase + 4096 + 16) (leList 8 (x.ctlDone + 1)) none false 3)
      simpa [answerCells] using h2
    | some c =>
      have h2 := h1.trans (State.mergeDirect_writesHome (h1.quiet hq) (a + 4) (leList 2 c) none false 3)
      exact h2.trans (State.mergeDirect_writesHome (h2.quiet hq) (x.cfg.ctlbase + 4096 + 16) (leList 8 (x.ctlDone + 1)) none false 3)
  have hpu : u.hub.parts.get none p = some y := by rw [hw.hub]; exact hp
  rw [hu, State.modPart_of_some hpu]
  refine ⟨⟨hw.cores, ?_, ?_⟩, ?_⟩
  · rw [State.modHub_hub, Hub.setPart, hw.hub]
  · rintro rfl b hb hd
    rw [State.modHub_mem, hw.bytes]
    refine lastOf_of_ne _ fun c hc => ?_
    simp only [answerCells, List.append_nil, List.mem_append] at hc
    rcases hc with hc | hc
    · have := mem_cellsFrom hc; rw [length_leList] at this; omega
    · have := mem_cellsFrom hc; rw [length_leList] at this; omega
  · unfold answerCells at hw
    rw [State.modHub_mem, hw.bytes, List.append_assoc, lastOf_append, lastOf_of_ne]
    · simp [leList, cellsFrom]
    · intro c hc
      rcases List.mem_append.mp hc with hc | hc
      · cases id with
        | none => cases hc
        | some i => have := mem_cellsFrom hc; omega
      · have := mem_cellsFrom hc; omega

/-- A transition that answers the record at `a` from state `s'`, which keeps the done index, does what R360 says. -/
theorem ctlDone_of_answer {i : Instr} {s s' : State} {p a st : Nat} {x y : Part} {bs : List Byte} {id : Option Nat} {more : State → Prop}
    (hn : s.ctlNext p = some (x, a, bs)) (hexec : exec i s = .next (s'.ctlAnswer p a x st id)) (hq : s'.quietHomes) (hp : s'.hub.parts.get none p = some y)
    (hdone : y.ctlDone = x.ctlDone) (hst : st < 256) (hmore : ∀ t, s'.ctlAnswered t p a x.cfg.ctlbase y id → more t) : Claims.ctlDone i s p a st x more := by
  have ha := (State.ctlNext_some hn).2
  obtain ⟨hans, hbyte⟩ := State.ctlAnswer_spec hq hp st id (x := x) (a := a) (by omega)
  refine ⟨_, _, hexec, ?_, hans.part, by rw [hdone], hmore _ hans⟩
  rw [hbyte, BitVec.toNat_ofNat, Nat.mod_eq_of_lt hst]

/-- A record of op `mine` that is refused: its status is written and nothing else is done. -/
theorem ctlDone_of_refusal {i : Instr} {s : State} {p a : Nat} {x : Part} {bs : List Byte} {mine : Nat → Bool} {f : Part → List Byte → CtlDone} {more : State → Prop}
    (hop : exec i s = s.ctlOp p mine f) (hn : s.ctlNext p = some (x, a, bs)) (hov : s.ctlOverrun x = false) (hmine : mine (fieldAt bs 0 1) = true) (hq : s.quietHomes)
    (st : Nat) (hf : (if fieldAt bs 2 2 = 0 then f x bs else (1, none, s)).1 = st) (h0 : st ≠ 0) (hst : st < 256)
    (hmore : ∀ t, s.ctlAnswered t p a x.cfg.ctlbase x none → more t) : Claims.ctlDone i s p a st x more := by
  refine ctlDone_of_answer hn ?_ hq (State.ctlNext_some hn).1 rfl hst hmore
  rw [hop]
  simp only [State.ctlOp, hn, hov, hmine, Bool.not_true, if_false, Bool.false_eq_true, hf, if_neg h0]

/-- A record of op `mine` that succeeds from `s` to `s'`. -/
theorem ctlDone_of_success {i : Instr} {s s' : State} {p a : Nat} {x y : Part} {bs : List Byte} {mine : Nat → Bool} {f : Part → List Byte → CtlDone} {id : Option Nat} {more : State → Prop}
    (hop : exec i s = s.ctlOp p mine f) (hn : s.ctlNext p = some (x, a, bs)) (hov : s.ctlOverrun x = false) (hmine : mine (fieldAt bs 0 1) = true)
    (hzero : fieldAt bs 2 2 = 0) (hf : f x bs = (0, id, s')) (hq : s'.quietHomes) (hp : s'.hub.parts.get none p = some y) (hdone : y.ctlDone = x.ctlDone)
    (hmore : ∀ t, s'.ctlAnswered t p a x.cfg.ctlbase y id → more t) : Claims.ctlDone i s p a 0 x more := by
  refine ctlDone_of_answer hn ?_ hq hp hdone (by omega) hmore
  rw [hop]
  simp only [State.ctlOp, hn, hov, hmine, Bool.not_true, if_false, Bool.false_eq_true, hzero, if_true, hf]

/-! ### Lists that the hub writes at a virtual address -/

theorem zip_append_left {α β : Type} (as cs : List α) : ∀ bs : List β, (as ++ cs).zip bs = as.zip (bs.take as.length) ++ cs.zip (bs.drop as.length) := by
  induction as with
  | nil => simp
  | cons x t ih =>
    intro bs
    cases bs with
    | nil => simp
    | cons b bs => simp [ih]

/-- A list written segment by segment stands at the addresses of its segments, in order. -/
theorem State.foldSegs_writesHome (segs : List Seg) : ∀ {s : State} (bs : List Byte), s.quietHomes →
    s.writesHome (segs.foldl (fun (a : List Byte × State) g => (a.1.drop g.n, a.2.mergeRun none g.pa (a.1.take g.n) (g.n + 1))) (bs, s)).2 ((addrsOf segs).zip bs) := by
  induction segs with
  | nil => intro s bs _; exact .refl s
  | cons g t ih =>
    intro s bs hq
    have h1 := State.mergeRun_writesHome none (g.n + 1) g.pa (bs.take g.n) hq (by rw [List.length_take]; omega)
    have hcells : (addrsOf (g :: t)).zip bs = cellsFrom g.pa (bs.take g.n) ++ (addrsOf t).zip (bs.drop g.n) := by
      rw [addrsOf, List.flatMap_cons, zip_append_left, List.length_map, List.length_range, range_map_zip, List.take_take, min_self]; rfl
    rw [hcells]
    exact h1.trans (ih (bs.drop g.n) (h1.quiet hq))

theorem State.hubWrite_of_ok {s : State} {c : Nat} {va : W72} {segs : List Seg} (hq : s.quietHomes) (bs : List Byte)
    (h : s.translate [] c .write true va bs.length (pageFuel bs.length) = .ok segs) : ∃ u, s.hubWrite c va bs = some u ∧ s.writesHome u ((addrsOf segs).zip bs) := by
  refine ⟨_, ?_, State.foldSegs_writesHome segs bs hq⟩
  simp only [State.hubWrite, h]

/-- The entry of a frame in the list that `takeFrames` writes: its address (R361). -/
def frameBytes (f : Nat) : List Byte := leList 8 (65536 * f)

theorem length_frameBytes (l : List Nat) : (l.flatMap frameBytes).length = 8 * l.length := by
  induction l with
  | nil => rfl
  | cons f t ih => rw [List.flatMap_cons, List.length_append, ih, frameBytes, length_leList, List.length_cons]; omega

theorem leList_eq (n : Nat) : ∀ x, leList n x = (List.range n).map fun i => BitVec.ofNat 8 (x / 256 ^ i) := by
  induction n with
  | zero => intro x; rfl
  | succ n ih =>
    intro x
    rw [leList, ih, List.range_succ_eq_map, List.map_cons, List.map_map]
    simp [Function.comp_def, pow_succ', Nat.div_div_eq_div_mul]

theorem frameBytes_eq (f : Nat) : frameBytes f = (List.range 8).map fun i => ((BitVec.ofNat 64 (65536 * f)).extractLsb' (8 * i) 8 : Byte) := by
  rw [frameBytes, leList_eq]
  refine List.map_congr_left fun i hi => (extract_ofNat 64 _ ?_).symm
  have := List.mem_range.mp hi
  omega

theorem flatMap_frameBytes (l : List Nat) :
    l.flatMap frameBytes = (List.range (8 * l.length)).map fun i => ((BitVec.ofNat 64 (65536 * l.getD (i / 8) 0)).extractLsb' (8 * (i % 8)) 8 : Byte) := by
  induction l with
  | nil => rfl
  | cons f t ih =>
    rw [List.flatMap_cons, ih, List.length_cons, Nat.mul_succ, Nat.add_comm, List.range_add, List.map_append, List.map_map, frameBytes_eq]
    refine congrArg₂ (· ++ ·) (List.map_congr_left fun i hi => ?_) (List.map_congr_left fun i _ => ?_)
    · have := List.mem_range.mp hi
      rw [Nat.div_eq_of_lt this, Nat.mod_eq_of_lt this]; rfl
    · simp [Nat.add_div_left]

end Sys2Proof.Machine

/-! ### The six operations (R361) -/
namespace Sys2Proof.Machine
open Sys2Proof.Claims

theorem State.ctlAnswered.ctxs {s t : State} {p a n : Nat} {y : Part} {id : Option Nat} (h : s.ctlAnswered t p a n y id) : t.hub.ctxs = s.hub.ctxs := by rw [h.hub]
theorem State.ctlAnswered.frameOwner {s t : State} {p a n : Nat} {y : Part} {id : Option Nat} (h : s.ctlAnswered t p a n y id) : t.hub.frameOwner = s.hub.frameOwner := by rw [h.hub]
/-- The answered partition keeps its pool. -/
theorem State.ctlAnswered.pool {s t : State} {p a n : Nat} {y : Part} {id : Option Nat} (h : s.ctlAnswered t p a n y id) :
    ∃ z, t.hub.parts.get none p = some z ∧ z.pool = y.pool := ⟨_, h.part, rfl⟩

theorem Hub.ctlCtx_of_ctlCtxAt {s : State} {p c : Nat} {y : Ctx} {bs : List Byte} (h : ctlCtxAt s p c y bs) : s.hub.ctlCtx p bs = some (c, y) := by
  obtain ⟨rfl, hy, hp, hc⟩ := h
  simp [Hub.ctlCtx, Hub.ctx?, hy, hp, hc]
theorem Hub.ctlCtx_eq_none {s : State} {p : Nat} {bs : List Byte} (h : ∀ y, ¬ctlCtxAt s p (fieldAt bs 4 2) y bs) : s.hub.ctlCtx p bs = none := by
  unfold Hub.ctlCtx
  dsimp only
  split
  · next y hy =>
    rw [if_neg]
    intro hc
    simp only [Bool.and_eq_true, decide_eq_true_eq, Bool.not_eq_true'] at hc
    exact h y ⟨rfl, hy, hc.1, hc.2⟩
  · rfl

theorem ctlRefused {i : Instr} {s : State} {p op a : Nat} {x : Part} {bs : List Byte} {mine : Nat → Bool} {f : Part → List Byte → CtlDone} {more : State → Prop}
    (h : ctlAt s p op x a bs) (hexec : exec i s = s.ctlOp p mine f) (hmine : mine op = true) (st : Nat) (hf : (f x bs).1 = st)
    (hmore : ∀ t, s.ctlAnswered t p a x.cfg.ctlbase x none → more t) (hst : st ≠ 0 ∧ st < 256 := by decide) : Claims.ctlDone i s p a st x more := by
  obtain ⟨hn, hov, rfl, hzero, hq⟩ := h
  exact ctlDone_of_refusal hexec hn hov hmine hq st (by rw [if_pos hzero, hf]) hst.1 hst.2 hmore

theorem ctlSucceeds {i : Instr} {s s' : State} {p op a : Nat} {x y : Part} {bs : List Byte} {mine : Nat → Bool} {f : Part → List Byte → CtlDone} {id : Option Nat} {more : State → Prop}
    (h : ctlAt s p op x a bs) (hexec : exec i s = s.ctlOp p mine f) (hmine : mine op = true) (hf : f x bs = (0, id, s')) (hq : s'.quietHomes)
    (hp : s'.hub.parts.get none p = some y) (hdone : y.ctlDone = x.ctlDone) (hmore : ∀ t, s'.ctlAnswered t p a x.cfg.ctlbase y id → more t) : Claims.ctlDone i s p a 0 x more := by
  obtain ⟨hn, hov, rfl, hzero, -⟩ := h
  exact ctlDone_of_success hexec hn hov hmine hzero hf hq hp hdone hmore

section
variable {s : State} {p a : Nat} {x : Part} {bs : List Byte}

theorem ctlAt_part {op : Nat} (h : ctlAt s p op x a bs) : s.hub.parts.get none p = some x := (State.ctlNext_some h.1).1
theorem ctlAt_quiet {op : Nat} (h : ctlAt s p op x a bs) : s.quietHomes := h.2.2.2.2
theorem ctlAt_op {op : Nat} (h : ctlAt s p op x a bs) : fieldAt bs 0 1 = op := h.2.2.1

/-! #### `createContext`, and every record of another op -/

theorem createContext_unknown {op : Nat} (h : ctlAt s p op x a bs) (hop : op = 0 ∨ 6 < op) : ctlDone (.createContext p) s p a 1 x fun t => t.hub.ctxs = s.hub.ctxs := by
  refine ctlRefused h (exec_createContext p s) (by simp; omega) 1 ?_ fun t ht => ht.ctxs
  have hne : fieldAt bs 0 1 ≠ 1 := by rw [ctlAt_op h]; omega
  simp [hne]

theorem createContext_badRoot (h : ctlAt s p 1 x a bs) (hr : fieldAt bs 8 8 % 262144 ≠ 0 ∨ s.hub.ownsFrames p (fieldAt bs 8 8) 262144 = false) :
    ctlDone (.createContext p) s p a 1 x fun t => t.hub.ctxs = s.hub.ctxs := by
  refine ctlRefused h (exec_createContext p s) rfl 1 ?_ fun t ht => ht.ctxs
  rcases hr with hr | hr <;> simp [hr]

section
variable (h : ctlAt s p 1 x a bs) (hr : fieldAt bs 8 8 % 262144 = 0) (hown : s.hub.ownsFrames p (fieldAt bs 8 8) 262144 = true)
  (hsave : fieldAt bs 16 8 % 2097152 = 0) (hslots : fieldAt bs 24 2 = 0)
include h hr hown hsave hslots

theorem createContext_full (hmax : x.cfg.ctxmax ≤ (s.hub.ctxsOf p).length) : ctlDone (.createContext p) s p a 2 x fun t => t.hub.ctxs = s.hub.ctxs := by
  refine ctlRefused h (exec_createContext p s) rfl 2 ?_ fun t ht => ht.ctxs
  simp [ctlAt_op h, hr, hown, hsave, hslots, hmax]

theorem createContext_done {c : Nat} (hmax : (s.hub.ctxsOf p).length < x.cfg.ctxmax) (hc : s.hub.newCtx = some c) :
    ctlDone (.createContext p) s p a 0 x fun t => ∃ y, t.hub.ctxs.get none c = some y ∧ y.part = p ∧ y.sup = false ∧ y.root = fieldAt bs 8 8 ∧
      ∀ d, d ≠ c → t.hub.ctxs.get none d = s.hub.ctxs.get none d := by
  refine ctlSucceeds (s' := s.modHub fun h => h.setCtx c { part := p, sup := false, root := fieldAt bs 8 8, save := fieldAt bs 16 8, slots := fieldAt bs 24 2 })
    (id := some c) h (exec_createContext p s) rfl ?_ (ctlAt_quiet h) (ctlAt_part h) rfl fun t ht => ?_
  · simp [ctlAt_op h, hr, hown, hsave, hslots, Nat.not_le.mpr hmax, hc, Hub.setCtx]
  · rw [ht.ctxs]
    exact ⟨_, Hub.get_setCtx s.hub c _, rfl, rfl, rfl, fun d hd => Hub.get_setCtx_ne s.hub _ hd⟩

end

/-! #### `setRoot` -/

/-- Once every cached translation of a context is dropped, none is left (R318). -/
theorem untranslated_of_tlbDrop {u t : State} {n c : Nat} {y : Part} {id : Option Nat} (hcores : u.cores = s.cores)
    (h : (u.tlbDrop (fun e => e.ctx == c) fun w => w.ctx == c).ctlAnswered t p a n y id) : untranslated s t c := by
  have hcore (d : Nat) : t.core d = { s.core d with tlb := (s.core d).tlb.filter fun e => !(e.ctx == c), ptlb := (s.core d).ptlb.filter fun e => !(e.ctx == c) } := by
    unfold State.core
    rw [h.cores, ← hcores]
    exact Bank.get_map ({} : Core) ({} : Core) (fun k : Core => { k with tlb := k.tlb.filter fun e => !(e.ctx == c), ptlb := k.ptlb.filter fun e => !(e.ctx == c) }) rfl u.cores d
  refine ⟨fun d z hz => ?_, fun d z hz => ?_, fun w hw hc => ?_, fun d z hz hc => ?_⟩
  · rw [hcore] at hz
    rcases List.mem_append.mp hz with hz | hz <;> simpa using (List.mem_filter.mp hz).2
  · have hst : t.hub.stlb.get [] d = (u.hub.stlb.get [] d).filter fun e => !(e.ctx == c) := by
      rw [h.hub]
      exact Bank.get_map [] [] (fun l : List TlbEntry => l.filter fun e => !(e.ctx == c)) rfl u.hub.stlb d
    rw [hst] at hz
    simpa using (List.mem_filter.mp hz).2
  · rw [h.hub] at hw
    obtain ⟨v, -, rfl⟩ := List.mem_map.mp hw
    by_cases hv : (v.ctx == c) = true
    · rw [if_pos hv]
    · rw [if_neg hv] at hc
      exact absurd (by simpa using hc) hv
  · rw [hcore]
    exact List.mem_filter.mpr ⟨hz, by simpa using hc⟩

section
variable {c : Nat} {y : Ctx} (hy : ctlCtxAt s p c y bs)
include hy

theorem setRoot_badRoot (h : ctlAt s p 2 x a bs) (hr : fieldAt bs 8 8 % 262144 ≠ 0 ∨ s.hub.ownsFrames p (fieldAt bs 8 8) 262144 = false) :
    ctlDone (.setRoot p) s p a 1 x fun t => t.hub.ctxs = s.hub.ctxs := by
  refine ctlRefused h (exec_setRoot p s) rfl 1 ?_ fun t ht => ht.ctxs
  rcases hr with hr | hr <;> simp [Hub.ctlCtx_of_ctlCtxAt hy, hr]

theorem setRoot_busy (h : ctlAt s p 2 x a bs) (hr : fieldAt bs 8 8 % 262144 = 0) (hown : s.hub.ownsFrames p (fieldAt bs 8 8) 262144 = true) (hl : s.hub.ctxLaunches c = true) :
    ctlDone (.setRoot p) s p a 3 x fun t => t.hub.ctxs = s.hub.ctxs := by
  refine ctlRefused h (exec_setRoot p s) rfl 3 ?_ fun t ht => ht.ctxs
  simp [Hub.ctlCtx_of_ctlCtxAt hy, hr, hown, hl]

theorem setRoot_done (h : ctlAt s p 2 x a bs) (hr : fieldAt bs 8 8 % 262144 = 0) (hown : s.hub.ownsFrames p (fieldAt bs 8 8) 262144 = true) (hl : s.hub.ctxLaunches c = false) :
    ctlDone (.setRoot p) s p a 0 x fun t => t.hub.ctxs.get none c = some { y with root := fieldAt bs 8 8 } ∧ untranslated s t c := by
  have hctx := hy.2.1
  refine ctlSucceeds (s' := (s.modHub fun h => h.setCtx c { y with root := fieldAt bs 8 8 }).tlbDrop (fun e => e.ctx == c) fun w => w.ctx == c)
    (id := none) h (exec_setRoot p s) rfl ?_ (ctlAt_quiet h) (ctlAt_part h) rfl fun t ht => ⟨?_, untranslated_of_tlbDrop (u := s.modHub _) rfl ht⟩
  · simp only [Hub.ctlCtx_of_ctlCtxAt hy, hr, hown, hl, State.modHub, Hub.modCtx_of_some hctx]
    rfl
  · rw [ht.ctxs]
    exact Hub.get_setCtx s.hub c _

/-! #### `bindEndpoint` and `makeGroup` -/

theorem bindEndpoint_refused (h : ctlAt s p 3 x a bs) (hr : 4096 ≤ fieldAt bs 8 2 ∨ fieldAt bs 10 2 < x.cfg.qpFirst ∨ x.cfg.qpFirst + x.cfg.qpCount ≤ fieldAt bs 10 2) :
    ctlDone (.bindEndpoint p) s p a 1 x fun t => t.hub.ctxs = s.hub.ctxs := by
  refine ctlRefused h (exec_bindEndpoint p s) rfl 1 ?_ fun t ht => ht.ctxs
  rcases hr with hr | hr | hr <;> simp [Hub.ctlCtx_of_ctlCtxAt hy, hr]

theorem bindEndpoint_done (h : ctlAt s p 3 x a bs) (he : fieldAt bs 8 2 < 4096) (hlo : x.cfg.qpFirst ≤ fieldAt bs 10 2) (hhi : fieldAt bs 10 2 < x.cfg.qpFirst + x.cfg.qpCount) :
    ctlDone (.bindEndpoint p) s p a 0 x fun t =>
      t.hub.ctxs.get none c = some { y with endpoints := y.endpoints.put none (fieldAt bs 8 2) (some ⟨fieldAt bs 10 2, fieldAt bs 16 8, fieldAt bs 24 8⟩) } := by
  have hctx := hy.2.1
  refine ctlSucceeds (s' := s.modHub fun h => h.setCtx c { y with endpoints := y.endpoints.put none (fieldAt bs 8 2) (some ⟨fieldAt bs 10 2, fieldAt bs 16 8, fieldAt bs 24 8⟩) })
    (id := none) h (exec_bindEndpoint p s) rfl ?_ (ctlAt_quiet h) (ctlAt_part h) rfl fun t ht => ?_
  · simp [Hub.ctlCtx_of_ctlCtxAt hy, Nat.not_le.mpr he, Nat.not_lt.mpr hlo, Nat.not_le.mpr hhi, State.modHub, Hub.modCtx_of_some hctx]
  · rw [ht.ctxs]
    exact Hub.get_setCtx s.hub c _

theorem makeGroup_refused (h : ctlAt s p 4 x a bs) (hr : 4096 ≤ fieldAt bs 8 2 ∨ fieldAt bs 10 2 = 0 ∨ fieldAt bs 10 2 ≤ fieldAt bs 12 2 ∨
      s.hubRead c (BitVec.ofNat 72 (fieldAt bs 16 8)) (2 * fieldAt bs 10 2) = none) : ctlDone (.makeGroup p) s p a 1 x fun t => t.hub.ctxs = s.hub.ctxs := by
  refine ctlRefused h (exec_makeGroup p s) rfl 1 ?_ fun t ht => ht.ctxs
  simp only [Hub.ctlCtx_of_ctlCtxAt hy]
  split_ifs with hbad
  · rfl
  · rcases hr with hr | hr | hr | hr
    · exact absurd (by simp [hr]) hbad
    · exact absurd (by simp [hr]) hbad
    · exact absurd (by simp [hr]) hbad
    · rw [hr]

theorem makeGroup_done (h : ctlAt s p 4 x a bs) {l : List Byte} (hg : fieldAt bs 8 2 < 4096) (hn : fieldAt bs 10 2 ≠ 0) (hrank : fieldAt bs 12 2 < fieldAt bs 10 2)
    (hl : s.hubRead c (BitVec.ofNat 72 (fieldAt bs 16 8)) (2 * fieldAt bs 10 2) = some l) (hmem : ∀ i < fieldAt bs 10 2, fieldAt l (2 * i) 2 < 4096) :
    ctlDone (.makeGroup p) s p a 0 x fun t =>
      t.hub.ctxs.get none c = some { y with groups := y.groups.put none (fieldAt bs 8 2) (some ⟨fieldAt bs 12 2, (List.range (fieldAt bs 10 2)).map fun i => fieldAt l (2 * i) 2⟩) } := by
  have hctx := hy.2.1
  refine ctlSucceeds (s' := s.modHub fun h => h.setCtx c { y with groups := y.groups.put none (fieldAt bs 8 2) (some ⟨fieldAt bs 12 2, (List.range (fieldAt bs 10 2)).map fun i => fieldAt l (2 * i) 2⟩) })
    (id := none) h (exec_makeGroup p s) rfl ?_ (ctlAt_quiet h) (ctlAt_part h) rfl fun t ht => ?_
  · have hsmall : ((List.range (fieldAt bs 10 2)).map fun i => fieldAt l (2 * i) 2).any (4096 ≤ ·) = false := by
      simpa using hmem
    simp only [Hub.ctlCtx_of_ctlCtxAt hy, hl, hsmall, State.modHub, Hub.modCtx_of_some hctx, Bool.false_eq_true, if_false]
    rw [if_neg (by simp [Nat.not_le.mpr hg, hn, Nat.not_le.mpr hrank])]
  · rw [ht.ctxs]
    exact Hub.get_setCtx s.hub c _

/-! #### `freeFrames` -/

theorem freeFrames_none (h : ctlAt s p 6 x a bs) (hn : fieldAt bs 8 8 = 0) :
    ctlDone (.freeFrames p) s p a 0 x fun t => t.hub.frameOwner = s.hub.frameOwner := by
  refine ctlSucceeds (s' := s) (id := none) h (exec_freeFrames p s) rfl ?_ (ctlAt_quiet h) (ctlAt_part h) rfl fun t ht => ht.frameOwner
  simp [Hub.ctlCtx_of_ctlCtxAt hy, hn]

section
variable (h : ctlAt s p 6 x a bs) {l : List Byte} {f : Nat} (hn : fieldAt bs 8 8 = 1) (hl : s.hubRead c (BitVec.ofNat 72 (fieldAt bs 16 8)) 8 = some l)
  (hf : fieldAt l 0 8 = 65536 * f)
include h hn hl hf

theorem freeFrames_notTaken (ht : s.hub.takenFrame p x f = false) : ctlDone (.freeFrames p) s p a 1 x fun t => t.hub.frameOwner = s.hub.frameOwner := by
  refine ctlRefused h (exec_freeFrames p s) rfl 1 ?_ fun t ht => ht.frameOwner
  simp [Hub.ctlCtx_of_ctlCtxAt hy, hn, hl, hf, ht]

theorem freeFrames_inUse (ht : s.hub.takenFrame p x f = true) (hb : s.hub.ctxLaunches c = true) (hu : y.uses f = true) :
    ctlDone (.freeFrames p) s p a 3 x fun t => t.hub.frameOwner = s.hub.frameOwner := by
  refine ctlRefused h (exec_freeFrames p s) rfl 3 ?_ fun t ht => ht.frameOwner
  simp [Hub.ctlCtx_of_ctlCtxAt hy, hn, hl, hf, ht, hb, hu]

theorem freeFrames_done (ht : s.hub.takenFrame p x f = true) (hb : s.hub.ctxLaunches c = false) :
    ctlDone (.freeFrames p) s p a 0 x fun t => t.hub.frameOwner.get 0 f = 0 ∧ (f, p) ∈ t.hub.scrub := by
  refine ctlSucceeds (s' := s.freeFrame f p) (id := none) h (exec_freeFrames p s) rfl ?_ (ctlAt_quiet h) (ctlAt_part h) rfl fun t ht => ?_
  · simp [Hub.ctlCtx_of_ctlCtxAt hy, hn, hl, hf, ht, hb]
  · rw [ht.frameOwner, ht.hub]
    exact ⟨Bank.get_put_same 0 s.hub.frameOwner f 0, List.mem_append_right s.hub.scrub (List.mem_singleton.mpr rfl)⟩

end

/-! #### `takeFrames` -/

theorem takeFrames_short (h : ctlAt s p 5 x a bs) (hn : x.pool.length < fieldAt bs 8 8) :
    ctlDone (.takeFrames p) s p a 2 x fun t => ∃ z, t.hub.parts.get none p = some z ∧ z.pool = x.pool := by
  refine ctlRefused h (exec_takeFrames p s) rfl 2 ?_ fun t ht => ht.pool
  simp [Hub.ctlCtx_of_ctlCtxAt hy, hn]

theorem takeFrames_none (h : ctlAt s p 5 x a bs) (hn : fieldAt bs 8 8 = 0) :
    ctlDone (.takeFrames p) s p a 0 x fun t => ∃ z, t.hub.parts.get none p = some z ∧ z.pool = x.pool := by
  refine ctlSucceeds (s' := s) (id := none) h (exec_takeFrames p s) rfl ?_ (ctlAt_quiet h) (ctlAt_part h) rfl fun t ht => ht.pool
  simp [Hub.ctlCtx_of_ctlCtxAt hy, hn]

section
variable (h : ctlAt s p 5 x a bs) (hn : fieldAt bs 8 8 ≠ 0) (hle : fieldAt bs 8 8 ≤ x.pool.length)
include h hn hle

theorem takeFrames_fault {e : TFault}
    (he : s.translate [] c .write true (BitVec.ofNat 72 (fieldAt bs 16 8)) (8 * fieldAt bs 8 8) (pageFuel (8 * fieldAt bs 8 8)) = .error e) :
    ctlDone (.takeFrames p) s p a 1 x fun t => ∃ z, t.hub.parts.get none p = some z ∧ z.pool = x.pool := by
  refine ctlRefused h (exec_takeFrames p s) rfl 1 ?_ fun t ht => ht.pool
  have hw : s.hubWrite c (BitVec.ofNat 72 (fieldAt bs 16 8)) ((x.pool.take (fieldAt bs 8 8)).flatMap fun f => leList 8 (65536 * f)) = none := by
    change s.hubWrite _ _ (List.flatMap frameBytes _) = none
    simp only [State.hubWrite, length_frameBytes, List.length_take, min_eq_left hle, he]
  simp only [Hub.ctlCtx_of_ctlCtxAt hy, Nat.not_lt.mpr hle, hn, if_false, hw]

theorem takeFrames_done {segs : List Seg}
    (hs : s.translate [] c .write true (BitVec.ofNat 72 (fieldAt bs 16 8)) (8 * fieldAt bs 8 8) (pageFuel (8 * fieldAt bs 8 8)) = .ok segs) :
    ctlDone (.takeFrames p) s p a 0 x fun t => ∃ z, t.hub.parts.get none p = some z ∧ z.pool = x.pool.drop (fieldAt bs 8 8) ∧ t.hub.frameOwner = s.hub.frameOwner ∧
      let beacon := x.cfg.ctlbase + 4096 + 16
      let list := (List.range (8 * fieldAt bs 8 8)).map fun i => ((BitVec.ofNat 64 (65536 * x.pool.getD (i / 8) 0)).extractLsb' (8 * (i % 8)) 8 : Byte)
      ∀ b, b ≠ a + 1 → (b < beacon ∨ beacon + 8 ≤ b) → t.mem.byte b = lastOf ((addrsOf segs).zip list) b (s.mem.byte b) := by
  have hlen : (x.pool.take (fieldAt bs 8 8)).length = fieldAt bs 8 8 := by rw [List.length_take, min_eq_left hle]
  obtain ⟨u, hu, hw⟩ := State.hubWrite_of_ok (ctlAt_quiet h) (va := BitVec.ofNat 72 (fieldAt bs 16 8)) (c := c) (segs := segs)
    ((x.pool.take (fieldAt bs 8 8)).flatMap frameBytes) (by rw [length_frameBytes, hlen]; exact hs)
  have hpu : u.hub.parts.get none p = some x := by rw [hw.hub]; exact ctlAt_part h
  refine ctlSucceeds (s' := u.modHub fun h => h.setPart p { x with pool := x.pool.drop (fieldAt bs 8 8) }) (id := none) h (exec_takeFrames p s) rfl ?_ (hw.quiet (ctlAt_quiet h))
    (Hub.get_setPart u.hub p _) rfl fun t ht => ?_
  · replace hu : s.hubWrite c (BitVec.ofNat 72 (fieldAt bs 16 8)) ((x.pool.take (fieldAt bs 8 8)).flatMap fun f => leList 8 (65536 * f)) = some u := hu
    simp only [Hub.ctlCtx_of_ctlCtxAt hy, Nat.not_lt.mpr hle, hn, if_false, hu, State.modPart_of_some hpu]
  · obtain ⟨z, hz, hpool⟩ := ht.pool
    refine ⟨z, hz, hpool, ht.frameOwner.trans hw.frameOwner, fun b hb hd => ?_⟩
    rw [ht.bytes rfl b hb hd, State.modHub_mem, hw.bytes, flatMap_frameBytes, hlen]
    congr 2
    refine List.map_congr_left fun i hi => ?_
    have := List.mem_range.mp hi
    simp [List.getD_eq_getElem?_getD, List.getElem?_take_of_lt (by omega : i / 8 < fieldAt bs 8 8)]

end
end
end
/-! #### Assembly -/

/-- The operations of the control ring with their codes (R361). -/
noncomputable def ctlOps (p : Nat) : List (Nat × Instr) :=
  [(1, .createContext p), (2, .setRoot p), (3, .bindEndpoint p), (4, .makeGroup p), (5, .takeFrames p), (6, .freeFrames p)]

/-- Each is one use of `State.ctlOp` that takes its own code, and but for the first it refuses a record whose context the partition does not hold open. -/
theorem ctlOps_ctlOp (p : Nat) (s : State) : ∀ row ∈ ctlOps p, ∃ mine f, exec row.2 s = s.ctlOp p mine f ∧ mine row.1 = true ∧
    (row.1 ≠ 1 → ∀ x bs, s.hub.ctlCtx p bs = none → (f x bs).1 = 1) := by
  intro row hrow
  simp only [ctlOps, List.mem_cons, List.not_mem_nil, or_false] at hrow
  rcases hrow with rfl | rfl | rfl | rfl | rfl | rfl
  · exact ⟨_, _, exec_createContext p s, rfl, fun h => absurd rfl h⟩
  · exact ⟨_, _, exec_setRoot p s, rfl, fun _ x bs h => by simp only [h]⟩
  · exact ⟨_, _, exec_bindEndpoint p s, rfl, fun _ x bs h => by simp only [h]⟩
  · exact ⟨_, _, exec_makeGroup p s, rfl, fun _ x bs h => by simp only [h]⟩
  · exact ⟨_, _, exec_takeFrames p s, rfl, fun _ x bs h => by simp only [h]⟩
  · exact ⟨_, _, exec_freeFrames p s, rfl, fun _ x bs h => by simp only [h]⟩

theorem ctlOps_instr {p : Nat} {i : Instr} (h : i ∈ [Instr.createContext p, .setRoot p, .bindEndpoint p, .makeGroup p, .takeFrames p, .freeFrames p]) (s : State) :
    ∃ mine f, exec i s = s.ctlOp p mine f := by
  obtain ⟨row, hrow, rfl⟩ := List.mem_map.mp (show i ∈ (ctlOps p).map (·.2) from h)
  obtain ⟨mine, f, hexec, -⟩ := ctlOps_ctlOp p s row hrow
  exact ⟨mine, f, hexec⟩

/-- An overrun stops the ring (R360). -/
theorem ctlOp_overrun {s : State} {p a : Nat} {x : Part} {bs : List Byte} (hn : s.ctlNext p = some (x, a, bs)) (hov : s.ctlOverrun x = true)
    (mine : Nat → Bool) (f : Part → List Byte → CtlDone) :
    ∃ t, s.ctlOp p mine f = .next t ∧ t.hub.parts.get none p = some { x with ctlStop := true } ∧ t.mem = s.mem := by
  refine ⟨s.modHub fun h => h.setPart p { x with ctlStop := true }, ?_, Hub.get_setPart s.hub p _, rfl⟩
  simp only [State.ctlOp, hn, hov, if_true, State.modPart_of_some (State.ctlNext_some hn).1]

/-- A nonzero spare field, or no open context of the partition where one is needed, is refused with status 1 (R361). -/
theorem ctlOps_malformed {s : State} {p a : Nat} {x : Part} {bs : List Byte} {row : Nat × Instr} (hrow : row ∈ ctlOps p) (hn : s.ctlNext p = some (x, a, bs))
    (hov : s.ctlOverrun x = false) (hop : fieldAt bs 0 1 = row.1) (hq : s.quietHomes)
    (hbad : fieldAt bs 2 2 ≠ 0 ∨ (row.1 ≠ 1 ∧ ∀ y, ¬ctlCtxAt s p (fieldAt bs 4 2) y bs)) :
    ctlDone row.2 s p a 1 x fun t => t.hub.ctxs = s.hub.ctxs ∧ t.hub.frameOwner = s.hub.frameOwner := by
  obtain ⟨mine, f, hexec, hmine, hctx⟩ := ctlOps_ctlOp p s row hrow
  refine ctlDone_of_refusal hexec hn hov (hop ▸ hmine) hq 1 ?_ (by decide) (by decide) fun t ht => ⟨ht.ctxs, ht.frameOwner⟩
  rcases hbad with hspare | ⟨h1, hnone⟩
  · rw [if_neg hspare]
  · split_ifs
    · exact hctx h1 x bs (Hub.ctlCtx_eq_none hnone)
    · rfl

/-- Settles O50: a partition's record is refused, reprograms the slot table or makes the partition; and each record of the control ring is answered as its op and operands say. -/
theorem controlRing : Obligations.ControlRing := by
  refine ⟨fun s p r => ⟨partitionCreate_refused, partitionCreate_rerings, fun c hre hok hc ho hf => partitionCreate_makes hre hok hc ⟨ho, hf⟩⟩,
    fun s p => ⟨fun hn i hi => ?_, fun x a bs hn hov i hi => ?_, fun x a bs op h hop => createContext_unknown h hop,
      fun row hrow x a bs hn hov hop ho hf hbad => ctlOps_malformed hrow hn hov hop ⟨ho, hf⟩ hbad,
      fun x a bs h => ⟨createContext_badRoot h, fun hr hown hsave hslots => ⟨createContext_full h hr hown hsave hslots, fun c => createContext_done h hr hown hsave hslots⟩⟩,
      fun x a bs c y hy => ⟨fun h => ⟨setRoot_badRoot hy h, fun hr hown => ⟨setRoot_busy hy h hr hown, setRoot_done hy h hr hown⟩⟩,
        fun h => ⟨bindEndpoint_refused hy h, bindEndpoint_done hy h⟩, fun h => ⟨makeGroup_refused hy h, fun l => makeGroup_done hy h⟩,
        fun h => ⟨takeFrames_short hy h, takeFrames_none hy h, fun hn hle => ⟨fun e => takeFrames_fault hy h hn hle, fun segs => takeFrames_done hy h hn hle⟩⟩,
        fun h => ⟨freeFrames_none hy h, fun l f hn hl hf => ⟨freeFrames_notTaken hy h hn hl hf, freeFrames_inUse hy h hn hl hf, freeFrames_done hy h hn hl hf⟩⟩⟩⟩⟩
  · obtain ⟨mine, f, hexec⟩ := ctlOps_instr hi s
    rw [hexec, State.ctlOp, hn]
  · obtain ⟨mine, f, hexec⟩ := ctlOps_instr hi s
    rw [hexec]
    exact ctlOp_overrun hn hov mine f

end Sys2Proof.Machine

/-! The encodings and the decoder agree: the formats, the opcode maps of the slots and of the micro-words, then whole words (R56, R61, R65 to R71, R230 to R232). -/
namespace Sys2Proof

/-! ### Formats -/

/-- A format (R61, R231): its fields read back from the bits they are packed into, the bits it marks zero are packed as zeros, and bits that hold zeros there are those of the fields read from them. -/
structure Format {α : Type} {n : Nat} (unpack : BitVec n → α) (zero : BitVec n → Bool) (pack : α → BitVec n) : Prop where
  unpack_pack : ∀ f, unpack (pack f) = f
  zero_pack : ∀ f, zero (pack f) = true
  pack_unpack : ∀ x, zero x = true → pack (unpack x) = x

/-- The bits of a row that its format holds decode to the row's operation. -/
theorem Format.decodes {α : Type} {n : Nat} {unpack : BitVec n → α} {zero : BitVec n → Bool} {pack : α → BitVec n} (F : Format unpack zero pack) (c : α → Instr) (f : α) :
    some (c (unpack (pack f)), zero (pack f)) = some (c f, true) := by rw [F.unpack_pack, F.zero_pack]
theorem Format.encodes {α : Type} {n : Nat} {unpack : BitVec n → α} {zero : BitVec n → Bool} {pack : α → BitVec n} (F : Format unpack zero pack) {x : BitVec n} (h : zero x = true) (k : Nat) :
    some (k, pack (unpack x)) = some (k, x) := by rw [F.pack_unpack x h]
/-- A row without operands has no bits but its opcode. -/
theorem encodes_zero {n : Nat} {x : BitVec n} (h : (x == 0) = true) (k : Nat) : some (k, 0#n) = some (k, x) := by rw [eq_of_beq h]; rfl

section
open BitVec

theorem formatSR : Format unpackSR zeroSR packSR where
  unpack_pack f := by simp (disch := decide) only [unpackSR, packSR, extractLsb'_append_eq_of_le, extractLsb'_append_eq_of_add_le, Nat.reduceSub, extractLsb'_eq_self]
  zero_pack f := by
    simp (disch := decide) only [zeroSR, packSR, extractLsb'_append_eq_of_add_le, extractLsb'_eq_self]
    rfl
  pack_unpack x h := by
    have hz : x.extractLsb' 0 33 = 0#33 := eq_of_beq h
    simp (disch := decide) only [unpackSR, packSR, ← hz, extractLsb'_append_extractLsb'_eq_extractLsb', extractLsb'_eq_self]

theorem formatSI : Format unpackSI zeroSI packSI where
  unpack_pack f := by simp (disch := decide) only [unpackSI, packSI, extractLsb'_append_eq_of_le, extractLsb'_append_eq_of_add_le, Nat.reduceSub, extractLsb'_eq_self]
  zero_pack _ := rfl
  pack_unpack x _ := by simp (disch := decide) only [unpackSI, packSI, extractLsb'_append_extractLsb'_eq_extractLsb', extractLsb'_eq_self]

theorem formatSW : Format unpackSW zeroSW packSW where
  unpack_pack f := by simp (disch := decide) only [unpackSW, packSW, extractLsb'_append_eq_of_le, extractLsb'_append_eq_of_add_le, Nat.reduceSub, extractLsb'_eq_self]
  zero_pack _ := rfl
  pack_unpack x _ := by simp (disch := decide) only [unpackSW, packSW, extractLsb'_append_extractLsb'_eq_extractLsb', extractLsb'_eq_self]

theorem formatSB : Format unpackSB zeroSB packSB where
  unpack_pack f := by simp (disch := decide) only [unpackSB, packSB, extractLsb'_append_eq_of_le, extractLsb'_append_eq_of_add_le, Nat.reduceSub, extractLsb'_eq_self]
  zero_pack f := by
    simp (disch := decide) only [zeroSB, packSB, extractLsb'_append_eq_of_le, extractLsb'_append_eq_of_add_le, Nat.reduceSub, extractLsb'_eq_self]
    rfl
  pack_unpack x h := by
    have hz : x.extractLsb' 39 4 = 0#4 := eq_of_beq h
    simp (disch := decide) only [unpackSB, packSB, ← hz, extractLsb'_append_extractLsb'_eq_extractLsb', extractLsb'_eq_self]

theorem formatSF : Format unpackSF zeroSF packSF where
  unpack_pack f := by simp (disch := decide) only [unpackSF, packSF, extractLsb'_append_eq_of_le, extractLsb'_append_eq_of_add_le, Nat.reduceSub, extractLsb'_eq_self]
  zero_pack _ := rfl
  pack_unpack x _ := by simp (disch := decide) only [unpackSF, packSF, extractLsb'_append_extractLsb'_eq_extractLsb', extractLsb'_eq_self]

theorem formatSY : Format unpackSY zeroSY packSY where
  unpack_pack f := by simp (disch := decide) only [unpackSY, packSY, extractLsb'_append_eq_of_le, extractLsb'_append_eq_of_add_le, Nat.reduceSub, extractLsb'_eq_self]
  zero_pack f := by
    simp (disch := decide) only [zeroSY, packSY, extractLsb'_append_eq_of_add_le, extractLsb'_eq_self]
    rfl
  pack_unpack x h := by
    have hz : x.extractLsb' 0 33 = 0#33 := eq_of_beq h
    simp (disch := decide) only [unpackSY, packSY, ← hz, extractLsb'_append_extractLsb'_eq_extractLsb', extractLsb'_eq_self]

theorem formatVR : Format unpackVR zeroVR packVR where
  unpack_pack f := by simp (disch := decide) only [unpackVR, packVR, extractLsb'_append_eq_of_le, extractLsb'_append_eq_of_add_le, Nat.reduceSub, extractLsb'_eq_self]
  zero_pack _ := rfl
  pack_unpack x _ := by simp (disch := decide) only [unpackVR, packVR, extractLsb'_append_extractLsb'_eq_extractLsb', extractLsb'_eq_self]

theorem formatVI : Format unpackVI zeroVI packVI where
  unpack_pack f := by simp (disch := decide) only [unpackVI, packVI, extractLsb'_append_eq_of_le, extractLsb'_append_eq_of_add_le, Nat.reduceSub, extractLsb'_eq_self]
  zero_pack _ := rfl
  pack_unpack x _ := by simp (disch := decide) only [unpackVI, packVI, extractLsb'_append_extractLsb'_eq_extractLsb', extractLsb'_eq_self]

theorem formatVS : Format unpackVS zeroVS packVS where
  unpack_pack f := by simp (disch := decide) only [unpackVS, packVS, extractLsb'_append_eq_of_le, extractLsb'_append_eq_of_add_le, Nat.reduceSub, extractLsb'_eq_self]
  zero_pack f := by
    simp (disch := decide) only [zeroVS, packVS, extractLsb'_append_eq_of_le, extractLsb'_append_eq_of_add_le, Nat.reduceSub, extractLsb'_eq_self]
    rfl
  pack_unpack x h := by
    have hz : x.extractLsb' 16 4 = 0#4 := eq_of_beq h
    simp (disch := decide) only [unpackVS, packVS, ← hz, extractLsb'_append_extractLsb'_eq_extractLsb', extractLsb'_eq_self]

theorem formatMA : Format unpackMA zeroMA packMA where
  unpack_pack f := by simp (disch := decide) only [unpackMA, packMA, extractLsb'_append_eq_of_le, extractLsb'_append_eq_of_add_le, Nat.reduceSub, extractLsb'_eq_self]
  zero_pack _ := rfl
  pack_unpack x _ := by simp (disch := decide) only [unpackMA, packMA, extractLsb'_append_extractLsb'_eq_extractLsb', extractLsb'_eq_self]

theorem formatMX : Format unpackMX zeroMX packMX where
  unpack_pack f := by simp (disch := decide) only [unpackMX, packMX, extractLsb'_append_eq_of_le, extractLsb'_append_eq_of_add_le, Nat.reduceSub, extractLsb'_eq_self]
  zero_pack f := by
    simp (disch := decide) only [zeroMX, packMX, extractLsb'_append_eq_of_add_le, extractLsb'_eq_self]
    rfl
  pack_unpack x h := by
    have hz : x.extractLsb' 0 13 = 0#13 := eq_of_beq h
    simp (disch := decide) only [unpackMX, packMX, ← hz, extractLsb'_append_extractLsb'_eq_extractLsb', extractLsb'_eq_self]

theorem formatMP : Format unpackMP zeroMP packMP where
  unpack_pack f := by simp (disch := decide) only [unpackMP, packMP, extractLsb'_append_eq_of_le, extractLsb'_append_eq_of_add_le, Nat.reduceSub, extractLsb'_eq_self]
  zero_pack f := by
    simp (disch := decide) only [zeroMP, packMP, extractLsb'_append_eq_of_le, extractLsb'_append_eq_of_add_le, Nat.reduceSub, extractLsb'_eq_self]
    rfl
  pack_unpack x h := by
    have hz : x.extractLsb' 20 1 = 0#1 := eq_of_beq h
    simp (disch := decide) only [unpackMP, packMP, ← hz, extractLsb'_append_extractLsb'_eq_extractLsb', extractLsb'_eq_self]

theorem formatMG : Format unpackMG zeroMG packMG where
  unpack_pack f := by simp (disch := decide) only [unpackMG, packMG, extractLsb'_append_eq_of_le, extractLsb'_append_eq_of_add_le, Nat.reduceSub, extractLsb'_eq_self]
  zero_pack _ := rfl
  pack_unpack x _ := by simp (disch := decide) only [unpackMG, packMG, extractLsb'_append_extractLsb'_eq_extractLsb', extractLsb'_eq_self]

theorem formatMT : Format unpackMT zeroMT packMT where
  unpack_pack f := by simp (disch := decide) only [unpackMT, packMT, extractLsb'_append_eq_of_le, extractLsb'_append_eq_of_add_le, Nat.reduceSub, extractLsb'_eq_self]
  zero_pack _ := rfl
  pack_unpack x _ := by simp (disch := decide) only [unpackMT, packMT, extractLsb'_append_extractLsb'_eq_extractLsb', extractLsb'_eq_self]

theorem formatMS : Format unpackMS zeroMS packMS where
  unpack_pack f := by simp (disch := decide) only [unpackMS, packMS, extractLsb'_append_eq_of_le, extractLsb'_append_eq_of_add_le, Nat.reduceSub, extractLsb'_eq_self]
  zero_pack _ := rfl
  pack_unpack x _ := by simp (disch := decide) only [unpackMS, packMS, extractLsb'_append_extractLsb'_eq_extractLsb', extractLsb'_eq_self]

theorem formatMD : Format unpackMD zeroMD packMD where
  unpack_pack f := by simp (disch := decide) only [unpackMD, packMD, extractLsb'_append_eq_of_le, extractLsb'_append_eq_of_add_le, Nat.reduceSub, extractLsb'_eq_self]
  zero_pack _ := rfl
  pack_unpack x _ := by simp (disch := decide) only [unpackMD, packMD, extractLsb'_append_extractLsb'_eq_extractLsb', extractLsb'_eq_self]

theorem formatKC : Format unpackKC zeroKC packKC where
  unpack_pack f := by simp (disch := decide) only [unpackKC, packKC, extractLsb'_append_eq_of_le, extractLsb'_append_eq_of_add_le, Nat.reduceSub, extractLsb'_eq_self]
  zero_pack _ := rfl
  pack_unpack x _ := by simp (disch := decide) only [unpackKC, packKC, extractLsb'_append_extractLsb'_eq_extractLsb', extractLsb'_eq_self]

theorem formatXR : Format unpackXR zeroXR packXR where
  unpack_pack f := by simp (disch := decide) only [unpackXR, packXR, extractLsb'_append_eq_of_le, extractLsb'_append_eq_of_add_le, Nat.reduceSub, extractLsb'_eq_self]
  zero_pack _ := rfl
  pack_unpack x _ := by simp (disch := decide) only [unpackXR, packXR, extractLsb'_append_extractLsb'_eq_extractLsb', extractLsb'_eq_self]

theorem formatXS : Format unpackXS zeroXS packXS where
  unpack_pack f := by simp (disch := decide) only [unpackXS, packXS, extractLsb'_append_eq_of_le, extractLsb'_append_eq_of_add_le, Nat.reduceSub, extractLsb'_eq_self]
  zero_pack _ := rfl
  pack_unpack x _ := by simp (disch := decide) only [unpackXS, packXS, extractLsb'_append_extractLsb'_eq_extractLsb', extractLsb'_eq_self]

theorem formatXV : Format unpackXV zeroXV packXV where
  unpack_pack f := by simp (disch := decide) only [unpackXV, packXV, extractLsb'_append_eq_of_le, extractLsb'_append_eq_of_add_le, Nat.reduceSub, extractLsb'_eq_self]
  zero_pack _ := rfl
  pack_unpack x _ := by simp (disch := decide) only [unpackXV, packXV, extractLsb'_append_extractLsb'_eq_extractLsb', extractLsb'_eq_self]

theorem formatYB : Format unpackYB zeroYB packYB where
  unpack_pack f := by simp (disch := decide) only [unpackYB, packYB, extractLsb'_append_eq_of_le, extractLsb'_append_eq_of_add_le, Nat.reduceSub, extractLsb'_eq_self]
  zero_pack _ := rfl
  pack_unpack x _ := by simp (disch := decide) only [unpackYB, packYB, extractLsb'_append_extractLsb'_eq_extractLsb', extractLsb'_eq_self]

theorem formatYM : Format unpackYM zeroYM packYM where
  unpack_pack f := by simp (disch := decide) only [unpackYM, packYM, extractLsb'_append_eq_of_le, extractLsb'_append_eq_of_add_le, Nat.reduceSub, extractLsb'_eq_self]
  zero_pack _ := rfl
  pack_unpack x _ := by simp (disch := decide) only [unpackYM, packYM, extractLsb'_append_extractLsb'_eq_extractLsb', extractLsb'_eq_self]

theorem formatYW : Format unpackYW zeroYW packYW where
  unpack_pack f := by simp (disch := decide) only [unpackYW, packYW, extractLsb'_append_eq_of_le, extractLsb'_append_eq_of_add_le, Nat.reduceSub, extractLsb'_eq_self]
  zero_pack _ := rfl
  pack_unpack x _ := by simp (disch := decide) only [unpackYW, packYW, extractLsb'_append_extractLsb'_eq_extractLsb', extractLsb'_eq_self]

theorem formatUA : Format unpackUA zeroUA packUA where
  unpack_pack f := by simp (disch := decide) only [unpackUA, packUA, extractLsb'_append_eq_of_le, extractLsb'_append_eq_of_add_le, Nat.reduceSub, extractLsb'_eq_self]
  zero_pack _ := rfl
  pack_unpack x _ := by simp (disch := decide) only [unpackUA, packUA, extractLsb'_append_extractLsb'_eq_extractLsb', extractLsb'_eq_self]

theorem formatUO : Format unpackUO zeroUO packUO where
  unpack_pack f := by simp (disch := decide) only [unpackUO, packUO, extractLsb'_append_eq_of_le, extractLsb'_append_eq_of_add_le, Nat.reduceSub, extractLsb'_eq_self]
  zero_pack f := by
    simp (disch := decide) only [zeroUO, packUO, extractLsb'_append_eq_of_le, extractLsb'_append_eq_of_add_le, Nat.reduceSub, extractLsb'_eq_self]
    rfl
  pack_unpack x h := by
    have hz : x.extractLsb' 12 36 = 0#36 := eq_of_beq h
    simp (disch := decide) only [unpackUO, packUO, ← hz, extractLsb'_append_extractLsb'_eq_extractLsb', extractLsb'_eq_self]

theorem formatUP : Format unpackUP zeroUP packUP where
  unpack_pack f := by simp (disch := decide) only [unpackUP, packUP, extractLsb'_append_eq_of_le, extractLsb'_append_eq_of_add_le, Nat.reduceSub, extractLsb'_eq_self]
  zero_pack f := by
    simp (disch := decide) only [zeroUP, packUP, extractLsb'_append_eq_of_add_le, extractLsb'_eq_self]
    rfl
  pack_unpack x h := by
    have hz : x.extractLsb' 0 46 = 0#46 := eq_of_beq h
    simp (disch := decide) only [unpackUP, packUP, ← hz, extractLsb'_append_extractLsb'_eq_extractLsb', extractLsb'_eq_self]

theorem formatUL : Format unpackUL zeroUL packUL where
  unpack_pack f := by simp (disch := decide) only [unpackUL, packUL, extractLsb'_append_eq_of_le, extractLsb'_append_eq_of_add_le, Nat.reduceSub, extractLsb'_eq_self]
  zero_pack f := by
    simp (disch := decide) only [zeroUL, packUL, extractLsb'_append_eq_of_le, extractLsb'_append_eq_of_add_le, Nat.reduceSub, extractLsb'_eq_self]
    rfl
  pack_unpack x h := by
    have hz : x.extractLsb' 10 32 = 0#32 := eq_of_beq h
    simp (disch := decide) only [unpackUL, packUL, ← hz, extractLsb'_append_extractLsb'_eq_extractLsb', extractLsb'_eq_self]

theorem formatUM : Format unpackUM zeroUM packUM where
  unpack_pack f := by simp (disch := decide) only [unpackUM, packUM, extractLsb'_append_eq_of_le, extractLsb'_append_eq_of_add_le, Nat.reduceSub, extractLsb'_eq_self]
  zero_pack f := by
    simp (disch := decide) only [zeroUM, packUM, extractLsb'_append_eq_of_add_le, extractLsb'_eq_self]
    rfl
  pack_unpack x h := by
    have hz : x.extractLsb' 0 43 = 0#43 := eq_of_beq h
    simp (disch := decide) only [unpackUM, packUM, ← hz, extractLsb'_append_extractLsb'_eq_extractLsb', extractLsb'_eq_self]

theorem formatUR : Format unpackUR zeroUR packUR where
  unpack_pack f := by simp (disch := decide) only [unpackUR, packUR, extractLsb'_append_eq_of_le, Nat.reduceSub, extractLsb'_eq_self]
  zero_pack f := by
    simp (disch := decide) only [zeroUR, packUR, extractLsb'_append_eq_of_add_le, extractLsb'_eq_self]
    rfl
  pack_unpack x h := by
    have hz : x.extractLsb' 0 45 = 0#45 := eq_of_beq h
    simp (disch := decide) only [unpackUR, packUR, ← hz, extractLsb'_append_extractLsb'_eq_extractLsb', extractLsb'_eq_self]

theorem formatUK : Format unpackUK zeroUK packUK where
  unpack_pack f := by simp (disch := decide) only [unpackUK, packUK, extractLsb'_append_eq_of_le, extractLsb'_append_eq_of_add_le, Nat.reduceSub, extractLsb'_eq_self]
  zero_pack f := by
    simp (disch := decide) only [zeroUK, packUK, extractLsb'_append_eq_of_add_le, extractLsb'_eq_self]
    rfl
  pack_unpack x h := by
    have hz : x.extractLsb' 0 42 = 0#42 := eq_of_beq h
    simp (disch := decide) only [unpackUK, packUK, ← hz, extractLsb'_append_extractLsb'_eq_extractLsb', extractLsb'_eq_self]

end

/-! ### Opcode maps -/

/-- An opcode map of `k` opcode bits (R65 to R71, R232): an operation within its limits encodes to what decodes to it again, an assigned opcode with its zero bits decodes to what encodes to it again, and no opcode of more bits is assigned. -/
structure OpcodeMap {n : Nat} (k : Nat) (dec : Nat → BitVec n → Option (Instr × Bool)) (enc : Instr → Option (Nat × BitVec n)) : Prop where
  decode_encode : ∀ {i op x}, enc i = some (op, x) → limits i = true → dec op x = some (i, true)
  encode_decode : ∀ {i op x}, dec op x = some (i, true) → enc i = some (op, x)
  unassigned : ∀ op x, dec (op + 2 ^ k) x = none

theorem OpcodeMap.opcode_lt {n k : Nat} {dec : Nat → BitVec n → Option (Instr × Bool)} {enc : Instr → Option (Nat × BitVec n)} (M : OpcodeMap k dec enc)
    {op : Nat} {x : BitVec n} {r : Instr × Bool} (h : dec op x = some r) : op < 2 ^ k := by
  by_contra hge
  obtain ⟨j, rfl⟩ := Nat.exists_eq_add_of_le' (Nat.le_of_not_lt hge)
  rw [M.unassigned] at h
  cases h

/-- R65. -/
theorem opcodeMapS : OpcodeMap 8 decodeOpS encodeOpS where
  decode_encode {i op x} h _ := by
    have sr := formatSR; have si := formatSI; have sw := formatSW; have sb := formatSB; have sf := formatSF; have sy := formatSY
    cases i <;> cases h
    case nop => rfl
    all_goals exact Format.decodes ‹_› _ _
  encode_decode {i op x} h := by
    have sr := formatSR; have si := formatSI; have sw := formatSW; have sb := formatSB; have sf := formatSF; have sy := formatSY
    unfold decodeOpS at h
    split at h
    case h_99 => cases h
    all_goals obtain ⟨rfl, hz⟩ := Prod.mk.inj (Option.some.inj h)
    case h_1 => exact encodes_zero hz _
    all_goals exact Format.encodes ‹_› hz _
  unassigned _ _ := rfl

/-- R66. -/
theorem opcodeMapV : OpcodeMap 8 decodeOpV encodeOpV where
  decode_encode {i op x} h _ := by
    have vr := formatVR; have vi := formatVI; have vs := formatVS
    cases i <;> cases h
    case nop => rfl
    all_goals exact Format.decodes ‹_› _ _
  encode_decode {i op x} h := by
    have vr := formatVR; have vi := formatVI; have vs := formatVS
    unfold decodeOpV at h
    split at h
    case h_77 => cases h
    all_goals obtain ⟨rfl, hz⟩ := Prod.mk.inj (Option.some.inj h)
    case h_1 => exact encodes_zero hz _
    all_goals exact Format.encodes ‹_› hz _
  unassigned _ _ := rfl

/-! The limits fix the field that selects a row among those that share its opcode. -/

theorem ord_of_limLoad {o : BitVec 2} {s e : BitVec 3} (h : limLoad o s e = true) : o = 0 := by
  simp only [limLoad, Bool.and_eq_true, beq_iff_eq] at h
  exact h.1.1
theorem ord_of_limLoadAcq {o : BitVec 2} {s e : BitVec 3} (h : limLoadAcq o s e = true) : o = 1 := by
  simp only [limLoadAcq, Bool.and_eq_true, beq_iff_eq] at h
  exact h.1.1
theorem ord_of_limStore {o : BitVec 2} {s e : BitVec 3} (h : limStore o s e = true) : o = 0 := by
  simp only [limStore, Bool.and_eq_true, beq_iff_eq] at h
  exact h.1.1
theorem ord_of_limStoreRel {o : BitVec 2} {s e : BitVec 3} (h : limStoreRel o s e = true) : o = 2 := by
  simp only [limStoreRel, Bool.and_eq_true, beq_iff_eq] at h
  exact h.1.1
theorem kind_of_limColl {kind : Nat} {f : KC} (h : limColl kind f = true) : (f.imm.extractLsb' 0 4).toNat = kind := by
  simp only [limColl, Bool.and_eq_true, beq_iff_eq] at h
  exact h.1.1.1.2

/-- The opcodes of the stitches (R70). -/
theorem decodeOpM_stitch (idx : BitVec 6) (x : BitVec 43) : decodeOpM (0xC0 + idx.toNat) x = some (.stitchOpcode idx x, true) := by
  have hlt := idx.isLt
  rw [Nat.add_comm]
  show (if 0xC0 ≤ idx.toNat + 0xC0 ∧ idx.toNat + 0xC0 ≤ 0xFF then some (Instr.stitchOpcode (BitVec.ofNat 6 (idx.toNat + 0xC0 - 0xC0)) x, true) else none) = _
  rw [if_pos (by omega), Nat.add_sub_cancel, BitVec.ofNat_toNat, BitVec.setWidth_eq]

/-- R67. -/
theorem opcodeMapL : OpcodeMap 6 decodeOpL encodeOpL where
  decode_encode {i op x} h hl := by
    have ma := formatMA; have mx := formatMX; have mp := formatMP; have mg := formatMG
    cases i <;> cases h
    case nop => rfl
    case ldI8 f | ldI16 f | ldI32 f | ldN8 f | ldN16 f | ldN32 f | ldN64 f | lda f =>
      have hord : f.ord = 0 := ord_of_limLoad hl
      simp only [decodeOpL, ma.unpack_pack, ma.zero_pack, hord]
      rfl
    case ldAcq k f =>
      have hord : f.ord = 1 := ord_of_limLoadAcq hl
      cases k <;> simp only [decodeOpL, ma.unpack_pack, ma.zero_pack, hord] <;> rfl
    all_goals exact Format.decodes ‹_› _ _
  encode_decode {i op x} h := by
    have ma := formatMA; have mx := formatMX; have mp := formatMP; have mg := formatMG
    unfold decodeOpL at h
    split at h
    case h_20 => cases h
    all_goals obtain ⟨rfl, hz⟩ := Prod.mk.inj (Option.some.inj h)
    case h_1 => exact encodes_zero hz _
    case h_2 | h_3 | h_4 | h_5 | h_6 | h_7 | h_8 | h_9 => split <;> exact ma.encodes hz _
    all_goals exact Format.encodes ‹_› hz _
  unassigned _ _ := rfl

/-- R68. -/
theorem opcodeMapW : OpcodeMap 6 decodeOpW encodeOpW where
  decode_encode {i op x} h hl := by
    have ma := formatMA; have mx := formatMX; have mp := formatMP; have mg := formatMG; have mt := formatMT
    cases i <;> cases h
    case nop => rfl
    case stN8 f | stN16 f | stN32 f | stN64 f | sta f =>
      have hord : f.ord = 0 := ord_of_limStore hl
      simp only [decodeOpW, ma.unpack_pack, ma.zero_pack, hord]
      rfl
    case stRel k f =>
      have hord : f.ord = 2 := ord_of_limStoreRel hl
      cases k <;> simp only [decodeOpW, ma.unpack_pack, ma.zero_pack, hord] <;> rfl
    all_goals exact Format.decodes ‹_› _ _
  encode_decode {i op x} h := by
    have ma := formatMA; have mx := formatMX; have mp := formatMP; have mg := formatMG; have mt := formatMT
    unfold decodeOpW at h
    split at h
    case h_26 => cases h
    all_goals obtain ⟨rfl, hz⟩ := Prod.mk.inj (Option.some.inj h)
    case h_1 => exact encodes_zero hz _
    case h_2 | h_3 | h_4 | h_5 | h_6 => split <;> exact ma.encodes hz _
    all_goals exact Format.encodes ‹_› hz _
  unassigned _ _ := rfl

/-- R69 and R70. -/
theorem opcodeMapM : OpcodeMap 8 decodeOpM encodeOpM where
  decode_encode {i op x} h hl := by
    have ms := formatMS; have md := formatMD
    cases i <;> cases h
    case nop => rfl
    case mcancelId f | mcancelAll f | mcancelFlush f | mstatTile f | mstatEngine f =>
      have hsel := eq_of_beq hl
      simp only [decodeOpM, md.unpack_pack, md.zero_pack, hsel]
      rfl
    case stitchOpcode idx => exact decodeOpM_stitch idx _
    all_goals exact Format.decodes ‹_› _ _
  encode_decode {i op x} h := by
    have ms := formatMS; have md := formatMD
    unfold decodeOpM at h
    split at h
    case h_18 =>
      split at h
      · next hop =>
        cases h
        simp only [encodeOpM, BitVec.toNat_ofNat, Option.some.injEq, Prod.mk.injEq, and_true]
        omega
      · cases h
    all_goals obtain ⟨rfl, hz⟩ := Prod.mk.inj (Option.some.inj h)
    case h_1 => exact encodes_zero hz _
    case h_12 | h_15 => split <;> exact md.encodes hz _
    all_goals exact Format.encodes ‹_› hz _
  unassigned op x := by
    show (if 0xC0 ≤ op + 256 ∧ op + 256 ≤ 0xFF then some (Instr.stitchOpcode (BitVec.ofNat 6 (op + 256 - 0xC0)) x, true) else none) = none
    exact if_neg (by omega)

/-- R71, the K slot. -/
theorem opcodeMapK : OpcodeMap 6 decodeOpK encodeOpK where
  decode_encode {i op x} h hl := by
    have kc := formatKC
    cases i <;> cases h
    case nop => rfl
    case kstage f | kstageSched f | kcancelChannel f | kcancelAll f | kcancelFlush f | ksyncrd f | ksyncrdWait f =>
      have hsel := eq_of_beq hl
      simp only [decodeOpK, kc.unpack_pack, kc.zero_pack, hsel]
      rfl
    case kcollAllReduce f | kcollAllGather f | kcollReduceScatter f | kcollBroadcast f =>
      have hsel := kind_of_limColl hl
      simp only [decodeOpK, kc.unpack_pack, kc.zero_pack, hsel]
    all_goals exact Format.decodes ‹_› _ _
  encode_decode {i op x} h := by
    have kc := formatKC
    unfold decodeOpK at h
    split at h
    case h_14 => cases h
    all_goals obtain ⟨rfl, hz⟩ := Prod.mk.inj (Option.some.inj h)
    case h_1 => exact encodes_zero hz _
    case h_4 | h_9 | h_10 | h_13 => split <;> exact kc.encodes hz _
    all_goals exact Format.encodes ‹_› hz _
  unassigned _ _ := rfl

/-- R71, the X slot. -/
theorem opcodeMapX : OpcodeMap 6 decodeOpX encodeOpX where
  decode_encode {i op x} h _ := by
    have xr := formatXR; have xs := formatXS; have xv := formatXV
    cases i <;> cases h
    case nop => rfl
    all_goals exact Format.decodes ‹_› _ _
  encode_decode {i op x} h := by
    have xr := formatXR; have xs := formatXS; have xv := formatXV
    unfold decodeOpX at h
    split at h
    case h_17 => cases h
    all_goals obtain ⟨rfl, hz⟩ := Prod.mk.inj (Option.some.inj h)
    case h_1 => exact encodes_zero hz _
    all_goals exact Format.encodes ‹_› hz _
  unassigned _ _ := rfl

/-- R71, the Y slot. -/
theorem opcodeMapY : OpcodeMap 6 decodeOpY encodeOpY where
  decode_encode {i op x} h hl := by
    have yb := formatYB; have ym := formatYM; have yw := formatYW
    cases i <;> cases h
    case nop => rfl
    case bsync f =>
      have hwait : f.imm.getLsbD 0 = false := eq_of_beq hl
      simp only [decodeOpY, yb.unpack_pack, yb.zero_pack, hwait]
      rfl
    case bsyncWait f =>
      have hwait : f.imm.getLsbD 0 = true := hl
      simp only [decodeOpY, yb.unpack_pack, yb.zero_pack, hwait]
      rfl
    all_goals exact Format.decodes ‹_› _ _
  encode_decode {i op x} h := by
    have yb := formatYB; have ym := formatYM; have yw := formatYW
    unfold decodeOpY at h
    split at h
    case h_15 => cases h
    all_goals obtain ⟨rfl, hz⟩ := Prod.mk.inj (Option.some.inj h)
    case h_1 => exact encodes_zero hz _
    case h_2 => split <;> exact yb.encodes hz _
    all_goals exact Format.encodes ‹_› hz _
  unassigned _ _ := rfl

/-- R232. -/
theorem opcodeMapU : OpcodeMap 6 decodeOpU encodeOpU where
  decode_encode {i op x} h _ := by
    have ua := formatUA; have uo := formatUO; have up := formatUP; have ul := formatUL; have um := formatUM; have ur := formatUR; have uk := formatUK
    cases i <;> cases h
    case unop | uend | uyield | uwait | uzero => rfl
    all_goals exact Format.decodes ‹_› _ _
  encode_decode {i op x} h := by
    have ua := formatUA; have uo := formatUO; have up := formatUP; have ul := formatUL; have um := formatUM; have ur := formatUR; have uk := formatUK
    unfold decodeOpU at h
    split at h
    case h_25 => cases h
    all_goals obtain ⟨rfl, hz⟩ := Prod.mk.inj (Option.some.inj h)
    case h_1 | h_2 | h_3 | h_4 | h_19 => exact encodes_zero hz _
    all_goals exact Format.encodes ‹_› hz _
  unassigned _ _ := rfl

/-! ### Slot words and micro-words -/

theorem limits_of_wf {i : Instr} (h : wf i = true) : limits i = true := by
  cases hl : limits i
  · simp only [wf, fieldReason, hl] at h
    split at h
    · cases h
    · split at h <;> cases h
  · rfl

/-- The five bits of a guard field (R56). -/
def guardBits (g : Guard) : Nat := cond g.inv 16 0 + g.n.toNat
/-- The guard that five bits name. -/
def guardOf (x : BitVec 5) : Guard := ⟨x.getLsbD 4, x.extractLsb' 0 4⟩

theorem guardBits_lt (g : Guard) : guardBits g < 32 := by
  obtain ⟨inv, n⟩ := g
  have hn := n.isLt
  cases inv <;> simp only [guardBits, cond_true, cond_false] <;> omega
theorem guardOf_guardBits (g : Guard) : guardOf (BitVec.ofNat 5 (guardBits g)) = g := by
  obtain ⟨inv, n⟩ := g
  revert inv n
  decide
theorem guardBits_guardOf (x : BitVec 5) : guardBits (guardOf x) = x.toNat := by
  revert x
  decide

/-- The bits of a slot word from its parts: opcode, guard field and `g` operand bits (R56). -/
def wordBits (g op gd x : Nat) : Nat := op * 2 ^ (g + 5) + gd * 2 ^ g + x

section
variable {g op gd x : Nat}
theorem wordBits_div (hgd : gd < 32) (hx : x < 2 ^ g) : wordBits g op gd x / 2 ^ (g + 5) = op := by
  rw [wordBits, Nat.pow_add, show op * (2 ^ g * 2 ^ 5) + gd * 2 ^ g + x = x + (op * 32 + gd) * 2 ^ g by ring, ← Nat.div_div_eq_div_mul, Nat.add_mul_div_right _ _ (Nat.two_pow_pos g), Nat.div_eq_of_lt hx]
  omega
theorem wordBits_guard (hgd : gd < 32) (hx : x < 2 ^ g) : wordBits g op gd x / 2 ^ g % 32 = gd := by
  rw [wordBits, Nat.pow_add, show op * (2 ^ g * 2 ^ 5) + gd * 2 ^ g + x = x + (op * 32 + gd) * 2 ^ g by ring, Nat.add_mul_div_right _ _ (Nat.two_pow_pos g), Nat.div_eq_of_lt hx]
  omega
theorem wordBits_mod (hx : x < 2 ^ g) : wordBits g op gd x % 2 ^ g = x := by
  rw [wordBits, Nat.pow_add, show op * (2 ^ g * 2 ^ 5) + gd * 2 ^ g + x = x + (op * 32 + gd) * 2 ^ g by ring, Nat.add_mul_mod_self_right, Nat.mod_eq_of_lt hx]
theorem wordBits_lt {k : Nat} (hop : op < 2 ^ k) (hgd : gd < 32) (hx : x < 2 ^ g) : wordBits g op gd x < 2 ^ (g + 5 + k) := by
  rw [Nat.pow_add _ (g+5) k, Nat.mul_comm,← Nat.div_lt_iff_lt_mul (Nat.two_pow_pos _), wordBits_div hgd hx]
  exact hop
theorem wordBits_self (g w : Nat) : wordBits g (w / 2 ^ (g + 5)) (w / 2 ^ g % 32) (w % 2 ^ g) = w := by
  have h1 := Nat.div_add_mod w (2 ^ g)
  have h2 := Nat.div_add_mod (w / 2 ^ g) 32
  rw [wordBits, Nat.pow_add, ← Nat.div_div_eq_div_mul]
  generalize w / 2 ^ g = q at *
  calc _ = 2 ^ g * (32 * (q / 32) + q % 32) + w % 2 ^ g := by ring
    _ = w := by rw [h2, h1]
end

/-- Slot `n` holds opcode map `dec`, `enc` above `g` operand bits and a guard field (R51, R56). -/
structure SlotMap (n : Nat) {g : Nat} (k : Nat) (dec : Nat → BitVec g → Option (Instr × Bool)) (enc : Instr → Option (Nat × BitVec g)) : Prop where
  map : OpcodeMap k dec enc
  low : guardLow n = g
  width : slotWidth n = g + 5 + k
  bound : g + 5 + k ≤ 64
  raw : ∀ w, rawDecode n w = dec (slotOpcode n w) (w.extractLsb' 0 g)
  enc_eq : ∀ i, encodeOp n i = (enc i).map fun (o, x) => (o, x.toNat)

section
variable {n g k : Nat} {dec : Nat → BitVec g → Option (Instr × Bool)} {enc : Instr → Option (Nat × BitVec g)}

theorem slotGuard_eq (n : Nat) (w : BitVec 64) : slotGuard n w = guardOf (w.extractLsb' (guardLow n) 5) := rfl

theorem SlotMap.encode_eq (M : SlotMap n k dec enc) (gd : Guard) (i : Instr) :
    encode ⟨n, gd, i⟩ = (enc i).map fun (op, x) => BitVec.ofNat 64 (wordBits g op (guardBits gd) x.toNat) := by
  rw [encode, M.enc_eq, M.low, Option.map_map]
  rfl

theorem SlotMap.decode_encode (M : SlotMap n k dec enc) {gd : Guard} {i : Instr} {w : BitVec 64} (hwf : wf i = true) (h : encode ⟨n, gd, i⟩ = some w) :
    w.toNat < 2 ^ slotWidth n ∧ rawDecode n w = some (i, true) ∧ slotGuard n w = gd := by
  rw [M.encode_eq, Option.map_eq_some_iff] at h
  obtain ⟨⟨op, x⟩, henc, rfl⟩ := h
  have hdec := M.map.decode_encode henc (limits_of_wf hwf)
  have hgd := guardBits_lt gd
  have hlt := wordBits_lt (M.map.opcode_lt hdec) hgd x.isLt
  have hw : (BitVec.ofNat 64 (wordBits g op (guardBits gd) x.toNat)).toNat = wordBits g op (guardBits gd) x.toNat :=
    BitVec.toNat_ofNat .. ▸ Nat.mod_eq_of_lt (hlt.trans_le (Nat.pow_le_pow_right (by decide) M.bound))
  refine ⟨by rw [hw, M.width]; exact hlt, ?_, ?_⟩
  · have hx : (BitVec.ofNat 64 (wordBits g op (guardBits gd) x.toNat)).extractLsb' 0 g = x :=
      BitVec.eq_of_toNat_eq (by rw [BitVec.extractLsb'_toNat, hw, Nat.shiftRight_zero, wordBits_mod x.isLt])
    rw [M.raw, slotOpcode, M.low, hw, wordBits_div hgd x.isLt, hx, hdec]
  · have hf : (BitVec.ofNat 64 (wordBits g op (guardBits gd) x.toNat)).extractLsb' g 5 = BitVec.ofNat 5 (guardBits gd) :=
      BitVec.eq_of_toNat_eq (by rw [BitVec.extractLsb'_toNat, hw, Nat.shiftRight_eq_div_pow, BitVec.toNat_ofNat, wordBits_guard hgd x.isLt, Nat.mod_eq_of_lt hgd])
    rw [slotGuard_eq, M.low, hf, guardOf_guardBits]

theorem SlotMap.encode_decode (M : SlotMap n k dec enc) {i : Instr} {w : BitVec 64} (h : rawDecode n w = some (i, true)) : encode ⟨n, slotGuard n w, i⟩ = some w := by
  rw [M.raw] at h
  rw [M.encode_eq, M.map.encode_decode h, Option.map_some, slotGuard_eq, guardBits_guardOf]
  simp only [slotOpcode, M.low, BitVec.extractLsb'_toNat, Nat.shiftRight_eq_div_pow, Nat.reducePow, pow_zero, Nat.div_one]
  rw [wordBits_self, BitVec.ofNat_toNat, BitVec.setWidth_eq]

end

/-- The bits of a micro-word from its parts (R230). -/
def microBits (op : Nat) (inv : Bool) (pc : BitVec 4) (x : BitVec 53) : BitVec 64 := BitVec.ofNat 6 op ++ BitVec.ofBool inv ++ pc ++ x

theorem ofBool_getLsbD {n : Nat} (w : BitVec n) (i : Nat) : BitVec.ofBool (w.getLsbD i) = w.extractLsb' i 1 := by
  rw [BitVec.getLsbD_eq_extractLsb']
  generalize w.extractLsb' i 1 = b
  revert b
  decide

theorem microBits_fields {op : Nat} (hop : op < 2 ^ 6) (inv : Bool) (pc : BitVec 4) (x : BitVec 53) :
    ((microBits op inv pc x).extractLsb' 58 6).toNat = op ∧ (microBits op inv pc x).getLsbD 57 = inv ∧ (microBits op inv pc x).extractLsb' 53 4 = pc ∧ (microBits op inv pc x).extractLsb' 0 53 = x := by
  rw [← BitVec.ofBool_eq_iff_eq, ofBool_getLsbD]
  simp (disch := decide) only [microBits, BitVec.extractLsb'_append_eq_of_le, BitVec.extractLsb'_append_eq_of_add_le, Nat.reduceSub, BitVec.extractLsb'_eq_self, BitVec.toNat_ofNat, and_self, and_true]
  exact Nat.mod_eq_of_lt hop

theorem microBits_self (w : BitVec 64) : microBits (w.extractLsb' 58 6).toNat (w.getLsbD 57) (w.extractLsb' 53 4) (w.extractLsb' 0 53) = w := by
  rw [microBits, ofBool_getLsbD, BitVec.ofNat_toNat, BitVec.setWidth_eq]
  simp (disch := decide) only [BitVec.extractLsb'_append_extractLsb'_eq_extractLsb', BitVec.extractLsb'_eq_self]

theorem encodeMicro_eq (m : Micro) : encodeMicro m = (encodeOpU m.op).map fun (op, x) => microBits op m.inv m.pc x := rfl

/-- When a micro-word is read as `m` (R230, R248). -/
theorem decodeMicro_eq_ok_iff {w : BitVec 64} {m : Micro} : decodeMicro w = .ok m ↔
    decodeOpU (w.extractLsb' 58 6).toNat (w.extractLsb' 0 53) = some (m.op, true) ∧ w.getLsbD 57 = m.inv ∧ w.extractLsb' 53 4 = m.pc ∧
    m.pc.toNat ≤ 8 ∧ wf m.op = true ∧ ((∃ f, m.op = .unext f) → m.pc = 0 ∧ m.inv = false) := by
  obtain ⟨inv, pc, i⟩ := m
  unfold decodeMicro
  generalize decodeOpU _ _ = d, w.extractLsb' 53 4 = pc', w.getLsbD 57 = inv'
  cases d with
  | none => simp
  | some r =>
    obtain ⟨j, z⟩ := r
    dsimp only
    constructor
    · intro h
      split at h
      · cases h
      next hpc =>
      split at h
      · cases h
      next hzw =>
      obtain ⟨hz, hw⟩ : z = true ∧ wf j = true := by simpa using hzw
      split at h
      · split at h
        · cases h
        next hpi =>
        cases h
        exact ⟨by rw [hz], rfl, rfl, Nat.le_of_not_lt hpc, hw, fun _ => by simpa using hpi⟩
      next hnext =>
      cases h
      exact ⟨by rw [hz], rfl, rfl, Nat.le_of_not_lt hpc, hw, fun ⟨f, hf⟩ => (hnext f hf).elim⟩
    · rintro ⟨hj, rfl, rfl, hpc, hw, hnext⟩
      cases hj
      rw [if_neg (Nat.not_lt.mpr hpc), if_neg (by simp [hw])]
      split
      · rw [if_neg (by simp [hnext ⟨_, rfl⟩])]
      · rfl

theorem decodeMicro_encodeMicro {m : Micro} {w : BitVec 64} (hwf : wf m.op = true) (hpc : m.pc.toNat ≤ 8) (hnext : (∃ f, m.op = .unext f) → m.pc = 0 ∧ m.inv = false)
    (h : encodeMicro m = some w) : decodeMicro w = .ok m := by
  rw [encodeMicro_eq, Option.map_eq_some_iff] at h
  obtain ⟨⟨op, x⟩, henc, rfl⟩ := h
  have hdec := opcodeMapU.decode_encode henc (limits_of_wf hwf)
  obtain ⟨hop, hinv, hpred, hx⟩ := microBits_fields (opcodeMapU.opcode_lt hdec) m.inv m.pc x
  exact decodeMicro_eq_ok_iff.mpr ⟨by rw [hop, hx, hdec], hinv, hpred, hpc, hwf, hnext⟩

theorem encodeMicro_decodeMicro {m : Micro} {w : BitVec 64}(h : decodeMicro w = .ok m) : encodeMicro m = some w ∧ wf m.op = true ∧ m.pc.toNat ≤ 8 := by
  obtain ⟨hdec, hinv, hpred, hpc, hwf, -⟩ := decodeMicro_eq_ok_iff.mp h
  refine ⟨?_, hwf, hpc⟩
  rw [encodeMicro_eq, opcodeMapU.encode_decode hdec, Option.map_some, ← hinv, ← hpred]
  exact congrArg some (microBits_self w)

/-! ### Both directions -/

theorem slotMap1 : SlotMap 1 8 decodeOpS encodeOpS := ⟨opcodeMapS, rfl, rfl, by decide, fun _ => rfl, fun _ => rfl⟩
theorem slotMap2 : SlotMap 2 8 decodeOpV encodeOpV := ⟨opcodeMapV, rfl, rfl, by decide, fun _ => rfl, fun _ => rfl⟩
theorem slotMap3 : SlotMap 3 8 decodeOpV encodeOpV := ⟨opcodeMapV, rfl, rfl, by decide, fun _ => rfl, fun _ => rfl⟩
theorem slotMap4 : SlotMap 4 6 decodeOpL encodeOpL := ⟨opcodeMapL, rfl, rfl, by decide, fun _ => rfl, fun _ => rfl⟩
theorem slotMap5 : SlotMap 5 6 decodeOpW encodeOpW := ⟨opcodeMapW, rfl, rfl, by decide, fun _ => rfl, fun _ => rfl⟩
theorem slotMap6 : SlotMap 6 8 decodeOpM encodeOpM := ⟨opcodeMapM, rfl, rfl, by decide, fun _ => rfl, fun _ => rfl⟩
theorem slotMap7 : SlotMap 7 6 decodeOpK encodeOpK := ⟨opcodeMapK, rfl, rfl, by decide, fun _ => rfl, fun _ => rfl⟩
theorem slotMap8 : SlotMap 8 6 decodeOpX encodeOpX := ⟨opcodeMapX, rfl, rfl, by decide, fun _ => rfl, fun _ => rfl⟩
theorem slotMap9 : SlotMap 9 6 decodeOpY encodeOpY := ⟨opcodeMapY, rfl, rfl, by decide, fun _ => rfl, fun _ => rfl⟩

/-- Every slot of a bundle holds an opcode map (R51). -/
theorem exists_slotMap {n : Nat} (h1 : 1 ≤ n) (h9 : n ≤ 9) :
    ∃ (g k : Nat) (dec : Nat → BitVec g → Option (Instr × Bool)) (enc : Instr → Option (Nat × BitVec g)), SlotMap n k dec enc := by
  interval_cases n
  · exact ⟨_, _, _, _, slotMap1⟩
  · exact ⟨_, _, _, _, slotMap2⟩
  · exact ⟨_, _, _, _, slotMap3⟩
  · exact ⟨_, _, _, _, slotMap4⟩
  · exact ⟨_, _, _, _, slotMap5⟩
  · exact ⟨_, _, _, _, slotMap6⟩
  · exact ⟨_, _, _, _, slotMap7⟩
  · exact ⟨_, _, _, _, slotMap8⟩
  · exact ⟨_, _, _, _, slotMap9⟩

/-- Settles O54, slot by slot and for the micro-words: each map of opcodes agrees with itself in both directions, and so do the words around its bits. -/
theorem encodingRoundTrip : Obligations.EncodingRoundTrip := by
  refine ⟨fun o w h1 h9 hwf h => ?_, fun n w i h1 h9 hw h => ?_, fun m w hwf hpc hnext h => decodeMicro_encodeMicro hwf hpc hnext h, fun w m h => encodeMicro_decodeMicro h⟩
  · obtain ⟨g, k, dec, enc, M⟩ := exists_slotMap h1 h9
    exact M.decode_encode hwf h
  · obtain ⟨g, k, dec, enc, M⟩ := exists_slotMap h1 h9
    exact M.encode_decode h

/-! ### The words written out by hand -/

/-- The number that O53 gives for the worked bundle of R79 has 31 groups of four digits where a bundle has 32, so that every slot stands 16 bits too low: slot 1 reads the opcode 0x10, whose format SR has bits set among those that it marks zero (R72, reason 2). -/
theorem decodeBundle_worked_short :
    decodeBundle 0x1000_2000_8200_0000_0001_0100_4000_8000_0400_0000_0000_0000_0000_1809_2028_8000_4000_0000_0000_0000_0000_0000_0000_0000_0000_0000_0000_0000_0000_0000_0000 = .error (2, 1) := by
  decide +kernel

/-- Refutes O53: its second clause decodes the worked bundle of R79 from a number that lacks the last four digits, and the decoder refuses that number. -/
theorem not_decodeWords : ¬ Obligations.DecodeWords := by
  unfold Obligations.DecodeWords
  rw [decodeBundle_worked_short]
  rintro ⟨-, hworked, -⟩
  exact hworked

end Sys2Proof

/-! Writes landing (R76, R77, R306, R307): what one write gives every register and its shadow, then what a list of them leaves. -/
namespace Sys2Proof.Machine
open Sys2Proof.Claims

/-! ### Banks read under another default -/

theorem Bank.get_put_ne_of {α : Type} [DecidableEq α] (d e : α) (b : Bank α) {k j : Nat} (v : α) (h : j ≠ k) : (b.put d k v).get e j = b.get e j := by
  unfold Bank.put
  split
  · exact Bank.get_erase_ne e b h
  · rw [Bank.get_ins_ne e _ v h, Bank.get_erase_ne e b h]

/-! ### One write -/

/-- The vector registers after a write that only changes those. -/
def Wr.onVec (w : Wr) (x : Bank Vec) : Bank Vec := match w with | .v n m new => x.put 0 n (blend m (x.get 0 n) new) | _ => x

/-- What write `w` gives bit `i` of register `n` of a class, where it covers it; s0, g0 and p0 take none (R58, R124). -/
def givenBit (cls n i : Nat) (w : Wr) : Option Bool :=
  if ¬(n = 0 ∧ cls ∈ [0, 2, 7]) ∧ (given w).1 = cls ∧ (given w).2.1 = n then (given w).2.2 i else none

theorem Core.land_regs (c : Core) (reg : Nat) (w : Wr) : (c.land reg w).regs = c.regs.apply w := by cases w <;> rfl
theorem Core.land_sh (c : Core) (reg : Nat) (w : Wr) : (c.land reg w).sh = if reg < c.iss.region then c.sh.apply w else c.sh := by cases w <;> rfl
theorem Core.land_vec (c : Core) (reg : Nat) (w : Wr) : (c.land reg w).vec = w.onVec c.vec := by cases w <;> rfl
theorem Core.land_iss (c : Core) (reg : Nat) (w : Wr) : (c.land reg w).iss = { c.iss with wlog := (c.land reg w).iss.wlog } := by cases w <;> rfl
@[simp] theorem Core.land_region (c : Core) (reg : Nat) (w : Wr) : (c.land reg w).iss.region = c.iss.region := by rw [Core.land_iss]

theorem getLsbD_masked {n : Nat} (x m v : BitVec n) (i : Nat) : ((x &&& ~~~m) ||| (v &&& m)).getLsbD i = if m.getLsbD i then v.getLsbD i else x.getLsbD i := by
  rw [BitVec.getLsbD_or, BitVec.getLsbD_and, BitVec.getLsbD_and, BitVec.getLsbD_not]
  by_cases hi : i < n
  · cases m.getLsbD i <;> simp [hi]
  · simp [BitVec.getLsbD_of_ge _ i (Nat.le_of_not_lt hi)]

theorem getLsbD_setBits (x : BitVec 128) (lo w : Nat) (v : W64) (i : Nat) :
    (setBits x lo w v).getLsbD i = if lo ≤ i ∧ i < lo + w ∧ i < 128 then v.getLsbD (i - lo) else x.getLsbD i := by
  have hmask : (BitVec.ofNat 128 ((2 ^ w - 1) * 2 ^ lo)).getLsbD i = decide (lo ≤ i ∧ i < lo + w ∧ i < 128) := by
    rw [BitVec.getLsbD_ofNat, Nat.testBit_mul_two_pow, Nat.testBit_two_pow_sub_one, Bool.eq_iff_iff]
    simp only [Bool.and_eq_true, decide_eq_true_eq]
    omega
  unfold setBits
  rw [getLsbD_masked, hmask]
  by_cases h : lo ≤ i ∧ i < lo + w ∧ i < 128
  · simp [h, show ¬i < lo by omega]
  · simp [h]

/-- A write to a system register changes none of the registers that operands name. -/
theorem Regs.apply_sys (r : Regs) (n : Nat) (v : W64) :
    r.apply (.sys n v) = { r with ckcfg := (r.apply (.sys n v)).ckcfg, lsave := (r.apply (.sys n v)).lsave, vfm := (r.apply (.sys n v)).vfm } := by
  unfold Regs.apply
  dsimp only
  split <;> rfl

/-- A write changes registers of its own class alone. -/
theorem heldBit_apply_other {w : Wr} {cls : Nat} (h : (given w).1 ≠ cls) (r : Regs) (vec : Bank Vec) (n i : Nat) :
    heldBit (r.apply w) (w.onVec vec) cls n i = heldBit r vec cls n i := by
  cases w with
  | sys k v => rw [Regs.apply_sys]; rfl
  | s k v | g k v | p k m v =>
    unfold Regs.apply
    dsimp only
    split
    · rfl
    · unfold heldBit; split <;> first | exact absurd rfl h | rfl
  | _ => unfold heldBit; split <;> first | exact absurd rfl h | rfl

/-- It changes one register of its class. -/
theorem heldBit_apply_ne {w : Wr} {n : Nat} (h : n ≠ (given w).2.1) (r : Regs) (vec : Bank Vec) (i : Nat) :
    heldBit (r.apply w) (w.onVec vec) (given w).1 n i = heldBit r vec (given w).1 n i := by
  cases w with
  | s k x | g k x | p k m x =>
    have hk : n ≠ k := h
    unfold Regs.apply
    dsimp only
    split
    · rfl
    · simp only [heldBit, given, Regs.rs, Regs.rg, Regs.rp, Bank.get_put_ne _ _ _ hk]
  | a k x | b k x | lc k x | mp k x | ix k x =>
    have hk : n ≠ k := h
    simp only [heldBit, given, Regs.apply, Regs.ra, Regs.rb, Regs.rlc, Regs.rmp, Regs.rix, Bank.get_put_ne _ _ _ hk]
  | v k m x =>
    have hk : n ≠ k := h
    simp only [heldBit, given, Wr.onVec, Bank.get_put_ne _ _ _ hk]
  | shadow k lo w x =>
    have hk : n ≠ k := h
    simp only [heldBit, given, Regs.apply, Regs.shapeShadow, Nat.div_add_mod, Bank.get_put_ne_of _ _ _ _ hk]
  | sys k x => rfl

theorem getD_ite (c : Prop) [Decidable c] (a b : Bool) : (if c then some a else none).getD b = if c then a else b := by split <;> rfl

/-- That register, bit by bit. -/
theorem heldBit_apply_at (r : Regs) (vec : Bank Vec) (w : Wr) (i : Nat) (hc : ¬((given w).2.1 = 0 ∧ (given w).1 ∈ [0, 2, 7])) :
    heldBit (r.apply w) (w.onVec vec) (given w).1 (given w).2.1 i = ((given w).2.2 i).getD (heldBit r vec (given w).1 (given w).2.1 i) := by
  cases w with
  | s k x | g k x | p k m x =>
    have h0 : k ≠ 0 := fun h => hc ⟨h, by simp [given]⟩
    simp only [heldBit, given, Regs.apply, Regs.rs, Regs.rg, Regs.rp, h0, if_false, Bank.get_put_same, getLsbD_masked, Option.getD_some, getD_ite]
  | a k x | b k x | lc k x | mp k x | ix k x =>
    simp only [heldBit, given, Regs.apply, Regs.ra, Regs.rb, Regs.rlc, Regs.rmp, Regs.rix, Bank.get_put_same, Option.getD_some]
  | v k m x => simp only [heldBit, given, Wr.onVec, blend, Bank.get_put_same, getLsbD_masked, getD_ite]
  | shadow k lo w x => simp only [heldBit, given, Regs.apply, Regs.shapeShadow, Nat.div_add_mod, Bank.get_put_same, getLsbD_setBits, getD_ite]
  | sys k x => rfl

/-- s0, g0 and p0 take no write (R58, R124). -/
theorem heldBit_apply_const (r : Regs) (vec : Bank Vec) (w : Wr) (i : Nat) (hc : (given w).2.1 = 0 ∧ (given w).1 ∈ [0, 2, 7]) :
    heldBit (r.apply w) (w.onVec vec) (given w).1 (given w).2.1 i = heldBit r vec (given w).1 (given w).2.1 i := by
  cases w with
  | s k x | g k x | p k m x =>
    obtain rfl : k = 0 := hc.1
    rfl
  | _ => exact absurd hc.2 (by simp [given])

/-- A register after a write: the bits that the write gives, the others as before. -/
theorem heldBit_apply (r : Regs) (vec : Bank Vec) (w : Wr) (cls n i : Nat) :
    heldBit (r.apply w) (w.onVec vec) cls n i = (givenBit cls n i w).getD (heldBit r vec cls n i) := by
  unfold givenBit
  split
  · next h =>
    obtain ⟨hc, rfl, rfl⟩ := h
    exact heldBit_apply_at r vec w i hc
  · next h =>
    rw [Option.getD_none]
    by_cases hcls : (given w).1 = cls
    · subst hcls
      by_cases hn : (given w).2.1 = n
      · subst hn
        exact heldBit_apply_const r vec w i (by tauto)
      · exact heldBit_apply_ne (Ne.symm hn) r vec i
    · exact heldBit_apply_other hcls r vec n i

/-! ### A rollback after a write of a committed region -/

theorem restoreLog_get_congr {x y : Bank Vec} (log : List (Nat × Vec)) (h : ∀ j, x.get 0 j = y.get 0 j) (j : Nat) :
    (restoreLog x log).get 0 j = (restoreLog y log).get 0 j := by
  induction log generalizing x y with
  | nil => exact h j
  | cons e t ih => exact ih fun m => by rw [Bank.get_put, Bank.get_put, h m]

/-- A rollback restores the patched log to what the write leaves on what it restored before (R307). -/
theorem restoreLog_patchLog {x y : Bank Vec} {n : Nat} {m v : Vec} (log : List (Nat × Vec))
    (h : ∀ j, y.get 0 j = if j = n then blend m (x.get 0 n) v else x.get 0 j) (j : Nat) :
    (restoreLog y (patchLog log n m v)).get 0 j = if j = n then blend m ((restoreLog x log).get 0 n) v else (restoreLog x log).get 0 j := by
  induction log generalizing x y with
  | nil => exact h j
  | cons e t ih =>
    obtain ⟨k, z⟩ := e
    by_cases hk : k = n
    · subst hk
      simp only [patchLog, List.map_cons, if_true, restoreLog]
      refine ih fun l => ?_
      simp only [Bank.get_put, h l, if_true]
      split <;> rfl
    · simp only [patchLog, List.map_cons, hk, if_false, restoreLog]
      refine ih fun l => ?_
      simp only [Bank.get_put, h l, Ne.symm hk, if_false]
      split
      · next hl => rw [hl, if_neg hk]
      · rfl

/-- The vector registers that a rollback leaves, after a write: one of a committed region stands in them, one of the open region does not (R307). -/
theorem Core.land_rollback_vec (c : Core) (reg : Nat) (w : Wr) (j : Nat) :
    (c.land reg w).rollback.vec.get 0 j = if reg < c.iss.region then (w.onVec c.rollback.vec).get 0 j else c.rollback.vec.get 0 j := by
  cases w with
  | v n m x =>
    by_cases hr : reg < c.iss.region
    · simp only [Core.rollback, Core.land, Wr.onVec, hr, if_true]
      rw [restoreLog_patchLog (x := c.vec) _ fun l => by rw [Bank.get_put], Bank.get_put]
    · simp only [Core.rollback, Core.land, hr, if_false, restoreLog]
      exact restoreLog_get_congr _ (fun l => by simp only [Bank.get_put]; split <;> simp_all) j
  | _ => simp only [Wr.onVec, ite_self]; rfl

theorem heldBit_congr_vec {x y : Bank Vec} (h : ∀ j, x.get 0 j = y.get 0 j) (r : Regs) (cls n i : Nat) : heldBit r x cls n i = heldBit r y cls n i := by
  unfold heldBit
  rw [h n]

theorem heldBit_land (c : Core) (reg : Nat) (w : Wr) (cls n i : Nat) :
    heldBit (c.land reg w).regs (c.land reg w).vec cls n i = (givenBit cls n i w).getD (heldBit c.regs c.vec cls n i) := by
  rw [Core.land_regs, Core.land_vec, heldBit_apply]

theorem heldBit_land_shadow (c : Core) (reg : Nat) (w : Wr) (cls n i : Nat) :
    heldBit (c.land reg w).sh (c.land reg w).rollback.vec cls n i =
      if reg < c.iss.region then (givenBit cls n i w).getD (heldBit c.sh c.rollback.vec cls n i) else heldBit c.sh c.rollback.vec cls n i := by
  rw [Core.land_sh]
  split
  · next h =>
    rw [← heldBit_apply]
    exact heldBit_congr_vec (fun j => by rw [Core.land_rollback_vec, if_pos h]) _ cls n i
  · next h => exact heldBit_congr_vec (fun j => by rw [Core.land_rollback_vec, if_neg h]) _ cls n i

/-! ### Lists of writes -/

/-- Nothing of a core differs but what writes that land may change: registers, their shadow, system registers, vectors and the write log. -/
def Core.onlyLanded (a b : Core) : Prop := b = { a with regs := b.regs, sh := b.sh, sys := b.sys, vec := b.vec, iss := { a.iss with wlog := b.iss.wlog } }

theorem Core.onlyLanded.refl (a : Core) : a.onlyLanded a := rfl
theorem Core.onlyLanded.trans {a b c : Core} (h : a.onlyLanded b) (h' : b.onlyLanded c) : a.onlyLanded c := by
  unfold Core.onlyLanded at *
  rw [h', h]
theorem Core.onlyLanded_land (c : Core) (reg : Nat) (w : Wr) : c.onlyLanded (c.land reg w) := by cases w <;> rfl

/-- Writes of a list land where they are due. -/
def Core.landDue (c : Core) (due : FixedWrite → Bool) (l : List FixedWrite) : Core := l.foldl (fun c w => if due w then c.land w.region w.wr else c) c

theorem Core.onlyLanded_landDue (due : FixedWrite → Bool) (l : List FixedWrite) (c : Core) : c.onlyLanded (c.landDue due l) := by
  induction l generalizing c with
  | nil => exact Core.onlyLanded.refl c
  | cons w t ih =>
    refine Core.onlyLanded.trans ?_ (ih _)
    dsimp only
    split
    · exact Core.onlyLanded_land c _ _
    · exact Core.onlyLanded.refl c

/-- The writes due by the end of a cycle leave the list and land. -/
theorem Core.retire_eq (c : Core) (t : Nat) :
    c.retire t = ({ c with iss := { c.iss with pend := c.iss.pend.filter fun w => !(w.due ≤ t) } } : Core).landDue (fun w => decide (w.due ≤ t)) c.iss.pend := by
  rw [Core.retire, List.foldl_filter]
  rfl

/-- Where each write that meets `P` gives a value its bits and the others leave it, the list leaves what `stands` says. -/
theorem stands_foldl {β : Type} {P : FixedWrite → Prop} {cls n i : Nat} (val : β → Bool) (step : β → FixedWrite → β) (I : β → Prop) (hI : ∀ b x, I b → I (step b x))
    (hgive : ∀ b x, I b → P x → val (step b x) = (givenBit cls n i x.wr).getD (val b)) (hkeep : ∀ b x, I b → ¬P x → val (step b x) = val b)
    (l : List FixedWrite) {b : β} (hb : I b) : stands l P cls n i (val b) (val (l.foldl step b)) := by
  have hbit (x : FixedWrite) : givenBit cls n i x.wr = if n = 0 ∧ cls ∈ [0, 2, 7] then none else if (given x.wr).1 = cls ∧ (given x.wr).2.1 = n then (given x.wr).2.2 i else none := by
    unfold givenBit
    by_cases hc : n = 0 ∧ cls ∈ [0, 2, 7]
    · rw [if_neg (by tauto), if_pos hc]
    · rw [if_neg hc]; simp only [hc, not_false_eq_true, true_and]
  have hinv (l : List FixedWrite) : ∀ b, I b → I (l.foldl step b) := by
    induction l with
    | nil => exact fun b h => h
    | cons x t ih => exact fun b h => ih _ (hI b x h)
  have hstay (l : List FixedWrite) : ∀ b, I b → (∀ x ∈ l, P x → givenBit cls n i x.wr = none) → val (l.foldl step b) = val b := by
    induction l with
    | nil => exact fun b _ _ => rfl
    | cons x t ih =>
      intro b h hn
      rw [List.foldl_cons, ih _ (hI b x h) fun y hy => hn y (List.mem_cons_of_mem _ hy)]
      by_cases hP : P x
      · rw [hgive b x h hP, hn x (List.mem_cons_self ..) hP, Option.getD_none]
      · exact hkeep b x h hP
  constructor
  · rintro hc p w r bit rfl hP hw hr
    have hpw := hinv p b hb
    rw [List.foldl_append, List.foldl_cons, hstay r _ (hI _ w hpw) fun x hx hPx => by rw [hbit, if_neg hc]; exact hr x hx hPx, hgive _ w hpw hP, hbit, if_neg hc]
    exact congrArg (Option.getD · _) hw
  · intro h
    refine hstay l b hb fun x hx hP => ?_
    rw [hbit]
    split
    · rfl
    · next hc => exact h.resolve_left hc x hx hP

theorem stands_landDue (c : Core) (due : FixedWrite → Bool) (l : List FixedWrite) (cls n i : Nat) :
    stands l (fun x => due x = true) cls n i (heldBit c.regs c.vec cls n i) (heldBit (c.landDue due l).regs (c.landDue due l).vec cls n i) ∧
    stands l (fun x => due x = true ∧ x.region < c.iss.region) cls n i (heldBit c.sh c.rollback.vec cls n i)
      (heldBit (c.landDue due l).sh (c.landDue due l).rollback.vec cls n i) := by
  constructor
  · refine stands_foldl (fun k : Core => heldBit k.regs k.vec cls n i) _ (fun _ => True) (fun _ _ _ => trivial) (fun k x _ h => ?_) (fun k x _ h => ?_) l (b := c) trivial
    · simp only [h, if_true, heldBit_land]
    · simp only [h]; rfl
  · refine stands_foldl (fun k : Core => heldBit k.sh k.rollback.vec cls n i) _ (fun k => k.iss.region = c.iss.region) (fun k x h => ?_) (fun k x h hP => ?_) (fun k x h hP => ?_) l (b := c) rfl
    · split
      · rw [Core.land_region, h]
      · exact h
    · simp only [hP.1, if_true, heldBit_land_shadow, h, hP.2]
    · split
      · next hd => rw [heldBit_land_shadow, h, if_neg fun hr => hP ⟨hd, hr⟩]
      · rfl

/-! ### FIXED_LATENCY_WRITE -/

section
variable (s : State) (c : Nat)

theorem fixedLatencyWrite_next : exec (.fixedLatencyWrite c) s = .next (s.modCore c fun k => k.retire s.cycle) := rfl

theorem State.onlyCore_modCore (f : Core → Core) : s.onlyCore (s.modCore c f) c :=
  ⟨rfl, rfl, rfl, rfl, rfl, rfl, fun _ hd => State.modCore_core_ne s f hd⟩

theorem Core.onlyLanded_retire (k : Core) (t : Nat) : ({ k with iss := { k.iss with pend := k.iss.pend.filter fun w => !(w.due ≤ t) } } : Core).onlyLanded (k.retire t) := by
  rw [Core.retire_eq]
  exact Core.onlyLanded_landDue _ _ _

theorem stands_retire (k : Core) (t : Nat) (cls n i : Nat) :
    stands k.iss.pend (fun x => x.due ≤ t) cls n i (heldBit k.regs k.vec cls n i) (heldBit (k.retire t).regs (k.retire t).vec cls n i) ∧
    stands k.iss.pend (fun x => x.due ≤ t ∧ x.region < k.iss.region) cls n i (heldBit k.sh k.rollback.vec cls n i) (heldBit (k.retire t).sh (k.retire t).rollback.vec cls n i) := by
  have h := stands_landDue { k with iss := { k.iss with pend := k.iss.pend.filter fun w => !(w.due ≤ t) } } (fun w => decide (w.due ≤ t)) k.iss.pend cls n i
  simp only [decide_eq_true_eq] at h
  rw [Core.retire_eq]
  exact h

theorem registerWritesLand : RegisterWritesLand := fun s c =>
  ⟨_, fixedLatencyWrite_next s c, State.onlyCore_modCore s c _, fun cls n i => by
    rw [State.modCore_core_same]
    exact stands_retire (s.core c) s.cycle cls n i⟩

end

theorem Core.landDue_sh {due : FixedWrite → Bool} {l : List FixedWrite} {c : Core} (h : ∀ w ∈ l, due w = true → c.iss.region ≤ w.region) : (c.landDue due l).sh = c.sh := by
  induction l generalizing c with
  | nil => rfl
  | cons w t ih =>
    have ht := fun x hx => h x (List.mem_cons_of_mem _ hx)
    show Core.sh (Core.landDue (if due w then c.land w.region w.wr else c) due t) = c.sh
    split
    · next hd => rw [ih (by rwa [Core.land_region]), Core.land_sh, if_neg (Nat.not_lt.mpr (h w (List.mem_cons_self ..) hd))]
    · exact ih ht

/-! Scalars as the bits of class 0 give them. -/
section
variable {l : List FixedWrite} {P : FixedWrite → Prop} {n : Nat} {r r' : Regs} {x x' : Bank Vec}

theorem given_ne_scalar {w : Wr} (h : ∀ u, w ≠ .s n u) : ¬((given w).1 = 0 ∧ (given w).2.1 = n) := by
  rintro ⟨hc, hn⟩
  cases w with
  | s k u => exact h u (congrArg (Wr.s · u) hn)
  | _ => exact absurd hc (by simp [given])

/-- The scalar that the last write of a list which names it leaves. -/
theorem rs_of_stands (h : ∀ i, stands l P 0 n i (heldBit r x 0 n i) (heldBit r' x' 0 n i)) (hn : n ≠ 0) {p q : List FixedWrite} {w : FixedWrite} {v : W64}
    (hl : l = p ++ w :: q) (hP : P w) (hw : w.wr = .s n v) (hq : ∀ y ∈ q, P y → ∀ u, y.wr ≠ .s n u) : r'.rs n = v :=
  BitVec.eq_of_getLsbD_eq fun i _ =>
    (h i).1 (fun hc => hn hc.1) p w q _ hl hP (by simp [hw, given]) fun y hy hPy => if_neg (given_ne_scalar (hq y hy hPy))

/-- A scalar that no write names stays. -/
theorem rs_of_stands_none (h : ∀ i, stands l P 0 n i (heldBit r x 0 n i) (heldBit r' x' 0 n i)) (hq : ∀ y ∈ l, P y → ∀ u, y.wr ≠ .s n u) : r'.rs n = r.rs n :=
  BitVec.eq_of_getLsbD_eq fun i _ => (h i).2 (Or.inr fun y hy hPy => if_neg (given_ne_scalar (hq y hy hPy)))

end

theorem scalarWritesLand : ScalarWritesLand := by
  intro s c
  refine ⟨_, fixedLatencyWrite_next s c, State.onlyCore_modCore s c _, ?_⟩
  rw [State.modCore_core_same]
  generalize s.core c = k
  have hframe := Core.onlyLanded_retire k s.cycle
  have hregs n i := (stands_retire k s.cycle 0 n i).1
  have hsh n i := (stands_retire k s.cycle 0 n i).2
  have hpend : (k.retire s.cycle).iss.pend = k.iss.pend.filter fun w => !(w.due ≤ s.cycle) := congrArg (·.iss.pend) hframe
  refine ⟨fun w => by simp [hpend], fun l r d n v reg hl hd hn hr => ?_, fun n hn => ?_, fun h => ?_, rfl, rfl, congrArg (·.wb) hframe, congrArg (·.rq) hframe, congrArg (·.scr) hframe,
    congrArg (·.acc) hframe, congrArg (·.l1) hframe⟩
  · have hlast : ∀ y ∈ r, y.due ≤ s.cycle → ∀ u, y.wr ≠ .s n u := fun y hy hdue u => (hr y hy u).resolve_right (Nat.not_lt.mpr hdue)
    exact ⟨rs_of_stands (hregs n) hn hl hd rfl hlast, fun hreg => rs_of_stands (hsh n) hn hl ⟨hd, hreg⟩ rfl fun y hy hP => hlast y hy hP.1⟩
  · have hnone : ∀ y ∈ k.iss.pend, y.due ≤ s.cycle → ∀ u, y.wr ≠ .s n u := fun y hy hdue u => (hn y hy u).resolve_right (Nat.not_lt.mpr hdue)
    exact ⟨rs_of_stands_none (hregs n) hnone, rs_of_stands_none (hsh n) fun y hy hP => hnone y hy hP.1⟩
  · rw [Core.retire_eq]
    exact Core.landDue_sh fun w hw hdue => (h w hw).resolve_left (Nat.not_lt.mpr (of_decide_eq_true hdue))

/-- Settles O10: the writes land one by one, each giving its own register the bits that it covers, in the shadow too where its region has committed. -/
theorem fixedWritesLand : Obligations.FixedWritesLand := ⟨scalarWritesLand, registerWritesLand⟩

end Sys2Proof.Machine

/-! Pending results landing (R78, R130, R164). -/
namespace Sys2Proof.Machine
open Sys2Proof.Claims

/-! ### What a completed result leaves -/

/-- The list of pending results without `v`. -/
def Issue.without (i : Issue) (v : VarWrite) : Issue := { i with vpend := i.vpend.filter fun x => x.id != v.id }

section
variable {k : Core} {v : VarWrite} {t : Nat}

theorem Core.finishVar_eq (h : k.var? v.id = some v) (hp : v.poison = none) :
    k.finishVar t v.id = ({ k.landBefore t v.regs with iss := (k.landBefore t v.regs).iss.without v } : Core).landAll v.region v.wr := by
  simp only [Core.finishVar, h, hp, Issue.without]

/-- A poisoned result changes no register: its trap waits (R164). -/
theorem Core.finishVar_poisoned (h : k.var? v.id = some v) {slot : Nat} {a : W72} (hp : v.poison = some (slot, a)) {r : RegName} {l : List RegName} (hr : v.regs = r :: l) :
    k.finishVar t v.id = { k.landBefore t v.regs with
      iss := { (k.landBefore t v.regs).iss.without v with poisons := (k.landBefore t v.regs).iss.poisons ++ [⟨0x0B, slot, poisonReg r, 0, a⟩] } } := by
  cases r <;> simp [Core.finishVar, h, hp, hr, Issue.without, poisonReg]

end

/-- Write `w` was due before cycle `t`, to one of `regs`. -/
def FixedWrite.dueBefore (t : Nat) (regs : List RegName) (w : FixedWrite) : Bool :=
  w.due < t && (match w.wr.reg? with | some r => regs.contains r | none => false)

theorem Core.landBefore_eq (k : Core) (t : Nat) (regs : List RegName) : k.landBefore t regs =
    ({ k with iss := { k.iss with pend := k.iss.pend.filter fun w => !w.dueBefore t regs } } : Core).landDue (FixedWrite.dueBefore t regs) k.iss.pend := by
  rw [Core.landDue, ← List.foldl_filter]
  rfl

theorem Core.landBefore_pend (k : Core) (t : Nat) (regs : List RegName) : (k.landBefore t regs).iss.pend = k.iss.pend.filter fun w => !w.dueBefore t regs := by
  rw [Core.landBefore_eq, Core.onlyLanded_landDue]

/-- With no write due before this cycle, none comes first. -/
theorem Core.landBefore_none {k : Core} {t : Nat} (h : ∀ w ∈ k.iss.pend, t ≤ w.due) (regs : List RegName) : k.landBefore t regs = k := by
  have hf : ∀ w ∈ k.iss.pend, w.dueBefore t regs = false := fun w hw => by simp [FixedWrite.dueBefore, Nat.not_lt.mpr (h w hw)]
  have hfirst : k.iss.pend.filter (FixedWrite.dueBefore t regs) = [] := List.filter_eq_nil_iff.mpr fun w hw => by simp [hf w hw]
  have hrest : k.iss.pend.filter (fun w => !w.dueBefore t regs) = k.iss.pend := List.filter_eq_self.mpr fun w hw => by simp [hf w hw]
  rw [Core.landBefore_eq, Core.landDue, ← List.foldl_filter, hfirst, hrest]
  rfl

/-- A write to no vector and no system register changes the registers, and their shadow where its region has committed. -/
theorem Core.land_of_ordinary (k : Core) (reg : Nat) {w : Wr} (hv : ∀ n m x, w ≠ .v n m x) (hs : ∀ n x, w ≠ .sys n x) :
    k.land reg w = { k with regs := k.regs.apply w, sh := if decide (reg < k.iss.region) then k.sh.apply w else k.sh } := by
  cases w with
  | v n m x => exact absurd rfl (hv n m x)
  | sys n x => exact absurd rfl (hs n x)
  | _ => by_cases h : reg < k.iss.region <;> simp [Core.land, h]

/-! ### The two transitions -/

section
variable {i : Instr} {s : State} {c : Nat} {v : VarWrite}

/-- A transition that completes result `v` of core `c` lets it land. -/
theorem lands_of_finishVar (h : (s.core c).var? v.id = some v) (hi : exec i s = .next (s.modCore c fun k => k.finishVar s.cycle v.id)) : lands i s c v := by
  have hto {e : Core} (he : (s.core c).finishVar s.cycle v.id = e) : coreTo i s c e :=
    ⟨_, hi, State.onlyCore_modCore s c _, by rw [State.modCore_core_same, he]⟩
  refine ⟨fun n x hp hregs hwr hn => ⟨_, hi, State.onlyCore_modCore s c _, ?_⟩, fun hdue hp => ?_, fun hdue slot a r l hp hr => hto ?_⟩
  · rw [State.modCore_core_same, Core.finishVar_eq h hp, hwr]
    refine ⟨by simp [Core.landAll, Core.land, Regs.apply, Regs.rs, hn], fun w hw => ?_⟩
    have hmem : w ∈ ((s.core c).landBefore s.cycle v.regs).iss.pend := hw
    rw [Core.landBefore_pend, List.mem_filter] at hmem
    refine ⟨hmem.1, fun y hy => Nat.le_of_not_lt fun hlt => ?_⟩
    simpa [FixedWrite.dueBefore, hregs, hy, Wr.reg?, hlt] using hmem.2
  · have hfin := Core.finishVar_eq (t := s.cycle) h hp
    rw [Core.landBefore_none hdue] at hfin
    refine ⟨fun n x hwr hn => hto ?_, fun x hwr => hto ?_, fun n x hwr => hto ?_, fun n x hwr => hto ?_, fun n m x hwr hold => hto ?_⟩
    all_goals rw [hfin, hwr, Core.landAll, Core.landAll]
    · rw [Core.land_of_ordinary _ _ (by simp) (by simp)]
      simp only [Regs.apply, hn, if_false]
      rfl
    · rw [Core.land_of_ordinary _ _ (by simp) (by simp)]
      rfl
    · rw [Core.land_of_ordinary _ _ (by simp) (by simp)]
      rfl
    · rw [Core.land_of_ordinary _ _ (by simp) (by simp)]
      rfl
    · have hopen : ¬v.region < (s.core c).iss.region := of_decide_eq_false hold
      simp only [Core.land, Regs.apply, Issue.without, hopen, if_false, blend]
  · rw [Core.finishVar_poisoned h hp hr, Core.landBefore_none hdue]
    rfl

/-- LOAD_COMPLETE of a result that the transition itself completes: it finishes once its cycle has come. -/
theorem exec_loadComplete (h : (s.core c).var? v.id = some v) (hk : v.kind = .load ∨ v.kind = .atomic ∨ v.kind = .status) :
    exec (.loadComplete c v.id) s = .next (s.modCore c fun k => if v.ready.any (· ≤ s.cycle) then k.finishVar s.cycle v.id else k) := by
  have hdue : (s.core c).varDue v s.cycle = v.ready.any (· ≤ s.cycle) := by
    unfold Core.varDue
    obtain h | h | h := hk <;> cases v.ready <;> simp [h]
  refine congrArg Host.Outcome.next (congrArg (s.setCore c) ?_)
  show (match (s.core c).var? v.id with | none => _ | some v => _) = _
  rw [h]
  dsimp only
  rw [hdue]
  obtain h | h | h := hk <;> cases v.ready.any _ <;> simp [h]

theorem exec_divisionComplete (h : (s.core c).iss.vpend.find? (fun x => x.kind == .division) = some v) (hr : ready s v) :
    exec (.divisionComplete c) s = .next (s.modCore c fun k => k.finishVar s.cycle v.id) := by
  obtain ⟨r, hr, hle⟩ := hr
  show execDivisionComplete c s = _
  simp only [execDivisionComplete, h, hr, Option.all_some, decide_eq_true hle, if_true]

theorem ready_iff : ready s v ↔ v.ready.any (· ≤ s.cycle) = true := by
  rw [ready, Option.any_eq_true]
  simp only [decide_eq_true_eq]

end

/-- Settles O37: both transitions finish the result, and a finished result lands. -/
theorem resultsArrive : Obligations.ResultsArrive := by
  intro s c v k hv
  refine ⟨fun hk => ⟨fun hr => ?_, fun hr => ?_⟩, fun hd hr => lands_of_finishVar hv (exec_divisionComplete hd hr)⟩
  · exact lands_of_finishVar hv ((exec_loadComplete hv hk).trans (by simp only [ready_iff.mp hr, if_true]))
  · refine ⟨_, exec_loadComplete hv hk, State.onlyCore_modCore s c _, ?_⟩
    rw [State.modCore_core_same, if_neg (ready_iff.not.mp hr)]

end Sys2Proof.Machine

/-! What a bundle meets at issue (R55, R57, R72, R73, R78, R79, R106): the waits, the checks of a whole bundle, and the state in which its operations act. -/
namespace Sys2Proof.Machine
open Sys2Proof.Claims

/-! ### Bundles that wait (R78, R106, R130, R203) -/

section
variable {u : State} {w : BitVec 512}

theorem State.namesPending_of {h : Header} {ops : List SlotOp} {p : VarWrite → Bool} {o : SlotOp} (ho : o ∈ ops) {x : Opnd} (hx : x ∈ operands o.op)
    (hs : (x.rc, x.n) ≠ (.s, 0)) {v : VarWrite} (hv : v ∈ u.me.iss.vpend) (hp : p v = true) {r : RegName} (hr : r ∈ v.regs) (hk : r.key = (x.rc, x.n)) :
    u.namesPending h ops p = true := by
  refine List.any_eq_true.mpr ⟨o, ho, List.any_eq_true.mpr ⟨(x.rc, x.n), List.mem_append_left _ (List.mem_map_of_mem hx), ?_⟩⟩
  rw [List.contains_iff_mem, List.mem_filter, List.mem_flatMap]
  exact ⟨⟨v, List.mem_filter.mpr ⟨hv, hp⟩, hk ▸ List.mem_map_of_mem hr⟩, by simpa using hs⟩

/-- A bundle that names a register of a pending result finds one that it may name. -/
theorem State.exists_of_namesPending {h : Header} {ops : List SlotOp} {p : VarWrite → Bool} (hn : u.namesPending h ops p = true) : ∃ v ∈ u.me.iss.vpend, p v = true := by
  obtain ⟨o, -, ho⟩ := List.any_eq_true.mp hn
  obtain ⟨x, -, hx⟩ := List.any_eq_true.mp ho
  rw [List.contains_iff_mem, List.mem_filter, List.mem_flatMap] at hx
  obtain ⟨⟨v, hv, -⟩, -⟩ := hx
  exact ⟨v, List.mem_filter.mp hv⟩

theorem State.waits_of_interlocked (h : u.interlocked (decodeHeader w) (rawOps w) = true) : waits u w := by
  unfold waits State.issueWord
  rw [if_pos h]
  unfold State.engineWait
  split
  · next he =>
    rw [Bool.and_eq_true, Bool.and_eq_true] at he
    obtain ⟨⟨-, hf⟩, hn⟩ := he
    obtain ⟨v, hv, hk⟩ := State.exists_of_namesPending hn
    exact Or.inr ⟨Option.isSome_iff_ne_none.mp hf, ⟨v, hv, of_decide_eq_true (by simpa using hk)⟩, _, rfl, State.onlyCore_modCore u u.cur _, State.modMe_me u _⟩
  · exact Or.inl rfl

theorem State.waits_of_pendingReg (h : ∃ o ∈ rawOps w, ∃ x ∈ operands o.op, pendingReg u (x.rc, x.n)) : waits u w := by
  obtain ⟨o, ho, x, hx, hs, v, hv, r, hr, hk⟩ := h
  refine State.waits_of_interlocked ?_
  rw [State.interlocked, State.namesPending_of ho hx hs hv rfl hr hk]
  rfl

theorem State.waits_of_division (hv : ∃ v ∈ u.me.iss.vpend, v.kind = .division) (ho : ∃ o ∈ rawOps w, isDiv o.op = true) : waits u w := by
  refine State.waits_of_interlocked ?_
  have hbusy : u.me.iss.vpend.any (fun v => v.kind == .division) = true := List.any_eq_true.mpr (by simpa using hv)
  rw [State.interlocked, hbusy, List.any_eq_true.mpr ho]
  simp

theorem SlotOp.held_of {o : SlotOp} (h : o.slot ∈ [4, 5, 6, 7, 9] ∨ ∃ f, o.op = .xld f) : SlotOp.held o = true := by
  unfold SlotOp.held
  rw [Bool.or_eq_true, List.contains_iff_mem]
  exact h.imp_right fun ⟨f, hf⟩ => by rw [hf]; rfl

theorem State.waits_of_hold (hv : ∃ v ∈ u.me.iss.vpend, v.hold = true) (ho : ∃ o ∈ rawOps w, o.slot ∈ [4, 5, 6, 7, 9] ∨ ∃ f, o.op = .xld f) : waits u w := by
  obtain ⟨o, hm, ho⟩ := ho
  refine State.waits_of_interlocked ?_
  rw [State.interlocked, List.any_eq_true.mpr hv, List.any_eq_true.mpr ⟨o, hm, SlotOp.held_of ho⟩]
  simp

/-! ### The checks of a whole bundle (R57, R72, R79) -/

theorem State.issueWord_error (hi : u.interlocked (decodeHeader w) (rawOps w) = false) {r n : Nat} (hd : decodeBundleIn (u.decEnv (decodeHeader w)) w = .error (r, n)) :
    u.issueWord w = some (u.precise (cause0 0x01 (16 * r + n))) := by
  simp only [State.issueWord, hi, hd]
  rfl

theorem State.issueWord_ok (hi : u.interlocked (decodeHeader w) (rawOps w) = false) {b : Bundle} (hd : decodeBundleIn (u.decEnv (decodeHeader w)) w = .ok b) :
    u.issueWord w = u.issueBundle b := by
  simp only [State.issueWord, hi, hd]
  rfl

variable {b : Bundle} {live : List SlotOp}

/-- A bundle that has come to its issue cycle: the scoreboard's check, then its faults and its watermarks, then its effects. -/
theorem State.issueBundle_of_comes (h : comes u b live) : u.issueBundle b =
    match (u.swapAll b).staleSlot b.ops with
    | some n => some (u.precise (cause0 0x02 n))
    | none =>
      let w := (u.swapAll b).watermarkOf live
      match (u.swapAll b).firstFault (live.filter fun o => match w with | some x => o.slot ≤ x.2.1 | none => true) with
      | some u => some u
      | none => match w with
        | some w => some (u.modMe fun k => { k.commit with iss := { k.commit.iss with wmWait := some w } })
        | none => some (u.runBundle b live) := by
  obtain ⟨rfl, hcommit, hmiss, hcap, hbank⟩ := h
  have hcap' : u.capped b = false := hcap
  have hbank' : (decide (0 < (u.swapAll b).conflicts (b.ops.filter fun o => u.me.guardOn o.guard)) && !u.me.iss.paid) = false := by
    rcases hbank with h | h <;> simp [h]
  simp only [State.issueBundle, hcommit, hmiss, hcap', hbank']
  rfl

/-- It issues where nothing hinders it. -/
theorem State.issueBundle_of_unhindered (h : unhindered u b live) : u.issueBundle b = some (u.runBundle b live) := by
  obtain ⟨hc, hstale, hfault, hwm⟩ := h
  rw [State.issueBundle_of_comes hc, hstale]
  simp only [hwm, List.filter_true, hfault]

/-- No register differs but shape registers. -/
def Regs.onlyShapes (a b : Regs) : Prop := b = { a with shAct := b.shAct, shShd := b.shShd }

theorem Regs.onlyShapes.trans {a b c : Regs} (h : a.onlyShapes b) (h' : b.onlyShapes c) : a.onlyShapes c := by
  unfold Regs.onlyShapes at *
  rw [h', h]

theorem Regs.onlyShapes_swapOf (h : Header) (r : Regs) (o : SlotOp) : r.onlyShapes (swapOf h r o) := by
  unfold swapOf
  split
  · split <;> rfl
  · rfl

theorem Regs.onlyShapes_foldl_swapOf (h : Header) (ops : List SlotOp) (r : Regs) : r.onlyShapes (ops.foldl (swapOf h) r) := by
  induction ops generalizing r with
  | nil => rfl
  | cons o t ih => exact (Regs.onlyShapes_swapOf h r o).trans (ih _)

@[simp] theorem State.swapAll_me (u : State) (b : Bundle) : (u.swapAll b).me = { u.me with regs := b.ops.foldl (swapOf b.hdr) u.me.regs } := State.modMe_me u _

/-- A source whose write is in flight makes an operation stale (R79). -/
theorem Core.stale_of_source {k : Core} {cycle : Nat} {o : SlotOp} {x : Opnd} (hx : x ∈ operands o.op) (hsrc : x.w = false) (hs : (x.rc, x.n) ≠ (.s, 0))
    {p : FixedWrite} (hp : p ∈ k.iss.pend) (hk : p.wr.key = some (x.rc, x.n)) : k.stale cycle o = true := by
  refine List.any_eq_true.mpr ⟨p, hp, ?_⟩
  have hmem : (x.rc, x.n) ∈ ((operands o.op).filter fun x => !x.w).map fun x => (x.rc, x.n) := List.mem_map_of_mem (List.mem_filter.mpr ⟨hx, by simp [hsrc]⟩)
  simp only [hk]
  rw [Bool.or_eq_true, Bool.and_eq_true, List.contains_iff_mem]
  exact Or.inl ⟨List.mem_append_left _ (List.mem_cons_of_mem _ hmem), by simpa using hs⟩

theorem State.staleSlot_of_source (hon : u.me.regs.ckcfg.getLsbD 0 = true)
    (h : ∃ o ∈ b.ops, ∃ x ∈ operands o.op, x.w = false ∧ (x.rc, x.n) ≠ (.s, 0) ∧ ∃ p ∈ u.me.iss.pend, p.wr.key = some (x.rc, x.n)) :
    ∃ o ∈ b.ops, (u.swapAll b).staleSlot b.ops = some o.slot := by
  have hon' : (u.swapAll b).me.regs.ckcfg.getLsbD 0 = true := by
    rw [State.swapAll_me]
    dsimp only
    rw [Regs.onlyShapes_foldl_swapOf]
    exact hon
  obtain ⟨o, ho, x, hx, hsrc, hs, p, hp, hk⟩ := h
  have hstale : (u.swapAll b).me.stale (u.swapAll b).cycle o = true := by
    rw [State.swapAll_me]
    exact Core.stale_of_source hx hsrc hs hp hk
  cases hf : b.ops.find? ((u.swapAll b).me.stale (u.swapAll b).cycle) with
  | none => exact absurd hstale (List.find?_eq_none.mp hf o ho)
  | some y => exact ⟨y, List.mem_of_find?_eq_some hf, by rw [State.staleSlot, if_pos hon', hf]; rfl⟩

theorem State.issueBundle_stale (hon : u.me.regs.ckcfg.getLsbD 0 = true) (hc : ∃ l, comes u b l)
    (h : ∃ o ∈ b.ops, ∃ x ∈ operands o.op, x.w = false ∧ (x.rc, x.n) ≠ (.s, 0) ∧ ∃ p ∈ u.me.iss.pend, p.wr.key = some (x.rc, x.n)) :
    ∃ o ∈ b.ops, u.issueBundle b = some (u.precise (cause0 0x02 o.slot)) := by
  obtain ⟨l, hc⟩ := hc
  obtain ⟨o, ho, hs⟩ := State.staleSlot_of_source hon h
  exact ⟨o, ho, by rw [State.issueBundle_of_comes hc, hs]⟩

/-! ### The state in which a bundle's operations act (R55, R168, R188, R352) -/

/-- The core's bundle counts, and no branch is chosen yet. -/
def State.counted (u : State) (live : List SlotOp) : State :=
  (u.meter u.cur 4 (live.filter fun o => o.slot == 2 || o.slot == 3).length).modMe fun k => { k with
    job := k.job.map fun j => j.count u.cycle, iss := { k.iss with next := none } }
/-- Its shape registers are exchanged, and its scratchpad accesses hold their banks. -/
def State.readied (u : State) (b : Bundle) (live : List SlotOp) : State :=
  let t := (u.counted live).swapAll b
  if u.me.iss.paid then t else t.holdBanks (t.bankWords live)
/-- Its operations have acted, its index loads on the banks that its other accesses left them. -/
def State.acted (v : State) (live : List SlotOp) : State := v.ownReads (v.runOps (runOrder live)) live (v.conflicts live)
/-- A `trap`. -/
def isTrap : Instr → Bool
  | .trap _ => true
  | _ => false

theorem Core.meter_frame (k : Core) (idx n : Nat) : ∃ x y, (if k.isFrozen then k else { k with count := k.count.put 0 idx (k.count.get 0 idx + n), recent := k.recent.put 0 idx (k.recent.get 0 idx + n) }) =
    { k with count := x, recent := y } := by
  split
  · exact ⟨k.count, k.recent, rfl⟩
  · exact ⟨_, _, rfl⟩

theorem State.counted_me (u : State) (live : List SlotOp) : ∃ x y, (u.counted live).me =
    { u.me with count := x, recent := y, job := u.me.job.map fun j => j.count u.cycle, iss := { u.me.iss with next := none } } := by
  obtain ⟨x, y, h⟩ := Core.meter_frame u.me 4 (live.filter fun o => o.slot == 2 || o.slot == 3).length
  refine ⟨x, y, ?_⟩
  rw [State.counted, State.modMe_me]
  have hm : (u.meter u.cur 4 (live.filter fun o => o.slot == 2 || o.slot == 3).length).me = { u.me with count := x, recent := y } := (State.modCore_core_same u u.cur _).trans h
  rw [hm]

theorem State.counted_paid (u : State) (live : List SlotOp) : (u.counted live).me.iss.paid = u.me.iss.paid := by
  obtain ⟨x, y, h⟩ := State.counted_me u live
  rw [h]

theorem State.runBundle_eq (u : State) (b : Bundle) {live : List SlotOp} (htrap : (live.any fun o => isTrap o.op) = false) : ∃ nv nm nc ckpt,
    u.runBundle b live = ((u.readied b live).acted live).modCore u.cur fun k => k.issued ((u.readied b live).acted live).cycle b.hdr.stall nv nm nc ckpt := by
  refine ⟨(u.regionCounts b live).1, (u.regionCounts b live).2.1, (u.regionCounts b live).2.2, b.hdr.ckpt || b.ops.any (fun o => commits o.op) || live.any fun o => isSystem o.op, ?_⟩
  have hready : u.readied b live = if (u.counted live).me.iss.paid then (u.counted live).swapAll b else ((u.counted live).swapAll b).holdBanks (((u.counted live).swapAll b).bankWords live) := by
    rw [State.counted_paid]
    rfl
  rw [hready]
  exact if_neg fun h => Bool.false_ne_true (htrap.symm.trans (Bool.and_eq_true_iff.mp h).1)

/-- Where pending results wait for banks, only the time of each may change; none does without index loads, or with every bank free. -/
theorem Core.waitBanks_spec (k : Core) (cycle : Nat) (f : Nat → Nat) : ∃ l, k.waitBanks cycle f = { k with iss := { k.iss with vpend := l } } ∧
    timeless l = timeless k.iss.vpend ∧ (k.iss.xlds = [] → l = k.iss.vpend) ∧ ((∀ n, f n = 0) → l = k.iss.vpend) := by
  unfold Core.waitBanks
  split
  · exact ⟨k.iss.vpend, rfl, rfl, fun _ => rfl, fun _ => rfl⟩
  · next hx =>
    refine ⟨_, rfl, ?_, fun h => absurd (List.isEmpty_iff.mpr h) hx, fun h => ?_⟩
    · unfold timeless
      rw [List.map_map]
      refine List.map_congr_left fun v _ => ?_
      dsimp only [Function.comp]
      split
      · split <;> rfl
      · rfl
    · have hzero (l : List Nat) : l.foldl (fun m b => max m (f b)) 0 = 0 := by
        induction l with
        | nil => rfl
        | cons b t ih => rw [List.foldl_cons, h b]; exact ih
      refine (List.map_congr_left fun v _ => ?_).trans (List.map_id _)
      split
      · next hr =>
        split
        · show { v with ready := some _ } = v
          rw [hzero, Nat.add_zero, ← hr]
        · rfl
      · rfl

theorem State.onlyCore.trans {s t u : State} {c : Nat} (h : s.onlyCore t c) (h' : t.onlyCore u c) : s.onlyCore u c := by
  obtain ⟨hm, hh, hcy, ho, ha, hf, hc⟩ := h
  obtain ⟨hm', hh', hcy', ho', ha', hf', hc'⟩ := h'
  exact ⟨hm'.trans hm, hh'.trans hh, hcy'.trans hcy, ho'.trans ho, ha'.trans ha, hf'.trans hf, fun d hd => (hc' d hd).trans (hc d hd)⟩

theorem State.onlyCore_readied (u : State) (b : Bundle) (live : List SlotOp) : u.onlyCore (u.readied b live) u.cur := by
  have h : u.onlyCore ((u.counted live).swapAll b) u.cur :=
    ((State.onlyCore_modCore u u.cur _).trans (State.onlyCore_modCore _ u.cur _)).trans (State.onlyCore_modCore (u.counted live) u.cur _)
  unfold State.readied
  dsimp only
  split
  · exact h
  · exact h.trans (State.onlyCore_modCore ((u.counted live).swapAll b) u.cur _)

@[simp] theorem State.readied_cur (u : State) (b : Bundle) (live : List SlotOp) : (u.readied b live).cur = u.cur := by
  unfold State.readied
  dsimp only
  split <;> rfl

theorem State.readied_me (u : State) (b : Bundle) (live : List SlotOp) : ∃ x y l, (u.readied b live).me =
    { u.me with count := x, recent := y, job := u.me.job.map fun j => j.count u.cycle, regs := b.ops.foldl (swapOf b.hdr) u.me.regs, iss := { u.me.iss with next := none, vpend := l } } ∧
    timeless l = timeless u.me.iss.vpend ∧ (u.me.iss.xlds = [] → l = u.me.iss.vpend) ∧ (live = [] → l = u.me.iss.vpend) := by
  obtain ⟨x, y, h⟩ := State.counted_me u live
  unfold State.readied
  dsimp only
  split
  · exact ⟨x, y, u.me.iss.vpend, by rw [State.swapAll_me, h], rfl, fun _ => rfl, fun _ => rfl⟩
  · obtain ⟨l, hl, htime, hx, hfree⟩ := Core.waitBanks_spec ((u.counted live).swapAll b).me u.cycle (bankCount (((u.counted live).swapAll b).bankWords live))
    rw [State.swapAll_me, h] at hl htime hx hfree
    refine ⟨x, y, l, ?_, htime, hx, fun hlive => hfree fun n => ?_⟩
    · refine (State.modMe_me ((u.counted live).swapAll b) _).trans ?_
      rw [State.swapAll_me, h]
      exact hl
    · subst hlive
      rfl

/-! ### A bundle of no live operations (R55, R57) -/

theorem State.acted_nil (v : State) : v.acted [] = v := rfl

/-- A bundle none of whose guards holds issues, does nothing but its exchanges, and the pc moves past it. -/
theorem State.runBundle_nil (u : State) (b : Bundle) (ht : u.me.iss.trap = none) :
    issuedNothing u (u.runBundle b []) u.cur ∧ ((u.runBundle b []).core u.cur).iss.pc = u.me.iss.pc + 64 ∧ ((u.runBundle b []).core u.cur).regs = b.ops.foldl (swapOf b.hdr) u.me.regs := by
  obtain ⟨nv, nm, nc, ckpt, h⟩ := State.runBundle_eq u b (live := []) rfl
  obtain ⟨x, y, l, hme, -, -, hl⟩ := State.readied_me u b []
  obtain ⟨hmem, hhub, hcycle, hout, -, -, hcores⟩ := State.onlyCore_readied u b []
  have hcore : (u.runBundle b []).core u.cur = (u.readied b []).me.issued (u.readied b []).cycle b.hdr.stall nv nm nc ckpt := by
    rw [h, State.acted_nil, State.modCore_core_same, State.me, State.readied_cur]
  rw [hme, hl rfl] at hcore
  rw [h] at hcore ⊢
  refine ⟨⟨hhub, hcycle, hout, hmem, fun d hd => (State.modCore_core_ne _ _ hd).trans (hcores d hd), ?_⟩, ?_, ?_⟩
  · rw [hcore]
    exact ⟨Regs.onlyShapes_foldl_swapOf b.hdr b.ops u.me.regs, rfl, rfl, rfl, rfl, rfl, rfl, rfl, rfl, rfl, rfl⟩
  · rw [hcore]
    simp [Core.issued, ht]
  · rw [hcore]
    rfl

theorem foldl_swapOf_of_no_swap {h : Header} {ops : List SlotOp} (hs : ∀ o ∈ ops, h.swap o.slot = false) (r : Regs) : ops.foldl (swapOf h) r = r := by
  induction ops with
  | nil => rfl
  | cons o t ih =>
    have ho : swapOf h r o = r := by simp [swapOf, hs o (List.mem_cons_self ..)]
    rw [List.foldl_cons, ho]
    exact ih fun x hx => hs x (List.mem_cons_of_mem _ hx)

/-- An exchange of shape register `n` (R55). -/
theorem Regs.swap_shapes (r : Regs) (e n : Nat) : (r.swap e n).shape e n = r.shapeShadow e n ∧ (r.swap e n).shapeShadow e n = r.shape e n :=
  ⟨Bank.get_put_same _ _ _ _, Bank.get_put_same _ _ _ _⟩

theorem swapOf_of_swap {h : Header} {o : SlotOp} {n : Nat} (hs : h.swap o.slot = true) (hn : hsField o.op = some n) (r : Regs) : swapOf h r o = r.swap (slotEngine o.slot) n := by
  simp [swapOf, hs, hn]

end

/-- Settles O56, check by check in the order of issue. -/
theorem issueChecks : Obligations.IssueChecks := by
  intro u w
  refine ⟨State.waits_of_pendingReg, State.waits_of_division, State.waits_of_hold, fun hi => ⟨fun r n hd => State.issueWord_error hi hd, fun b hd => ?_⟩⟩
  rw [State.issueWord_ok hi hd]
  refine ⟨State.issueBundle_stale, fun hu ht => ?_⟩
  obtain ⟨hnothing, hpc, hregs⟩ := State.runBundle_nil u b ht
  refine ⟨_, State.issueBundle_of_unhindered hu, hnothing, hpc, fun hno => hregs.trans (foldl_swapOf_of_no_swap hno _), fun o n hops hs hn _ => ?_⟩
  rw [hregs, hops, List.foldl_cons, List.foldl_nil, swapOf_of_swap hs hn]
  exact Regs.swap_shapes _ _ _

end Sys2Proof.Machine

/-! Operations leave the clock and the acting core alone (R51): the operations of the state that an instruction of a slot may use, in the order of the model. -/
namespace Sys2Proof.Machine
open Sys2Proof.Claims

/-- The cycle and the core that acts. -/
def State.clock (s : State) : Nat × Nat := (s.cycle, s.cur)

theorem State.cycle_of_clock {s t : State} (h : t.clock = s.clock) : t.cycle = s.cycle := congrArg Prod.fst h
theorem State.cur_of_clock {s t : State} (h : t.clock = s.clock) : t.cur = s.cur := congrArg Prod.snd h

section
variable {s : State}

theorem clock_ite {p : Prop} [Decidable p] {a b : State} (ha : a.clock = s.clock) (hb : b.clock = s.clock) : (if p then a else b).clock = s.clock := by
  split
  · exact ha
  · exact hb

theorem clock_foldl {α : Type} {f : State → α → State} (hf : ∀ s x, (f s x).clock = s.clock) (l : List α) (s : State) : (l.foldl f s).clock = s.clock := by
  induction l generalizing s with
  | nil => rfl
  | cons x t ih => exact (ih _).trans (hf s x)

theorem clock_foldl_acc {α β : Type} {f : β → α → β} {proj : β → State} (hf : ∀ b x, (proj (f b x)).clock = (proj b).clock) (l : List α) (b : β) : (proj (l.foldl f b)).clock = (proj b).clock := by
  induction l generalizing b with
  | nil => rfl
  | cons x t ih => exact (ih _).trans (hf b x)

end

/-! ### The home (R108, R173, R179, R330, R331) -/

section
variable (s : State)

theorem State.clock_mem (m : Mem) : ({ s with mem := m } : State).clock = s.clock := rfl
theorem State.clock_out (o : Out) : (s.out o).clock = s.clock := rfl

theorem State.clock_noteLine (who : Option Nat) (ln i n : Nat) : (s.noteLine who ln i n).clock = s.clock := by
  cases who <;> rfl

theorem State.clock_giveUp (ln : Nat) : (s.giveUp ln).clock = s.clock :=
  clock_foldl (f := fun s (x : Nat × Nat) => s.out (.cacheEvict x.1 (64 * x.2))) (fun _ _ => rfl) _ s

theorem State.clock_l2Evict (who : Option Nat) (ln : Nat) : (s.l2Evict who ln).clock = s.clock :=
  (State.clock_giveUp _ ln).trans (clock_ite (State.clock_noteLine s who ln 9 128) rfl)

theorem State.clock_l2Room (who : Option Nat) (ln : Nat) : (s.l2Room who ln).clock = s.clock := by
  unfold State.l2Room
  dsimp only
  refine clock_ite rfl ?_
  split
  · rfl
  · split
    · rfl
    · split
      · exact clock_ite ((State.clock_mem _ _).trans (State.clock_l2Evict s who _)) ((State.clock_l2Evict _ who _).trans (State.clock_l2Evict s who _))
      · exact State.clock_l2Evict s who _

theorem State.clock_l2Unpair (who : Option Nat) (ln : Nat) : (s.l2Unpair who ln).clock = s.clock := by
  unfold State.l2Unpair
  split
  · exact clock_ite rfl ((State.clock_l2Evict _ who _).trans (State.clock_noteLine s who _ _ _))
  · rfl

theorem State.clock_l2Use (who : Option Nat) (ln cls : Nat) (d : Bool) : (s.l2Use who ln cls d).clock = s.clock :=
  clock_ite (State.clock_l2Unpair s who ln) (State.clock_l2Room s who ln)

theorem State.clock_dropSector (blk : Nat) : (s.dropSector blk).clock = s.clock := clock_ite rfl rfl

theorem State.clock_evictPort (port n fuel : Nat) (s : State) : (s.evictPort port n fuel).clock = s.clock := by
  induction fuel generalizing s with
  | zero => rfl
  | succ fuel ih =>
    unfold State.evictPort
    split
    · exact clock_ite rfl ((ih _).trans ((State.clock_out _ _).trans (State.clock_dropSector s _)))
    · rfl

theorem State.clock_takeSector (blk : Nat) : (s.takeSector blk).2.clock = s.clock := by
  unfold State.takeSector
  split
  · rfl
  · split
    · rfl
    · dsimp only
      split
      · rfl
      · split
        · rfl
        · exact State.clock_evictPort _ _ _ _

theorem State.clock_l2Take (who : Option Nat) (blk cls : Nat) (d : Bool) : (s.l2Take who blk cls d).clock = s.clock :=
  clock_ite ((State.clock_l2Use _ who _ cls d).trans (State.clock_takeSector s blk)) (State.clock_takeSector s blk)

theorem State.clock_backInvalidate (blk : Nat) : (s.backInvalidate blk).clock = s.clock := by
  unfold State.backInvalidate
  refine clock_ite rfl ((clock_foldl (f := fun s h => s.out (.snoop h (64 * blk))) (fun _ _ => rfl) _ _).trans ?_)
  exact clock_ite rfl (State.clock_l2Use _ none _ 3 true)

theorem State.clock_snoopRaw (blk : Nat) : (s.snoopRaw blk).clock = s.clock := clock_ite rfl (State.clock_backInvalidate s blk)

theorem State.clock_mergeHome (who : Option Nat) (blk : Nat) (cells : List (Nat × Byte)) (desc : Option (BitVec 32)) (whole poison : Bool) (cls : Nat) :
    (s.mergeHome who blk cells desc whole poison cls).clock = s.clock :=
  (State.clock_l2Use _ who _ cls true).trans (State.clock_snoopRaw s blk)

theorem State.clock_mergeSector (c ln i : Nat) : (s.mergeSector c ln i).clock = s.clock := State.clock_mergeHome s (some c) _ _ _ _ _ ((s.core c).line ln).cls

theorem State.clock_recall (ln : Nat) : (s.recall ln).clock = s.clock := by
  unfold State.recall
  split
  · rfl
  · exact (clock_ite (State.clock_mergeSector _ _ _ _) rfl).trans (clock_ite (State.clock_mergeSector s _ _ _) rfl)

theorem State.clock_snoopBlock (blk : Nat) : (s.snoopBlock blk).clock = s.clock :=
  (State.clock_snoopRaw _ blk).trans (clock_ite rfl (State.clock_recall s _))

theorem State.clock_snoopExcl (blk : Nat) : (s.snoopExcl blk).clock = s.clock := clock_ite (State.clock_snoopBlock s blk) rfl

/-! ### The L1 (R108, R110, R171, R173) -/

theorem State.clock_writeBack (c ln i : Nat) : (s.writeBack c ln i).clock = s.clock := by
  unfold State.writeBack
  refine clock_ite rfl (clock_ite (clock_ite rfl (clock_ite (State.clock_recall s ln) ?_)) ?_)
  · exact State.clock_mergeSector s c ln i
  · exact (State.clock_mergeSector _ c ln i).trans (State.clock_recall s ln)

theorem State.clock_flushLine (c ln : Nat) : (s.flushLine c ln).clock = s.clock :=
  clock_ite (State.clock_recall s ln) ((State.clock_writeBack _ c ln 1).trans (State.clock_writeBack s c ln 0))

theorem State.clock_flushAll (c : Nat) : (s.flushAll c).clock = s.clock := clock_foldl (fun s ln => State.clock_flushLine s c ln) _ s

theorem State.clock_discardLine (c ln : Nat) : (s.discardLine c ln).clock = s.clock := clock_ite (State.clock_flushLine s c ln) rfl

theorem State.clock_dropHome (c ln : Nat) : (s.dropHome c ln).clock = s.clock :=
  (State.clock_giveUp _ ln).trans (clock_ite (a := s.meter c 9 128) rfl rfl)

theorem State.clock_forwardAccess (c blk : Nat) : (s.forwardAccess c blk).clock = s.clock := by
  unfold State.forwardAccess
  dsimp only
  split <;> rfl

theorem State.clock_meterPool (c pa n : Nat) : (s.meterPool c pa n).clock = s.clock := by
  unfold State.meterPool
  split
  · exact clock_ite rfl rfl
  · rfl

theorem State.clock_meterRead (c blk : Nat) (again : Bool) : (s.meterRead c blk again).clock = s.clock :=
  clock_ite rfl (clock_ite ((State.clock_meterPool _ c _ 64).trans (clock_ite rfl (State.clock_forwardAccess s c blk))) rfl)

theorem State.clock_readHome (c blk cls : Nat) (alloc again : Bool) : (s.readHome c blk cls alloc again).2.clock = s.clock := by
  have h := (State.clock_snoopExcl _ blk).trans (State.clock_meterRead s c blk again)
  unfold State.readHome
  dsimp only
  split
  · exact h
  · exact clock_ite ((State.clock_l2Take _ _ blk cls false).trans h) h

theorem State.clock_makeRoom (c ln : Nat) : (s.makeRoom c ln).clock = s.clock := by
  unfold State.makeRoom
  refine clock_ite rfl ?_
  split
  · exact State.clock_flushLine s c _
  · rfl

theorem State.clock_fillSector (c ln i cls : Nat) (again : Bool) : (s.fillSector c ln i cls again).clock = s.clock :=
  (State.clock_readHome _ c _ cls true again).trans (State.clock_makeRoom s c ln)

theorem State.clock_readBlockOver (own : List (Nat × Byte)) (c blk ev : Nat) (need : List Nat) (again : Bool) :
    (s.readBlockOver own c blk ev need again).2.clock = s.clock := by
  unfold State.readBlockOver
  dsimp only
  split
  · rfl
  · split
    · rfl
    · split
      · exact State.clock_readHome s c blk 3 _ again
      · exact State.clock_fillSector s c _ blk _ again

theorem State.clock_readPhys (c pa n ev : Nat) : (s.readPhys c pa n ev).2.2.clock = s.clock := by
  unfold State.readPhys State.readPhysOver
  refine clock_foldl_acc (proj := fun x : Option Nat × List Byte × Option Nat × State => x.2.2.2) (fun acc blk => ?_) _ _
  exact State.clock_readBlockOver acc.2.2.2 _ c blk ev _ _

theorem State.clock_loadSegs (c ev : Nat) (segs : List Seg) : (s.loadSegs c ev segs).2.2.clock = s.clock :=
  clock_foldl_acc (proj := fun x : List Byte × Bool × State => x.2.2) (fun acc g => State.clock_readPhys acc.2.2 c g.pa g.n ev) segs ([], false, s)

theorem State.clock_tlbFill (c : Nat) (pipe : Bool) (ctx : Nat) (va : W72) (n fuel : Nat) (s : State) : (s.tlbFill c pipe ctx va n fuel).clock = s.clock := by
  induction fuel generalizing va n s with
  | zero => rfl
  | succ fuel ih =>
    unfold State.tlbFill
    dsimp only
    split
    · rfl
    · exact clock_ite rfl (ih _ _ _)

theorem State.clock_useTlb (va : W72) (n : Nat) : (s.useTlb va n).clock = s.clock := State.clock_tlbFill _ _ _ _ _ _ s

theorem State.clock_scopeRecall (scope : Nat) (lines : List Nat) : (s.scopeRecall scope lines).clock = s.clock :=
  clock_ite (clock_foldl State.clock_recall _ s) rfl

theorem State.clock_load (slot scope : Nat) (va : W72) (n ev : Nat) (reg : RegName) (wr : List Byte → List Wr) : (s.load slot scope va n ev reg wr).clock = s.clock :=
  (State.clock_loadSegs _ _ ev _).trans ((State.clock_scopeRecall _ scope _).trans (State.clock_useTlb s va n))

theorem State.clock_readDesc (c blk ev : Nat) : (s.readDesc c blk ev).2.clock = s.clock := by
  unfold State.readDesc
  dsimp only
  split
  · rfl
  · split
    · rfl
    · split
      · exact State.clock_readHome s c blk 3 _ false
      · exact State.clock_fillSector s c _ blk _ false

theorem State.clock_prefSector (c ln i ev : Nat) (again : Bool) : (s.prefSector c ln i ev again).clock = s.clock :=
  clock_ite rfl (clock_ite rfl (clock_ite (State.clock_readHome s c _ 3 true again) (State.clock_fillSector s c ln i _ again)))

/-! ### Acquires (R103, R118) -/

theorem State.clock_keepAcquired (c ln ev : Nat) (b : Block) : (s.keepAcquired c ln ev b).clock = s.clock :=
  clock_ite rfl (clock_ite (State.clock_makeRoom s c ln) (State.clock_makeRoom s c ln))

theorem State.clock_acquireRead (pa n scope ev : Nat) (keep : Bool) : (s.acquireRead pa n scope ev keep).2.2.2.clock = s.clock := by
  have hrecall : State.clock (if scope ≥ 2 then s.recall (pa / 128) else s) = s.clock := clock_ite (State.clock_recall s _) rfl
  exact (clock_ite (State.clock_keepAcquired _ _ _ _ _) rfl).trans ((State.clock_readHome _ _ _ _ _ _).trans ((State.clock_readHome _ _ _ _ _ _).trans hrecall))

theorem State.clock_absorb (c : Nat) (w : Pred) : (s.absorb c w).clock = s.clock := clock_foldl (fun s ln => State.clock_flushLine s c ln) _ s

theorem State.clock_acquired (c scope : Nat) (w : Pred) : (s.acquired c scope w).clock = s.clock :=
  clock_ite rfl (clock_ite (State.clock_absorb s c w) (State.clock_absorb s c w))

theorem State.clock_loadAcq (slot scope : Nat) (va : W72) (n ev : Nat) (reg : RegName) (wr : List Byte → List Wr) (all keep : Bool) :
    (s.loadAcq slot scope va n ev reg wr all keep).clock = s.clock := by
  unfold State.loadAcq
  split
  · rfl
  · next g _ _ =>
    have hread {t : State} (ht : t.clock = s.clock) (pa n : Nat) : (t.acquireRead pa n scope ev keep).2.2.2.clock = s.clock := (State.clock_acquireRead t pa n scope ev keep).trans ht
    have htlb := (State.clock_scopeRecall (s.useTlb va n) scope [g.pa / 128]).trans (State.clock_useTlb s va n)
    exact (State.clock_acquired _ _ scope _).trans (clock_ite ((State.clock_flushAll _ _).trans (hread htlb g.pa n)) (hread htlb g.pa n))

/-! ### Stores -/

theorem State.clock_withhold (e : Effect) : (s.withhold e).clock = s.clock := rfl

theorem State.clock_store (va : W72) (bs : List Byte) (ev scope : Nat) : (s.store va bs ev scope).clock = s.clock :=
  (State.clock_withhold _ _).trans (State.clock_useTlb s va bs.length)

theorem State.clock_storeRel (scope : Nat) (va : W72) (bs : List Byte) (ev : Nat) : (s.storeRel scope va bs ev).clock = s.clock := by
  unfold State.storeRel
  split
  · rfl
  · exact (State.clock_withhold _ _).trans (State.clock_useTlb s va bs.length)

/-! ### Traps (R311, R370) -/

theorem State.clock_mergeDirect (who : Option Nat) (pa : Nat) (bs : List Byte) (desc : Option (BitVec 32)) (po : Bool) (cls : Nat) :
    (s.mergeDirect who pa bs desc po cls).clock = s.clock :=
  (State.clock_mem _ _).trans ((State.clock_mergeHome _ who _ _ desc _ po cls).trans (State.clock_recall s _))

theorem clock_captureWrite (p : Part) (off : Nat) (bs : List Byte) (fuel : Nat) (s : State) : (captureWrite s p off bs fuel).clock = s.clock := by
  induction fuel generalizing off bs s with
  | zero => rfl
  | succ fuel ih => exact clock_ite rfl ((ih _ _ _).trans (State.clock_mergeDirect s none _ _ none false 3))

theorem State.clock_modHub (f : Hub → Hub) : (s.modHub f).clock = s.clock := rfl
theorem State.clock_modCore (c : Nat) (f : Core → Core) : (s.modCore c f).clock = s.clock := rfl

theorem State.clock_capture (p : Nat) (rec : List Byte) : (s.capture p rec).clock = s.clock := by
  unfold State.capture
  split
  · rfl
  · have hwrite x off bs n x' bs' n' f : ((captureWrite (captureWrite s x off bs n) x' 0 bs' n').modHub f).clock = s.clock :=
      (State.clock_modHub _ _).trans ((clock_captureWrite x' 0 bs' n' _).trans (clock_captureWrite x off bs n s))
    exact clock_ite rfl (clock_ite ((State.clock_out _ _).trans (hwrite _ _ _ _ _ _ _ _)) (hwrite _ _ _ _ _ _ _ _))

theorem State.clock_sign (c blk : Nat) (u : Bool) : (s.sign c blk u).clock = s.clock := clock_ite rfl rfl

theorem State.clock_dropChan (c ch : Nat) : (s.dropChan c ch).clock = s.clock :=
  clock_foldl (f := fun s (m : CopyCmd) => s.signBlocks c m.wrote) (fun s m => clock_foldl (f := fun s (x : Nat × Bool) => s.sign c x.1 x.2) (fun s x => State.clock_sign s c x.1 x.2) m.wrote s) _ s

theorem State.clock_abandon (c : Nat) : (s.abandon c).clock = s.clock :=
  (State.clock_modCore _ _ _).trans (clock_foldl (fun s i => State.clock_dropChan s c i) _ s)

theorem State.clock_flushCounts (c : Nat) : (s.flushCounts c).clock = s.clock := rfl

theorem State.clock_contextKill (c reason : Nat) (third ret : W64) : (s.contextKill c reason third ret).clock = s.clock := by
  unfold State.contextKill
  dsimp only
  split
  · rfl
  · refine (State.clock_modHub _ _).trans ?_
    refine (clock_foldl (f := fun s n => (s.flushCounts n).abandon n) (fun s n => (State.clock_abandon _ n).trans (State.clock_flushCounts s n)) _ _).trans ?_
    exact State.clock_capture s _ _

theorem State.clock_enterTrap (c : Nat) (r : TrapReq) : (s.enterTrap c r).clock = s.clock :=
  clock_ite (State.clock_contextKill _ c 0 _ _) rfl

theorem State.clock_takeTrap (c : Nat) (r : TrapReq) : (s.takeTrap c r).clock = s.clock := clock_ite rfl (State.clock_enterTrap s c r)

theorem State.clock_precise (x : Cause) : (s.precise x).clock = s.clock := State.clock_takeTrap s _ _

/-! ### Copy channels after a return (R255, R259) -/

theorem State.clock_modChan (c n : Nat) (f : Chan → Chan) : (s.modChan c n f).clock = s.clock := rfl

theorem State.clock_netFailure (c ch bits : Nat) : (s.netFailure c ch bits).clock = s.clock := by
  refine (State.clock_modChan _ _ _ _).trans ((State.clock_modCore _ _ _).trans ?_)
  unfold State.launchFailure
  split <;> rfl

theorem State.clock_startFront (c ch fuel : Nat) (s : State) : (s.startFront c ch fuel).clock = s.clock := by
  induction fuel generalizing s with
  | zero => rfl
  | succ fuel ih =>
    have hgone (t : State) (q : List CopyCmd) (ht : t.clock = s.clock) : ((t.modChan c ch fun x => { x with q := q }).startFront c ch fuel).clock = s.clock :=
      (ih _).trans ((State.clock_modChan _ _ _ _).trans ht)
    unfold State.startFront
    dsimp only
    refine clock_ite rfl ?_
    split
    · rfl
    · split
      · refine hgone _ _ ?_
        split <;> rfl
      · exact hgone _ _ rfl
      · split
        · exact hgone _ _ (State.clock_netFailure s c ch _)
        · rfl
      · split
        · exact hgone _ _ (State.clock_netFailure s c ch _)
        · rfl
      · rfl
      · rfl
      · rfl

theorem State.clock_advanceAll (c : Nat) : (s.advanceAll c).clock = s.clock := clock_foldl (fun s i => State.clock_startFront c i 10 s) _ s

theorem State.clock_modTaskOf (c : Nat) (f : Task → Task) : (s.modTaskOf c f).clock = s.clock := by
  unfold State.modTaskOf
  split
  · unfold State.modTask
    split <;> rfl
  · rfl

end

end Sys2Proof.Machine

/-! Every operation of a slot answers a next state at the same cycle, with the same core acting (R51, R75). -/
namespace Sys2Proof.Machine
open Sys2Proof.Claims

/-- A transition from `s` answers a next state, and leaves the clock and the acting core alone. -/
def stays (s : State) (r : Res) : Prop := ∃ t, r = .next t ∧ t.clock = s.clock

section
variable {s : State}

theorem stays_next {t : State} (h : t.clock = s.clock) : stays s (.next t) := ⟨t, rfl, h⟩

theorem stays_checked {c : Option Cause} {t : State} (h : t.clock = s.clock) : stays s (s.checked c t) := by
  cases c with
  | none => exact stays_next h
  | some x => exact stays_next (State.clock_precise s x)

theorem stays_passed {α : Type} {x : Except Cause α} {f : α → State} (h : ∀ a, (f a).clock = s.clock) : stays s (s.passed x f) := by
  cases x with
  | error c => exact stays_next (State.clock_precise s c)
  | ok a => exact stays_next (h a)

theorem stays_ite {p : Prop} [Decidable p] {a b : Res} (ha : stays s a) (hb : stays s b) : stays s (if p then a else b) := by
  split
  · exact ha
  · exact hb

variable (s)

/-! ### The S slot -/

theorem State.clock_division (sgn : Bool) (w : Nat) (f : SR) (rem : Bool) : (s.division sgn w f rem).clock = s.clock := clock_ite rfl rfl

theorem stays_trap (f : SI) : stays s (execTrap f s) := by
  refine stays_next (clock_ite ?_ rfl)
  exact State.clock_takeTrap (s.modMe fun k => { k with iss := { k.iss with pc := k.iss.pc + 64 } }) s.cur _

theorem stays_lbr (f : SB) : stays s (execLbr f s) := by
  unfold execLbr
  dsimp only
  refine stays_ite (stays_next ?_) (stays_ite (stays_next ?_) (stays_next ?_)) <;> exact clock_ite rfl rfl

theorem stays_of_encodeOpS {i : Instr} (h : (encodeOpS i).isSome = true) : stays s (exec i s) := by
  cases i with
  | nop | add f | sub f | and f | or f | xor f | andn f | shl f | shr f | sar f | rotl f | minI64 f | maxI64 f | minN64 f | maxN64 f | mul f | mulhI64 f | mulhN64 f
  | addi f | andi f | ori f | xori f | shli f | shri f | sari f | muli f | miniI64 f | maxiI64 f | sexti f | zexti f | li f | lih f | ceq f | cne f | cltI64 f | cltN64 f
  | cleI64 f | cleN64 f | ctst f | cnz f | ceqi f | cnei f | cltiI64 f | cltiN64 f | cleiI64 f | cleiN64 f | ctsb f | gand f | gor f | gxor f | gandn f | gtos f | stog f
  | aadd f | aaddi f | asub f | adiff f | amov f | ali f | alih f | atos f | bset f | bget f | lcset f | lcget f | mpset f | mpget f | shset f | tsrd f | br f | call f =>
    exact stays_next rfl
  | ret f | brs f | calls f | sysrd f | syswr f | idle f => exact stays_checked rfl
  | tlbinvVa f | tlbinvCtx f | tlbinvAll f | biasDev f | biasHost f | stitchIns f | stitchBind f | stitchUnbind f | stitchDrop f | ctxEnd f => exact stays_checked rfl
  | divI32 f | divN32 f | divI64 f | divN64 f | remI32 f | remN32 f | remI64 f | remN64 f => exact stays_checked (State.clock_division s _ _ f _)
  | lbr f => exact stays_lbr s f
  | trap f => exact stays_trap s f
  | tret f => exact stays_checked (State.clock_advanceAll _ _)
  | _ => exact absurd h Bool.false_ne_true

/-! ### The V slots -/

theorem stays_of_encodeOpV {i : Instr} (h : (encodeOpV i).isSome = true) : stays s (exec i s) := by
  unfold encodeOpV at h
  split at h
  rotate_right
  · exact absurd h Bool.false_ne_true
  all_goals exact stays_next rfl

/-! ### The L and W slots -/

theorem stays_ldMA (f : MA) (n : Nat) (val : List Byte → W64) : stays s (s.ldMA f n val) := stays_checked (State.clock_load s _ _ _ _ _ _ _)

theorem stays_ldesc (f : MA) : stays s (execLdesc f s) := by
  refine stays_checked ((State.clock_modCore _ _ _).trans ((State.clock_readDesc _ _ _ _).trans ?_))
  exact (State.clock_scopeRecall _ _ _).trans (State.clock_useTlb s _ _)

theorem stays_pref (f : MA) : stays s (execPref f s) := by
  unfold execPref
  dsimp only
  split
  · exact stays_next rfl
  · refine stays_next ((State.clock_prefSector _ _ _ _ _ _).trans ((State.clock_prefSector _ _ _ _ _ _).trans ?_))
    exact (State.clock_scopeRecall _ _ _).trans (State.clock_useTlb s _ _)

theorem stays_cinv (f : MA) : stays s (execCinv f s) := by
  have h := (State.clock_discardLine _ s.cur (s.paOf .read (s.me.regs.eaMA f) / 128)).trans
    ((State.clock_scopeRecall _ f.scope.toNat [s.paOf .read (s.me.regs.eaMA f) / 128]).trans (State.clock_useTlb s (s.me.regs.eaMA f) 1))
  exact stays_checked (clock_ite ((State.clock_dropHome _ _ _).trans h) h)

theorem stays_cflush (f : MA) : stays s (execCflush f s) := by
  have h := (State.clock_flushLine _ s.cur (s.paOf .write (s.me.regs.eaMA f) / 128)).trans
    ((State.clock_scopeRecall _ f.scope.toNat [s.paOf .write (s.me.regs.eaMA f) / 128]).trans (State.clock_useTlb s (s.me.regs.eaMA f) 1))
  exact stays_checked (clock_ite ((State.clock_dropHome _ _ _).trans h) h)

theorem stays_of_encodeOpL {i : Instr} (h : (encodeOpL i).isSome = true) : stays s (exec i s) := by
  cases i with
  | nop => exact stays_next rfl
  | ldI8 f | ldI16 f | ldI32 f | ldN8 f | ldN16 f | ldN32 f | ldN64 f => exact stays_ldMA s f _ _
  | lda f | vld f | vldx f => exact stays_checked (State.clock_load s _ _ _ _ _ _ _)
  | svld f | svlds f | svgth f | sld f => exact stays_checked rfl
  | ldesc f => exact stays_ldesc s f
  | pref f => exact stays_pref s f
  | cinv f => exact stays_cinv s f
  | cflush f => exact stays_cflush s f
  | ldAcq k f => exact stays_checked (State.clock_loadAcq s _ _ _ _ _ _ _ _ _)
  | _ => exact absurd h Bool.false_ne_true

theorem stays_atomic (f : MT) (o : AtomOp) : stays s (s.atomic f o) := stays_checked ((State.clock_withhold _ _).trans (State.clock_useTlb _ _ _))

theorem stays_of_encodeOpW {i : Instr} (h : (encodeOpW i).isSome = true) : stays s (exec i s) := by
  cases i with
  | nop => exact stays_next rfl
  | stN8 f | stN16 f | stN32 f | stN64 f | sta f | vst f | vstx f => exact stays_checked (State.clock_store s _ _ _ _)
  | svst f | svsts f | svsct f | sst f => exact stays_checked rfl
  | sdesc f | cwb f => exact stays_checked ((State.clock_withhold _ _).trans (State.clock_useTlb s _ _))
  | atmAdd f | atmAnd f | atmOr f | atmXor f | atmMinI64 f | atmMaxI64 f | atmMinN64 f | atmMaxN64 f | atmSwp f | atmCas f | atmFaddF32 f => exact stays_atomic s f _
  | stRel k f => exact stays_checked (State.clock_storeRel s _ _ _ _)
  | _ => exact absurd h Bool.false_ne_true

/-! ### The M and K slots -/

theorem stays_tileCmd (f : MD) (toff : W72) {g : Nat → BitVec 128 → W72 → State → State} (hg : ∀ pa h ta t, (g pa h ta t).clock = t.clock) : stays s (s.tileCmd f toff g) :=
  stays_ite (stays_next (State.clock_precise s _)) (stays_passed fun _ => (hg _ _ _ _).trans (State.clock_useTlb s _ _))

theorem stays_mdrainV (f : MD) : stays s (execMdrainV f s) :=
  stays_ite (stays_next (State.clock_precise s _)) (stays_ite (stays_next (State.clock_precise s _)) (stays_next rfl))

theorem stays_mwrite (f : MD) : stays s (execMwrite f s) :=
  stays_ite (stays_next (State.clock_precise s _)) (stays_passed fun _ => (State.clock_withhold _ _).trans ((State.clock_withhold _ _).trans (State.clock_useTlb s _ _)))

theorem stays_of_encodeOpM {i : Instr} (h : (encodeOpM i).isSome = true) : stays s (exec i s) := by
  cases i with
  | nop | mzero f | mpref f | mcancelId f | mcancelAll f | mcancelFlush f | mtopkSet f | mstatTile f | mstatEngine f | mtsclr f => exact stays_next rfl
  | mstep f => exact stays_passed fun _ => (State.clock_withhold _ _).trans (State.clock_useTlb s _ _)
  | mdrain f | mtopkGet f => exact stays_passed fun _ => rfl
  | mdrainV f => exact stays_mdrainV s f
  | mpin f => exact (stays_tileCmd s f _ fun _ _ _ _ => rfl : stays s (execMpin f s))
  | munpin f => exact (stays_tileCmd s f _ fun _ _ _ _ => rfl : stays s (execMunpin f s))
  | minv f => exact (stays_tileCmd s f _ fun _ _ _ _ => rfl : stays s (execMinv f s))
  | mrepl f => exact (stays_tileCmd s f _ fun _ _ _ _ => rfl : stays s (execMrepl f s))
  | mwrite f => exact stays_mwrite s f
  | mcall f => exact stays_ite (stays_next (State.clock_precise s _)) (stays_next rfl)
  | stitchOpcode idx opw => exact stays_ite (stays_next rfl) (stays_next (State.clock_precise s _))
  | _ => exact absurd h Bool.false_ne_true

theorem stays_kwm (f : KC) : stays s (execKwm f s) := by
  refine stays_passed fun a => ?_
  obtain ⟨b, n⟩ := a
  dsimp only
  split <;> rfl

theorem stays_of_encodeOpK {i : Instr} (h : (encodeOpK i).isSome = true) : stays s (exec i s) := by
  cases i with
  | nop | kstage f | kstageSched f | kcancelChannel f | kcancelAll f | kcancelFlush f | kstat f | kwmrd f => exact stays_next rfl
  | kcopy f | kloop f | ksync f | kput f | kget f | kcollAllReduce f | kcollAllGather f | kcollReduceScatter f | kcollBroadcast f | ksyncrd f | ksyncrdWait f =>
    exact stays_passed fun _ => rfl
  | kwm f => exact stays_kwm s f
  | _ => exact absurd h Bool.false_ne_true

/-! ### The X and Y slots -/

theorem stays_xld (f : XR) : stays s (execXld f s) := by
  refine stays_checked ?_
  split
  · rfl
  · exact State.clock_load s _ _ _ _ _ _ _
  · rfl

theorem stays_of_encodeOpX {i : Instr} (h : (encodeOpX i).isSome = true) : stays s (exec i s) := by
  cases i with
  | nop | xadd f | xsub f | xand f | xshl f | xshr f | xpopc f | xaddi f | xcmp f | xsel f | xadv f | xexp f | xfroms f | xtos f | xtov f => exact stays_next rfl
  | xld f => exact stays_xld s f
  | _ => exact absurd h Bool.false_ne_true

theorem stays_acqFence (f : YM) : stays s (execAcqFence f s) :=
  stays_next (clock_ite rfl (clock_ite (State.clock_flushAll s s.cur) (State.clock_flushAll s s.cur)))

theorem stays_of_encodeOpY {i : Instr} (h : (encodeOpY i).isSome = true) : stays s (exec i s) := by
  cases i with
  | nop | barTest f | relFence f | waitM f | waitK f | drain f => exact stays_next rfl
  | bsync f | bsyncWait f => exact stays_next (clock_ite rfl rfl)
  | barCfg f | barArrive f => exact stays_next (State.clock_modTaskOf s _ _)
  | relSt f => exact stays_checked ((State.clock_withhold _ _).trans (State.clock_useTlb s _ _))
  | acqLd f | acqLdAll f => exact stays_checked (State.clock_loadAcq s _ _ _ _ _ _ _ _ _)
  | acqFence f => exact stays_acqFence s f
  | waitaddr f => exact stays_checked ((State.clock_modCore _ _ _).trans ((State.clock_withhold _ _).trans (State.clock_useTlb s _ _)))
  | _ => exact absurd h Bool.false_ne_true

/-- An operation that some slot has. -/
theorem stays_of_encode {o : SlotOp} (h : (encode o).isSome = true) : stays s (exec o.op s) := by
  unfold encode at h
  rw [Option.isSome_map] at h
  unfold encodeOp at h
  split at h <;> rw [Option.isSome_map] at h
  · exact stays_of_encodeOpS s h
  · exact stays_of_encodeOpV s h
  · exact stays_of_encodeOpV s h
  · exact stays_of_encodeOpL s h
  · exact stays_of_encodeOpW s h
  · exact stays_of_encodeOpM s h
  · exact stays_of_encodeOpK s h
  · exact stays_of_encodeOpX s h
  · exact stays_of_encodeOpY s h

end

end Sys2Proof.Machine

/-! What a step runs (R52, R55, R57, R75, R97, R139, R230, R233, R352). -/
namespace Sys2Proof.Machine
open Sys2Proof.Claims

/-! ### What the decoder reads is what a slot has (R51, R61) -/

theorem decodeSlot_eq_ok {env : DecEnv} {h : Header} {n : Nat} {w : BitVec 64} {o : SlotOp} (hd : decodeSlot env h n w = .ok (some o)) :
    o.slot = n ∧ o.guard = slotGuard n w ∧ rawDecode n w = some (o.op, true) := by
  unfold decodeSlot at hd
  split at hd
  · exact nomatch hd
  · next i z hr =>
    cases z with
    | false => exact nomatch hd
    | true =>
      simp only [Bool.not_true, Bool.false_eq_true, if_false] at hd
      split at hd
      · split at hd
        · exact nomatch hd
        · split at hd <;> exact nomatch hd
      · split at hd
        · exact nomatch hd
        · obtain rfl : (⟨n, slotGuard n w, i⟩ : SlotOp) = o := by simpa using hd
          exact ⟨rfl, rfl, hr⟩

theorem decodeSlots_eq_ok {env : DecEnv} {h : Header} {w : BitVec 512} {l : List Nat} {os : List SlotOp} (hd : decodeSlots env h w l = .ok os) {o : SlotOp} (ho : o ∈ os) :
    o.slot ∈ l ∧ o.guard = slotGuard o.slot (slotWord o.slot w) ∧ rawDecode o.slot (slotWord o.slot w) = some (o.op, true) := by
  induction l generalizing os with
  | nil =>
    obtain rfl : [] = os := by simpa [decodeSlots] using hd
    exact nomatch ho
  | cons n t ih =>
    unfold decodeSlots at hd
    split at hd
    · exact nomatch hd
    · next x hx =>
      split at hd
      · exact nomatch hd
      · next rest hrest =>
        have hin (hm : o ∈ rest) := let ⟨hs, hg⟩ := ih hrest hm; And.intro (List.mem_cons_of_mem n hs) hg
        cases x with
        | none =>
          obtain rfl : rest = os := by simpa using hd
          exact hin ho
        | some y =>
          obtain rfl : y :: rest = os := by simpa using hd
          rcases List.mem_cons.mp ho with rfl | hm
          · obtain ⟨rfl, hg, hr⟩ := decodeSlot_eq_ok hx
            exact ⟨List.mem_cons_self .., hg, hr⟩
          · exact hin hm

/-- An operation of a legal bundle is one that its slot has. -/
theorem encode_of_decodeBundleIn {env : DecEnv} {w : BitVec 512} {b : Bundle} (hd : decodeBundleIn env w = .ok b) {o : SlotOp} (ho : o ∈ b.ops) :
    1 ≤ o.slot ∧ o.slot ≤ 9 ∧ (encode o).isSome = true := by
  unfold decodeBundleIn at hd
  split at hd
  · exact nomatch hd
  · dsimp only at hd
    split at hd
    · exact nomatch hd
    · next os hos =>
      split at hd
      · exact nomatch hd
      · obtain rfl : (⟨decodeHeader w, os⟩ : Bundle) = b := by simpa using hd
        obtain ⟨hs, hg, hr⟩ := decodeSlots_eq_ok hos ho
        have hslot : 1 ≤ o.slot ∧ o.slot ≤ 9 := by
          simp only [List.mem_cons, List.not_mem_nil, or_false] at hs
          omega
        obtain ⟨g, k, dec, enc, M⟩ := exists_slotMap hslot.1 hslot.2
        have he := M.encode_decode hr
        rw [← hg] at he
        exact ⟨hslot.1, hslot.2, by rw [he]; rfl⟩

/-! ### A bundle of one operation -/

/-- A trap or a return from one stands in the S slot alone (R315, R316). -/
theorem slot_of_isLast {o : SlotOp} (h1 : 1 ≤ o.slot) (h9 : o.slot ≤ 9) (he : (encode o).isSome = true) (hl : isLast o.op = true) : o.slot = 1 := by
  obtain ⟨n, g, i⟩ := o
  rw [encode, Option.isSome_map] at he
  dsimp only at h1 h9 he hl ⊢
  cases i with
  | trap f | tret f =>
    unfold encodeOp at he
    split at he
    · rfl
    all_goals exact nomatch he
  | _ => exact nomatch hl

theorem runOrder_one {o : SlotOp} (h1 : 1 ≤ o.slot) (h9 : o.slot ≤ 9) (he : (encode o).isSome = true) : runOrder [o] = [o] := by
  by_cases hl : isLast o.op = true
  · simp [runOrder, hl, slot_of_isLast h1 h9 he hl]
  · obtain ⟨n, g, i⟩ := o
    dsimp only at h1 h9 hl
    interval_cases n <;> simp [runOrder, hl]

theorem State.ownReads_of_ne {o : SlotOp} (h : ∀ f, o.op ≠ .xld f) (v x : State) (n : Nat) : v.ownReads x [o] n = x := by
  obtain ⟨slot, g, i⟩ := o
  cases i with
  | xld f => exact absurd rfl (h f)
  | _ => rfl

/-- Only an index load's own reads wait for banks, and only the time of a pending result changes (R188). -/
theorem State.ownReads_spec (v x : State) (o : SlotOp) (n : Nat) : x.onlyCore (v.ownReads x [o] n) x.cur ∧ (v.ownReads x [o] n).cur = x.cur ∧
    ∃ l m, (v.ownReads x [o] n).me = { x.me with iss := { x.me.iss with vpend := l, xlds := m } } ∧
      timeless l = timeless x.me.iss.vpend ∧ ((∀ f, o.op ≠ .xld f) → l = x.me.iss.vpend) := by
  have hnone : x.onlyCore x x.cur ∧ x.cur = x.cur ∧ ∃ l m, x.me = { x.me with iss := { x.me.iss with vpend := l, xlds := m } } ∧
      timeless l = timeless x.me.iss.vpend ∧ ((∀ f, o.op ≠ .xld f) → l = x.me.iss.vpend) :=
    ⟨⟨rfl, rfl, rfl, rfl, rfl, rfl, fun _ _ => rfl⟩, rfl, _, _, rfl, rfl, fun _ => rfl⟩
  by_cases hx : ∀ f, o.op ≠ .xld f
  · rw [State.ownReads_of_ne hx]
    exact hnone
  · unfold State.ownReads
    dsimp only
    split
    · exact hnone
    · refine ⟨State.onlyCore_modCore x x.cur _, rfl, ?_⟩
      rw [State.modMe_me]
      obtain ⟨l, hl, htime, -, -⟩ := Core.waitBanks_spec { x.me with iss := { x.me.iss with xlds := _ } } v.cycle fun b => bankCount (v.bankWords [o]) b - n
      rw [hl]
      exact ⟨l, _, rfl, htime, fun h => absurd h hx⟩

/-- What core `c` becomes when a bundle of one operation has issued and its fetch is noted, where the operation left core `k`. -/
theorem Core.issued_next (k : Core) (cycle stall nv nm nc : Nat) (ckpt : Bool) (pa : Nat) (w : BitVec 512) :
    match k.iss.next with
    | some (p, n) => ((k.issued cycle stall nv nm nc ckpt).cache pa w).iss.pc = p ∧ ((k.issued cycle stall nv nm nc ckpt).cache pa w).iss.elig = cycle + 1 + stall + n
    | none => ((k.issued cycle stall nv nm nc ckpt).cache pa w).iss.elig = cycle + 1 + stall ∧
      (k.iss.trap = none → ((k.issued cycle stall nv nm nc ckpt).cache pa w).iss.pc = k.iss.pc + 64) := by
  cases h : k.iss.next with
  | some x => simp [Core.issued, Core.cache, Core.walksSpent, h]
  | none =>
    refine ⟨by simp [Core.issued, Core.cache, Core.walksSpent, h], fun ht => ?_⟩
    simp [Core.issued, Core.cache, Core.walksSpent, h, ht]

/-! ### The step (R97) -/

section
variable {s t : State} {c : Nat}

theorem step_cons {i : Instr} {l : List Instr} (h : s.agenda = i :: l) : step s = if s.admits i then exec i { s with agenda := l } else .next { s with agenda := l } := by
  unfold step
  rw [h]

theorem step_nil (h : s.agenda = []) : step s = .next s.advance := by
  unfold step
  rw [h]

/-- What core `c` does in this cycle: its next micro-word, else its next bundle. -/
noncomputable def State.acts (s : State) (c : Nat) : Option State := match s.microStep c with | some u => some u | none => s.issue c

theorem State.act_eq (s : State) : s.act = (s.cores.map (·.1)).findSome? s.acts := rfl

theorem State.acts_of_microStep (h : s.microStep c = some t) : s.acts c = some t := by
  unfold State.acts
  rw [h]

theorem State.acts_of_no_microStep (h : s.microStep c = none) : s.acts c = s.issue c := by
  unfold State.acts
  rw [h]

/-- A step of the core that acts next. -/
theorem step_of_actsNext (h : actsNext s c) (ht : s.acts c = some t) : step s = .next t := by
  obtain ⟨hagenda, hauto, l, k, r, hcores, hl⟩ := h
  have hbefore : (l.map (·.1)).findSome? s.acts = none := by
    rw [List.findSome?_eq_none_iff]
    intro d hd
    obtain ⟨x, hx, rfl⟩ := List.mem_map.mp hd
    obtain ⟨hm, hi⟩ := hl x hx
    rw [State.acts_of_no_microStep hm, hi]
  have hact : s.act = some t := by
    rw [State.act_eq, hcores, List.map_append, List.findSome?_append, hbefore, List.map_cons, List.findSome?_cons, ht]
    rfl
  rw [step_nil hagenda, State.advance, hauto, hact]

theorem State.moved_of_ne {r : Res} (h : r = .next t) (hne : t ≠ s) : s.moved r = some t := by
  rw [h]
  exact if_neg hne

/-- A micro-word that its predicate lets execute is its transition (R230, R233). -/
theorem State.microStep_of_pred {q : Seq} {m : Micro} (hq : (s.core c).eng.seq = some q) (hrun : q.st = .running) (hfrozen : (s.core c).isFrozen = false)
    (hfault : (s.core c).eng.frozen = none) (hbare : (s.core c).eng.runsBare (s.core c).ctx = false) (helig : q.elig ≤ s.cycle)
    (hm : decodeMicro ((s.core c).eng.word (s.core c).ctx q) = .ok m) (hpred : q.pred m.inv m.pc = true) (ht : exec m.op (s.at_ c) = .next t) (hne : t ≠ s.at_ c) :
    s.microStep c = some t := by
  have hstall : (q.st != .running || (s.at_ c).me.isFrozen || (s.at_ c).me.eng.frozen.isSome || (s.at_ c).cycle < q.elig || (s.at_ c).me.eng.runsBare (s.at_ c).me.ctx) = false := by
    show (q.st != .running || (s.core c).isFrozen || (s.core c).eng.frozen.isSome || s.cycle < q.elig || (s.core c).eng.runsBare (s.core c).ctx) = false
    simp [hrun, hfrozen, hfault, hbare, helig]
  have hq' : (s.at_ c).me.eng.seq = some q := hq
  have hm' : decodeMicro ((s.at_ c).me.eng.word (s.at_ c).me.ctx q) = .ok m := hm
  simp only [State.microStep, hq', hstall, hm', hpred]
  exact State.moved_of_ne ht hne

/-- A core that may issue, at a bundle whose page is mapped, issues what its bits are. -/
theorem State.issue_of_atBundle {w : BitVec 512} (h : atBundle s c w) : s.issue c = ((s.at_ c).issueWord w).map (s.at_ c).fetchedTo := by
  obtain ⟨hmay, hpage, hfault, rfl⟩ := h
  unfold State.issue
  rw [if_pos (show (s.core c).mayIssue s.cycle = true from hmay)]
  unfold State.issueHere
  rw [hpage, hfault, Bool.and_false]
  rfl

end

/-! ### The transition of a bundle's one operation -/

section
variable {u : State} {w : BitVec 512} {h : Header} {o : SlotOp}

/-- The state in which the operation acts, what it leaves, and what the issue of its bundle makes of that. -/
theorem State.issueWord_one (hi : u.interlocked (decodeHeader w) (rawOps w) = false) (hd : decodeBundleIn (u.decEnv (decodeHeader w)) w = .ok ⟨h, [o]⟩)
    (hu : unhindered u ⟨h, [o]⟩ [o]) (htrap : ∀ f, o.op ≠ .trap f) : ∃ x y z l m nv nm nc ckpt,
    exec o.op (u.readied ⟨h, [o]⟩ [o]) = .next x ∧ x.cycle = u.cycle ∧ u.issueWord w = some z ∧
    x.onlyCore y u.cur ∧ y.onlyCore z u.cur ∧ z.core u.cur = (y.core u.cur).issued u.cycle h.stall nv nm nc ckpt ∧
    y.core u.cur = { x.core u.cur with iss := { (x.core u.cur).iss with vpend := l, xlds := m } } ∧
    timeless l = timeless (x.core u.cur).iss.vpend ∧ ((∀ f, o.op ≠ .xld f) → l = (x.core u.cur).iss.vpend) := by
  obtain ⟨h1, h9, henc⟩ := encode_of_decodeBundleIn hd (List.mem_singleton.mpr rfl)
  have hnot : ([o].any fun o => isTrap o.op) = false := by
    obtain ⟨slot, g, i⟩ := o
    cases i with
    | trap f => exact absurd rfl (htrap f)
    | _ => rfl
  obtain ⟨x, hx, hclock⟩ := stays_of_encode (u.readied ⟨h, [o]⟩ [o]) henc
  have hcycle : x.cycle = u.cycle := (State.cycle_of_clock hclock).trans (State.onlyCore_readied u ⟨h, [o]⟩ [o]).2.2.1
  have hcur : x.cur = u.cur := (State.cur_of_clock hclock).trans (State.readied_cur u _ _)
  have hrun : (u.readied ⟨h, [o]⟩ [o]).runOps (runOrder [o]) = x := by
    rw [runOrder_one h1 h9 henc]
    show (match exec o.op (u.readied ⟨h, [o]⟩ [o]) with | .next t => t | _ => u.readied ⟨h, [o]⟩ [o]) = x
    rw [hx]
  obtain ⟨nv, nm, nc, ckpt, hbundle⟩ := State.runBundle_eq u ⟨h, [o]⟩ hnot
  obtain ⟨honly, hcur', l, m, hme, htime, hl⟩ := State.ownReads_spec (u.readied ⟨h, [o]⟩ [o]) x o ((u.readied ⟨h, [o]⟩ [o]).conflicts [o])
  unfold State.acted at hbundle
  rw [hrun] at hbundle
  generalize (u.readied ⟨h, [o]⟩ [o]).ownReads x [o] ((u.readied ⟨h, [o]⟩ [o]).conflicts [o]) = y at *
  rw [hcur] at honly hcur'
  rw [State.me, State.me, hcur', hcur] at hme
  rw [State.me, hcur] at htime hl
  refine ⟨x, y, y.modCore u.cur fun k => k.issued y.cycle h.stall nv nm nc ckpt, l, m, nv, nm, nc, ckpt, hx, hcycle, ?_, honly, State.onlyCore_modCore y u.cur _, ?_, hme, htime, hl⟩
  · rw [State.issueWord_ok hi hd, State.issueBundle_of_unhindered hu, hbundle]
  · rw [State.modCore_core_same, honly.2.2.1, hcycle]

end

theorem State.fetchedTo_core_same (s t : State) : (s.fetchedTo t).core s.cur = (t.core s.cur).cache s.fetchPa s.fetchWord :=
  State.modCore_core_same t s.cur fun k => k.cache s.fetchPa s.fetchWord
theorem State.fetchedTo_core_ne (s t : State) {d : Nat} (hd : d ≠ s.cur) : (s.fetchedTo t).core d = t.core d :=
  State.modCore_core_ne t (fun k => k.cache s.fetchPa s.fetchWord) hd

/-- The job of a core that is asked to stop counts the bundle, and its hard stop is due at the bound (R352). -/
theorem Job.count_of_due {j : Job} {d : Nat} (h : j.due = some d) (cycle : Nat) :
    j.count cycle = { j with issued := j.issued + 1, due := some (if j.budget ≤ j.issued + 1 then min d cycle else d) } := by
  simp only [Job.count, h]

/-- Settles O55: a step is the head of the agenda, or what the first core that acts does, and a bundle of one operation is that operation's transition between the state that is readied for it and its issue. -/
theorem stepRuns : Obligations.StepRuns := by
  refine ⟨fun s i l ha => ⟨fun hi => ?_, fun hi => ?_⟩, fun s ha => ⟨_, step_nil ha⟩, ?_, ?_⟩
  · rw [step_cons ha, if_pos hi]
  · rw [step_cons ha, hi]
    rfl
  · exact fun s c q m t hnext hq hrun hfrozen hfault hbare helig hm hpred ht hne =>
      step_of_actsNext hnext (State.acts_of_microStep (State.microStep_of_pred hq hrun hfrozen hfault hbare helig hm hpred ht hne))
  · intro s c w h o u hnext hmicro hat hi hd hu htrap
    obtain ⟨x, y, z, l, m, nv, nm, nc, ckpt, hx, hcycle, hz, hxy, hyz, hissued, hread, htime, hl⟩ := State.issueWord_one hi hd hu htrap
    obtain ⟨count, recent, p, hme, hptime, hpfree, -⟩ := State.readied_me u ⟨h, [o]⟩ [o]
    obtain ⟨vmem, -, vcycle, -, vagenda, -, vcores⟩ := State.onlyCore_readied u ⟨h, [o]⟩ [o]
    obtain ⟨zmem, zhub, zcycle, -, -, -, zcores⟩ := hxy.trans hyz
    have hagenda := hnext.1
    have hstep : step s = .next (u.fetchedTo z) :=
      step_of_actsNext hnext ((State.acts_of_no_microStep hmicro).trans (by rw [State.issue_of_atBundle hat, hz]; rfl))
    have htc : (u.fetchedTo z).core c = (({ x.core c with iss := { (x.core c).iss with vpend := l, xlds := m } } : Core).issued s.cycle h.stall nv nm nc ckpt).cache u.fetchPa u.fetchWord := by
      refine (State.fetchedTo_core_same u z).trans ?_
      rw [hissued, hread]
      rfl
    have htd (d : Nat) (hd : d ≠ c) : (u.fetchedTo z).core d = x.core d := (State.fetchedTo_core_ne u z hd).trans (zcores d hd)
    refine ⟨u.readied ⟨h, [o]⟩ [o], x, u.fetchedTo z, hx, hstep, vmem, vcycle, State.readied_cur u _ _, vagenda.trans hagenda, vcores, ?_⟩
    rw [hme, State.swapAll_me]
    refine ⟨rfl, rfl, rfl, rfl, rfl, rfl, rfl, rfl, fun j d hj hd => ?_, rfl, rfl, hptime, hpfree, rfl, zmem, zhub, zcycle, htd, ?_⟩
    · rw [hj, Option.map_some, Job.count_of_due hd]
      rfl
    · rw [htc]
      exact ⟨rfl, rfl, rfl, htime, hl, rfl, Core.issued_next _ s.cycle h.stall nv nm nc ckpt u.fetchPa u.fetchWord⟩

end Sys2Proof.Machine

/-! What performs at the head of the release queue (R102, R169, R198, R251). -/
namespace Sys2Proof.Machine
open Sys2Proof.Claims

/-! ### Blocks under a mask of bytes -/

theorem testBit_byteMaskSum (d : BitVec 64) : ∀ n : Nat,
    let sum := (List.range n).foldl (fun a i => if d.getLsbD i then a + 255 * 2 ^ (8 * i) else a) 0
    sum < 2 ^ (8 * n) ∧ ∀ j, sum.testBit j = (decide (j < 8 * n) && d.getLsbD (j / 8)) := by
  intro n
  induction n with
  | zero => simp
  | succ n ih =>
    obtain ⟨hlt, hbit⟩ := ih
    simp only [List.range_succ, List.foldl_append, List.foldl_cons, List.foldl_nil]
    generalize (List.range n).foldl _ 0 = sum at hlt hbit ⊢
    have hpow : 2 ^ (8 * (n + 1)) = 256 * 2 ^ (8 * n) := by rw [mul_add, pow_add, mul_comm]; rfl
    by_cases hd : d.getLsbD n
    · rw [if_pos hd]
      refine ⟨by rw [hpow]; omega, fun j => ?_⟩
      rw [Nat.add_comm sum, mul_comm 255, Nat.testBit_two_pow_mul_add _ hlt]
      split_ifs with hj
      · rw [hbit, decide_eq_true hj, decide_eq_true (by omega : j < 8 * (n + 1))]
      · rw [show (255 : Nat) = 2 ^ 8 - 1 from rfl, Nat.testBit_two_pow_sub_one]
        by_cases hj' : j < 8 * (n + 1)
        · rw [show j / 8 = n by omega, hd, decide_eq_true hj', decide_eq_true (by omega : j - 8 * n < 8)]; rfl
        · rw [decide_eq_false hj', decide_eq_false (by omega : ¬j - 8 * n < 8)]; rfl
    · rw [if_neg hd]
      refine ⟨by rw [hpow]; omega, fun j => ?_⟩
      rw [hbit]
      by_cases hj : j / 8 = n
      · rw [hj, Bool.eq_false_iff.mpr hd, Bool.and_false, Bool.and_false]
      · rw [decide_eq_decide.mpr (by omega : j < 8 * n ↔ j < 8 * (n + 1))]

/-- A mask of bytes has every bit of a byte that it names, and no other. -/
theorem getLsbD_byteMask (d : BitVec 64) {i j : Nat} (hi : i < 64) (hj : j < 8) : (byteMask d).getLsbD (8 * i + j) = d.getLsbD i := by
  rw [byteMask, BitVec.getLsbD_ofNat, (testBit_byteMaskSum d 64).2, show (8 * i + j) / 8 = i by omega]
  simp [show 8 * i + j < 512 by omega]

/-- A merged block has its masked bytes from the new block and the others from the old one. -/
theorem mergeBlock_byte (d : BitVec 64) (old new : BitVec 512) {i : Nat} (hi : i < 64) :
    (mergeBlock d old new).extractLsb' (8 * i) 8 = if d.getLsbD i then new.extractLsb' (8 * i) 8 else old.extractLsb' (8 * i) 8 := by
  refine BitVec.eq_of_getLsbD_eq fun j hj => ?_
  rw [BitVec.getLsbD_extractLsb', decide_eq_true hj, Bool.true_and, mergeBlock, getLsbD_masked, getLsbD_byteMask d hi hj]
  split <;> simp [hj]

/-- The dirty mask of a store piece within one block. -/
theorem Piece.getLsbD_mask {p : Piece} (h : p.pa % 64 + p.bytes.length ≤ 64) (i : Nat) :
    p.mask.getLsbD i = decide (p.pa % 64 ≤ i ∧ i < p.pa % 64 + p.bytes.length) := by
  rw [Piece.mask, BitVec.getLsbD_ofNat, Nat.testBit_mul_two_pow, Nat.testBit_two_pow_sub_one]
  by_cases hlo : p.pa % 64 ≤ i <;> by_cases hhi : i < p.pa % 64 + p.bytes.length
  · simp [hlo, hhi, show i < 64 by omega, show i - p.pa % 64 < p.bytes.length by omega]
  · simp [hhi, show ¬i - p.pa % 64 < p.bytes.length by omega]
  · simp [hlo]
  · simp [hlo]

/-- Its bytes stand in its data from its place on. -/
theorem Piece.data_byte {p : Piece} (h : p.pa % 64 + p.bytes.length ≤ 64) {i : Nat} (hi : i < p.bytes.length) :
    p.data.extractLsb' (8 * (p.pa % 64 + i)) 8 = p.bytes[i] := by
  rw [Piece.data, extract_ofNat 512 _ (by omega), pow_mul, show (2 : Nat) ^ 8 = 256 from rfl, pow_add, Nat.mul_comm (leVal _), Nat.mul_div_mul_left _ _ (by positivity)]
  refine BitVec.eq_of_toNat_eq ?_
  rw [BitVec.toNat_ofNat, leVal_div_mod, List.getD_eq_getElem _ _ hi]

end Sys2Proof.Machine

/-! ### Lines of an L1 -/
namespace Sys2Proof.Machine
open Sys2Proof.Claims

/-- The sectors alone count. -/
theorem L1Line.sec_congr {l m : L1Line} (h0 : l.s0 = m.s0) (h1 : l.s1 = m.s1) (i : Nat) : l.sec i = m.sec i := by
  unfold L1Line.sec; rw [h0, h1]

@[simp] theorem L1Line.sec_setSec_same (l : L1Line) (i : Nat) (x : Sector) : (l.setSec i x).sec i = x := by
  unfold L1Line.sec L1Line.setSec; split <;> rfl

theorem L1Line.sec_setSec_ne (l : L1Line) {i j : Nat} (x : Sector) (h : j % 2 ≠ i % 2) : (l.setSec i x).sec j = l.sec j := by
  unfold L1Line.sec L1Line.setSec
  split_ifs with hj hi
  · exact absurd (hj.trans hi.symm) h
  · rfl
  · rfl
  · exact absurd (by omega) h

@[simp] theorem Core.line_setLine_same (k : Core) (ln : Nat) (l : L1Line) : (k.setLine ln l).line ln = l := Bank.get_put_same ({} : L1Line) k.l1 ln l

theorem Core.line_setLine_ne (k : Core) {ln n : Nat} (l : L1Line) (h : n ≠ ln) : (k.setLine ln l).line n = k.line n := Bank.get_put_ne ({} : L1Line) k.l1 l h

theorem Core.keeps_setLine (k : Core) (ln : Nat) (l : L1Line) : k.keeps (k.setLine ln l) := ⟨rfl, rfl, rfl, rfl, rfl, rfl, rfl, rfl, rfl⟩

/-! ### Room in an L1 (R173, R375) -/

theorem Hub.l1Ways_of_noSpare {h : Hub} (hn : h.noSpare = []) (c : Nat) : h.l1Ways c = 8 := by simp [Hub.l1Ways, hn]

/-- An L1 of fewer than 8 lines has room in every set. -/
theorem State.makeRoom_of_room {s : State} {c : Nat} (hl : (s.core c).l1.length < 8) (hn : s.hub.noSpare = []) (ln : Nat) : s.makeRoom c ln = s := by
  have hset : (((s.core c).setLines ln).filter fun x => x.1 != ln).length < s.hub.l1Ways c := by
    rw [Hub.l1Ways_of_noSpare hn]
    exact ((List.length_filter_le _ _).trans (List.length_filter_le _ _)).trans_lt hl
  exact if_pos hset

/-! ### A store piece in HBM of a class that allocates (R108, R115, R173, R205) -/

/-- The sector that a store piece leaves in the L1. -/
def Sector.stored (x : Sector) (p : Piece) : Sector :=
  { x with dirty := x.dirty ||| p.mask, data := mergeBlock p.mask x.data p.data
           poison := if p.mask == BitVec.allOnes 64 then false else x.poison, whole := x.whole || p.mask == BitVec.allOnes 64 }

section
variable {x : Sector} {p : Piece} (h : p.pa % 64 + p.bytes.length ≤ 64)
include h

theorem Sector.stored_byte {i : Nat} (hi : i < p.bytes.length) :
    (x.stored p).dirty.getLsbD (p.pa % 64 + i) = true ∧ (x.stored p).byte (p.pa % 64 + i) = p.bytes[i] := by
  have hmask : p.mask.getLsbD (p.pa % 64 + i) = true := by rw [Piece.getLsbD_mask h]; simpa using hi
  refine ⟨by simp [Sector.stored, hmask], ?_⟩
  rw [Sector.byte, Sector.stored, mergeBlock_byte _ _ _ (by omega), if_pos hmask, Piece.data_byte h hi]

theorem Sector.stored_dirty_outside {i : Nat} (hi : i < p.pa % 64 ∨ p.pa % 64 + p.bytes.length ≤ i) : (x.stored p).dirty.getLsbD i = x.dirty.getLsbD i := by
  have hmask : p.mask.getLsbD i = false := by rw [Piece.getLsbD_mask h]; exact decide_eq_false (by omega)
  simp [Sector.stored, hmask]

end

theorem State.onlyCore_sign (s : State) (c blk : Nat) (untr : Bool) : s.onlyCore (s.sign c blk untr) c := by
  unfold State.sign
  split
  · exact ⟨rfl, rfl, rfl, rfl, rfl, rfl, fun _ _ => rfl⟩
  · exact State.onlyCore_modCore s c _

theorem State.sign_core (s : State) (c blk : Nat) (untr : Bool) : ∃ w, (s.sign c blk untr).core c = { s.core c with ws := w } := by
  unfold State.sign
  split
  · exact ⟨_, rfl⟩
  · exact ⟨_, State.modCore_core_same s c _⟩

/-- The piece's bytes are dirty in the core's L1, and nothing that instructions compute with differs. -/
theorem State.performPiece_hbm {s : State} {c ev : Nat} {p : Piece} (hev : ev < 4) (hpa : p.pa < 0x6000000000) (hl : (s.core c).l1.length < 8) (hn : s.hub.noSpare = []) :
    let t := s.performPiece c ev p
    s.onlyCore t c ∧ (s.core c).keeps (t.core c) ∧ ((t.core c).line (p.pa / 128)).sec (p.pa / 64) = (((s.core c).line (p.pa / 128)).sec (p.pa / 64)).stored p := by
  have hhbm : isRemote p.pa = false := by simp [isRemote]; omega
  have hev5 : ev ≠ 5 := by omega
  simp only [State.performPiece, hhbm, hev, hev5, decide_true, Bool.true_or, if_true, if_false, Bool.false_eq_true, State.dirtyL1, State.makeRoom_of_room hl hn,
    Option.getD_none, Option.isSome_none, Bool.or_false]
  generalize hd : s.modCore c _ = d
  obtain ⟨w, hw⟩ := State.sign_core (d.storeTiles c p.pa p.bytes.length) c (p.pa / 64) p.untr
  rw [State.storeTiles, State.modCore_core_same, ← hd, State.modCore_core_same, hd] at hw
  refine ⟨?_, ?_, ?_⟩
  · refine .trans ?_ ((State.onlyCore_modCore d c _).trans (State.onlyCore_sign _ c _ _))
    rw [← hd]
    exact State.onlyCore_modCore s c _
  · rw [State.storeTiles, hw]
    exact ⟨rfl, rfl, rfl, rfl, rfl, rfl, rfl, rfl, rfl⟩
  · rw [State.storeTiles, hw]
    show (((s.core c).setLine _ _).line _).sec _ = _
    rw [Core.line_setLine_same]
    exact (L1Line.sec_congr rfl rfl _).trans (L1Line.sec_setSec_same _ _ (Sector.stored _ p))

end Sys2Proof.Machine

/-! ### The head of RQ (R102) -/
namespace Sys2Proof.Machine
open Sys2Proof.Claims

theorem exec_effectPerform (c : Nat) (s : State) : exec (.effectPerform c) s = .next ((s.performHead c).getD s) := rfl

theorem effectPerform_of_some {s t : State} {c : Nat} (h : s.performHead c = some t) : exec (.effectPerform c) s = .next t := by rw [exec_effectPerform, h]; rfl
theorem effectPerform_of_none {s : State} {c : Nat} (h : s.performHead c = none) : exec (.effectPerform c) s = .next s := by rw [exec_effectPerform, h]; rfl

/-- A change of a core behind one that changes it alone. -/
theorem coreTo_next {i : Instr} {s t : State} {c : Nat} {f : Core → Core} {e : Core} (ht : s.onlyCore t c) (h : exec i s = .next (t.modCore c f)) (he : f (t.core c) = e) : coreTo i s c e :=
  ⟨_, h, ht.trans (State.onlyCore_modCore t c f), by rw [State.modCore_core_same, he]⟩

section
variable {s : State} {c : Nat}

theorem State.performHead_empty (h : (s.core c).rq = [] ∨ s.cycle < (s.core c).rqFrom) : s.performHead c = none := by
  cases hq : (s.core c).rq with
  | nil => simp only [State.performHead, hq]
  | cons e l =>
    have hlt : s.cycle < (s.core c).rqFrom := h.resolve_left (by simp [hq])
    simp only [State.performHead, hq, if_pos hlt]

variable {l : List Effect}

theorem State.popRq_core {e : Effect} (hq : (s.core c).rq = e :: l) : (s.modCore c Core.popRq).core c = { s.core c with rq := l, rqAt := none } := by
  rw [State.modCore_core_same, Core.popRq, hq]; rfl

/-- A core without commands in its engine holds back no store (R205). -/
theorem State.storeWaits_of_idle (h : engineIdle s c) (pa n : Nat) : s.storeWaits c pa n = false := by
  obtain ⟨hq, hseq, -⟩ := h
  simp [State.storeWaits, MEng.all, MEng.sub, hq, hseq]

variable (hfrom : (s.core c).rqFrom ≤ s.cycle)
include hfrom

theorem State.performHead_scratch {cells : List (Nat × Byte)} (hq : (s.core c).rq = .scratch cells :: l) :
    s.performHead c = some ((s.modCore c Core.popRq).modCore c fun k => k.writeScr cells) := by
  simp [State.performHead, hq, Nat.not_lt.mpr hfrom]

theorem State.performHead_store {ps : List Piece} {ev scope : Nat} (hq : (s.core c).rq = .store ps ev scope :: l) :
    s.performHead c = if s.piecesWait c ps then none else some ((s.modCore c Core.popRq).performStore c ev scope ps) := by
  simp [State.performHead, hq, Nat.not_lt.mpr hfrom]

theorem State.performHead_matrix {o : MOp} {sup : Bool} (hq : (s.core c).rq = .matrix o sup :: l) :
    s.performHead c = if 32 ≤ (s.core c).eng.q.length then none else some ((s.modCore c Core.popRq).modEng c fun e => e.enqueue o sup) := by
  simp [State.performHead, hq, Nat.not_lt.mpr hfrom]

theorem State.performHead_copy {ch : Nat} {m : CopyCmd} (hq : (s.core c).rq = .copy ch m :: l) :
    s.performHead c = (s.modCore c Core.popRq).enterChan c ch m := by
  simp [State.performHead, hq, Nat.not_lt.mpr hfrom]

end

/-! ### Scratchpad, matrix queue and copy channels -/

theorem Core.writeScr_get (k : Core) (cells : List (Nat × Byte)) (x : Nat) : (k.writeScr cells).scr.get 0 x = lastOf cells x (k.scr.get 0 x) := by
  unfold Core.writeScr
  dsimp only
  generalize k.scr = b
  induction cells generalizing b with
  | nil => rfl
  | cons y t ih => rw [List.foldl_cons, ih, lastOf_cons, Bank.get_put]

/-- A copy within scratchpad touches no block of memory. -/
theorem State.cmdBlocks_scratch (s : State) (c : Nat) {m : CopyCmd} (hop : m.op = .copy) (hd : m.h.getLsbD 88 = true) (ho : m.h.getLsbD 89 = true) : s.cmdBlocks c m = ([], []) := by
  have bit (n : Nat) (h : m.h.getLsbD n = true) : (m.h >>> n).toNat % 2 ^ 1 = 1 := by
    rw [← BitVec.testBit_toNat, Nat.testBit_eq_decide_div_mod_eq, decide_eq_true_eq] at h
    rwa [BitVec.toNat_ushiftRight, Nat.shiftRight_eq_div_pow]
  have hkd : kDscr m.h = true := by simpa [kDscr, fieldOf, shapeField] using bit 88 hd
  have hko : kSscr m.h = true := by simpa [kSscr, fieldOf, shapeField] using bit 89 ho
  simp only [State.cmdBlocks, hop, hkd, hko, if_true]

/-- A command that enters a running channel queues behind those that are there (R251). -/
theorem State.enterChan_running {s : State} {c ch : Nat} {m : CopyCmd} (hlen : ((s.core c).chan ch).q.length < 8) (hrun : ((s.core c).chan ch).running = true)
    (hop : m.op = .copy) (hd : m.h.getLsbD 88 = true) (ho : m.h.getLsbD 89 = true) :
    s.enterChan c ch m = some (s.modChan c ch fun x => { x with q := x.q ++ [m] }) := by
  simp only [State.enterChan, if_neg (Nat.not_le.mpr hlen), State.cmdBlocks_scratch s c hop hd ho]
  show some (State.startFront (s.modChan c ch fun x => { x with q := x.q ++ [m] }) c ch 10) = _
  rw [State.startFront, if_pos]
  rw [State.modChan, State.modCore_core_same, Core.chan, Bank.get_put_same, hrun]
  rfl

/-! ### EFFECT_PERFORM -/

section
variable {s : State} {c : Nat} {l : List Effect} (hfrom : (s.core c).rqFrom ≤ s.cycle)
include hfrom

theorem effectPerform_scratch {cells : List (Nat × Byte)} (hq : (s.core c).rq = .scratch cells :: l) :
    ∃ t, exec (.effectPerform c) s = .next t ∧ s.onlyCore t c ∧ t.core c = { s.core c with rq := l, rqAt := none, scr := (t.core c).scr } ∧
      ∀ x, (t.core c).scr.get 0 x = lastOf cells x ((s.core c).scr.get 0 x) := by
  refine ⟨_, effectPerform_of_some (State.performHead_scratch hfrom hq), (State.onlyCore_modCore s c _).trans (State.onlyCore_modCore _ c _), ?_, fun x => ?_⟩
  · rw [State.modCore_core_same, State.popRq_core hq]; rfl
  · rw [State.modCore_core_same, State.popRq_core hq, Core.writeScr_get]

theorem effectPerform_store {p : Piece} {ev scope : Nat} (hq : (s.core c).rq = .store [p] ev scope :: l) (hidle : engineIdle s c) (hev : ev < 4) (hpa : p.pa < 0x6000000000)
    (hp : p.pa % 64 + p.bytes.length ≤ 64) (hl : (s.core c).l1.length < 8) (hn : s.hub.noSpare = []) (ho : scope < 2 ∨ s.mem.owner.get none (p.pa / 128) = none) :
    ∃ t, exec (.effectPerform c) s = .next t ∧ (t.core c).rq = l ∧ (t.core c).regs = (s.core c).regs ∧ (t.core c).vec = (s.core c).vec ∧ (t.core c).scr = (s.core c).scr ∧ s.sameBytes t ∧
      (∀ i (h : i < p.bytes.length), holdsDirty t c (p.pa / 64) (p.pa % 64 + i) p.bytes[i]) ∧
      ∀ i, i < p.pa % 64 ∨ p.pa % 64 + p.bytes.length ≤ i → i < 64 →
        (((t.core c).line (p.pa / 128)).sec (p.pa / 64)).dirty.getLsbD i = (((s.core c).line (p.pa / 128)).sec (p.pa / 64)).dirty.getLsbD i := by
  have hpop := State.popRq_core hq
  have hrecall : (s.modCore c Core.popRq).scopeRecall scope [p.pa / 128] = s.modCore c Core.popRq := by
    unfold State.scopeRecall
    split
    · next h2 => exact State.recall_of_noOwner (ho.resolve_left (by omega))
    · rfl
  have hnext : exec (.effectPerform c) s = .next ((s.modCore c Core.popRq).performPiece c ev p) := by
    have hwait : s.piecesWait c [p] = false := by simp [State.piecesWait, State.storeWaits_of_idle hidle]
    refine effectPerform_of_some ?_
    rw [State.performHead_store hfrom hq, hwait, State.performStore, List.map_singleton, hrecall]
    rfl
  obtain ⟨⟨hmem, -⟩, hkeep, hsec⟩ := State.performPiece_hbm (s := s.modCore c Core.popRq) (c := c) hev hpa (by rw [hpop]; exact hl) hn
  rw [hpop] at hkeep hsec
  obtain ⟨hregs, -, hvec, -, hscr, -, -, -, hrq⟩ := hkeep
  refine ⟨_, hnext, hrq, hregs, hvec, hscr, fun a => by rw [hmem]; rfl, fun i hi => ?_, fun i hi _ => ?_⟩
  · unfold holdsDirty
    rw [Nat.div_div_eq_div_mul, hsec]
    exact Sector.stored_byte hp hi
  · rw [hsec]
    exact Sector.stored_dirty_outside hp hi

theorem effectPerform_matrix {o : MOp} {sup : Bool} (hq : (s.core c).rq = .matrix o sup :: l) :
    ((s.core c).eng.q.length < 32 → ∃ m, m.op = o ∧ m.sup = sup ∧ m.st = .waiting ∧ m.rows = 0 ∧
      coreTo (.effectPerform c) s c { s.core c with rq := l, rqAt := none, eng := { (s.core c).eng with q := (s.core c).eng.q ++ [m], nextId := (s.core c).eng.nextId + 1 } }) ∧
    (32 ≤ (s.core c).eng.q.length → exec (.effectPerform c) s = .next s) := by
  refine ⟨fun hlen => ⟨⟨(s.core c).eng.nextId, o, sup, .waiting, 0, 0, 0, 0, 0⟩, rfl, rfl, rfl, rfl, ?_⟩, fun hlen => ?_⟩
  · have hnext := effectPerform_of_some ((State.performHead_matrix hfrom hq).trans (if_neg (Nat.not_le.mpr hlen)))
    exact coreTo_next (State.onlyCore_modCore s c _) hnext (by rw [State.popRq_core hq]; rfl)
  · exact effectPerform_of_none ((State.performHead_matrix hfrom hq).trans (if_pos hlen))

theorem effectPerform_copy {ch : Nat} {m : CopyCmd} (hq : (s.core c).rq = .copy ch m :: l) :
    (((s.core c).ch.get {} ch).q.length < 8 → ((s.core c).ch.get {} ch).running = true → m.op = .copy → m.h.getLsbD 88 = true → m.h.getLsbD 89 = true →
      coreTo (.effectPerform c) s c { s.core c with rq := l, rqAt := none, ch := (s.core c).ch.put {} ch { (s.core c).ch.get {} ch with q := ((s.core c).ch.get {} ch).q ++ [m] } }) ∧
    (8 ≤ ((s.core c).ch.get {} ch).q.length → exec (.effectPerform c) s = .next s) := by
  have hpop := State.popRq_core hq
  have hchan : ((s.modCore c Core.popRq).core c).chan ch = (s.core c).ch.get {} ch := by rw [hpop]; rfl
  refine ⟨fun hlen hrun hop hd ho => ?_, fun hlen => ?_⟩
  · have hnext := effectPerform_of_some ((State.performHead_copy hfrom hq).trans (State.enterChan_running (by rwa [hchan]) (by rwa [hchan]) hop hd ho))
    exact coreTo_next (State.onlyCore_modCore s c Core.popRq) hnext (by rw [hpop]; rfl)
  · exact effectPerform_of_none ((State.performHead_copy hfrom hq).trans (if_pos (by rwa [hchan])))

end

/-- Settles O38, effect by effect. -/
theorem effectsPerform : Obligations.EffectsPerform := fun _ _ =>
  ⟨fun h => effectPerform_of_none (State.performHead_empty h), fun hfrom =>
    ⟨fun _ _ hq => effectPerform_scratch hfrom hq,
     fun _ _ _ _ hq hidle hev hpa hp hl hn ho => effectPerform_store hfrom hq hidle hev hpa hp hl hn ho,
     fun _ _ _ hq => effectPerform_matrix hfrom hq,
     fun _ _ _ hq => effectPerform_copy hfrom hq⟩⟩

end Sys2Proof.Machine

/-! A core's lines under the moves of the homes: what merging one sector, recalling a line and writing a sector back leave (R108, R109, R110). -/
namespace Sys2Proof.Machine
open Sys2Proof.Claims

/-! ### The L2 counts for a core, and changes nothing else of it -/

/-- In core `d` nothing differs but its counts of R365. -/
def State.onlyCounts (s t : State) : Prop := ∀ d, t.core d = { s.core d with count := (t.core d).count, recent := (t.core d).recent }

theorem State.onlyCounts.trans {s t u : State} (h : s.onlyCounts t) (h' : t.onlyCounts u) : s.onlyCounts u := fun d => by rw [h' d, h d]

theorem State.onlyCounts_of_cores {s t : State} (h : t.cores = s.cores) : s.onlyCounts t := fun d => by unfold State.core; rw [h]

theorem State.onlyCounts.line {s t : State} (h : s.onlyCounts t) (d n : Nat) : (t.core d).line n = (s.core d).line n := by rw [h d]; rfl

theorem State.onlyCounts.keeps {s t : State} (h : s.onlyCounts t) (d : Nat) : (s.core d).keeps (t.core d) := by
  rw [h d]; exact ⟨rfl, rfl, rfl, rfl, rfl, rfl, rfl, rfl, rfl⟩

theorem State.onlyCounts_meter (s : State) (c i n : Nat) : s.onlyCounts (s.meter c i n) := fun d => by
  by_cases h : d = c
  · rw [h, State.meter, State.modCore_core_same]; split <;> rfl
  · rw [State.meter, State.modCore_core_ne s _ h]

theorem State.onlyCounts_noteLine (s : State) (who : Option Nat) (ln i n : Nat) : s.onlyCounts (s.noteLine who ln i n) := by
  cases who with
  | some c => exact State.onlyCounts_meter s c i n
  | none => exact State.onlyCounts_of_cores rfl

theorem State.onlyCounts_giveUp (s : State) (ln : Nat) : s.onlyCounts (s.giveUp ln) :=
  State.onlyCounts_of_cores ((State.l2Moves_giveUp none s ln).still rfl)

theorem State.onlyCounts_l2Evict (s : State) (who : Option Nat) (ln : Nat) : s.onlyCounts (s.l2Evict who ln) := by
  unfold State.l2Evict
  refine State.onlyCounts.trans ?_ (.trans (State.onlyCounts_giveUp _ ln) (State.onlyCounts_of_cores rfl))
  split
  · exact State.onlyCounts_noteLine s who ln 9 128
  · exact State.onlyCounts_of_cores rfl

theorem State.onlyCounts_l2Room (s : State) (who : Option Nat) (ln : Nat) : s.onlyCounts (s.l2Room who ln) := by
  unfold State.l2Room
  simp only
  split
  · exact State.onlyCounts_of_cores rfl
  split
  · exact State.onlyCounts_of_cores rfl
  split
  · exact State.onlyCounts_of_cores rfl
  next x t _ =>
    refine .trans (State.onlyCounts_l2Evict s who (t.foldl l2Worse x).1) ?_
    split
    · split
      · exact State.onlyCounts_of_cores rfl
      · exact State.onlyCounts_l2Evict _ who _
    · exact State.onlyCounts_of_cores rfl

theorem State.onlyCounts_l2Unpair (s : State) (who : Option Nat) (ln : Nat) : s.onlyCounts (s.l2Unpair who ln) := by
  unfold State.l2Unpair
  split
  · split
    · exact State.onlyCounts_of_cores rfl
    · exact .trans (State.onlyCounts_noteLine s who _ 14 1) (State.onlyCounts_l2Evict _ who _)
  · exact State.onlyCounts_of_cores rfl

theorem State.onlyCounts_l2Use (s : State) (who : Option Nat) (ln cls : Nat) (d : Bool) : s.onlyCounts (s.l2Use who ln cls d) := by
  unfold State.l2Use
  refine State.onlyCounts.trans ?_ (State.onlyCounts_of_cores rfl)
  split
  · exact State.onlyCounts_l2Unpair s who ln
  · exact State.onlyCounts_l2Room s who ln

/-- A merge at a home whose sector no host holds (R108). -/
theorem State.onlyCounts_mergeHome {s : State} (hf : s.mem.fabric = []) (who : Option Nat) (blk : Nat) (cs : List (Nat × Byte)) (desc : Option (BitVec 32)) (whole po : Bool) (cls : Nat) :
    s.onlyCounts (s.mergeHome who blk cs desc whole po cls) := by
  unfold State.mergeHome
  rw [State.snoopRaw_of_noFabric hf]
  exact State.onlyCounts.trans (State.onlyCounts_of_cores rfl) (State.onlyCounts_l2Use _ who _ cls true)

/-! ### Dirty bytes -/

/-- Byte `a` with the dirty bytes of sector `x` of block `blk` over what it held. -/
def Sector.over (x : Sector) (blk a : Nat) (old : Byte) : Byte := if a / 64 = blk ∧ x.dirty.getLsbD (a % 64) = true then x.byte (a % 64) else old

theorem lastOf_filterMap_range (f : Nat → Option Byte) (base a : Nat) (old : Byte) : ∀ n : Nat,
    lastOf ((List.range n).filterMap fun i => (f i).map fun b => (base + i, b)) a old =
      if base ≤ a ∧ a < base + n then (f (a - base)).getD old else old := by
  intro n
  induction n with
  | zero => simp
  | succ n ih =>
    rw [List.range_succ, List.filterMap_append, lastOf_append, ih]
    by_cases ha : a = base + n
    · subst ha
      cases hfn : f n <;> simp [hfn]
    · have hiff : base ≤ a ∧ a < base + (n + 1) ↔ base ≤ a ∧ a < base + n := by omega
      cases hfn : f n <;> simp [hfn, ha, hiff]

theorem lastOf_dirtyCells (x : Sector) (blk a : Nat) (old : Byte) : lastOf (dirtyCells blk x) a old = x.over blk a old := by
  have hcells : dirtyCells blk x = (List.range 64).filterMap fun i => (if x.dirty.getLsbD i then some (x.byte i) else none).map fun b => (64 * blk + i, b) := by
    unfold dirtyCells
    congr 1
    funext i
    split <;> rfl
  rw [hcells, lastOf_filterMap_range, Sector.over]
  by_cases ha : a / 64 = blk
  · rw [if_pos (by omega), show a - 64 * blk = a % 64 by omega]
    cases x.dirty.getLsbD (a % 64) <;> simp [ha]
  · rw [if_neg (by omega), if_neg fun h => ha h.1]

/-- A clean sector lies over nothing. -/
theorem Sector.over_of_clean {x : Sector} (h : x.isDirty = false) (blk a : Nat) (old : Byte) : x.over blk a old = old := by
  have hd : x.dirty = 0 := by simpa [Sector.isDirty] using h
  simp [Sector.over, hd]

/-- Nor does any sector lie over another block. -/
theorem Sector.over_of_ne (x : Sector) {blk a : Nat} (h : a / 64 ≠ blk) (old : Byte) : x.over blk a old = old := if_neg fun hd => h hd.1

/-- Byte `a` with the dirty bytes of line `ln` over what it held. -/
def L1Line.over (l : L1Line) (ln a : Nat) (old : Byte) : Byte := if a / 128 = ln ∧ (l.sec (a / 64)).dirty.getLsbD (a % 64) = true then (l.sec (a / 64)).byte (a % 64) else old

/-- The dirty bytes of a line are those of its sectors, one after the other. -/
theorem L1Line.over_eq (l : L1Line) (ln a : Nat) (old : Byte) : l.s1.over (2 * ln + 1) a (l.s0.over (2 * ln) a old) = l.over ln a old := by
  unfold L1Line.over L1Line.sec
  by_cases h0 : a / 64 = 2 * ln
  · rw [Sector.over_of_ne _ (by omega), Sector.over, if_pos (by omega : a / 64 % 2 = 0)]
    simp only [h0, show a / 128 = ln by omega]
  by_cases h1 : a / 64 = 2 * ln + 1
  · rw [Sector.over_of_ne l.s0 h0, Sector.over, if_neg (by omega : ¬a / 64 % 2 = 0)]
    simp only [h1, show a / 128 = ln by omega]
  · rw [Sector.over_of_ne _ h1, Sector.over_of_ne _ h0, if_neg fun h => by omega]

theorem Sector.isDirty_iff (x : Sector) : x.isDirty = true ↔ x.dirty ≠ 0 := by simp [Sector.isDirty]

@[simp] theorem Sector.dirty_cleaned (x : Sector) (home : BitVec 32) (bad : Bool) : (x.cleaned home bad).dirty = 0 := by
  unfold Sector.cleaned; split <;> rfl

/-! ### One sector goes home (R108) -/

/-- From `s` to `t` the dirty bytes of sector `i` of core `c`'s line `ln` have gone home: the sector is clean, versions and ownership stay, and no other line of any core differs. -/
structure State.sectorHome (s t : State) (c ln i : Nat) : Prop where
  bytes : ∀ a, t.mem.byte a = (((s.core c).line ln).sec i).over (2 * ln + i) a (s.mem.byte a)
  ver : t.mem.ver = s.mem.ver
  owner : t.mem.owner = s.mem.owner
  fabric : t.mem.fabric = s.mem.fabric
  clean : (((t.core c).line ln).sec i).dirty = 0
  other : ∀ j, j % 2 ≠ i % 2 → ((t.core c).line ln).sec j = ((s.core c).line ln).sec j
  lines : ∀ d n, d ≠ c ∨ n ≠ ln → (t.core d).line n = (s.core d).line n
  keep : allKeep s t

theorem State.sectorHome_mergeSector {s : State} (hf : s.mem.fabric = []) (c ln : Nat) {i : Nat} (hi : i < 2) : s.sectorHome (s.mergeSector c ln i) c ln i := by
  unfold State.mergeSector
  simp only [Nat.mod_eq_of_lt hi]
  generalize hx : ((s.core c).line ln).sec i = x
  obtain ⟨m, hm, hmoves⟩ := s.mergeHome_quiet (some c) (2 * ln + i) (dirtyCells (2 * ln + i) x) (if x.descNew then some x.desc else none) x.whole (x.whole && x.poison) ((s.core c).line ln).cls hf
  have hcounts := State.onlyCounts_mergeHome hf (some c) (2 * ln + i) (dirtyCells (2 * ln + i) x) (if x.descNew then some x.desc else none) x.whole (x.whole && x.poison) ((s.core c).line ln).cls
  generalize s.mergeHome (some c) _ _ _ _ _ _ = u at hmoves hcounts ⊢
  obtain ⟨hb, ho, hfab, hv, -⟩ := hmoves.mem.eqs
  obtain ⟨hmb, hmo, hmf, hmv, -⟩ := hm.eqs
  refine ⟨fun a => ?_, hv.trans hmv, ho.trans hmo, hfab.trans hmf, ?_, fun j hj => ?_, fun d n hd => ?_, ?_⟩
  · rw [hx, ← lastOf_dirtyCells]
    exact Mem.byte_of_bytes (hb.trans hmb) a
  · rw [State.modCore_core_same, Core.line_setLine_same, L1Line.sec_setSec_same, Sector.dirty_cleaned]
  · rw [State.modCore_core_same, Core.line_setLine_same, L1Line.sec_setSec_ne _ _ hj]
  · by_cases hdc : d = c
    · rw [hdc, State.modCore_core_same, Core.line_setLine_ne _ _ (hd.resolve_left (absurd hdc)), hcounts.line]
    · rw [State.modCore_core_ne u _ hdc, hcounts.line]
  · exact allKeep_trans hcounts.keeps (allKeep_modCore u c _ fun k => Core.keeps_setLine k ln _)

/-- A sector that is clean has nothing to send. -/
theorem State.sectorHome_ite {s : State} (hf : s.mem.fabric = []) (c ln : Nat) {i : Nat} (hi : i < 2) {b : Bool} (hb : b = (((s.core c).line ln).sec i).isDirty) :
    s.sectorHome (if b = true then s.mergeSector c ln i else s) c ln i := by
  split
  · exact State.sectorHome_mergeSector hf c ln hi
  · next h =>
    have hclean : (((s.core c).line ln).sec i).isDirty = false := hb ▸ Bool.eq_false_iff.mpr h
    exact ⟨fun a => (Sector.over_of_clean hclean _ a _).symm, rfl, rfl, rfl, by simpa [Sector.isDirty] using hclean, fun _ _ => rfl, fun _ _ _ => rfl, allKeep_refl s⟩

/-! ### A version raised (R109) -/

@[simp] theorem Mem.byte_bump (m : Mem) (cy ln a : Nat) : (m.bump cy ln).byte a = m.byte a := congrArg (fun b => Bank.get unwritten b a) (Mem.bytes_bump m cy ln)
@[simp] theorem Mem.ver_bump (m : Mem) (cy ln : Nat) : (m.bump cy ln).ver = m.ver.put 0 ln (m.ver.get 0 ln + 1) := (m.bump_eq cy ln).eqs.2.2.2.1
@[simp] theorem Mem.owner_bump (m : Mem) (cy ln : Nat) : (m.bump cy ln).owner = m.owner := (m.bump_eq cy ln).eqs.2.1
@[simp] theorem Mem.fabric_bump (m : Mem) (cy ln : Nat) : (m.bump cy ln).fabric = m.fabric := (m.bump_eq cy ln).eqs.2.2.1

/-! ### A line recalled (R110) -/

/-- From `s` to `t` core `o`, the owner of line `ln`, has given it up with its dirty bytes. -/
structure State.recalled (s t : State) (o ln : Nat) : Prop where
  bytes : ∀ a, t.mem.byte a = ((s.core o).line ln).over ln a (s.mem.byte a)
  ver : t.mem.ver = s.mem.ver.put 0 ln (s.mem.ver.get 0 ln + 1)
  owner : t.mem.owner = s.mem.owner.put none ln none
  fabric : t.mem.fabric = s.mem.fabric
  line : (t.core o).line ln = {}
  lines : ∀ d n, d ≠ o ∨ n ≠ ln → (t.core d).line n = (s.core d).line n
  keep : allKeep s t

theorem State.recalled_recall {s : State} (hf : s.mem.fabric = []) {o ln : Nat} (ho : s.mem.owner.get none ln = some o) : s.recalled (s.recall ln) o ln := by
  simp only [State.recall, ho]
  have h0 : s.sectorHome (if ((s.core o).line ln).s0.isDirty = true then s.mergeSector o ln 0 else s) o ln 0 := State.sectorHome_ite hf o ln (by omega) rfl
  generalize (if ((s.core o).line ln).s0.isDirty = true then s.mergeSector o ln 0 else s) = u at h0 ⊢
  have hs1 : ((u.core o).line ln).sec 1 = ((s.core o).line ln).s1 := h0.other 1 (by decide)
  have h1 : u.sectorHome (if ((s.core o).line ln).s1.isDirty = true then u.mergeSector o ln 1 else u) o ln 1 :=
    State.sectorHome_ite (h0.fabric.trans hf) o ln (by omega) (by rw [hs1])
  generalize (if ((s.core o).line ln).s1.isDirty = true then u.mergeSector o ln 1 else u) = v at h1 ⊢
  refine ⟨fun a => ?_, ?_, ?_, ?_, ?_, fun d n hd => ?_, ?_⟩
  · rw [Mem.byte_bump]
    show v.mem.byte a = _
    rw [h1.bytes, h0.bytes, hs1]
    exact L1Line.over_eq _ ln a _
  · rw [Mem.ver_bump]
    show v.mem.ver.put 0 ln (v.mem.ver.get 0 ln + 1) = _
    rw [h1.ver, h0.ver]
  · rw [Mem.owner_bump]
    show v.mem.owner.put none ln none = _
    rw [h1.owner, h0.owner]
  · rw [Mem.fabric_bump]
    exact h1.fabric.trans h0.fabric
  · show ((v.modCore o fun k => k.setLine ln {}).core o).line ln = {}
    rw [State.modCore_core_same, Core.line_setLine_same]
  · show ((v.modCore o fun k => k.setLine ln {}).core d).line n = _
    rw [← h0.lines d n hd, ← h1.lines d n hd]
    by_cases hdo : d = o
    · rw [hdo, State.modCore_core_same, Core.line_setLine_ne _ _ (hd.resolve_left (absurd hdo))]
    · rw [State.modCore_core_ne v _ hdo]
  · exact allKeep_trans h0.keep (allKeep_trans h1.keep (allKeep_modCore v o _ fun k => Core.keeps_setLine k ln _))

end Sys2Proof.Machine

/-! The moves of the caches (R108 to R110, R177, R179). -/
namespace Sys2Proof.Machine
open Sys2Proof.Claims

theorem Core.keeps.symm {a b : Core} (h : a.keeps b) : b.keeps a := by
  obtain ⟨h1, h2, h3, h4, h5, h6, h7, h8, h9⟩ := h
  exact ⟨h1.symm, h2.symm, h3.symm, h4.symm, h5.symm, h6.symm, h7.symm, h8.symm, h9.symm⟩

/-! ### WRITE_BACK (R108, R109) -/

section
variable {s : State} {c ln i : Nat} (hi : i < 2)
include hi

theorem exec_writeBack : exec (.writeBack c ln i) s = .next (s.writeBack c ln i) := by
  show Host.Outcome.next (s.writeBack c ln (i % 2)) = _
  rw [Nat.mod_eq_of_lt hi]

theorem writeBack_clean (h : (((s.core c).line ln).sec i).dirty = 0) : exec (.writeBack c ln i) s = .next s := by
  have hclean : (((s.core c).line ln).sec i).isDirty = false := by simp [Sector.isDirty, h]
  rw [exec_writeBack hi, State.writeBack, hclean]
  rfl

variable (hd : (((s.core c).line ln).sec i).dirty ≠ 0)
include hd

/-- A copy older than the home's drops its dirty bytes. -/
theorem writeBack_stale (hown : ((s.core c).line ln).owned = true) (hver : ((s.core c).line ln).ver < s.mem.ver.get 0 ln) :
    ∃ t, exec (.writeBack c ln i) s = .next t ∧ s.onlyCore t c ∧ (((t.core c).line ln).sec i).dirty = 0 ∧ (((t.core c).line ln).sec i).valid = false := by
  have ht : s.writeBack c ln i = s.modCore c fun k => k.setLine ln (((s.core c).line ln).setSec i { ((s.core c).line ln).sec i with dirty := 0, valid := false, whole := false }) := by
    simp only [State.writeBack, (Sector.isDirty_iff _).mpr hd, hown, hver, if_true, Bool.not_true, Bool.false_eq_true, if_false]
  refine ⟨_, by rw [exec_writeBack hi, ht], State.onlyCore_modCore s c _, ?_⟩
  rw [State.modCore_core_same, Core.line_setLine_same, L1Line.sec_setSec_same]
  exact ⟨rfl, rfl⟩

variable (hf : s.mem.fabric = [])

include hf in
theorem writeBack_owned (hown : ((s.core c).line ln).owned = true) (hver : s.mem.ver.get 0 ln ≤ ((s.core c).line ln).ver) :
    ∃ t, exec (.writeBack c ln i) s = .next t ∧ (((t.core c).line ln).sec i).dirty = 0 ∧ ((t.core c).line ln).ver = s.mem.ver.get 0 ln + 1 ∧
      t.mem.ver.get 0 ln = s.mem.ver.get 0 ln + 1 ∧ (t.core c).keeps (s.core c) ∧ ∀ a, t.mem.byte a = (((s.core c).line ln).sec i).over (2 * ln + i) a (s.mem.byte a) := by
  have hmods : (s.mem.fabric.get {} (2 * ln + i % 2)).mods.isEmpty = true := by rw [hf]; rfl
  have hhome := State.sectorHome_mergeSector hf c ln hi
  have ht : s.writeBack c ln i = State.modCore { s.mergeSector c ln i with mem := (s.mergeSector c ln i).mem.bump (s.mergeSector c ln i).cycle ln } c
      fun k => k.setLine ln { k.line ln with ver := ((s.mergeSector c ln i).mem.bump (s.mergeSector c ln i).cycle ln).ver.get 0 ln } := by
    simp only [State.writeBack, (Sector.isDirty_iff _).mpr hd, hown, Nat.not_lt.mpr hver, hmods, if_true, Bool.not_true, Bool.false_eq_true, if_false]
  rw [exec_writeBack hi, ht]
  generalize s.mergeSector c ln i = u at hhome ⊢
  have hraised : (u.mem.bump u.cycle ln).ver.get 0 ln = s.mem.ver.get 0 ln + 1 := by rw [Mem.ver_bump, Bank.get_put_same, hhome.ver]
  refine ⟨_, rfl, ?_, ?_, hraised, ?_, fun a => (Mem.byte_bump u.mem u.cycle ln a).trans (hhome.bytes a)⟩
  · rw [State.modCore_core_same, Core.line_setLine_same, ← hhome.clean]
    exact congrArg Sector.dirty (L1Line.sec_congr rfl rfl i)
  · rw [State.modCore_core_same, Core.line_setLine_same]
    exact hraised
  · rw [State.modCore_core_same]
    exact ((hhome.keep c).trans (Core.keeps_setLine (u.core c) ln _)).symm

omit hi in
/-- A copy without ownership goes home once no other core owns the line. -/
theorem State.writeBack_unowned (hown : ((s.core c).line ln).owned = false) : s.writeBack c ln i =
    { (s.recall ln).mergeSector c ln i with mem := ((s.recall ln).mergeSector c ln i).mem.bump ((s.recall ln).mergeSector c ln i).cycle ln } := by
  simp only [State.writeBack, (Sector.isDirty_iff _).mpr hd, hown, Bool.not_true, Bool.false_eq_true, if_false]

include hf in
theorem writeBack_shared (hown : ((s.core c).line ln).owned = false) (ho : s.mem.owner.get none ln = none) :
    ∃ t, exec (.writeBack c ln i) s = .next t ∧ (((t.core c).line ln).sec i).dirty = 0 ∧ t.mem.ver.get 0 ln = s.mem.ver.get 0 ln + 1 ∧ (t.core c).keeps (s.core c) ∧
      ∀ a, t.mem.byte a = (((s.core c).line ln).sec i).over (2 * ln + i) a (s.mem.byte a) := by
  rw [exec_writeBack hi, State.writeBack_unowned hd hown, State.recall_of_noOwner ho]
  have hhome := State.sectorHome_mergeSector hf c ln hi
  generalize s.mergeSector c ln i = u at hhome ⊢
  refine ⟨_, rfl, hhome.clean, ?_, (hhome.keep c).symm, fun a => (Mem.byte_bump u.mem u.cycle ln a).trans (hhome.bytes a)⟩
  rw [← hhome.ver, Mem.ver_bump, Bank.get_put_same]

include hf in
theorem writeBack_takes {o : Nat} (hown : ((s.core c).line ln).owned = false) (ho : s.mem.owner.get none ln = some o) (hoc : o ≠ c) :
    ∃ t, exec (.writeBack c ln i) s = .next t ∧ (((t.core c).line ln).sec i).dirty = 0 ∧ (t.core o).line ln = {} ∧ t.mem.owner.get none ln = none ∧
      t.mem.ver.get 0 ln = s.mem.ver.get 0 ln + 2 ∧ ∀ a, t.mem.byte a = (((s.core c).line ln).sec i).over (2 * ln + i) a
        (((s.core o).line ln).over ln a (s.mem.byte a)) := by
  rw [exec_writeBack hi, State.writeBack_unowned hd hown]
  have hrec := State.recalled_recall hf ho
  generalize s.recall ln = r at hrec ⊢
  have hhome := State.sectorHome_mergeSector (hrec.fabric.trans hf) c ln hi
  generalize r.mergeSector c ln i = u at hhome ⊢
  refine ⟨_, rfl, hhome.clean, ?_, ?_, ?_, fun a => ?_⟩
  · exact (hhome.lines o ln (.inl hoc)).trans hrec.line
  · rw [Mem.owner_bump, hhome.owner, hrec.owner, Bank.get_put_same]
  · rw [Mem.ver_bump, Bank.get_put_same, hhome.ver, hrec.ver, Bank.get_put_same]
  · rw [Mem.byte_bump, hhome.bytes, hrec.bytes, hrec.lines c ln (.inl hoc.symm)]

end

/-! ### EVICT and FILL (R108, R173) -/

section
variable {s : State} {c ln : Nat}

theorem evict_stays (h : ((s.core c).line ln).owned = true ∨ ((s.core c).line ln).s0.dirty ≠ 0 ∨ ((s.core c).line ln).s1.dirty ≠ 0) : exec (.evict c ln) s = .next s := by
  have hheld : (((s.core c).line ln).owned || ((s.core c).line ln).s0.isDirty || ((s.core c).line ln).s1.isDirty) = true := by
    simpa only [Bool.or_eq_true, Sector.isDirty_iff, or_assoc] using h
  exact congrArg Host.Outcome.next (if_pos hheld)

theorem evict_goes (hown : ((s.core c).line ln).owned = false) (h0 : ((s.core c).line ln).s0.dirty = 0) (h1 : ((s.core c).line ln).s1.dirty = 0) :
    ∃ t, exec (.evict c ln) s = .next t ∧ s.onlyCore t c ∧ (t.core c).line ln = {} ∧ ∀ n, n ≠ ln → (t.core c).line n = (s.core c).line n := by
  have hfree : ¬(((s.core c).line ln).owned || ((s.core c).line ln).s0.isDirty || ((s.core c).line ln).s1.isDirty) = true := by
    simp only [Bool.or_eq_true, Sector.isDirty_iff, hown, h0, h1]
    simp
  refine ⟨_, congrArg Host.Outcome.next (if_neg hfree), State.onlyCore_modCore s c _, ?_, fun n hn => ?_⟩
  · rw [State.modCore_core_same, Core.line_setLine_same]
  · rw [State.modCore_core_same, Core.line_setLine_ne _ _ hn]

variable {i : Nat}

theorem fill_stays (h : (((s.core c).line ln).sec i).valid = true) : exec (.fill c ln i) s = .next s := by
  refine congrArg Host.Outcome.next (if_pos ?_)
  rw [h]
  rfl

/-- Fill is no access: a line that the L1 holds keeps its class and the time of its last one. -/
theorem fill_keeps_class (h : (s.core c).line ln ≠ {}) {t : State} (ht : exec (.fill c ln i) s = .next t) :
    ((t.core c).line ln).cls = ((s.core c).line ln).cls ∧ ((t.core c).line ln).used = ((s.core c).line ln).used := by
  obtain rfl := Host.Outcome.next.inj ht
  split
  · exact ⟨rfl, rfl⟩
  · rw [State.modCore_core_same, Core.line_setLine_same]
    exact ⟨rfl, rfl⟩

/-! A read at a home in HBM. -/

theorem State.meterRead_hbm {blk : Nat} (h : isRemote (64 * blk) = false) : (s.meterRead c blk).mem = s.mem ∧ s.onlyCounts (s.meterRead c blk) := by
  unfold State.meterRead
  split
  · exact ⟨rfl, State.onlyCounts_of_cores rfl⟩
  · rw [h]
    exact ⟨State.meter_mem s c 8 64, State.onlyCounts_meter s c 8 64⟩

theorem State.snoopExcl_of_noFabric {blk : Nat} (h : s.mem.fabric = []) : s.snoopExcl blk = s := by
  simp [State.snoopExcl, h, Bank.get]

/-- The authoritative copy of a block whose line nobody owns is the home's (R100). -/
theorem State.authBlock_of_noOwner {blk : Nat} (h : s.mem.owner.get none (blk / 2) = none) : s.authBlock blk = ⟨s.mem.block blk, s.mem.descOf blk, s.mem.poisoned blk⟩ := by
  simp only [State.authBlock, h]

theorem State.l2Take_hbm {blk : Nat} (h : isRemote (64 * blk) = false) (who : Option Nat) (cls : Nat) (d : Bool) : s.l2Take who blk cls d = s.l2Use who (blk / 2) cls d := by
  simp [State.l2Take, State.takeSector, h]

/-- Where nobody owns the line and no host holds the sector, it gives the home's bytes, which stay. -/
theorem State.readHome_hbm {blk : Nat} (hblk : isRemote (64 * blk) = false) (hf : s.mem.fabric = []) (ho : s.mem.owner.get none (blk / 2) = none) (cls : Nat) :
    (∀ b < 64, (s.readHome c blk cls true).1.data.extractLsb' (8 * b) 8 = s.mem.byte (64 * blk + b)) ∧
    s.sameBytes (s.readHome c blk cls true).2 ∧ s.onlyCounts (s.readHome c blk cls true).2 := by
  obtain ⟨hm, hc⟩ := State.meterRead_hbm (s := s) (c := c) hblk
  have hdead : s.hub.remoteDead (64 * blk) = false := by simp [Hub.remoteDead, hblk]
  simp only [State.readHome, hdead, Bool.false_and, Bool.false_eq_true, if_false, if_true]
  generalize s.meterRead c blk = u at hm hc ⊢
  rw [State.snoopExcl_of_noFabric (by rw [hm, hf]), State.authBlock_of_noOwner (by rw [hm, ho]), State.l2Take_hbm hblk]
  refine ⟨fun b hb => (Mem.block_byte u.mem blk hb).trans (by rw [hm]), fun a => ?_, hc.trans (State.onlyCounts_l2Use u _ _ _ _)⟩
  rw [← hm]
  exact congrArg (fun b => Bank.get unwritten b a) (State.bytes_l2Use u (some c) (blk / 2) cls false)

/-- A filled sector has its own dirty bytes and the block's others (R108). -/
theorem Sector.filled_byte (x : Sector) (b : Block) {n : Nat} (hn : n < 64) : (x.filled b).byte n = if x.dirty.getLsbD n then x.byte n else b.data.extractLsb' (8 * n) 8 :=
  mergeBlock_byte x.dirty b.data x.data hn

theorem State.sec_putBlock (u : State) (cls : Nat) (b : Block) : (((u.putBlock c ln i cls b).core c).line ln).sec i = (((u.core c).line ln).sec i).filled b := by
  rw [State.putBlock, State.modCore_core_same, Core.line_setLine_same]
  exact (L1Line.sec_congr rfl rfl i).trans (L1Line.sec_setSec_same _ i _)

theorem fill_fills (hi : i < 2) (hf : s.mem.fabric = []) (hv : (((s.core c).line ln).sec i).valid = false) (hln : 128 * ln < 0x6000000000) (hcls : ((s.core c).line ln).cls ≠ 5)
    (ho : s.mem.owner.get none ln = none) (hl : (s.core c).l1.length < 8) (hn : s.hub.noSpare = []) :
    ∃ t, exec (.fill c ln i) s = .next t ∧ s.sameBytes t ∧ (((t.core c).line ln).sec i).valid = true ∧ (((t.core c).line ln).sec i).dirty = (((s.core c).line ln).sec i).dirty ∧
      ∀ b < 64, (((t.core c).line ln).sec i).byte b =
        if (((s.core c).line ln).sec i).dirty.getLsbD b = true then (((s.core c).line ln).sec i).byte b else s.mem.byte (64 * (2 * ln + i) + b) := by
  have hhbm : isRemote (64 * (2 * ln + i)) = false := by simp [isRemote]; omega
  have hres : isReserved (128 * ln) = false := by simp [isReserved, isHbm, hln]
  have hthrough : ¬((((s.core c).line ln).sec i).valid || isReserved (128 * ln) || s.evAt (2 * ln + i % 2) ((s.core c).line ln).cls == 5) = true := by
    simp [hv, hres, State.evAt, Hub.readsThrough, Hub.remoteDead, Nat.mod_eq_of_lt hi, hhbm, hcls]
  obtain ⟨hdata, hbytes, hcounts⟩ := State.readHome_hbm (c := c) hhbm hf (by rwa [show (2 * ln + i) / 2 = ln by omega]) (min ((s.core c).line ln).cls 3)
  refine ⟨_, congrArg Host.Outcome.next (if_neg hthrough), ?_⟩
  simp only [State.fillSector, State.makeRoom_of_room hl hn, Nat.mod_eq_of_lt hi]
  generalize s.readHome c (2 * ln + i) (min ((s.core c).line ln).cls 3) true = r at hdata hbytes hcounts ⊢
  have hsec := State.sec_putBlock (c := c) (ln := ln) (i := i) r.2 (min ((s.core c).line ln).cls 3) r.1
  rw [hcounts.line] at hsec
  have hmem : (r.2.putBlock c ln i (min ((s.core c).line ln).cls 3) r.1).mem = r.2.mem := rfl
  generalize r.2.putBlock c ln i _ r.1 = u at hsec hmem ⊢
  have hlast : (((u.modCore c fun k => if (s.core c).line ln = {} then k else
      k.setLine ln { k.line ln with cls := ((s.core c).line ln).cls, used := ((s.core c).line ln).used }).core c).line ln).sec i = (((s.core c).line ln).sec i).filled r.1 := by
    rw [State.modCore_core_same, ← hsec]
    split
    · rfl
    · rw [Core.line_setLine_same]; exact L1Line.sec_congr rfl rfl i
  rw [hlast]
  refine ⟨fun a => (congrArg (·.byte a) hmem).trans (hbytes a), rfl, rfl, fun b hb => ?_⟩
  rw [Sector.filled_byte _ _ hb, hdata b hb]

end

/-! ### DIRECTORY_RECALL (R177) -/

theorem directoryRecall_empty {s : State} {cl : Nat} (h : s.mem.dirs.get [] cl = []) : exec (.directoryRecall cl) s = .next s := by
  show execDirectoryRecall cl s = _
  simp only [execDirectoryRecall, h]

theorem directoryRecall_oldest {s : State} (hf : s.mem.fabric = []) {cl y o : Nat} {r : List Nat} (h : s.mem.dirs.get [] cl = y :: r) (hfull : 2048 ≤ (y :: r).length)
    (ho : s.mem.owner.get none y = some o) : ∃ t, exec (.directoryRecall cl) s = .next t ∧ s.recalled t o y := by
  refine ⟨s.recall y, ?_, State.recalled_recall hf ho⟩
  show execDirectoryRecall cl s = _
  simp only [execDirectoryRecall, h, if_pos hfull]

/-! ### L2_COMPRESSION_EVICT (R179) -/

/-- A line takes less than a whole entry when every word differs from the first by less than 3 bytes hold. -/
theorem storedSize_lt_iff (ws : List (BitVec 64)) : storedSize ws < 128 ↔ ∀ x ∈ ws, -(2 ^ 23 : Int) ≤ x.toInt - (ws.headD 0).toInt ∧ x.toInt - (ws.headD 0).toInt < 2 ^ 23 := by
  unfold storedSize
  simp only [List.all_map, List.all_eq_true, Function.comp_apply, Bool.and_eq_true, decide_eq_true_eq, beq_iff_eq]
  split_ifs with h8 h24 h40 h56
  · exact iff_of_true (by decide) fun x hx => by rw [h8 x hx]; omega
  · exact iff_of_true (by decide) fun x hx => by have := h24 x hx; omega
  · exact iff_of_true (by decide) fun x hx => by have := h40 x hx; omega
  · exact iff_of_true (by decide) fun x hx => by have := h56 x hx; omega
  · exact iff_of_false (by decide) fun h => h56 fun x hx => by have := h x hx; omega

theorem Mem.lineWords_eq (s : State) (ln : Nat) : s.mem.lineWords ln = (List.range 16).map (lineWord s ln) := rfl

theorem Mem.compresses_iff (s : State) (ln : Nat) : s.mem.compresses ln = true ↔ halfEntry s ln := by
  rw [Mem.compresses, decide_eq_true_eq, storedSize_lt_iff, Mem.lineWords_eq, List.forall_mem_map]
  simp only [List.mem_range]
  rfl

theorem Mem.here_l2Pair (m : Mem) (ln n : Nat) (o : Option Nat) : ((m.l2Pair ln o).l2.get {} n).here = (m.l2.get {} n).here := by
  rw [Mem.l2Pair, Bank.get_put]
  split_ifs with h
  · rw [h]
  · rfl

/-- The L2 drops one line and no other. -/
theorem Mem.here_l2Drop (m : Mem) (cy ln n : Nat) : ((m.l2Drop cy ln).l2.get {} n).here = if n = ln then false else (m.l2.get {} n).here := by
  rw [Mem.l2Drop, Mem.l2_fire, Bank.get_put]
  split_ifs
  · rfl
  · split
    · exact Mem.here_l2Pair m _ n none
    · rfl

theorem State.mem_giveUp (s : State) (ln : Nat) : (s.giveUp ln).mem = s.mem := by
  unfold State.giveUp
  simp only [State.foldl_out fun x : Nat × Nat => .cacheEvict x.1 (64 * x.2)]

theorem l2CompressionEvict_stays {s : State} {ln : Nat} (h : (s.mem.l2.get {} ln).mate = none ∨ halfEntry s ln) : exec (.l2CompressionEvict ln) s = .next s := by
  refine congrArg Host.Outcome.next ?_
  unfold State.l2Unpair
  cases hm : (s.mem.l2.get {} ln).mate with
  | none => rfl
  | some o => exact if_pos ((Mem.compresses_iff s ln).mpr (h.resolve_left (by simp [hm])))

theorem l2CompressionEvict_goes {s : State} {ln o : Nat} (hm : (s.mem.l2.get {} ln).mate = some o) (h : ¬halfEntry s ln) :
    ∃ t, exec (.l2CompressionEvict ln) s = .next t ∧ s.sameBytes t ∧ (∀ d, (s.core d).keeps (t.core d)) ∧ t.mem.ver = s.mem.ver ∧ t.mem.owner = s.mem.owner ∧
      ∀ n, (t.mem.l2.get {} n).here = if n = o then false else (s.mem.l2.get {} n).here := by
  have ht : s.l2Unpair none ln = (s.noteLine none o 14 1).l2Evict none o := by
    simp only [State.l2Unpair, hm]
    exact if_neg ((Mem.compresses_iff s ln).not.mpr h)
  have hmoves := State.l2Moves_l2Unpair none s ln
  obtain ⟨hbytes, howner, -, hver, -⟩ := hmoves.mem.eqs
  refine ⟨s.l2Unpair none ln, rfl, fun a => congrArg (fun b => Bank.get unwritten b a) hbytes, hmoves.keep, hver, howner, fun n => ?_⟩
  have hnote : (if (s.noteLine none o 14 1).mem.l2IsDirty o = true then (s.noteLine none o 14 1).noteLine none o 9 128 else s.noteLine none o 14 1).mem = s.mem := by
    split <;> simp only [State.mem_noteLine]
  rw [ht, State.l2Evict, Mem.here_l2Drop, State.mem_giveUp, hnote]

/-- Settles O39, move by move. -/
theorem cacheMoves : Obligations.CacheMoves := by
  intro s c ln i hi hf l x
  refine ⟨writeBack_clean hi, writeBack_stale hi, fun hd hown hver => writeBack_owned hi hd hf hown hver, fun hd hown ho => writeBack_shared hi hd hf hown ho,
    fun _ hd hown ho hoc => writeBack_takes hi hd hf hown ho hoc, evict_stays, evict_goes, fun hv hln hcls ho hl hn => fill_fills hi hf hv hln hcls ho hl hn,
    fill_stays, fun h t ht => fill_keeps_class h ht, fun cl y r o h hfull ho => ?_, directoryRecall_empty, l2CompressionEvict_stays, fun _ hm h => l2CompressionEvict_goes hm h⟩
  obtain ⟨t, ht, hrec⟩ := directoryRecall_oldest hf h hfull ho
  refine ⟨t, ht, hrec.line, ?_, ?_, fun n hn => ?_, hrec.bytes⟩
  · rw [hrec.owner, Bank.get_put_same]
  · rw [hrec.ver, Bank.get_put_same]
  · rw [hrec.owner, Bank.get_put_ne _ _ _ hn]

end Sys2Proof.Machine

/-! Where two statements of the ordering machine fail. -/
namespace Sys2Proof.Machine
open Sys2Proof.Claims

/-- Core 0 with a drain of core scope at the head of RQ, whose pending result names the vector register v3 where a `drain` names a scalar, and with a write to v3 that fell due before this cycle. -/
def drainNamingVector : State :=
  let v : VarWrite := ⟨0, .status, 0, [.v 3], [], none, true, none⟩
  { cores := [(0, { rq := [.drain 0 1 0], iss := { vpend := [v], pend := [⟨0, 0, .v 3 1 1⟩] } })], cycle := 1 }

/-- A completing result first lands the due writes to the registers that it names (R77), here the one to v3. -/
theorem drainComplete_lands_vector : ∃ t, exec (.drainComplete 0) drainNamingVector = .next t ∧ (t.core 0).vec = [(3, 1)] :=
  ⟨_, rfl, by decide +kernel⟩

/-- Refutes O40: its clause on `drain` keeps every vector register whatever registers the pending result names, and in `drainNamingVector` that result names v3, so that a write in flight to v3 lands before it. -/
theorem not_syncTransitions : ¬ Obligations.SyncTransitions := by
  intro h
  obtain ⟨-, -, -, -, -, hdrain⟩ := h drainNamingVector 0
  obtain ⟨-, hanswer⟩ := hdrain 0 1 ⟨0, .status, 0, [.v 3], [], none, true, none⟩ [] rfl
  obtain ⟨t, ht, -, -, -, hkept, -⟩ := hanswer rfl rfl (by decide) (fun hw => absurd hw.1 (by decide)) fun hw => absurd hw.1 (by decide)
  obtain ⟨u, hu, hlanded⟩ := drainComplete_lands_vector
  obtain rfl : t = u := Host.Outcome.next.inj (ht.symm.trans hu)
  exact absurd (hkept.symm.trans hlanded) (by decide)

/-- Core 0 with a release atomic of cluster scope at the head of RQ, whose address lies beyond the remote range, in the reserved one (R12), while a remote write of the core is in flight. -/
def releaseInReservedRange : State :=
  { cores := [(0, { rq := [.atomic .add 2 2 0 ⟨0x200000000000000, [], false⟩ 0 0 0 0], rqAt := some 0 })]
    mem := { inflight := [⟨0, 0, 0x100000000000000, [], 0, none, false, 0, none⟩] } }

/-- Only an address of the remote range lifts an atomic to pool scope (R176): this one performs and leaves RQ. -/
theorem effectPerform_reserved_release : ∃ t, exec (.effectPerform 0) releaseInReservedRange = .next t ∧ (t.core 0).rq = [] :=
  ⟨_, rfl, by decide +kernel⟩

/-- Refutes O59: `relScope` lifts an atomic to pool scope at every address from the remote range's first one on, without that range's end, so that the first clause makes the atomic of `releaseInReservedRange` wait for the remote write in flight. -/
theorem not_releasesPerform : ¬ Obligations.ReleasesPerform := by
  intro h
  obtain ⟨hrelease, -⟩ := h releaseInReservedRange 0 [] (by decide)
  obtain ⟨hwait, -⟩ := hrelease _ 4 rfl rfl (by decide)
  have hstays := hwait 0 rfl (Or.inr (Or.inl ⟨by decide, _, List.mem_cons_self .., rfl⟩))
  obtain ⟨u, hu, hgone⟩ := effectPerform_reserved_release
  obtain rfl : releaseInReservedRange = u := Host.Outcome.next.inj (hstays.symm.trans hu)
  exact absurd hgone (by decide)

end Sys2Proof.Machine

/-! ### The state after reset (R124, R345, R404) -/
namespace Sys2Proof.Machine
open Sys2Proof.Claims

/-- With no block listed, every block has the default descriptor (R87, log entry 2). -/
theorem Mem.descOf_default {m : Mem} (h : m.desc = []) (b : Nat) : m.descOf b = defaultDesc := by
  unfold Mem.descOf
  rw [h]
  exact ite_self _

theorem Regs.rs_default {r : Regs} (h : r.s = []) (n : Nat) : r.rs n = 0 := by
  unfold Regs.rs
  rw [h]
  exact ite_self _

/-- Of guards that nothing has written, g0 alone reads 1 (R124). -/
theorem Regs.rg_default {r : Regs} (h : r.g = []) (n : Nat) : r.rg n = decide (n = 0) := by
  unfold Regs.rg
  rw [h]
  split
  · next hn => exact (decide_eq_true hn).symm
  · next hn => exact (decide_eq_false hn).symm

/-- A shape register of the matrix engine that nothing has written holds oscale 0x7F (R197). -/
theorem Regs.oscale_default {r : Regs} (h : r.shAct = []) (n : Nat) : bitsOf (r.shape 0 n) 72 8 = 0x7F := by
  unfold Regs.shape
  rw [h]
  show bitsOf (shapeReset 0) 72 8 = 0x7F
  decide

theorem State.reset_core (c : Nat) : State.reset.core c = {} := rfl

/-- Settles O58: nothing is listed at reset, so that every read gives its file's default. -/
theorem resetState : Obligations.ResetState := by
  refine ⟨State.sound_reset, fun _ => rfl, fun b => ⟨Mem.descOf_default rfl b, rfl⟩, fun _ => rfl, fun _ => rfl, fun _ => ⟨rfl, rfl, rfl⟩, fun _ => rfl,
    fun _ => rfl, rfl, fun _ => rfl, rfl, rfl, fun c => ?_⟩
  rw [State.reset_core]
  exact ⟨rfl, rfl, rfl, rfl, rfl, rfl, rfl, rfl, fun n => ⟨Regs.rs_default rfl n, rfl, rfl, rfl, rfl, rfl, rfl⟩, Regs.rg_default rfl, fun _ => BitVec.getLsbD_allOnes,
    rfl, rfl, rfl, Regs.oscale_default rfl⟩

end Sys2Proof.Machine

/-! ### The hard stop of a parked core (R292, R352) -/
namespace Sys2Proof.Machine
open Sys2Proof.Claims

/-- Core 0 parked at level 0 with its monitor, in a gang whose hard stop is due. -/
def parkedAtHardStop : State :=
  { cores := [(0, { job := some ⟨0, 0, 0, 0, 0, 0, 0, 0, .running, some 0, 0⟩, iss := { hold := .parked 0 } })]
    mem := { mons := [⟨0, 0, 1, 0⟩] } }

/-- A parked core that stops leaves no monitor at the home of its line (R292, R352). -/
theorem hardStop_removes_monitor : ∃ t, exec (.hardStop 0) parkedAtHardStop = .next t ∧ t.mem.mons = [] :=
  ⟨_, rfl, by decide +kernel⟩

/-- Refutes O49: its clause on a parked core's hard stop lets nothing outside the core change, memory with its monitors among it, and that stop takes the core's monitor away from its line's home, as it must; in `parkedAtHardStop` the clause keeps a monitor that is gone. -/
theorem not_gangTransitions : ¬ Obligations.GangTransitions := by
  intro h
  obtain ⟨-, hstop, -⟩ := h parkedAtHardStop 0 _ rfl
  obtain ⟨-, hparked, -⟩ := hstop 0 rfl rfl
  obtain ⟨t, ht, ⟨hmem, -⟩, -⟩ := hparked 0 1 rfl rfl rfl rfl
  obtain ⟨u, hu, hgone⟩ := hardStop_removes_monitor
  obtain rfl : t = u := Host.Outcome.next.inj (ht.symm.trans hu)
  rw [hmem] at hgone
  exact absurd hgone (by decide)

end Sys2Proof.Machine

/-! The scalar class computes on words, its tables on whole numbers (R127 to R135). These lemmas give the word that a whole number modulo 2^w is. -/
namespace Sys2Proof.Machine
open Sys2Proof.Claims

section
variable {w : Nat} (x y : BitVec w)

theorem ofInt_toNat : BitVec.ofInt w x.toNat = x := by rw [BitVec.ofInt_natCast, BitVec.ofNat_toNat, BitVec.setWidth_eq]

theorem ofInt_sub (i j : Int) : BitVec.ofInt w (i - j) = BitVec.ofInt w i - BitVec.ofInt w j := by
  rw [Int.sub_eq_add_neg, BitVec.ofInt_add, BitVec.ofInt_neg, BitVec.sub_eq_add_neg]

/-- A signed operand comes in sign-extended. -/
theorem ofInt_toNat_add {k : Nat} (z : BitVec k) : BitVec.ofInt w (x.toNat + z.toInt) = x + z.signExtend w := by
  rw [BitVec.ofInt_add, ofInt_toNat]
  rfl

theorem ofInt_toNat_sub {k : Nat} (z : BitVec k) : BitVec.ofInt w (x.toNat - z.toInt) = x - z.signExtend w := by
  rw [ofInt_sub, ofInt_toNat]
  rfl

theorem ofInt_toNat_mul_two_pow (n : Nat) : BitVec.ofInt w (x.toNat * 2 ^ n) = x <<< n := by
  have hcast : (x.toNat * 2 ^ n : Int) = (x.toNat * 2 ^ n : Nat) := by rw [Nat.cast_mul, Nat.cast_pow, Nat.cast_ofNat]
  apply BitVec.eq_of_toNat_eq
  rw [hcast, BitVec.ofInt_natCast, BitVec.toNat_ofNat, BitVec.toNat_shiftLeft, Nat.shiftLeft_eq]

theorem ofInt_toNat_div_two_pow (n : Nat) : BitVec.ofInt w ((x.toNat / 2 ^ n : Nat) : Int) = x >>> n := by
  rw [← Nat.shiftRight_eq_div_pow, ← BitVec.toNat_ushiftRight, ofInt_toNat]

theorem ofInt_toInt_div_two_pow (n : Nat) : BitVec.ofInt w (x.toInt / 2 ^ n) = x.sshiftRight n := by
  rw [← BitVec.ofInt_toInt (x := x.sshiftRight n), BitVec.toInt_sshiftRight, Int.shiftRight_eq_div_pow, Nat.cast_pow, Nat.cast_ofNat]

/-- The two parts that a rotation joins have no bit in common, so that their sum is their union. -/
theorem ofInt_rotateLeft {n : Nat} (h : n < w) :
    BitVec.ofInt w ((x.toNat * 2 ^ n + x.toNat / 2 ^ (w - n) : Nat) : Int) = x.rotateLeft n := by
  have hdisjoint : x <<< n &&& x >>> (w - n) = 0#w := by
    apply BitVec.eq_of_getLsbD_eq
    intro i _
    rw [BitVec.getLsbD_and, BitVec.getLsbD_shiftLeft, BitVec.getLsbD_ushiftRight, BitVec.getLsbD_zero]
    by_cases hi : i < n
    · simp [hi]
    · rw [BitVec.getLsbD_of_ge x (w - n + i) (by omega), Bool.and_false]
  rw [BitVec.rotateLeft_def, Nat.mod_eq_of_lt h, ← BitVec.add_eq_or_of_and_eq_zero _ _ hdisjoint, Nat.cast_add, BitVec.ofInt_add, ofInt_toNat_div_two_pow,
    Nat.cast_mul, Nat.cast_pow, Nat.cast_ofNat, ofInt_toNat_mul_two_pow]

theorem ofInt_min_toInt : BitVec.ofInt w (min x.toInt y.toInt) = if y.slt x then y else x := by
  rw [BitVec.slt_eq_decide]
  by_cases h : y.toInt < x.toInt
  · simp [h, min_eq_right h.le]
  · simp [h, min_eq_left (not_lt.mp h)]

theorem ofInt_max_toInt : BitVec.ofInt w (max x.toInt y.toInt) = if x.slt y then y else x := by
  rw [BitVec.slt_eq_decide]
  by_cases h : x.toInt < y.toInt
  · simp [h, max_eq_right h.le]
  · simp [h, max_eq_left (not_lt.mp h)]

theorem ofInt_min_toNat : BitVec.ofInt w ((min x.toNat y.toNat : Nat) : Int) = if y.ult x then y else x := by
  rw [BitVec.ult_eq_decide]
  by_cases h : y.toNat < x.toNat
  · simp [h, min_eq_right h.le]
  · simp [h, min_eq_left (not_lt.mp h)]

theorem ofInt_max_toNat : BitVec.ofInt w ((max x.toNat y.toNat : Nat) : Int) = if x.ult y then y else x := by
  rw [BitVec.ult_eq_decide]
  by_cases h : x.toNat < y.toNat
  · simp [h, max_eq_right h.le]
  · simp [h, max_eq_left (not_lt.mp h)]

theorem decide_toNat_eq : decide (x.toNat = y.toNat) = (x == y) := by rw [beq_eq_decide, decide_eq_decide, BitVec.toNat_inj]
theorem decide_toNat_ne : decide (x.toNat ≠ y.toNat) = (x != y) := by rw [decide_not, decide_toNat_eq]; rfl
theorem decide_toInt_eq : decide (x.toInt = y.toInt) = (x == y) := by rw [beq_eq_decide, decide_eq_decide, BitVec.toInt_inj]
theorem decide_toInt_ne : decide (x.toInt ≠ y.toInt) = (x != y) := by rw [decide_not, decide_toInt_eq]; rfl

end

theorem ofNat_mod_two_pow (w n : Nat) : BitVec.ofNat w (n % 2 ^ w) = BitVec.ofNat w n := by
  apply BitVec.eq_of_toNat_eq
  rw [BitVec.toNat_ofNat, BitVec.toNat_ofNat, Nat.mod_mod]

theorem ofNat_intBits (w : Nat) (i : Int) : BitVec.ofNat w (intBits w i) = BitVec.ofInt w i := by
  have hbits : intBits w i = (BitVec.ofInt w i).toNat := by rw [BitVec.toNat_ofInt, Nat.cast_pow, Nat.cast_ofNat, intBits]
  rw [hbits, BitVec.ofNat_toNat, BitVec.setWidth_eq]

theorem toNat_ofInt_mod {k w : Nat} (h : k ≤ w) (i : Int) : (BitVec.ofInt w i).toNat % 2 ^ k = (i % 2 ^ k).toNat := by
  have hcast : (2 ^ k : Int) = (2 ^ k : Nat) := by rw [Nat.cast_pow, Nat.cast_ofNat]
  have hdvd : ((2 ^ k : Nat) : Int) ∣ ((2 ^ w : Nat) : Int) := Int.natCast_dvd_natCast.mpr (Nat.pow_dvd_pow 2 h)
  have hpos : (0 : Int) ≤ i % (2 ^ w : Nat) := Int.emod_nonneg _ (by positivity)
  rw [hcast, BitVec.toNat_ofInt, ← Int.emod_emod_of_dvd i hdvd, Int.toNat_emod hpos (Int.natCast_nonneg _), Int.toNat_natCast]

theorem setWidth_ofInt {k w : Nat} (h : k ≤ w) (i : Int) : (BitVec.ofInt w i).setWidth k = BitVec.ofInt k i := by
  apply BitVec.eq_of_toNat_eq
  rw [BitVec.toNat_setWidth, toNat_ofInt_mod h, BitVec.toNat_ofInt, Nat.cast_pow, Nat.cast_ofNat]

/-! ### Fields of a word -/

theorem append_eq_ofNat {m n : Nat} (x : BitVec m) (y : BitVec n) : x ++ y = BitVec.ofNat (m + n) (x.toNat * 2 ^ n + y.toNat) := by
  apply BitVec.eq_of_toNat_eq
  rw [BitVec.toNat_append, ← Nat.shiftLeft_add_eq_or_of_lt y.isLt, Nat.shiftLeft_eq, BitVec.toNat_ofNat, Nat.mod_eq_of_lt]
  calc x.toNat * 2 ^ n + y.toNat < (x.toNat + 1) * 2 ^ n := by rw [Nat.add_mul, Nat.one_mul]; exact Nat.add_lt_add_left y.isLt _
    _ ≤ 2 ^ m * 2 ^ n := Nat.mul_le_mul_right _ x.isLt
    _ = 2 ^ (m + n) := (Nat.pow_add ..).symm

theorem toNat_extractLsb'_zero {k : Nat} (x : BitVec k) (n : Nat) : (x.extractLsb' 0 n).toNat = x.toNat % 2 ^ n := by
  rw [BitVec.extractLsb'_toNat, Nat.shiftRight_zero]

/-- The low bits of two words joined, as a number. -/
theorem extract_append_extract {k l hi lo : Nat} (x : BitVec k) (y : BitVec l) :
    x.extractLsb' 0 hi ++ y.extractLsb' 0 lo = BitVec.ofNat (hi + lo) (x.toNat % 2 ^ hi * 2 ^ lo + y.toNat % 2 ^ lo) := by
  rw [append_eq_ofNat, toNat_extractLsb'_zero, toNat_extractLsb'_zero]

/-- The bits from `lo` up are not all zero in a number that reaches them. -/
theorem toNat_extractLsb'_ne_zero {k : Nat} (x : BitVec k) {lo n : Nat} (hk : k ≤ lo + n) (h : 2 ^ lo ≤ x.toNat) : (x.extractLsb' lo n).toNat ≠ 0 := by
  have hlt : x.toNat / 2 ^ lo < 2 ^ n := by
    rw [Nat.div_lt_iff_lt_mul (Nat.two_pow_pos _), ← Nat.pow_add, Nat.add_comm n]
    exact lt_of_lt_of_le x.isLt (Nat.pow_le_pow_right (by decide) hk)
  rw [BitVec.extractLsb'_toNat, Nat.shiftRight_eq_div_pow, Nat.mod_eq_of_lt hlt]
  exact (Nat.div_pos h (Nat.two_pow_pos _)).ne'

/-- Bits 71 to 64 of an address as a scalar (R134). -/
theorem setWidth_extract_high (x : W72) : (x.extractLsb' 64 8).setWidth 64 = BitVec.ofNat 64 (x.toNat / 2 ^ 64) := by
  have hlt := x.isLt
  apply BitVec.eq_of_toNat_eq
  rw [BitVec.toNat_setWidth, BitVec.extractLsb'_toNat, BitVec.toNat_ofNat, Nat.shiftRight_eq_div_pow]
  omega

theorem LoopCtr.bits_ofBits (v : W64) : (LoopCtr.ofBits v).bits = BitVec.ofNat 64 (v.toNat % 2 ^ 36) := by
  unfold LoopCtr.bits LoopCtr.ofBits
  rw [append_eq_ofNat, BitVec.extractLsb'_toNat, BitVec.extractLsb'_toNat]
  apply BitVec.eq_of_toNat_eq
  rw [BitVec.toNat_setWidth, BitVec.toNat_ofNat, BitVec.toNat_ofNat, Nat.shiftRight_eq_div_pow, Nat.shiftRight_eq_div_pow, Nat.pow_zero, Nat.div_one]
  omega

/-! ### Immediates (R60, R128) -/

theorem toNat_imm64 {i : BitVec 39} (h : i.toNat ≤ 64) : (imm64 i).toNat = i.toNat := by
  have hpos : i.msb = false := by rw [BitVec.msb_eq_false_iff_two_mul_lt]; omega
  rw [imm64, BitVec.signExtend_eq_setWidth_of_msb_false hpos, BitVec.toNat_setWidth]
  omega

theorem toNat_imm64_mod {i : BitVec 39} (h : decide (i.toNat ≤ 63) = true) : (imm64 i).toNat % 64 = i.toNat := by
  have hle := of_decide_eq_true h
  rw [toNat_imm64 (by omega), Nat.mod_eq_of_lt (by omega)]

theorem toInt_imm64 (i : BitVec 39) : (imm64 i).toInt = i.toInt := BitVec.toInt_signExtend_of_le (by decide)

theorem sextBits_eq {n : Nat} (hn : 1 ≤ n ∧ n ≤ 64) (a : W64) : sextBits n a = BitVec.ofInt 64 (BitVec.ofNat n a.toNat).toInt := by
  show _ = (BitVec.ofNat n a.toNat).signExtend 64
  rw [BitVec.ofNat_toNat]
  ext i hi
  have hlast : 63 - (64 - n) = n - 1 := by omega
  have hpos : 0 < n ∧ ¬63 < 64 - n ∧ n - 1 < 64 := by omega
  have hbit : 64 - n + i < 64 ↔ i < n := by omega
  by_cases h : i < n
  · simp [sextBits, BitVec.getElem_signExtend, BitVec.getElem_sshiftRight, hbit, h, hi]
  · simp [sextBits, BitVec.getElem_signExtend, BitVec.getElem_sshiftRight, BitVec.msb_eq_getLsbD_last, hbit, h, hlast, hpos]

theorem zextBits_eq {n : Nat} (hn : n ≤ 64) (a : W64) : zextBits n a = BitVec.ofInt 64 ((a.toNat % 2 ^ n : Nat) : Int) := by
  have hsplit : 2 ^ 64 = 2 ^ n * 2 ^ (64 - n) := by rw [← Nat.pow_add, Nat.add_sub_cancel' hn]
  have hlt : a.toNat % 2 ^ n < 2 ^ 64 := lt_of_le_of_lt (Nat.mod_le _ _) a.isLt
  apply BitVec.eq_of_toNat_eq
  rw [BitVec.ofInt_natCast, BitVec.toNat_ofNat, Nat.mod_eq_of_lt hlt, zextBits, BitVec.toNat_ushiftRight, BitVec.toNat_shiftLeft, Nat.shiftLeft_eq,
    Nat.shiftRight_eq_div_pow, hsplit, Nat.mul_mod_mul_right, Nat.mul_div_cancel _ (Nat.two_pow_pos _)]

end Sys2Proof.Machine

/-! The reasons of R72 that an operation's own fields give, and the one write that a scalar operation issues. -/
namespace Sys2Proof.Machine
open Sys2Proof.Claims

section
variable {vregs accs : Nat} {i : Instr}

theorem fieldReason_zeroFields {x : Nat} (hx : x ∈ zeroFields i) (h : x ≠ 0) : fieldReason vregs accs i = some 2 := by
  unfold fieldReason
  rw [if_pos (List.any_eq_true.mpr ⟨x, hx, by simpa using h⟩)]

theorem fieldReason_limits (hz : zeroFields i = []) (ho : ∀ o ∈ explicitOps i, opndOk vregs accs o = true) (hl : limits i = false) :
    fieldReason vregs accs i = some 4 := by
  simp [fieldReason, hz, List.all_eq_true.mpr ho, hl]

theorem wf_iff : wf i = true ↔ (∀ x ∈ zeroFields i, x = 0) ∧ (∀ o ∈ explicitOps i, opndOk 1024 32 o = true) ∧ limits i = true := by
  have hz : (zeroFields i).any (· != 0) = false ↔ ∀ x ∈ zeroFields i, x = 0 := by simp
  rw [← hz, ← List.all_eq_true]
  unfold wf fieldReason
  cases (zeroFields i).any (· != 0) <;> cases (explicitOps i).all (opndOk 1024 32) <;> cases limits i <;> simp

theorem zeroField_of_wf {k : Nat} {x : BitVec k} (hx : x.toNat ∈ zeroFields i) (h : wf i = true) : x = 0 := by
  obtain ⟨hz, -, -⟩ := wf_iff.mp h
  exact BitVec.eq_of_toNat_eq (hz _ hx)

end

/-- A scalar register field names a register whatever it holds (R58). -/
theorem opndOk_s (n : BitVec 6) (dest : Bool) : opndOk 1024 32 ⟨.s, n.toNat, dest⟩ = true := by
  have hlt := n.isLt
  simp [opndOk, RC.size, hlt]

theorem opndOk_a {n : BitVec 6} (h : n.toNat < 32) (dest : Bool) : opndOk 1024 32 ⟨.a, n.toNat, dest⟩ = true := by
  simp [opndOk, RC.size, h]

/-- A guard destination is one of g1 to g15 (R58). -/
theorem opndOk_guard_dest (n : BitVec 6) : opndOk 1024 32 (wr .g n) = true ↔ 1 ≤ n.toNat ∧ n.toNat ≤ 15 := by
  show (decide (n.toNat < 16) && !(n.toNat == 0 && true)) = true ↔ _
  rw [Bool.and_eq_true, Bool.and_true, decide_eq_true_eq, Bool.not_eq_true', beq_eq_false_iff_ne]
  omega

theorem guardDest_of_wf {i : Instr} {d : BitVec 6} (hd : wr .g d ∈ explicitOps i) (h : wf i = true) : 1 ≤ d.toNat ∧ d.toNat ≤ 15 := by
  obtain ⟨-, hops, -⟩ := wf_iff.mp h
  exact (opndOk_guard_dest d).mp (hops _ hd)

theorem writes_of_exec {i : Instr} {s : State} {lat : Nat} {w : Wr} (h : exec i s = .next (s.emit lat w)) : writes i s lat [w] :=
  ⟨_, h, State.emit_issues s lat w⟩

end Sys2Proof.Machine

/-! ### Register forms (R125, R127) -/
namespace Sys2Proof.Machine
open Sys2Proof.Claims

/-- A row of `tableSR` holds: the instruction has the row's opcode and issues one write, of the row's value. -/
def meetsSR (row : Nat × (SR → Instr) × Nat × (W64 → W64 → Int)) : Prop :=
  ∀ (f : SR) (s : State), (encodeOpS (row.2.1 f)).map Prod.fst = some row.1 ∧
    writes (row.2.1 f) s row.2.2.1 [.s f.d.toNat (BitVec.ofInt 64 (row.2.2.2 (sr s f.a) (sr s f.b)))]

/-- A row holds when the model's operation on words is the row's on whole numbers. -/
theorem meetsSR_of {op lat : Nat} {i : SR → Instr} {v : W64 → W64 → Int} {g : W64 → W64 → W64} (hval : ∀ a b, BitVec.ofInt 64 (v a b) = g a b)
    (hop : ∀ f, (encodeOpS (i f)).map Prod.fst = some op := by intros; rfl)
    (hexec : ∀ f s, exec (i f) s = .next (s.emit lat (.s f.d.toNat (g (sr s f.a) (sr s f.b)))) := by intros; rfl) : meetsSR (op, i, lat, v) := fun f s =>
  ⟨hop f, writes_of_exec (by rw [hexec, hval])⟩

theorem toNat_mod_lt (b : W64) : b.toNat % 64 < 64 := Nat.mod_lt _ (by decide)

/-- Settles O1, row by row. -/
theorem scalarRegisterForms : Obligations.ScalarRegisterForms := by
  show ∀ row ∈ tableSR, meetsSR row
  simp only [tableSR, List.forall_mem_cons]
  exact ⟨meetsSR_of (g := (· + ·)) fun a b => by rw [BitVec.ofInt_add, ofInt_toNat, ofInt_toNat],
    meetsSR_of (g := (· - ·)) fun a b => by rw [ofInt_sub, ofInt_toNat, ofInt_toNat],
    meetsSR_of fun a b => ofInt_toNat (a &&& b),
    meetsSR_of fun a b => ofInt_toNat (a ||| b),
    meetsSR_of fun a b => ofInt_toNat (a ^^^ b),
    meetsSR_of fun a b => ofInt_toNat (a &&& ~~~b),
    meetsSR_of fun a b => ofInt_toNat_mul_two_pow a (b.toNat % 64),
    meetsSR_of fun a b => ofInt_toNat_div_two_pow a (b.toNat % 64),
    meetsSR_of fun a b => ofInt_toInt_div_two_pow a (b.toNat % 64),
    meetsSR_of fun a b => ofInt_rotateLeft a (toNat_mod_lt b),
    meetsSR_of ofInt_min_toInt,
    meetsSR_of ofInt_max_toInt,
    meetsSR_of ofInt_min_toNat,
    meetsSR_of ofInt_max_toNat,
    meetsSR_of (g := (· * ·)) fun a b => by rw [Nat.cast_mul, BitVec.ofInt_mul, ofInt_toNat, ofInt_toNat],
    meetsSR_of fun _ _ => rfl,
    meetsSR_of fun _ _ => BitVec.ofInt_natCast .., by simp⟩

end Sys2Proof.Machine

/-! ### Division (R129, R130, R301) -/
namespace Sys2Proof.Machine
open Sys2Proof.Claims

section
variable {w : Nat} (a b : W64) (sgn : Bool)

theorem ofInt_divOperand : BitVec.ofInt w (divOperand sgn w a) = BitVec.ofNat w a.toNat := by
  cases sgn
  · exact (BitVec.ofInt_natCast ..).trans (ofNat_mod_two_pow ..)
  · exact BitVec.ofInt_toInt

/-- An operand of a division is zero exactly where its low w bits are. -/
theorem divOperand_eq_zero : divOperand sgn w a = 0 ↔ a.toNat % 2 ^ w = 0 := by
  cases sgn
  · exact Int.natCast_eq_zero
  · show (BitVec.ofNat w a.toNat).toInt = 0 ↔ _
    rw [← BitVec.toInt_zero (w := w), BitVec.toInt_inj, ← BitVec.toNat_inj, BitVec.toNat_ofNat, BitVec.toNat_zero]

theorem zeroDivisor_eq : zeroDivisor w b = decide (divOperand sgn w b = 0) := by
  rw [zeroDivisor, beq_eq_decide, decide_eq_decide, divOperand_eq_zero]

theorem divQR_zero (h : b.toNat % 2 ^ w = 0) : divQR sgn w a b = (2 ^ w - 1, divOperand sgn w a) :=
  if_pos ((divOperand_eq_zero b sgn).mpr h)
theorem divQR_nonzero (h : b.toNat % 2 ^ w ≠ 0) :
    divQR sgn w a b = ((divOperand sgn w a).tdiv (divOperand sgn w b), (divOperand sgn w a).tmod (divOperand sgn w b)) := by
  rw [Int.tmod_def, Int.mul_comm (divOperand sgn w b)]
  exact if_neg fun h0 => h ((divOperand_eq_zero b sgn).mp h0)

theorem divide_zero (h : b.toNat % 2 ^ w = 0) : divide sgn w a b = (2 ^ w - 1, a.toNat % 2 ^ w) := if_pos h
theorem divide_unsigned (h : b.toNat % 2 ^ w ≠ 0) :
    divide false w a b = (a.toNat % 2 ^ w / (b.toNat % 2 ^ w), a.toNat % 2 ^ w % (b.toNat % 2 ^ w)) := if_neg h
theorem divide_signed (h : b.toNat % 2 ^ w ≠ 0) : divide true w a b =
    if divOperand true w a = -(2 ^ (w - 1)) ∧ divOperand true w b = -1 then (2 ^ (w - 1), 0)
    else (intBits w ((divOperand true w a).tdiv (divOperand true w b)), intBits w ((divOperand true w a).tmod (divOperand true w b))) := by
  unfold divide
  simp only [if_neg h, if_true, ofNat_mod_two_pow]
  rfl

/-- The model's quotient and remainder have the w bits of R129's: the most negative number over −1, a case of its own in the model, has the quotient 2^(w−1) in both. -/
theorem divide_spec : BitVec.ofNat w (divide sgn w a b).1 = BitVec.ofInt w (divQR sgn w a b).1 ∧
    BitVec.ofNat w (divide sgn w a b).2 = BitVec.ofInt w (divQR sgn w a b).2 := by
  by_cases h : b.toNat % 2 ^ w = 0
  · have hones : (2 ^ w - 1 : Int) = ((2 ^ w - 1 : Nat) : Int) := by rw [Nat.cast_sub Nat.one_le_two_pow, Nat.cast_pow, Nat.cast_ofNat, Nat.cast_one]
    rw [divQR_zero a b sgn h, divide_zero a b sgn h, hones, BitVec.ofInt_natCast, ofInt_divOperand]
    exact ⟨rfl, ofNat_mod_two_pow ..⟩
  · rw [divQR_nonzero a b sgn h]
    cases sgn
    · rw [divide_unsigned a b h]
      exact ⟨(BitVec.ofInt_natCast w _).symm, (BitVec.ofInt_natCast w _).symm⟩
    · rw [divide_signed a b h]
      split
      · next hmin =>
        obtain ⟨hx, hy⟩ := hmin
        rw [hx, hy, Int.tdiv_neg, Int.tdiv_one, Int.neg_neg, Int.tmod_neg, Int.tmod_one]
        exact ⟨(BitVec.ofInt_natCast w (2 ^ (w - 1))).symm.trans (by rw [Nat.cast_pow, Nat.cast_ofNat]), (BitVec.ofInt_natCast w 0).symm⟩
      · exact ⟨ofNat_intBits .., ofNat_intBits ..⟩

theorem divExtend_eq (rem : Bool) (hw : w = 32 ∨ w = 64) :
    divExtend sgn w (if rem then (divide sgn w a b).2 else (divide sgn w a b).1) = divResult sgn w rem a b := by
  obtain ⟨hq, hr⟩ := divide_spec (w := w) a b sgn
  have hbits : BitVec.ofNat w (if rem then (divide sgn w a b).2 else (divide sgn w a b).1) = BitVec.ofInt w (if rem then (divQR sgn w a b).2 else (divQR sgn w a b).1) := by
    cases rem
    · exact hq
    · exact hr
  unfold divResult
  dsimp only
  rw [← hbits]
  rcases hw with rfl | rfl
  · rfl
  · rw [BitVec.signExtend_eq, BitVec.setWidth_eq, ite_self]
    exact if_neg (by decide)

end

theorem State.checked_none (s t : State) {c : Option Cause} (h : c = none) : s.checked c t = .next t := by rw [h]; rfl
theorem State.checked_some (s t : State) {c : Option Cause} {x : Cause} (h : c = some x) : s.checked c t = .next (s.precise x) := by rw [h]; rfl

section
variable (s : State) (f : SR) (sgn : Bool) (w : Nat) (rem : Bool)

/-- The state in which a division's result is pending, with `divTime` for its cycles (R129, R130). -/
def State.divided : State :=
  let q := divide sgn w (sr s f.a) (sr s f.b)
  s.modMe fun c => (c.addVar .division [.s f.d.toNat] [.s f.d.toNat (divExtend sgn w (if rem then q.2 else q.1))]
    (some (s.cycle + divTime (zeroDivisor w (sr s f.b)))) false none).2

/-- A zero divisor that dzo covers clears dzo (R301). -/
theorem State.division_covered (h : zeroDivisor w (sr s f.b) = true ∧ s.me.regs.ckcfg.getLsbD 1 = true ∧ s.me.regs.ckcfg.getLsbD 2 = true) :
    s.division sgn w f rem = (s.divided f sgn w rem).emit 1 (.sys 0x000 ((s.me.regs.ckcfg &&& 0b011).setWidth 64)) := by
  unfold State.division
  exact if_pos (by rw [Bool.and_eq_true, Bool.and_eq_true, and_assoc]; exact h)
theorem State.division_plain (h : ¬(zeroDivisor w (sr s f.b) = true ∧ s.me.regs.ckcfg.getLsbD 1 = true ∧ s.me.regs.ckcfg.getLsbD 2 = true)) :
    s.division sgn w f rem = s.divided f sgn w rem := by
  unfold State.division
  exact if_neg (by rw [Bool.and_eq_true, Bool.and_eq_true, and_assoc]; exact h)

theorem divTraps_iff (b : W64) (ckcfg : BitVec 3) :
    divTraps w b ckcfg = true ↔ zeroDivisor w b = true ∧ ckcfg.getLsbD 1 = true ∧ ckcfg.getLsbD 2 = false := by
  rw [divTraps, Bool.and_eq_true, Bool.and_eq_true, Bool.not_eq_true', and_assoc]
  rfl

theorem State.opDiv_traps (h : zeroDivisor w (sr s f.b) = true ∧ s.me.regs.ckcfg.getLsbD 1 = true ∧ s.me.regs.ckcfg.getLsbD 2 = false) :
    s.opDiv sgn w f rem = .next (s.precise (cause0 0x04 1)) :=
  s.checked_some _ (if_pos ((divTraps_iff w _ _).mpr h))
theorem State.opDiv_runs (h : ¬(zeroDivisor w (sr s f.b) = true ∧ s.me.regs.ckcfg.getLsbD 1 = true ∧ s.me.regs.ckcfg.getLsbD 2 = false)) :
    s.opDiv sgn w f rem = .next (s.division sgn w f rem) :=
  s.checked_none _ (if_neg fun ht => h ((divTraps_iff w _ _).mp ht))

end

/-- A row of `tableDiv` holds: the trap of a zero divisor where dze is set and dzo clear, else the pending result of R129, and dzo cleared where it covered a zero divisor. -/
def meetsDiv (row : Nat × (SR → Instr) × Bool × Nat × Bool) : Prop :=
  ∀ (f : SR) (s : State),
    let zero : Bool := divOperand row.2.2.1 row.2.2.2.1 (sr s f.b) = 0
    let dze := s.me.regs.ckcfg.getLsbD 1
    let dzo := s.me.regs.ckcfg.getLsbD 2
    (encodeOpS (row.2.1 f)).map Prod.fst = some row.1 ∧
    (zero = true ∧ dze = true ∧ dzo = false → exec (row.2.1 f) s = .next (s.precise (cause0 0x04 1))) ∧
    (¬ (zero = true ∧ dze = true ∧ dzo = false) → ∃ t u v, exec (row.2.1 f) s = .next t ∧ s.pends u v ∧
      v.kind = .division ∧ v.regs = [.s f.d.toNat] ∧ v.hold = false ∧ v.poison = none ∧
      v.wr = [.s f.d.toNat (divResult row.2.2.1 row.2.2.2.1 row.2.2.2.2 (sr s f.a) (sr s f.b))] ∧
      v.ready = some (s.cycle + if zero then 2 else 6) ∧
      (zero = true ∧ dze = true → u.issues t 1 [.sys 0x000 ((s.me.regs.ckcfg &&& 0b011).setWidth 64)]) ∧
      (¬ (zero = true ∧ dze = true) → t = u))

theorem meetsDiv_of {op w : Nat} {i : SR → Instr} {sgn rem : Bool} (hw : w = 32 ∨ w = 64 := by decide)
    (hop : ∀ f, (encodeOpS (i f)).map Prod.fst = some op := by intros; rfl)
    (hexec : ∀ f s, exec (i f) s = s.opDiv sgn w f rem := by intros; rfl) : meetsDiv (op, i, sgn, w, rem) := fun f s => by
  dsimp only
  simp only [← zeroDivisor_eq]
  refine ⟨hop f, fun h => (hexec f s).trans (s.opDiv_traps f sgn w rem h), fun h => ⟨_, s.divided f sgn w rem, _, (hexec f s).trans (s.opDiv_runs f sgn w rem h),
    State.addVar_pends .., rfl, rfl, rfl, rfl, ?_, rfl, fun ⟨hz, he⟩ => ?_, fun hz => ?_⟩⟩
  · exact congrArg (fun v => [Wr.s f.d.toNat v]) (divExtend_eq _ _ sgn rem hw)
  · rw [s.division_covered f sgn w rem ⟨hz, he, by simpa [hz, he] using h⟩]
    exact State.emit_issues ..
  · exact s.division_plain f sgn w rem fun ⟨h0, h1, _⟩ => hz ⟨h0, h1⟩

/-- Settles O2: the eight rows differ in type, width and result alone. -/
theorem divisionForms : Obligations.DivisionForms := by
  show ∀ row ∈ tableDiv, meetsDiv row
  simp only [tableDiv, List.forall_mem_cons]
  exact ⟨meetsDiv_of, meetsDiv_of, meetsDiv_of, meetsDiv_of, meetsDiv_of, meetsDiv_of, meetsDiv_of, meetsDiv_of, by simp⟩

end Sys2Proof.Machine

/-! ### Immediate forms (R128, R131) -/
namespace Sys2Proof.Machine
open Sys2Proof.Claims

/-- A row of `tableSI` holds: the row's opcode; reason 4 outside the row's limits; within them one write, of the row's value. -/
def meetsSI (row : Nat × (SI → Instr) × Nat × (BitVec 39 → Bool) × (W64 → BitVec 39 → Int)) : Prop :=
  ∀ (f : SI) (s : State), (encodeOpS (row.2.1 f)).map Prod.fst = some row.1 ∧
    (row.2.2.2.1 f.imm = false → fieldReason 1024 32 (row.2.1 f) = some 4) ∧
    (row.2.2.2.1 f.imm = true → wf (row.2.1 f) = true ∧
      writes (row.2.1 f) s row.2.2.1 [.s f.d.toNat (BitVec.ofInt 64 (row.2.2.2.2 (sr s f.a) f.imm))])

/-- A row holds when the model's operation on words is the row's on whole numbers, within the row's limits. -/
theorem meetsSI_of {op lat : Nat} {i : SI → Instr} {lim : BitVec 39 → Bool} {v : W64 → BitVec 39 → Int} {g : W64 → W64 → W64}
    (hval : ∀ a n, lim n = true → BitVec.ofInt 64 (v a n) = g a (imm64 n))
    (hop : ∀ f, (encodeOpS (i f)).map Prod.fst = some op := by intros; rfl)
    (hlim : ∀ f, limits (i f) = lim f.imm := by intros; rfl)
    (hzero : ∀ f, zeroFields (i f) = [] := by intros; rfl)
    (hregs : ∀ f, explicitOps (i f) = [wr .s f.d, rd .s f.a] := by intros; rfl)
    (hexec : ∀ f s, exec (i f) s = .next (s.emit lat (.s f.d.toNat (g (sr s f.a) (imm64 f.imm)))) := by intros; rfl) :
    meetsSI (op, i, lat, lim, v) := fun f s => by
  have hops : ∀ o ∈ explicitOps (i f), opndOk 1024 32 o = true := by
    rw [hregs f]
    simp [wr, rd, opndOk_s]
  refine ⟨hop f, fun h => fieldReason_limits (hzero f) hops ((hlim f).trans h), fun h => ⟨wf_iff.mpr ⟨by simp [hzero f], hops, (hlim f).trans h⟩, ?_⟩⟩
  exact writes_of_exec (by rw [hexec, hval _ _ h])

theorem scalarImmediateForms : ScalarImmediateForms := by
  show ∀ row ∈ tableSI, meetsSI row
  simp only [tableSI, List.forall_mem_cons]
  exact ⟨meetsSI_of (g := (· + ·)) fun a n _ => ofInt_toNat_add a n,
    meetsSI_of fun a n _ => ofInt_toNat (a &&& imm64 n),
    meetsSI_of fun a n _ => ofInt_toNat (a ||| imm64 n),
    meetsSI_of fun a n _ => ofInt_toNat (a ^^^ imm64 n),
    meetsSI_of (g := fun a b => a <<< (b.toNat % 64)) fun a n h => by rw [toNat_imm64_mod h, ofInt_toNat_mul_two_pow],
    meetsSI_of (g := fun a b => a >>> (b.toNat % 64)) fun a n h => by rw [toNat_imm64_mod h, ofInt_toNat_div_two_pow],
    meetsSI_of (g := fun a b => a.sshiftRight (b.toNat % 64)) fun a n h => by rw [toNat_imm64_mod h, ofInt_toInt_div_two_pow],
    meetsSI_of (g := (· * ·)) fun a n _ => by rw [BitVec.ofInt_mul, ofInt_toNat]; rfl,
    meetsSI_of (g := fun a b => if ltI b a then b else a) fun a n _ => by rw [← toInt_imm64, ofInt_min_toInt]; rfl,
    meetsSI_of (g := fun a b => if ltI a b then b else a) fun a n _ => by rw [← toInt_imm64, ofInt_max_toInt]; rfl,
    meetsSI_of (g := fun a b => sextBits b.toNat a) fun a n h => by
      have hn : 1 ≤ n.toNat ∧ n.toNat ≤ 64 := by simpa using h
      rw [toNat_imm64 hn.2, sextBits_eq hn],
    meetsSI_of (g := fun a b => zextBits b.toNat a) fun a n h => by
      have hn : 1 ≤ n.toNat ∧ n.toNat ≤ 64 := by simpa using h
      rw [toNat_imm64 hn.2, zextBits_eq hn.2], by simp⟩

theorem wideImmediates : WideImmediates := fun f s => by
  refine ⟨writes_of_exec rfl, ?_, writes_of_exec rfl, ?_, fun h => ?_, fun h => ?_⟩
  · rw [← extract_append_extract (hi := 19) (lo := 45)]
    exact writes_of_exec rfl
  · rw [← extract_append_extract (hi := 27) (lo := 45)]
    exact writes_of_exec rfl
  · exact fieldReason_zeroFields (List.mem_singleton.mpr rfl) (toNat_extractLsb'_ne_zero f.imm (by decide) h)
  · exact fieldReason_zeroFields (List.mem_singleton.mpr rfl) (toNat_extractLsb'_ne_zero f.imm (by decide) h)

/-- Settles O3. -/
theorem scalarImmediates : Obligations.ScalarImmediates := ⟨scalarImmediateForms, wideImmediates⟩

end Sys2Proof.Machine

/-! ### Compares and guards (R132, R133) -/
namespace Sys2Proof.Machine
open Sys2Proof.Claims

/-- A row of `tableCmp` holds: the row's opcode, and one write of one guard, of the row's condition. -/
def meetsCmp (row : Nat × (SR → Instr) × (W64 → W64 → Bool)) : Prop :=
  ∀ (f : SR) (s : State), (encodeOpS (row.2.1 f)).map Prod.fst = some row.1 ∧ writes (row.2.1 f) s 1 [.g f.d.toNat (row.2.2 (sr s f.a) (sr s f.b))]

theorem meetsCmp_of {op : Nat} {i : SR → Instr} {v g : W64 → W64 → Bool} (hval : ∀ a b, v a b = g a b)
    (hop : ∀ f, (encodeOpS (i f)).map Prod.fst = some op := by intros; rfl)
    (hexec : ∀ f s, exec (i f) s = .next (s.emit 1 (.g f.d.toNat (g (sr s f.a) (sr s f.b)))) := by intros; rfl) : meetsCmp (op, i, v) := fun f s =>
  ⟨hop f, by show writes _ _ _ [.g _ (v _ _)]; rw [hval]; exact writes_of_exec (hexec f s)⟩

/-- The same of a row of `tableCmpI`. -/
def meetsCmpI (row : Nat × (SI → Instr) × (W64 → BitVec 39 → Bool)) : Prop :=
  ∀ (f : SI) (s : State), (encodeOpS (row.2.1 f)).map Prod.fst = some row.1 ∧ writes (row.2.1 f) s 1 [.g f.d.toNat (row.2.2 (sr s f.a) f.imm)]

theorem meetsCmpI_of {op : Nat} {i : SI → Instr} {v g : W64 → BitVec 39 → Bool} (hval : ∀ a n, v a n = g a n)
    (hop : ∀ f, (encodeOpS (i f)).map Prod.fst = some op := by intros; rfl)
    (hexec : ∀ f s, exec (i f) s = .next (s.emit 1 (.g f.d.toNat (g (sr s f.a) f.imm))) := by intros; rfl) : meetsCmpI (op, i, v) := fun f s =>
  ⟨hop f, by show writes _ _ _ [.g _ (v _ _)]; rw [hval]; exact writes_of_exec (hexec f s)⟩

theorem tableCmp_meets : ∀ row ∈ tableCmp, meetsCmp row := by
  simp only [tableCmp, List.forall_mem_cons]
  exact ⟨meetsCmp_of decide_toNat_eq,
    meetsCmp_of decide_toNat_ne,
    meetsCmp_of (g := ltI) fun _ _ => rfl,
    meetsCmp_of (g := ltN) fun _ _ => rfl,
    meetsCmp_of (g := leI) fun _ _ => rfl,
    meetsCmp_of (g := leN) fun _ _ => rfl,
    meetsCmp_of (g := fun a b => a &&& b != 0) fun a b => decide_toNat_ne (a &&& b) 0,
    meetsCmp_of (g := fun a _ => a != 0) fun a _ => decide_toNat_ne a 0, by simp⟩

theorem tableCmpI_meets : ∀ row ∈ tableCmpI, meetsCmpI row := by
  simp only [tableCmpI, List.forall_mem_cons]
  exact ⟨meetsCmpI_of (g := fun a n => a == imm64 n) fun a n => by rw [← toInt_imm64, decide_toInt_eq],
    meetsCmpI_of (g := fun a n => a != imm64 n) fun a n => by rw [← toInt_imm64, decide_toInt_ne],
    meetsCmpI_of (g := fun a n => ltI a (imm64 n)) fun a n => by rw [← toInt_imm64]; rfl,
    meetsCmpI_of (g := fun a n => ltN a (imm64 n)) fun _ _ => rfl,
    meetsCmpI_of (g := fun a n => leI a (imm64 n)) fun a n => by rw [← toInt_imm64]; rfl,
    meetsCmpI_of (g := fun a n => leN a (imm64 n)) fun _ _ => rfl,
    meetsCmpI_of fun _ _ => rfl, by simp⟩

/-- Every compare names its guard as a destination. -/
theorem dest_of_mem_tableCmp : ∀ row ∈ tableCmp, ∀ f : SR, wr .g f.d ∈ explicitOps (row.2.1 f) := by
  have first (x : Opnd) (l : List Opnd) : x ∈ x :: l := List.mem_cons_self
  simp only [tableCmp, List.forall_mem_cons]
  exact ⟨fun _ => first .., fun _ => first .., fun _ => first .., fun _ => first .., fun _ => first .., fun _ => first .., fun _ => first .., fun _ => first .., by simp⟩
theorem dest_of_mem_tableCmpI : ∀ row ∈ tableCmpI, ∀ f : SI, wr .g f.d ∈ explicitOps (row.2.1 f) := by
  have first (x : Opnd) (l : List Opnd) : x ∈ x :: l := List.mem_cons_self
  simp only [tableCmpI, List.forall_mem_cons]
  exact ⟨fun _ => first .., fun _ => first .., fun _ => first .., fun _ => first .., fun _ => first .., fun _ => first .., fun _ => first .., by simp⟩

theorem cnz_of_opcode : ∀ row ∈ tableCmp, row.1 = 0x37 → row.2.1 = Instr.cnz := by
  have other {p : Prop} {n : Nat} (h : n ≠ 0x37 := by decide) : n = 0x37 → p := fun hn => absurd hn h
  simp only [tableCmp, List.forall_mem_cons]
  exact ⟨other, other, other, other, other, other, other, fun _ => trivial, by simp⟩
theorem ctsb_of_opcode : ∀ row ∈ tableCmpI, row.1 = 0x3E → row.2.1 = Instr.ctsb := by
  have other {p : Prop} {n : Nat} (h : n ≠ 0x3E := by decide) : n = 0x3E → p := fun hn => absurd hn h
  simp only [tableCmpI, List.forall_mem_cons]
  exact ⟨other, other, other, other, other, other, fun _ => trivial, by simp⟩

theorem compareForms : CompareForms := by
  refine ⟨tableCmp_meets, tableCmpI_meets, fun row hrow f h => ?_, fun row hrow f h => ?_⟩
  · obtain ⟨hlo, hhi⟩ := guardDest_of_wf (dest_of_mem_tableCmp row hrow f) h
    refine ⟨hlo, hhi, fun hop => ?_⟩
    rw [cnz_of_opcode row hrow hop] at h
    exact zeroField_of_wf (List.mem_singleton.mpr rfl) h
  · obtain ⟨hlo, hhi⟩ := guardDest_of_wf (dest_of_mem_tableCmpI row hrow f) h
    refine ⟨hlo, hhi, fun hop => ?_⟩
    rw [ctsb_of_opcode row hrow hop] at h
    exact of_decide_eq_true (limits_of_wf h)

/-- A row of `tableG` holds: the row's opcode, and one write of one guard, of the row's combination. -/
def meetsG (row : Nat × (SR → Instr) × (Bool → Bool → Bool)) : Prop :=
  ∀ (f : SR) (s : State), (encodeOpS (row.2.1 f)).map Prod.fst = some row.1 ∧ writes (row.2.1 f) s 1 [.g f.d.toNat (row.2.2 (gr s f.a) (gr s f.b))]

theorem meetsG_of {op : Nat} {i : SR → Instr} {g : Bool → Bool → Bool} (hop : ∀ f, (encodeOpS (i f)).map Prod.fst = some op := by intros; rfl)
    (hexec : ∀ f s, exec (i f) s = .next (s.emit 1 (.g f.d.toNat (g (gr s f.a) (gr s f.b)))) := by intros; rfl) : meetsG (op, i, g) := fun f s =>
  ⟨hop f, writes_of_exec (hexec f s)⟩

/-- The number that `Regs.guardBits` adds up from the guards below n. -/
def sumBits (p : Nat → Bool) (n : Nat) : Nat := (List.range n).foldl (fun a i => if p i then a + 2 ^ i else a) 0

theorem sumBits_succ (p : Nat → Bool) (n : Nat) : sumBits p (n + 1) = if p n then 2 ^ n + sumBits p n else sumBits p n := by
  simp [sumBits, List.range_succ, Nat.add_comm]

theorem sumBits_lt (p : Nat → Bool) (n : Nat) : sumBits p n < 2 ^ n := by
  induction n with
  | zero => exact Nat.one_pos
  | succ n ih =>
    rw [sumBits_succ, Nat.pow_succ]
    split <;> omega

theorem testBit_sumBits (p : Nat → Bool) (n i : Nat) : (sumBits p n).testBit i = (decide (i < n) && p i) := by
  induction n with
  | zero => simp [sumBits]
  | succ n ih =>
    have hlt := sumBits_lt p n
    rcases Nat.lt_trichotomy i n with h | rfl | h
    · have hlow : (sumBits p (n + 1)).testBit i = (sumBits p n).testBit i := by
        rw [sumBits_succ]
        split
        · exact Nat.testBit_two_pow_add_gt h _
        · rfl
      rw [hlow, ih, decide_eq_true h, decide_eq_true (Nat.lt_succ_of_lt h)]
    · rw [sumBits_succ]
      cases hp : p i
      · simp [Nat.testBit_lt_two_pow hlt]
      · simp [Nat.testBit_two_pow_add_eq, Nat.testBit_lt_two_pow hlt]
    · have hbelow : sumBits p (n + 1) < 2 ^ i := lt_of_lt_of_le (sumBits_lt p (n + 1)) (Nat.pow_le_pow_right (by decide) h)
      rw [Nat.testBit_lt_two_pow hbelow, decide_eq_false (by omega), Bool.false_and]

theorem getLsbD_guardBits (r : Regs) (i : Nat) : r.guardBits.getLsbD i = (decide (i < 16) && r.rg i) := by
  show (BitVec.ofNat 64 (sumBits r.rg 16)).getLsbD i = _
  rw [BitVec.getLsbD_ofNat, testBit_sumBits]
  by_cases h : i < 16
  · simp [h, show i < 64 by omega]
  · simp [h]

theorem mem_guardWrites (v : W64) (w : Wr) : w ∈ guardWrites v ↔ ∃ i, 1 ≤ i ∧ i ≤ 15 ∧ w = .g i (v.getLsbD i) := by
  simp only [guardWrites, List.mem_map, List.mem_range]
  constructor
  · rintro ⟨i, hi, rfl⟩
    exact ⟨i + 1, by omega, by omega, rfl⟩
  · rintro ⟨i, hlo, hhi, rfl⟩
    exact ⟨i - 1, by omega, by rw [Nat.sub_add_cancel hlo]⟩

theorem guardForms : GuardForms := by
  refine ⟨?_, fun _ => rfl, fun f s => ⟨s.me.regs.guardBits, writes_of_exec rfl, ?_, fun i hi => ?_, fun i hi => ?_⟩,
    fun f s => ⟨_, ⟨_, rfl, State.emits_issues s 1 _⟩, mem_guardWrites _⟩, fun f => ⟨fun h => ?_, fun h => ?_, fun i hlo hhi => ?_⟩⟩
  · show ∀ row ∈ tableG, meetsG row
    simp only [tableG, List.forall_mem_cons]
    exact ⟨meetsG_of, meetsG_of, meetsG_of, meetsG_of, by simp⟩
  · rw [getLsbD_guardBits]; rfl
  · rw [getLsbD_guardBits, decide_eq_true hi, Bool.true_and]
  · rw [getLsbD_guardBits, decide_eq_false (by omega), Bool.false_and]
  · exact ⟨zeroField_of_wf List.mem_cons_self h, zeroField_of_wf (List.mem_cons_of_mem _ List.mem_cons_self) h⟩
  · exact ⟨zeroField_of_wf List.mem_cons_self h, zeroField_of_wf (List.mem_cons_of_mem _ List.mem_cons_self) h⟩
  · refine List.mem_append_right _ (List.mem_map.mpr ⟨i - 1, List.mem_range.mpr (by omega), ?_⟩)
    rw [Nat.sub_add_cancel hlo]

/-- Settles O4. -/
theorem comparesAndGuards : Obligations.ComparesAndGuards := ⟨compareForms, guardForms⟩

end Sys2Proof.Machine

/-! ### Addresses and special registers (R134 to R136) -/
namespace Sys2Proof.Machine
open Sys2Proof.Claims

theorem addressForms : AddressForms := by
  refine ⟨fun f s => ⟨?_, ?_, ?_, ?_, fun h => ?_, fun h => ?_, fun ha hb => ?_, fun h => ?_⟩, fun f s => ?_⟩
  · rw [ofInt_toNat_add]; exact writes_of_exec rfl
  · rw [ofInt_toNat_sub]; exact writes_of_exec rfl
  · rw [ofInt_sub, ofInt_toNat, ofInt_toNat]; exact writes_of_exec rfl
  · rw [BitVec.ofNat_toNat]; exact writes_of_exec rfl
  · have hlow : f.b = 0 := BitVec.eq_of_toNat_eq h
    refine ⟨_, rfl, ?_⟩
    rw [if_pos hlow, ← BitVec.ofNat_toNat]
    exact State.emit_issues ..
  · have hhigh : f.b ≠ 0 := fun hb => by rw [hb] at h; exact absurd h (by decide)
    refine ⟨_, rfl, ?_⟩
    rw [if_neg hhigh, setWidth_extract_high]
    exact State.emit_issues ..
  · have hops : ∀ o ∈ [wr .s f.d, rd .a f.a], opndOk 1024 32 o = true := by simp [wr, rd, opndOk_s, opndOk_a ha]
    exact fieldReason_limits rfl hops (decide_eq_false (by omega))
  · exact zeroField_of_wf (List.mem_singleton.mpr rfl) h
  · rw [ofInt_toNat_add]; exact writes_of_exec rfl

theorem specialRegisterMoves : SpecialRegisterMoves := by
  refine ⟨fun f s => ⟨?_, ?_, ⟨_, writes_of_exec rfl, ?_⟩, writes_of_exec rfl, ?_, writes_of_exec rfl, fun h => ?_⟩, fun f s => ⟨writes_of_exec rfl, fun h => ?_⟩, fun f s => ?_⟩
  · rw [← setWidth_ofInt (by decide : 20 ≤ 64), ofInt_toNat_add]; exact writes_of_exec rfl
  · rw [BitVec.ofNat_toNat]; exact writes_of_exec rfl
  · rw [LoopCtr.bits_ofBits, ← toNat_ofInt_mod (by decide : 36 ≤ 64), ofInt_toNat_add]; rfl
  · rw [ofInt_toNat_add]; exact writes_of_exec rfl
  · have himm : f.imm.toNat ≠ 0 := fun hi => h (BitVec.eq_of_toNat_eq hi)
    have first : f.imm.toNat ∈ [f.imm.toNat] := List.mem_singleton.mpr rfl
    exact ⟨fieldReason_zeroFields first himm, fieldReason_zeroFields first himm, fieldReason_zeroFields first himm⟩
  · exact fieldReason_zeroFields (List.mem_singleton.mpr rfl) fun hb => h (BitVec.eq_of_toNat_eq hb)
  · rw [ofInt_toNat_add]; exact writes_of_exec rfl

/-- Settles O5. -/
theorem addressAndSpecialMoves : Obligations.AddressAndSpecialMoves := ⟨addressForms, specialRegisterMoves⟩

end Sys2Proof.Machine

/-! ### Branches (R137 to R139) -/
namespace Sys2Proof.Machine
open Sys2Proof.Claims

section
variable (s : State)

theorem State.emits_me (lat : Nat) (ws : List Wr) : (s.emits lat ws).me =
    { s.me with iss := { s.me.iss with pend := s.me.iss.pend ++ ws.map fun w => ⟨s.cycle + lat - 1, s.me.iss.region, w⟩ } } := by
  rw [State.emits, State.modMe_me, Core.emit_foldl]

theorem State.jump_me (dest : W72) (pen : Nat) : (s.jump dest pen).me = { s.me with iss := { s.me.iss with next := some (dest, pen) } } :=
  State.modMe_me ..

theorem State.onlyCore_emit (lat : Nat) (w : Wr) : s.onlyCore (s.emit lat w) s.cur := State.onlyCore_modCore s s.cur _
theorem State.onlyCore_emits (lat : Nat) (ws : List Wr) : s.onlyCore (s.emits lat ws) s.cur := State.onlyCore_modCore s s.cur _
theorem State.onlyCore_jump (dest : W72) (pen : Nat) : s.onlyCore (s.jump dest pen) s.cur := State.onlyCore_modCore s s.cur _

/-- From `s` to `t` the acting core chooses the bundle at `dest` with penalty `pen` and issues writes `ws` of latency 1, and nothing else changes. -/
def branchTo (s t : State) (dest : W72) (pen : Nat) (ws : List Wr) : Prop :=
  s.onlyCore t s.cur ∧ t.cur = s.cur ∧ s.me.onlyBranch t.me ∧ t.me.iss.next = some (dest, pen) ∧
    t.me.iss.pend = s.me.iss.pend ++ ws.map fun w => ⟨s.cycle, s.me.iss.region, w⟩

theorem State.jump_branchTo (dest : W72) (pen : Nat) : branchTo s (s.jump dest pen) dest pen [] := by
  refine ⟨s.onlyCore_jump dest pen, rfl, ?_, ?_, ?_⟩ <;> rw [State.jump_me]
  · rfl
  · exact (List.append_nil _).symm

theorem State.link_branchTo (dest : W72) (pen : Nat) : branchTo s (s.jump dest pen).link dest pen [.a 31 (s.me.iss.pc + 64)] := by
  refine ⟨(s.onlyCore_jump dest pen).trans ((s.jump dest pen).onlyCore_emit 1 _), rfl, ?_, ?_, ?_⟩ <;> rw [State.link, State.emit_me, State.jump_me] <;> rfl

end

theorem bundleAt_eq (p : W72) (n : BitVec 39) : bundleAt p n = BitVec.ofInt 72 (p.toNat + 64 * n.toInt) := by
  rw [BitVec.ofInt_add, ofInt_toNat, Int.mul_comm, BitVec.ofInt_mul]
  rfl

theorem targetFault_aligned {t : W72} (h : t.toNat % 64 = 0) : targetFault t = none := if_pos h
theorem targetFault_misaligned {t : W72} (h : t.toNat % 64 ≠ 0) : targetFault t = some ⟨0x06, 1, 0, 0, t⟩ := if_neg h

theorem branchTargets : BranchTargets := by
  intro f s
  dsimp only
  simp only [← bundleAt_eq]
  exact ⟨⟨_, rfl, s.jump_branchTo ..⟩, ⟨_, rfl, s.link_branchTo ..⟩, fun h => ⟨_, s.checked_none _ (targetFault_aligned h), s.jump_branchTo ..⟩,
    fun h => s.checked_some _ (targetFault_misaligned h),
    fun h => ⟨⟨_, s.checked_none _ (targetFault_aligned h), s.jump_branchTo ..⟩, ⟨_, s.checked_none _ (targetFault_aligned h), s.link_branchTo ..⟩⟩,
    fun h => ⟨s.checked_some _ (targetFault_misaligned h), s.checked_some _ (targetFault_misaligned h)⟩⟩

end Sys2Proof.Machine

/-! ### The loop branch (R140, R142) -/
namespace Sys2Proof.Machine
open Sys2Proof.Claims

section
variable {l : LoopCtr}

theorem lbrCount_iterates (h : l.cnt ≠ 0) : lbrCount l = ({ l with cnt := l.cnt - 1 }, true, true) := if_pos h
theorem lbrCount_drains (h : l.cnt = 0) (he : 1 < l.ec.toNat) : lbrCount l = ({ l with ec := l.ec - 1 }, false, true) := by
  rw [lbrCount, if_neg (not_not.mpr h), if_pos he]
theorem lbrCount_ends (h : l.cnt = 0) (he : l.ec.toNat ≤ 1) : lbrCount l = ({ l with ec := 0 }, false, false) := by
  rw [lbrCount, if_neg (not_not.mpr h), if_neg (not_lt.mpr he)]

theorem lbrCount_taken (h : l.cnt ≠ 0 ∨ 1 < l.ec.toNat) : (lbrCount l).2.2 = true := by
  by_cases hc : l.cnt = 0
  · rw [lbrCount_drains hc (h.resolve_left (not_not.mpr hc))]
  · rw [lbrCount_iterates hc]

/-- With no iteration left a counter keeps cnt = 0 and counts its epilogue stages down. -/
theorem lbrCount_zero (h : l.cnt = 0) : (lbrCount l).1 = ⟨if 1 < l.ec.toNat then l.ec - 1 else 0, 0⟩ := by
  obtain ⟨ec, cnt⟩ := l
  obtain rfl : cnt = 0 := h
  by_cases he : 1 < ec.toNat
  · rw [lbrCount_drains rfl he, if_pos he]
  · rw [lbrCount_ends rfl (not_lt.mp he), if_neg he]

theorem lbrCount_new (l : LoopCtr) : (lbrCount l).2.1 = decide (l.cnt ≠ 0) := by
  unfold lbrCount
  split
  · next h => exact (decide_eq_true h).symm
  · next h => split <;> exact (decide_eq_false h).symm

end

section
variable (r : Regs) (new : Bool)

theorem g8_mem_lbrRotate : Wr.g 8 new ∈ lbrRotate r new := List.mem_append_right _ (by simp)
theorem b8_mem_lbrRotate : Wr.b 8 (r.rb 15) ∈ lbrRotate r new := List.mem_append_right _ (by simp)
/-- Every register above the eighth takes the one below it. -/
theorem shift_mem_lbrRotate {i : Nat} (hlo : 9 ≤ i) (hhi : i ≤ 15) : Wr.g i (r.rg (i - 1)) ∈ lbrRotate r new ∧ Wr.b i (r.rb (i - 1)) ∈ lbrRotate r new := by
  obtain ⟨j, rfl⟩ : ∃ j, i = j + 9 := ⟨i - 9, by omega⟩
  have hj : j ∈ List.range 7 := List.mem_range.mpr (by omega)
  exact ⟨List.mem_append_left _ (List.mem_flatMap.mpr ⟨j, hj, by simp⟩), List.mem_append_left _ (List.mem_flatMap.mpr ⟨j, hj, by simp⟩)⟩

end

/-! lsave as a number (R303) -/

theorem lsaveWord_toNat (n : Nat) (l : LoopCtr) : (lsaveWord n l).toNat = 2 ^ 63 + n % 4 * 2 ^ 36 + l.ec.toNat * 2 ^ 32 + l.cnt.toNat := by
  have hec := l.ec.isLt
  have hcnt := l.cnt.isLt
  rw [lsaveWord, BitVec.toNat_ofNat]
  omega

theorem getLsbD_63 (v : W64) : v.getLsbD 63 = decide (2 ^ 63 ≤ v.toNat) := by
  have hlt := v.isLt
  rw [BitVec.getLsbD, Nat.testBit_eq_decide_div_mod_eq, decide_eq_decide]
  omega

theorem lsaveNames_iff (v : W64) (n : Nat) : lsaveNames v n = true ↔ v.getLsbD 63 = true ∧ v.toNat / 2 ^ 36 % 4 = n := by
  rw [lsaveNames, Bool.and_eq_true, beq_iff_eq, BitVec.extractLsb'_toNat, Nat.shiftRight_eq_div_pow]

/-- What a forced stop leaves in lsave: the valid bit, the counter's number, its ec and its cnt. -/
theorem lsaveWord_fields {n : Nat} (h : n < 4) (l : LoopCtr) : (lsaveWord n l).getLsbD 63 = true ∧ (lsaveWord n l).toNat / 2 ^ 36 % 4 = n ∧
    (lsaveWord n l).toNat / 2 ^ 32 % 16 = l.ec.toNat ∧ (lsaveWord n l).toNat % 2 ^ 32 = l.cnt.toNat := by
  have hec := l.ec.isLt
  have hcnt := l.cnt.isLt
  rw [getLsbD_63, decide_eq_true_eq, lsaveWord_toNat]
  omega

/-! The two ways of `lbr` share what follows the choice of the counter and lsave that it goes by -/

section
variable (s : State) (f : SB)

/-- A context stops at the head of its loop (R142). -/
def State.stopAt (top : W72) : State := (s.jump top 0).modMe fun c => { c with job := c.job.map fun j => { j with phase := .stopped } }

theorem State.stopAt_me (top : W72) :
    (s.stopAt top).me = { s.me with iss := { s.me.iss with next := some (top, 0) }, job := s.me.job.map fun j => { j with phase := .stopped } } := by
  rw [State.stopAt, State.modMe_me, State.jump_me]

theorem State.onlyCore_stopAt (top : W72) : s.onlyCore (s.stopAt top) s.cur :=
  (s.onlyCore_jump top 0).trans (State.onlyCore_modCore (s.jump top 0) s.cur _)

/-- The writes of an `lbr` that goes by counter `l`. -/
def State.lbrWrites (l : LoopCtr) : List Wr := .lc f.lc.toNat (lbrCount l).1 :: lbrRotate s.me.regs (lbrCount l).2.1

/-- What an `lbr` does that goes by counter `l` and by `lsave`. -/
def State.lbrWith (l : LoopCtr) (lsave : W64) : State :=
  let u := s.emits 1 (s.lbrWrites f l)
  let top := bundleAt s.me.iss.pc f.target
  if (lbrCount l).2.2 then u.jump top 0 else if lsaveNames lsave f.lc.toNat && s.me.sys.level == 0 then u.stopAt top else u

/-- A clamp request that is honoured ends, and lsave takes the counter. -/
def State.clamped : State :=
  (s.modMe fun c => { c with iss := { c.iss with clamp := false } }).emit 1 (.sys 0x020 (lsaveWord f.lc.toNat (s.me.regs.rlc f.lc.toNat)))

theorem State.clamped_me : (s.clamped f).me = { s.me with iss := { s.me.iss with
    clamp := false, pend := s.me.iss.pend ++ [⟨s.cycle, s.me.iss.region, .sys 0x020 (lsaveWord f.lc.toNat (s.me.regs.rlc f.lc.toNat))⟩] } } := by
  rw [State.clamped, State.emit_me, State.modMe_me]
  rfl

theorem State.onlyCore_clamped : s.onlyCore (s.clamped f) s.cur := (State.onlyCore_modCore s s.cur _).trans (State.onlyCore_emit ..)

/-- `lbr` honours a clamp request. -/
def State.honours : Prop := (s.me.regs.rlc f.lc.toNat).cnt ≠ 0 ∧ s.me.iss.clamp = true ∧ s.me.sys.level = 0

theorem exec_lbr_free (h : ¬s.honours f) : exec (.lbr f) s = .next (s.lbrWith f (s.me.regs.rlc f.lc.toNat) s.me.regs.lsave) := by
  unfold State.honours at h
  show execLbr f s = _
  unfold execLbr State.lbrWith State.stopAt State.lbrWrites
  simp only [if_neg h]
  split
  · rfl
  · split <;> rfl

theorem exec_lbr_clamped (h : s.honours f) : exec (.lbr f) s =
    .next ((s.clamped f).lbrWith f { s.me.regs.rlc f.lc.toNat with cnt := 0 } (lsaveWord f.lc.toNat (s.me.regs.rlc f.lc.toNat))) := by
  unfold State.honours at h
  show execLbr f s = _
  unfold execLbr State.lbrWith State.stopAt State.lbrWrites
  simp only [if_pos h, State.clamped_me]
  split
  · rfl
  · split <;> rfl

variable {l : LoopCtr} {lsave : W64}

theorem State.lbrWith_taken (h : (lbrCount l).2.2 = true) : s.lbrWith f l lsave = (s.emits 1 (s.lbrWrites f l)).jump (bundleAt s.me.iss.pc f.target) 0 := if_pos h
theorem State.lbrWith_stops (h : (lbrCount l).2.2 = false) (hn : lsaveNames lsave f.lc.toNat = true) (hl : s.me.sys.level = 0) :
    s.lbrWith f l lsave = (s.emits 1 (s.lbrWrites f l)).stopAt (bundleAt s.me.iss.pc f.target) := by
  simp [State.lbrWith, h, hn, hl]
theorem State.lbrWith_falls (h : (lbrCount l).2.2 = false) (hn : ¬(lsaveNames lsave f.lc.toNat = true ∧ s.me.sys.level = 0)) :
    s.lbrWith f l lsave = s.emits 1 (s.lbrWrites f l) := by
  have hgoes : (lsaveNames lsave f.lc.toNat && s.me.sys.level == 0) = false := by simpa using hn
  simp [State.lbrWith, h, hgoes]

variable (l lsave)

/-- Whichever way an `lbr` goes, it stays within its core and issues its writes. -/
theorem State.lbrWith_frame : s.onlyCore (s.lbrWith f l lsave) s.cur ∧
    (s.lbrWith f l lsave).me.iss.pend = s.me.iss.pend ++ (s.lbrWrites f l).map (fun w => ⟨s.cycle, s.me.iss.region, w⟩) ∧
    (s.lbrWith f l lsave).me.iss.clamp = s.me.iss.clamp := by
  have hu := s.onlyCore_emits 1 (s.lbrWrites f l)
  unfold State.lbrWith
  dsimp only
  split
  · exact ⟨hu.trans (State.onlyCore_jump ..), by rw [State.jump_me, State.emits_me]; rfl, by rw [State.jump_me, State.emits_me]⟩
  · split
    · exact ⟨hu.trans (State.onlyCore_stopAt ..), by rw [State.stopAt_me, State.emits_me]; rfl, by rw [State.stopAt_me, State.emits_me]⟩
    · exact ⟨hu, by rw [State.emits_me]; rfl, by rw [State.emits_me]⟩

variable {l lsave}

/-- Under a forced stop of its own counter an `lbr` without an iteration left goes to the loop's top, where the context stops unless an epilogue stage is left. -/
theorem State.lbrWith_forced (hcnt : l.cnt = 0) (hn : lsaveNames lsave f.lc.toNat = true) (hl : s.me.sys.level = 0) :
    (s.lbrWith f l lsave).me.iss.next = some (bundleAt s.me.iss.pc f.target, 0) ∧
    (s.lbrWith f l lsave).me.job = if 1 < l.ec.toNat then s.me.job else s.me.job.map fun j => { j with phase := .stopped } := by
  by_cases he : 1 < l.ec.toNat
  · rw [s.lbrWith_taken f (by rw [lbrCount_drains hcnt he]), State.jump_me, State.emits_me, if_pos he]
    exact ⟨rfl, rfl⟩
  · rw [s.lbrWith_stops f (by rw [lbrCount_ends hcnt (not_lt.mp he)]) hn hl, State.stopAt_me, State.emits_me, if_neg he]
    exact ⟨rfl, rfl⟩

end

theorem loopBranch : LoopBranch := by
  intro f s k n l top ends
  rw [show top = bundleAt k.iss.pc f.target from (bundleAt_eq ..).symm]
  refine ⟨fun h => ?_, fun h => ?_⟩
  · obtain ⟨hvalid, hnum, hec, hcnt⟩ := lsaveWord_fields f.lc.isLt l
    obtain ⟨honly, hpend, hclamp⟩ := (s.clamped f).lbrWith_frame f { l with cnt := 0 } (lsaveWord n l)
    obtain ⟨hnext, hjob⟩ := (s.clamped f).lbrWith_forced f (l := { l with cnt := 0 }) rfl ((lsaveNames_iff _ _).mpr ⟨hvalid, hnum⟩) (by rw [State.clamped_me]; exact h.2.2)
    rw [State.clamped_me] at hpend hclamp hnext hjob
    refine ⟨_, lsaveWord n l, exec_lbr_clamped s f h, (s.onlyCore_clamped f).trans honly, hclamp, ?_, ?_, hvalid, hnum, hec, hcnt, ?_, hnext, hjob⟩ <;> rw [hpend]
    · exact List.mem_append_left _ (List.mem_append_right _ List.mem_cons_self)
    · exact List.mem_append_right _ (List.mem_map.mpr ⟨_, List.mem_cons_of_mem _ (g8_mem_lbrRotate ..), by rw [lbrCount_new]; rfl⟩)
    · exact List.mem_append_right _ (List.mem_map.mpr ⟨_, List.mem_cons_self, by rw [lbrCount_zero rfl]; rfl⟩)
  · have hfree : ¬s.honours f := fun ⟨hcnt, hclamp, hlevel⟩ => h.elim hcnt fun h => h.elim (fun hc => Bool.false_ne_true (hc.symm.trans hclamp)) fun hl => hl hlevel
    obtain ⟨honly, hpend, -⟩ := s.lbrWith_frame f l k.regs.lsave
    refine ⟨_, s.lbrWrites f l, exec_lbr_free s f hfree, hpend, honly, ⟨_, List.mem_cons_self, fun hc => ?_, fun ⟨hc, he⟩ => ?_, fun ⟨hc, he⟩ => ?_⟩, ?_, ?_, fun i hlo hhi => ?_, rfl,
      fun hgo => ?_, fun ⟨hc, he, hends⟩ => ?_, fun ⟨hc, he, hvalid, hnum, hlevel⟩ => ?_⟩
    · rw [lbrCount_iterates hc]; exact ⟨rfl, rfl⟩
    · rw [lbrCount_drains hc he]; exact ⟨hc, rfl⟩
    · rw [lbrCount_ends hc he]; exact ⟨hc, rfl⟩
    · rw [← lbrCount_new]; exact List.mem_cons_of_mem _ (g8_mem_lbrRotate ..)
    · exact List.mem_cons_of_mem _ (b8_mem_lbrRotate ..)
    · exact (shift_mem_lbrRotate _ _ hlo hhi).imp (List.mem_cons_of_mem _) (List.mem_cons_of_mem _)
    · rw [s.lbrWith_taken f (lbrCount_taken hgo), State.jump_me, State.emits_me]
      exact ⟨rfl, rfl⟩
    · rw [s.lbrWith_falls f (by rw [lbrCount_ends hc he]) (by rw [lsaveNames_iff, and_assoc]; exact hends), State.emits_me]
      exact ⟨rfl, rfl⟩
    · rw [s.lbrWith_stops f (by rw [lbrCount_ends hc he]) ((lsaveNames_iff _ _).mpr ⟨hvalid, hnum⟩) hlevel, State.stopAt_me, State.emits_me]
      exact ⟨rfl, rfl⟩

/-- Settles O6. -/
theorem branches : Obligations.Branches := ⟨branchTargets, loopBranch⟩

end Sys2Proof.Machine

/-! Lanes of a vector register: a lane of a register put together from lanes, of a mask and of a blend, and the writes that the vector class issues (R144, R145). -/
namespace Sys2Proof.Machine
open Sys2Proof.Claims

/-! ### Digits of a number -/

/-- The bits from `n` to `n + m − 1` do not depend on those from `k` on. -/
theorem toNat_ofNat_div_mod {k n m : Nat} (h : n + m ≤ k) (x : Nat) : (BitVec.ofNat k x).toNat / 2 ^ n % 2 ^ m = x / 2 ^ n % 2 ^ m := by
  rw [BitVec.toNat_ofNat]
  apply Nat.eq_of_testBit_eq
  intro i
  simp only [Nat.testBit_mod_two_pow, Nat.testBit_div_two_pow]
  by_cases hi : i < m
  · rw [decide_eq_true hi, decide_eq_true (show i + n < k by omega)]; rfl
  · rw [decide_eq_false hi]; rfl

theorem packLanes_lt (w : Nat) (l : List Nat) : packLanes w l < 2 ^ (w * l.length) := by
  induction l with
  | nil => exact Nat.two_pow_pos _
  | cons x t ih =>
    have hx : x % 2 ^ w < 2 ^ w := Nat.mod_lt _ (Nat.two_pow_pos w)
    rw [packLanes, List.length_cons, Nat.mul_succ, Nat.add_comm (w * _), Nat.pow_add]
    calc x % 2 ^ w + 2 ^ w * packLanes w t < 2 ^ w * (packLanes w t + 1) := by rw [Nat.mul_succ]; omega
      _ ≤ 2 ^ w * 2 ^ (w * t.length) := Nat.mul_le_mul_left _ ih

theorem packLanes_div_mod (w : Nat) (l : List Nat) : ∀ i, packLanes w l / 2 ^ (w * i) % 2 ^ w = l.getD i 0 % 2 ^ w := by
  induction l with
  | nil => intro i; simp [packLanes]
  | cons x t ih =>
    intro i
    cases i with
    | zero => simp [packLanes]
    | succ i =>
      have hlow : x % 2 ^ w / 2 ^ w = 0 := Nat.div_eq_of_lt (Nat.mod_lt _ (Nat.two_pow_pos w))
      rw [packLanes, Nat.mul_succ, Nat.add_comm (w * i), Nat.pow_add, ← Nat.div_div_eq_div_mul, Nat.add_mul_div_left _ _ (Nat.two_pow_pos w), hlow, Nat.zero_add, ih,
        List.getD_cons_succ]

theorem testBit_packLanes {w : Nat} (hw : 0 < w) (l : List Nat) (b : Nat) : (packLanes w l).testBit b = (l.getD (b / w) 0).testBit (b % w) := by
  have hlane := congrArg (·.testBit (b % w)) (packLanes_div_mod w l (b / w))
  simpa only [Nat.testBit_mod_two_pow, Nat.testBit_div_two_pow, Nat.mod_lt _ hw, decide_true, Bool.true_and, Nat.mod_add_div] using hlane

theorem getD_map_range {n i : Nat} (g : Nat → Nat) (hi : i < n) : ((List.range n).map g).getD i 0 = g i := by
  simp [hi]

/-! ### Lanes -/

theorem lane_eq_laneAt (w : Nat) (v : Vec) (i : Nat) : lane w v i = laneAt w v i := by
  rw [lane, laneAt, BitVec.toNat_ushiftRight, Nat.shiftRight_eq_div_pow]

theorem State.vLane_eq_vl (s : State) (w : Nat) (r : BitVec 10) (i : Nat) : s.vLane w r i = vl s w r i := lane_eq_laneAt w _ i

theorem laneAt_lt (w : Nat) (v : Vec) (i : Nat) : laneAt w v i < 2 ^ w := Nat.mod_lt _ (Nat.two_pow_pos w)

theorem testBit_laneAt (w : Nat) (v : Vec) (i b : Nat) : (laneAt w v i).testBit b = (decide (b < w) && v.getLsbD (w * i + b)) := by
  rw [laneAt, Nat.testBit_mod_two_pow, Nat.testBit_div_two_pow, BitVec.testBit_toNat, Nat.add_comm b]

/-- A lane that a register has lies in its 4096 bits. -/
theorem lane_inside {w i : Nat} (hi : i < 4096 / w) : w * i + w ≤ 4096 :=
  calc w * i + w = (i + 1) * w := by rw [Nat.mul_comm, Nat.succ_mul]
    _ ≤ 4096 / w * w := Nat.mul_le_mul_right w hi
    _ ≤ 4096 := Nat.div_mul_le_self ..

theorem laneAt_vecLanes {w i : Nat} (hi : i < 4096 / w) (l : List Nat) : laneAt w (vecLanes w l) i = l.getD i 0 % 2 ^ w := by
  rw [laneAt, vecLanes, toNat_ofNat_div_mod (lane_inside hi), packLanes_div_mod]

theorem laneAt_vecLanes_map {w i : Nat} (hi : i < 4096 / w) (g : Nat → Nat) : laneAt w (vecLanes w ((List.range (laneCount w)).map g)) i = g i % 2 ^ w := by
  rw [laneAt_vecLanes hi, laneCount, getD_map_range g hi]

theorem laneAt_vecLanes_replicate {w i : Nat} (hi : i < 4096 / w) (x : Nat) : laneAt w (vecLanes w (List.replicate (laneCount w) x)) i = x % 2 ^ w := by
  rw [laneAt_vecLanes hi, laneCount, List.getD_replicate x hi]

theorem laneAt_allOnes {w i : Nat} (hi : i < 4096 / w) : laneAt w (BitVec.allOnes 4096) i = 2 ^ w - 1 := by
  have hin := lane_inside hi
  apply Nat.eq_of_testBit_eq
  intro b
  rw [testBit_laneAt, Nat.testBit_two_pow_sub_one, BitVec.getLsbD_allOnes]
  by_cases hb : b < w
  · rw [decide_eq_true hb, decide_eq_true (show w * i + b < 4096 by omega)]; rfl
  · rw [decide_eq_false hb]; rfl

/-- A lane of the register bits that a predicate governs: all ones where the lane is active, else zero (R145). -/
theorem laneAt_govMask (p : Pred) {w i : Nat} (hi : i < 4096 / w) : laneAt w (govMask p w) i = if laneOn p w i then 2 ^ w - 1 else 0 := by
  unfold govMask
  split
  case isTrue hall =>
    have hin := lane_inside hi
    have hw : 0 < w := Nat.pos_of_ne_zero fun h => by rw [h, Nat.div_zero] at hi; exact Nat.not_lt_zero _ hi
    have hon : laneOn p w i = true := by
      rw [laneOn, hall, BitVec.getLsbD_allOnes]; exact decide_eq_true (by omega)
    rw [laneAt_allOnes hi, if_pos hon]
  case isFalse =>
    rw [laneAt_vecLanes_map hi]
    split
    · exact Nat.mod_eq_of_lt (Nat.sub_lt (Nat.two_pow_pos w) Nat.one_pos)
    · exact Nat.zero_mod _

/-- A blend takes each lane from one side where the mask holds all of the lane or none of it. -/
theorem laneAt_blend {w i : Nat} {m : Vec} (old new : Vec) {on : Bool} (hm : laneAt w m i = if on then 2 ^ w - 1 else 0) :
    laneAt w (blend m old new) i = laneAt w (if on then new else old) i := by
  apply Nat.eq_of_testBit_eq
  intro b
  rw [testBit_laneAt, testBit_laneAt, blend, getLsbD_masked]
  by_cases hb : b < w
  · have hbit : m.getLsbD (w * i + b) = on := by
      have h := congrArg (·.testBit b) hm
      cases on <;> simpa [testBit_laneAt, Nat.testBit_two_pow_sub_one, hb] using h
    rw [hbit]; cases on <;> rfl
  · rw [decide_eq_false hb]; rfl

/-! ### What a vector operation issues -/

section
variable {i : Instr} {s : State} {lat w : Nat} {p : BitVec 4} {d : BitVec 10} {g g' : Nat → Nat}

/-- A result on the active lanes is one masked write of the destination's lanes. -/
theorem lanesWritten_of_exec (hexec : exec i s = s.vecRes lat p w d g) (hg : ∀ j < 4096 / w, g j % 2 ^ w = g' j % 2 ^ w) : lanesWritten s i lat p w d g' := by
  refine ⟨_, _, writes_of_exec hexec, fun j hj => ⟨fun hon => ⟨?_, ?_⟩, fun hoff => ?_⟩⟩
  · exact (laneAt_govMask _ hj).trans (if_pos hon)
  · rw [laneAt_vecLanes_map hj, hg j hj]
  · exact (laneAt_govMask _ hj).trans (if_neg (Bool.not_eq_true _ ▸ hoff))

theorem allLanesWritten_of_exec {v : Vec} (hexec : exec i s = s.vecAll lat d v) (hv : ∀ j < 4096 / w, laneAt w v j = g j % 2 ^ w) : allLanesWritten s i lat w d g :=
  ⟨v, writes_of_exec hexec, hv⟩

end

end Sys2Proof.Machine

/-! ### Values of lanes and results in lanes (R150, R151) -/
namespace Sys2Proof.Machine
open Sys2Proof.Claims

/-- A lane value that fits its lane. A floating lane is read modulo its width, so that only an integer's width matters. -/
def fitsLane (t x : Nat) : Prop := t < 8 → x < 2 ^ tyWidth t

theorem fitsLane_of_lt {t x : Nat} (h : x < 2 ^ tyWidth t) : fitsLane t x := fun _ => h
theorem fitsLane_of_float {t : Nat} (h : 8 ≤ t) (x : Nat) : fitsLane t x := fun h' => absurd h' (Nat.not_lt.mpr h)
theorem fitsLane_vl {t : Nat} {s : State} {r : BitVec 10} {i : Nat} : fitsLane t (vl s (tyWidth t) r i) := fitsLane_of_lt (laneAt_lt ..)
theorem fitsLane_mod {t x : Nat} : fitsLane t (x % 2 ^ tyWidth t) := fitsLane_of_lt (Nat.mod_lt _ (Nat.two_pow_pos _))

theorem isFloat_true {t : Nat} (h : 8 ≤ t) : isFloat t = true := decide_eq_true h
theorem isFloat_false {t : Nat} (h : ¬8 ≤ t) : isFloat t = false := decide_eq_false h

theorem tyWidth_pos (t : Nat) : 0 < tyWidth t := by unfold tyWidth; split <;> decide

theorem toNat_ofInt_eq_intBits (w : Nat) (x : Int) : (BitVec.ofInt w x).toNat = intBits w x := by
  rw [BitVec.toNat_ofInt, intBits, Nat.cast_pow, Nat.cast_ofNat]

theorem intBits_lt (w : Nat) (x : Int) : intBits w x < 2 ^ w := toNat_ofInt_eq_intBits w x ▸ BitVec.isLt _

/-- A number below 2^w read as signed. -/
theorem toInt_ofNat_of_lt {w x : Nat} (hw : 0 < w) (hx : x < 2 ^ w) : (BitVec.ofNat w x).toInt = if 2 ^ (w - 1) ≤ x then (x : Int) - 2 ^ w else x := by
  obtain ⟨k, rfl⟩ : ∃ k, w = k + 1 := ⟨w - 1, by omega⟩
  rw [BitVec.toInt_eq_toNat_cond, BitVec.toNat_ofNat, Nat.mod_eq_of_lt hx, Nat.add_sub_cancel, Nat.pow_succ, Nat.cast_mul, Nat.cast_pow, Nat.cast_ofNat, pow_succ]
  split <;> split <;> omega

theorem vInt_eq_intLane {t x : Nat} (h : fitsLane t x) : vInt t x = intLane t x := by
  unfold vInt intLane isSigned
  by_cases ht : t < 4
  · rw [if_pos ht, toInt_ofNat_of_lt (tyWidth_pos t) (h (by omega))]
    simp [ht]
  · simp [ht]

theorem vIntRes_eq_intRes (t : Nat) (sat : Bool) (x : Int) : vIntRes t sat x = intRes t sat x := by
  unfold vIntRes intRes intMin intMax isSigned
  rw [toNat_ofInt_eq_intBits]
  simp only [decide_eq_true_eq]

/-- An integer lane comes back from the number it is read as. -/
theorem intRes_intLane {t x : Nat} (ht : t < 8) (h : fitsLane t x) : intRes t false (intLane t x) = x := by
  rw [← vInt_eq_intLane h, intRes, ← toNat_ofInt_eq_intBits, if_neg Bool.false_ne_true]
  unfold vInt
  split
  · exact (congrArg BitVec.toNat BitVec.ofInt_toInt).trans ((BitVec.toNat_ofNat ..).trans (Nat.mod_eq_of_lt (h ht)))
  · exact (congrArg BitVec.toNat (BitVec.ofInt_natCast ..)).trans ((BitVec.toNat_ofNat ..).trans (Nat.mod_eq_of_lt (h ht)))

/-- One lane of R150 as the table has it. -/
theorem arithLane_eq (o : Arith) (t rm : Nat) (sat : Bool) {a b c : Nat} (ha : fitsLane t a) (hb : fitsLane t b) (hc : fitsLane t c) :
    arithLane o.flt o.int t rm sat a b c = o.lane t rm sat a b c := by
  unfold arithLane Arith.lane isFloat
  rw [vInt_eq_intLane ha, vInt_eq_intLane hb, vInt_eq_intLane hc, vIntRes_eq_intRes]
  simp only [decide_eq_true_eq]
  rfl

end Sys2Proof.Machine

/-! ### Arithmetic (R150) -/
namespace Sys2Proof.Machine
open Sys2Proof.Claims

/-- A row of `tableArith` holds: both forms have their opcodes and write each active lane as the row says. -/
def meetsArith (row : Nat × (VR → Instr) × (VS → Instr) × Nat × (Nat → Val → Val → Val → Val) × (Int → Int → Int → Int)) : Prop :=
  (∀ (f : VR) (s : State), (encodeOpV (row.2.1 f)).map Prod.fst = some row.1 ∧
    lanesWritten s (row.2.1 f) row.2.2.2.1 f.p (tyWidth f.ty.toNat) f.vd fun i =>
      arithLane row.2.2.2.2.1 row.2.2.2.2.2 f.ty.toNat f.rm.toNat (f.sat == 1) (vl s (tyWidth f.ty.toNat) f.va i) (vl s (tyWidth f.ty.toNat) f.vb i) (vl s (tyWidth f.ty.toNat) f.vc i)) ∧
  ∀ (f : VS) (s : State), (encodeOpV (row.2.2.1 f)).map Prod.fst = some (row.1 + 0x80) ∧
    lanesWritten s (row.2.2.1 f) row.2.2.2.1 f.p (tyWidth f.ty.toNat) f.vd fun i =>
      arithLane row.2.2.2.2.1 row.2.2.2.2.2 f.ty.toNat f.rm.toNat (f.sat == 1) (vl s (tyWidth f.ty.toNat) f.va i) ((sr s f.s).toNat % 2 ^ tyWidth f.ty.toNat) (vl s (tyWidth f.ty.toNat) f.vc i)

/-- A row holds when both forms perform the model's operation, whose exact results are the row's. -/
theorem meetsArith_of {op lat : Nat} {i : VR → Instr} {iS : VS → Instr} (o : Arith)
    (hop : ∀ f, (encodeOpV (i f)).map Prod.fst = some op := by intros; rfl)
    (hopS : ∀ f, (encodeOpV (iS f)).map Prod.fst = some (op + 0x80) := by intros; rfl)
    (hexec : ∀ f s, exec (i f) s = s.arithVR lat f o := by intros; rfl)
    (hexecS : ∀ f s, exec (iS f) s = s.arithVS lat f o := by intros; rfl) : meetsArith (op, i, iS, lat, o.flt, o.int) := by
  refine ⟨fun f s => ⟨hop f, lanesWritten_of_exec (hexec f s) fun j _ => ?_⟩, fun f s => ⟨hopS f, lanesWritten_of_exec (hexecS f s) fun j _ => ?_⟩⟩
  · rw [arithLane_eq o _ _ _ fitsLane_vl fitsLane_vl fitsLane_vl, State.vLane_eq_vl, State.vLane_eq_vl, State.vLane_eq_vl]
  · rw [arithLane_eq o _ _ _ fitsLane_vl fitsLane_mod fitsLane_vl, State.vLane_eq_vl, State.vLane_eq_vl, State.sLane]

/-- Settles O21, row by row. -/
theorem vectorArithmetic : Obligations.VectorArithmetic := by
  show ∀ row ∈ tableArith, meetsArith row
  simp only [tableArith, List.forall_mem_cons]
  exact ⟨meetsArith_of .add, meetsArith_of .sub, meetsArith_of .mul, meetsArith_of .fma, meetsArith_of .fms, meetsArith_of .fnma, meetsArith_of .div, by simp⟩

end Sys2Proof.Machine

/-! ### Other lane operations (R151) -/
namespace Sys2Proof.Machine
open Sys2Proof.Claims

/-- A row of `tableLane2` holds: both forms have their opcodes and write each active lane as the row says. -/
def meetsLane2 (row : Nat × (VR → Instr) × (VS → Instr) × Bool × (Nat → Nat → Nat → Nat)) : Prop :=
  (∀ (f : VR) (s : State), (encodeOpV (row.2.1 f)).map Prod.fst = some row.1 ∧
    lanesWritten s (row.2.1 f) 4 f.p (tyWidth f.ty.toNat) f.vd fun i => row.2.2.2.2 f.ty.toNat (vl s (tyWidth f.ty.toNat) f.va i) (vl s (tyWidth f.ty.toNat) f.vb i)) ∧
  ∀ (f : VS) (s : State), (encodeOpV (row.2.2.1 f)).map Prod.fst = some (row.1 + 0x80) ∧
    lanesWritten s (row.2.2.1 f) 4 f.p (tyWidth f.ty.toNat) f.vd fun i => row.2.2.2.2 f.ty.toNat (vl s (tyWidth f.ty.toNat) f.va i)
      (if row.2.2.2.1 then (sr s f.s).toNat else (sr s f.s).toNat % 2 ^ tyWidth f.ty.toNat)

/-- A row holds when the model's operation gives the row's lane modulo the width, for a first source that fits and a second that fits or counts whole. -/
theorem meetsLane2_of {op : Nat} {i : VR → Instr} {iS : VS → Instr} {whole : Bool} {v g : Nat → Nat → Nat → Nat}
    (hval : ∀ t a b, a < 2 ^ tyWidth t → (whole = false → b < 2 ^ tyWidth t) → g t a b % 2 ^ tyWidth t = v t a b % 2 ^ tyWidth t)
    (hop : ∀ f, (encodeOpV (i f)).map Prod.fst = some op := by intros; rfl)
    (hopS : ∀ f, (encodeOpV (iS f)).map Prod.fst = some (op + 0x80) := by intros; rfl)
    (hexec : ∀ f s, exec (i f) s = s.lanesVR f (g f.ty.toNat) := by intros; rfl)
    (hexecS : ∀ f s, exec (iS f) s = s.vecRes 4 f.p (tyWidth f.ty.toNat) f.vd fun j =>
      g f.ty.toNat (s.vLane (tyWidth f.ty.toNat) f.va j) (if whole then (sr s f.s).toNat else (sr s f.s).toNat % 2 ^ tyWidth f.ty.toNat) := by intros; rfl) :
    meetsLane2 (op, i, iS, whole, v) := by
  refine ⟨fun f s => ⟨hop f, lanesWritten_of_exec (hexec f s) fun j _ => ?_⟩, fun f s => ⟨hopS f, lanesWritten_of_exec (hexecS f s) fun j _ => ?_⟩⟩
  · rw [State.vLane_eq_vl, State.vLane_eq_vl]
    exact hval _ _ _ (laneAt_lt ..) fun _ => laneAt_lt ..
  · rw [State.vLane_eq_vl]
    refine hval _ _ _ (laneAt_lt ..) fun hw => ?_
    rw [hw]
    exact Nat.mod_lt _ (Nat.two_pow_pos _)

section
variable {t a b : Nat}

theorem minLane_eq (ha : fitsLane t a) (hb : fitsLane t b) :
    minLane t a b = if 8 ≤ t then vFlt t 0 (Val.min2 (vVal t a) (vVal t b)) else vIntRes t false (min (vInt t a) (vInt t b)) := by
  by_cases ht : 8 ≤ t
  · rw [minLane, isFloat_true ht, if_pos ht]; rfl
  · have ht' : t < 8 := Nat.not_le.mp ht
    rw [minLane, isFloat_false ht, if_neg ht, vIntRes_eq_intRes, vInt_eq_intLane ha, vInt_eq_intLane hb, if_neg Bool.false_ne_true]
    split
    case isTrue hlt => rw [min_eq_right hlt.le, intRes_intLane ht' hb]
    case isFalse hle => rw [min_eq_left (not_lt.mp hle), intRes_intLane ht' ha]

theorem maxLane_eq (ha : fitsLane t a) (hb : fitsLane t b) :
    maxLane t a b = if 8 ≤ t then vFlt t 0 (Val.max2 (vVal t a) (vVal t b)) else vIntRes t false (max (vInt t a) (vInt t b)) := by
  by_cases ht : 8 ≤ t
  · rw [maxLane, isFloat_true ht, if_pos ht]; rfl
  · have ht' : t < 8 := Nat.not_le.mp ht
    rw [maxLane, isFloat_false ht, if_neg ht, vIntRes_eq_intRes, vInt_eq_intLane ha, vInt_eq_intLane hb, if_neg Bool.false_ne_true]
    split
    case isTrue hlt => rw [max_eq_right hlt.le, intRes_intLane ht' hb]
    case isFalse hle => rw [max_eq_left (not_lt.mp hle), intRes_intLane ht' ha]

theorem absLane_eq (sat : Bool) (ha : fitsLane t a) : absLane t sat a = if 8 ≤ t then vFlt t 0 (vVal t a).abs else vIntRes t sat |vInt t a| := by
  by_cases ht : 8 ≤ t
  · rw [absLane, isFloat_true ht, if_pos ht]; rfl
  · rw [absLane, isFloat_false ht, if_neg ht, if_neg Bool.false_ne_true, vIntRes_eq_intRes, vInt_eq_intLane ha, Int.natCast_natAbs]

theorem negLane_eq (sat : Bool) (ha : fitsLane t a) : negLane t sat a = if 8 ≤ t then vFlt t 0 (vVal t a).negate else vIntRes t sat (-vInt t a) := by
  by_cases ht : 8 ≤ t
  · rw [negLane, isFloat_true ht, if_pos ht]; rfl
  · rw [negLane, isFloat_false ht, if_neg ht, if_neg Bool.false_ne_true, vIntRes_eq_intRes, vInt_eq_intLane ha]

theorem shlLane_mod (w a n : Nat) : shlLane w a n % 2 ^ w = (if n < w then a * 2 ^ n else 0) % 2 ^ w := by
  unfold shlLane
  split
  · exact Nat.mod_mod _ _
  · rfl

theorem mulhLane_eq (ha : fitsLane t a) (hb : fitsLane t b) : mulhLane t a b = (BitVec.ofInt (tyWidth t) (vInt t a * vInt t b / 2 ^ tyWidth t)).toNat := by
  rw [mulhLane, vInt_eq_intLane ha, vInt_eq_intLane hb, toNat_ofInt_eq_intBits]

/-- Shifted right by its width or more, a number of `w` bits leaves copies of its sign, so that only a count below the width matters. -/
theorem toInt_div_two_pow_min {w k : Nat} (x : BitVec w) (hk : w ≤ k) (n : Nat) : x.toInt / 2 ^ min n w = x.toInt / 2 ^ min n k := by
  by_cases hn : n < w
  · rw [Nat.min_eq_left hn.le, Nat.min_eq_left (hn.le.trans hk)]
  · have hfill (m : Nat) (hm : w ≤ m) : x.toInt / 2 ^ m = if x.toInt < 0 then -1 else 0 := by
      have hpow : (2 : Int) ^ w ≤ 2 ^ m := pow_le_pow_right₀ (by decide) hm
      have hlo := BitVec.le_two_mul_toInt (x := x)
      have hhi := BitVec.two_mul_toInt_lt (x := x)
      have hpos : (0 : Int) < 2 ^ w := by positivity
      split
      · exact (Int.ediv_eq_iff_of_pos (by omega)).mpr (by omega)
      · exact Int.ediv_eq_zero_of_lt (by omega) (by omega)
    rw [hfill _ (by omega), hfill _ (by omega)]

theorem tyWidth_le (t : Nat) : tyWidth t ≤ 64 := by unfold tyWidth; split <;> decide

theorem sarLane_eq (n : Nat) (ha : a < 2 ^ tyWidth t) :
    sarLane (tyWidth t) a n = (BitVec.ofInt (tyWidth t) ((BitVec.ofNat (tyWidth t) a).toInt / 2 ^ min n 64)).toNat := by
  rw [sarLane, ← toInt_ofNat_of_lt (tyWidth_pos t) ha, toInt_div_two_pow_min _ (tyWidth_le t), toNat_ofInt_eq_intBits]

end

theorem tableLane2_meets : ∀ row ∈ tableLane2, meetsLane2 row := by
  simp only [tableLane2, List.forall_mem_cons]
  exact ⟨meetsLane2_of (g := minLane) fun t a b ha hb => by rw [minLane_eq (fitsLane_of_lt ha) (fitsLane_of_lt (hb rfl))],
    meetsLane2_of (g := maxLane) fun t a b ha hb => by rw [maxLane_eq (fitsLane_of_lt ha) (fitsLane_of_lt (hb rfl))],
    meetsLane2_of (g := fun _ => (· &&& ·)) fun _ _ _ _ _ => rfl,
    meetsLane2_of (g := fun _ => (· ||| ·)) fun _ _ _ _ _ => rfl,
    meetsLane2_of (g := fun _ => (· ^^^ ·)) fun _ _ _ _ _ => rfl,
    meetsLane2_of (g := fun t a b => a &&& (2 ^ tyWidth t - 1 - b)) fun _ _ _ _ _ => rfl,
    meetsLane2_of (g := fun t => shlLane (tyWidth t)) fun t a b _ _ => shlLane_mod (tyWidth t) a b,
    meetsLane2_of (g := fun t => shrLane (tyWidth t)) fun _ _ _ _ _ => rfl,
    meetsLane2_of (g := fun t => sarLane (tyWidth t)) fun t a b ha _ => by rw [sarLane_eq b ha],
    meetsLane2_of (g := mulhLane) fun t a b ha hb => by rw [mulhLane_eq (fitsLane_of_lt ha) (fitsLane_of_lt (hb rfl))], by simp⟩

/-- Settles O22: the two-source operations row by row, then magnitude and negation. -/
theorem vectorLaneOperations : Obligations.VectorLaneOperations := by
  refine ⟨tableLane2_meets, fun f s _ => ⟨lanesWritten_of_exec (i := .vabs f) rfl fun j _ => ?_, lanesWritten_of_exec (i := .vneg f) rfl fun j _ => ?_⟩⟩
  · rw [← absLane_eq _ fitsLane_vl, State.vLane_eq_vl]
  · rw [← negLane_eq _ fitsLane_vl, State.vLane_eq_vl]

end Sys2Proof.Machine

/-! ### Moving lanes (R155) -/
namespace Sys2Proof.Machine
open Sys2Proof.Claims

theorem constLane_eq (t : Nat) (imm : BitVec 20) :
    constLane t imm = if t = 8 then imm.toNat * 2 ^ 12 else if 8 < t then imm.toNat else (BitVec.ofInt (tyWidth t) imm.toInt).toNat := by
  unfold constLane isFloat
  rw [toNat_ofInt_eq_intBits]
  split
  · rfl
  · next h8 => simp only [decide_eq_true_eq, show 8 ≤ t ↔ 8 < t by omega]

theorem laneScalar_eq {t x : Nat} (h : fitsLane t x) : laneScalar t x = BitVec.ofInt 64 (vInt t x) := by
  rw [vInt_eq_intLane h, laneScalar]
  split
  case isTrue => rfl
  case isFalse hs => rw [intLane, Bool.eq_false_iff.mpr hs, Bool.false_and, if_neg Bool.false_ne_true, BitVec.ofInt_natCast]

/-- Settles O24: each move places the lane that its rule names. -/
theorem vectorMoves : Obligations.VectorMoves := by
  refine ⟨fun f s _ => ⟨?vsel, ?vmov, ?vperm⟩, fun f s _ => ⟨?vrot, ?vconst⟩, fun f s _ => ⟨?vbcast, ?vins, ?vext⟩⟩
  case vsel =>
    refine allLanesWritten_of_exec (i := .vsel f) rfl fun j hj => ?_
    rw [laneAt_blend _ _ (laneAt_govMask _ hj), Nat.mod_eq_of_lt (by split <;> exact laneAt_lt ..)]
    exact apply_ite (laneAt _ · j) _ _ _
  case vmov => exact lanesWritten_of_exec (i := .vmov f) rfl fun j _ => by rw [State.vLane_eq_vl]
  case vperm => exact lanesWritten_of_exec (i := .vperm f) rfl fun j _ => by simp only [State.vLane_eq_vl, laneCount]
  case vrot => exact lanesWritten_of_exec (i := .vrot f) rfl fun j _ => by rw [State.vLane_eq_vl, laneCount]
  case vconst => exact lanesWritten_of_exec (i := .vconst f) rfl fun j _ => by rw [constLane_eq]
  case vbcast => exact lanesWritten_of_exec (i := .vbcast f) rfl fun j _ => rfl
  case vins => exact lanesWritten_of_exec (i := .vins f) rfl fun j _ => by rw [State.vLane_eq_vl, State.sLane]
  case vext =>
    rw [← laneScalar_eq fitsLane_vl, ← State.vLane_eq_vl]
    exact writes_of_exec rfl

end Sys2Proof.Machine

/-! ### Reductions (R96, R156) -/
namespace Sys2Proof.Machine
open Sys2Proof.Claims

/-- The model's tree over a list is the tree of R96 over its elements. -/
theorem redTree_map_range (op : Nat → Nat → Nat) : ∀ (k : Nat) (g : Nat → Nat), redTree op k ((List.range (2 ^ k)).map g) = tree96 op k g := by
  intro k
  induction k with
  | zero => intro g; rfl
  | succ k ih =>
    intro g
    have htwo : 2 ^ (k + 1) = 2 ^ k + 2 ^ k := by rw [Nat.pow_succ]; omega
    have hhalf : 2 ^ (k + 1) / 2 = 2 ^ k := by rw [Nat.pow_succ, Nat.mul_div_cancel _ Nat.two_pos]
    have hsplit : (List.range (2 ^ (k + 1))).map g = (List.range (2 ^ k)).map g ++ (List.range (2 ^ k)).map fun i => g (i + 2 ^ k) := by
      rw [htwo, List.range_add, List.map_append, List.map_map]
      simp only [Function.comp_def, Nat.add_comm]
    have hlen : ((List.range (2 ^ k)).map g).length = 2 ^ k := by simp
    rw [redTree, List.length_map, List.length_range, hhalf, hsplit, List.take_left' hlen, List.drop_left' hlen, List.zipWith_map, List.zipWith_self, ih, tree96]

/-- Two operations that agree, and stay, on values of a kind give one tree over leaves of that kind. -/
theorem tree96_congr {op op' : Nat → Nat → Nat} {ok : Nat → Prop} (hop : ∀ a b, ok a → ok b → op a b = op' a b ∧ ok (op a b)) :
    ∀ (k : Nat) (g : Nat → Nat), (∀ i, ok (g i)) → tree96 op k g = tree96 op' k g := by
  intro k
  induction k with
  | zero => intro g _; rfl
  | succ k ih =>
    intro g hg
    have hpair (i : Nat) := hop (g i) (g (i + 2 ^ k)) (hg i) (hg _)
    rw [tree96, tree96, ih _ fun i => (hpair i).2]
    exact congrArg (tree96 op' k) (funext fun i => (hpair i).1)

/-- Every width of R144 has 2^k lanes. -/
theorem laneCount_tyWidth (t : Nat) : laneCount (tyWidth t) = 2 ^ lanesLog (tyWidth t) := by unfold tyWidth; split <;> decide

/-- A row of `tableRed` holds: the instruction has the row's opcode and fills every lane with the row's tree. -/
def meetsRed (row : Nat × (VR → Instr) × (VR → Nat → Nat → Nat) × (Nat → Nat)) : Prop :=
  ∀ (f : VR) (s : State), (encodeOpV (row.2.1 f)).map Prod.fst = some row.1 ∧
    allLanesWritten s (row.2.1 f) 8 (tyWidth f.ty.toNat) f.vd fun _ =>
      tree96 (row.2.2.1 f) (lanesLog (tyWidth f.ty.toNat)) fun i => if active s f.p (tyWidth f.ty.toNat) i then vl s (tyWidth f.ty.toNat) f.va i else row.2.2.2 f.ty.toNat

/-- A row holds when the model's operation agrees with the row's on values that fit a lane, and gives such values, and the identities agree. -/
theorem meetsRed_of {op : Nat} {i : VR → Instr} {v : VR → Nat → Nat → Nat} {e : Nat → Nat} (g : VR → Nat → Nat → Nat) (ident : Nat → Nat)
    (hval : ∀ f a b, fitsLane f.ty.toNat a → fitsLane f.ty.toNat b → g f a b = v f a b ∧ fitsLane f.ty.toNat (g f a b))
    (hident : ∀ t, ident t = e t ∧ fitsLane t (e t))
    (hop : ∀ f, (encodeOpV (i f)).map Prod.fst = some op := by intros; rfl)
    (hexec : ∀ f s, exec (i f) s = s.redVR f (ident f.ty.toNat) (g f) := by intros; rfl) : meetsRed (op, i, v, e) := by
  refine fun f s => ⟨hop f, allLanesWritten_of_exec (hexec f s) fun j hj => ?_⟩
  have hlog : (laneCount (tyWidth f.ty.toNat)).log2 = lanesLog (tyWidth f.ty.toNat) := by rw [laneCount_tyWidth, Nat.log2_two_pow]
  have hleaf (k : Nat) : fitsLane f.ty.toNat (if active s f.p (tyWidth f.ty.toNat) k then vl s (tyWidth f.ty.toNat) f.va k else e f.ty.toNat) := by
    split
    · exact fitsLane_vl
    · exact (hident _).2
  rw [laneAt_vecLanes_replicate hj, hlog, laneCount_tyWidth, redTree_map_range, (hident _).1]
  simp only [State.vLane_eq_vl]
  exact congrArg (· % _) (tree96_congr (hval f) _ _ hleaf)

theorem fitsLane_intRes {t : Nat} {sat : Bool} {x : Int} : fitsLane t (intRes t sat x) := fitsLane_of_lt (intBits_lt ..)

theorem fitsLane_minLane {t a b : Nat} (ha : fitsLane t a) (hb : fitsLane t b) : fitsLane t (minLane t a b) := fun ht => by
  rw [minLane, isFloat_false (Nat.not_le.mpr ht), if_neg Bool.false_ne_true]
  split
  · exact hb ht
  · exact ha ht

theorem fitsLane_maxLane {t a b : Nat} (ha : fitsLane t a) (hb : fitsLane t b) : fitsLane t (maxLane t a b) := fun ht => by
  rw [maxLane, isFloat_false (Nat.not_le.mpr ht), if_neg Bool.false_ne_true]
  split
  · exact hb ht
  · exact ha ht

theorem fitsLane_arith {o : Arith} {t rm a b c : Nat} {sat : Bool} : fitsLane t (o.lane t rm sat a b c) := fun ht => by
  rw [Arith.lane, isFloat_false (Nat.not_le.mpr ht), if_neg Bool.false_ne_true]
  exact fitsLane_intRes ht

/-- The identities of R96 for an addition: −0, and the integer 0. -/
theorem addIdent_spec (t : Nat) : addIdent t = (if 8 ≤ t then 2 ^ (tyWidth t - 1) else 0) ∧ fitsLane t (if 8 ≤ t then 2 ^ (tyWidth t - 1) else 0) := by
  unfold addIdent isFloat
  simp only [decide_eq_true_eq, true_and]
  intro ht
  rw [if_neg (by omega)]
  exact Nat.two_pow_pos _

/-- An identity of R96 that is one value of the floating types and another of the integers. -/
theorem ident_spec (t : Nat) (x : Val) {i j : Int} (hij : i = j) :
    (if isFloat t then fltRes t 0 x else intBits (tyWidth t) i) = (if 8 ≤ t then vFlt t 0 x else vIntRes t false j) ∧ fitsLane t (if 8 ≤ t then vFlt t 0 x else vIntRes t false j) := by
  rw [vIntRes_eq_intRes, intRes, if_neg Bool.false_ne_true, hij]
  unfold isFloat
  simp only [decide_eq_true_eq]
  refine ⟨rfl, fun ht => ?_⟩
  rw [if_neg (by omega)]
  exact intBits_lt ..

theorem maxIdent_spec (t : Nat) : maxIdent t = (if 8 ≤ t then vFlt t 0 (.inf true) else vIntRes t false (if t < 4 then -2 ^ (tyWidth t - 1) else 0)) ∧
    fitsLane t (if 8 ≤ t then vFlt t 0 (.inf true) else vIntRes t false (if t < 4 then -2 ^ (tyWidth t - 1) else 0)) :=
  ident_spec t (.inf true) (by simp only [intMin, isSigned, decide_eq_true_eq])

theorem minIdent_spec (t : Nat) : minIdent t = (if 8 ≤ t then vFlt t 0 (.inf false) else vIntRes t false (if t < 4 then 2 ^ (tyWidth t - 1) - 1 else 2 ^ tyWidth t - 1)) ∧
    fitsLane t (if 8 ≤ t then vFlt t 0 (.inf false) else vIntRes t false (if t < 4 then 2 ^ (tyWidth t - 1) - 1 else 2 ^ tyWidth t - 1)) :=
  ident_spec t (.inf false) (by simp only [intMax, isSigned, decide_eq_true_eq])

/-- Settles O25, row by row. -/
theorem vectorReductions : Obligations.VectorReductions := by
  show ∀ row ∈ tableRed, meetsRed row
  simp only [tableRed, List.forall_mem_cons]
  exact ⟨meetsRed_of (fun f a b => Arith.add.lane f.ty.toNat f.rm.toNat (f.sat == 1) a b 0) addIdent
      (fun f a b ha hb => ⟨(arithLane_eq .add _ _ _ ha hb fun _ => Nat.two_pow_pos _).symm, fitsLane_arith⟩) addIdent_spec,
    meetsRed_of (fun f => maxLane f.ty.toNat) maxIdent (fun f a b ha hb => ⟨maxLane_eq ha hb, fitsLane_maxLane ha hb⟩) maxIdent_spec,
    meetsRed_of (fun f => minLane f.ty.toNat) minIdent (fun f a b ha hb => ⟨minLane_eq ha hb, fitsLane_minLane ha hb⟩) minIdent_spec,
    meetsRed_of (fun _ => (· &&& ·)) (fun t => 2 ^ tyWidth t - 1) (fun f a b ha hb => ⟨rfl, fun ht => Nat.and_lt_two_pow _ (hb ht)⟩)
      fun t => ⟨rfl, fun _ => Nat.sub_lt (Nat.two_pow_pos _) Nat.one_pos⟩,
    meetsRed_of (fun _ => (· ||| ·)) (fun _ => 0) (fun f a b ha hb => ⟨rfl, fun ht => Nat.or_lt_two_pow (ha ht) (hb ht)⟩) fun t => ⟨rfl, fun _ => Nat.two_pow_pos _⟩,
    meetsRed_of (fun _ => (· ^^^ ·)) (fun _ => 0) (fun f a b ha hb => ⟨rfl, fun ht => Nat.xor_lt_two_pow (ha ht) (hb ht)⟩) fun t => ⟨rfl, fun _ => Nat.two_pow_pos _⟩, by simp⟩

end Sys2Proof.Machine

/-! ### Compares (R153) -/
namespace Sys2Proof.Machine
open Sys2Proof.Claims

/-- Every compare type has lanes of a whole number of bytes, which divides the 512 of a register (R144). -/
theorem tyWidth_bytes {t : Nat} (h : t < 13) : ∃ k, tyWidth t = 8 * k ∧ k ∣ 512 := by
  refine ⟨tyWidth t / 8, ?_⟩
  interval_cases t <;> decide

/-- Bit `b` of a predicate result belongs to the lane that holds byte `b` (R145, R153). -/
theorem getLsbD_predResult (p : Pred) {k : Nat} (c : Nat → Bool) (hk : k ∣ 512) {b : Nat} (hb : b < 512) :
    (predResult p (8 * k) c).getLsbD b = (laneOn p (8 * k) (8 * b / (8 * k)) && c (8 * b / (8 * k))) := by
  have hpos : 0 < k := Nat.pos_of_dvd_of_pos hk (by decide)
  have hcount : laneCount (8 * k) = 512 / k := Nat.mul_div_mul_left 512 k (Nat.succ_pos 7)
  have hlane : b / k < laneCount (8 * k) := hcount ▸ Nat.div_lt_div_of_lt_of_dvd hk hb
  have hwidth : 8 * k / 8 = k := Nat.mul_div_cancel_left k (by decide)
  rw [predResult, BitVec.getLsbD_ofNat, decide_eq_true hb, Bool.true_and, hwidth, testBit_packLanes hpos, getD_map_range _ hlane, Nat.mul_div_mul_left b k (Nat.succ_pos 7)]
  cases (laneOn p (8 * k) (b / k) && c (b / k))
  · exact Nat.zero_testBit _
  · exact (Nat.testBit_two_pow_sub_one ..).trans (decide_eq_true (Nat.mod_lt b hpos))

/-- A predicate result over the lanes of a compare type writes each lane's condition. -/
theorem condWritten_of_exec {i : Instr} {s : State} {p : BitVec 4} {t : Nat} {d : BitVec 10} {g g' : Nat → Bool} (ht : t < 13)
    (hexec : exec i s = s.predRes d (predResult (s.me.regs.rp p.toNat) (tyWidth t) g)) (hg : ∀ j, g j = g' j) : condWritten s i p (tyWidth t) d g' := by
  obtain ⟨k, hwidth, hk⟩ := tyWidth_bytes ht
  refine ⟨_, writes_of_exec hexec, fun b hb => ?_⟩
  rw [hwidth, getLsbD_predResult _ g hk hb, hg]
  rfl

/-! An integer lane's value is a number, and numbers are ordered as values are. -/

theorem finUnits_ofInt (x : Int) : finUnits (decide (x < 0)) x.natAbs 0 0 = x := by
  rw [finUnits, Int.sub_zero, Int.toNat_zero, pow_zero, mul_one]
  by_cases h : x < 0
  · rw [if_pos (decide_eq_true h)]; omega
  · rw [if_neg (by simpa using h)]; omega

theorem lt_ofInt (x y : Int) : Val.lt (.ofInt x) (.ofInt y) = decide (x < y) := by
  show decide (finUnits _ _ (0 : Int) (min 0 0) < finUnits _ _ (0 : Int) (min 0 0)) = _
  rw [min_self, finUnits_ofInt, finUnits_ofInt]

theorem ofType_int {t : Nat} (h : t < 8) : Fmt.ofType t = .int (isSigned t) (tyWidth t) := by interval_cases t <;> rfl

theorem laneVal_int {t x : Nat} (ht : t < 8) (hx : x < 2 ^ tyWidth t) : laneVal t x = .ofInt (intLane t x) := by
  rw [laneVal, ofType_int ht]
  show (if _ then _ else _) = _
  rw [Nat.mod_eq_of_lt hx, intLane]
  exact (apply_ite Val.ofInt ..).symm

section
variable {t a b : Nat}

/-- The order of R153 on lanes is the order of their values. -/
theorem vLess_eq (ha : a < 2 ^ tyWidth t) (hb : b < 2 ^ tyWidth t) : vLess t a b = Val.lt (laneVal t a) (laneVal t b) := by
  unfold vLess
  split
  case isTrue => rfl
  case isFalse ht =>
    rw [laneVal_int (Nat.not_le.mp ht) ha, laneVal_int (Nat.not_le.mp ht) hb, lt_ofInt, vInt_eq_intLane (fitsLane_of_lt ha), vInt_eq_intLane (fitsLane_of_lt hb)]

theorem vNan_eq (ha : a < 2 ^ tyWidth t) : vNan t a = (laneVal t a == .nan) := by
  by_cases ht : 8 ≤ t
  · rw [vNan, decide_eq_true ht, Bool.true_and]; rfl
  · rw [vNan, decide_eq_false ht, Bool.false_and, laneVal_int (Nat.not_le.mp ht) ha]; rfl

/-- Two lanes are equal where neither is NaN and neither is less. -/
theorem eqv_eq (ha : a < 2 ^ tyWidth t) (hb : b < 2 ^ tyWidth t) :
    Val.eqv (laneVal t a) (laneVal t b) = (!vNan t a && !vNan t b && !vLess t a b && !vLess t b a) := by
  rw [vNan_eq ha, vNan_eq hb, vLess_eq ha hb, vLess_eq hb ha]
  rfl

theorem eqv_comm (x y : Val) : Val.eqv x y = Val.eqv y x := by
  unfold Val.eqv
  cases x != .nan <;> cases y != .nan <;> cases Val.lt x y <;> cases Val.lt y x <;> rfl

end

/-- A row of `tableVcmp` holds: the instruction has the row's opcode and writes each lane's condition. -/
def meetsVcmp (row : Nat × (VR → Instr) × (Nat → Nat → Nat → Bool)) : Prop :=
  ∀ (f : VR) (s : State), f.ty.toNat < 13 → (encodeOpV (row.2.1 f)).map Prod.fst = some row.1 ∧
    condWritten s (row.2.1 f) f.p (tyWidth f.ty.toNat) f.vd fun i => row.2.2 f.ty.toNat (vl s (tyWidth f.ty.toNat) f.va i) (vl s (tyWidth f.ty.toNat) f.vb i)

/-- A row holds when the model's condition on values is the row's on lanes. -/
theorem meetsVcmp_of {op : Nat} {i : VR → Instr} {v : Nat → Nat → Nat → Bool} {g : Val → Val → Bool}
    (hval : ∀ t a b, a < 2 ^ tyWidth t → b < 2 ^ tyWidth t → g (laneVal t a) (laneVal t b) = v t a b)
    (hop : ∀ f, (encodeOpV (i f)).map Prod.fst = some op := by intros; rfl)
    (hexec : ∀ f s, exec (i f) s = s.cmpVR f g := by intros; rfl) : meetsVcmp (op, i, v) := fun f s ht =>
  ⟨hop f, condWritten_of_exec ht (hexec f s) fun j => by rw [State.vLane_eq_vl, State.vLane_eq_vl]; exact hval _ _ _ (laneAt_lt ..) (laneAt_lt ..)⟩

theorem tableVcmp_meets : ∀ row ∈ tableVcmp, meetsVcmp row := by
  simp only [tableVcmp, List.forall_mem_cons]
  exact ⟨meetsVcmp_of (g := Val.eqv) fun t a b ha hb => eqv_eq ha hb,
    meetsVcmp_of (g := fun x y => !Val.eqv x y) fun t a b ha hb => congrArg not (eqv_eq ha hb),
    meetsVcmp_of (g := Val.lt) fun t a b ha hb => (vLess_eq ha hb).symm,
    meetsVcmp_of (g := Val.le) fun t a b ha hb => by rw [Val.le, eqv_eq ha hb, vLess_eq ha hb],
    meetsVcmp_of (g := fun x y => Val.lt y x) fun t a b ha hb => (vLess_eq hb ha).symm,
    meetsVcmp_of (g := fun x y => Val.le y x) fun t a b ha hb => by rw [Val.le, eqv_comm, eqv_eq ha hb, vLess_eq hb ha],
    meetsVcmp_of (g := fun x y => x == .nan || y == .nan) fun t a b ha hb => by rw [vNan_eq ha, vNan_eq hb], by simp⟩

/-- The class of a lane by the kind, the sign and the size of its value (R153). -/
theorem classBit_spec (t x : Nat) : match vVal t x with
    | .nan => classBit t x = 8
    | .inf neg => classBit t x = if neg then 0 else 7
    | .fin neg m e => (m = 0 → classBit t x = if neg then 3 else 4) ∧
        (m ≠ 0 → finLog m e < 1 - (Fmt.ofType t).bias → classBit t x = if neg then 2 else 5) ∧
        (m ≠ 0 → ¬finLog m e < 1 - (Fmt.ofType t).bias → classBit t x = if neg then 1 else 6) := by
  have hval : laneVal t x = vVal t x := rfl
  unfold classBit
  rw [hval]
  cases vVal t x with
  | nan => rfl
  | inf neg => rfl
  | fin neg m e => exact ⟨fun hm => if_pos hm, fun hm hsub => by simp [hm, hsub], fun hm hnormal => by simp [hm, hnormal]⟩

theorem vectorCompares : VectorCompares :=
  ⟨tableVcmp_meets, fun f s _ ht => ⟨fun i => classBit f.ty.toNat (vl s (tyWidth f.ty.toNat) f.va i),
    condWritten_of_exec ht rfl fun j => by rw [State.vLane_eq_vl], fun i => classBit_spec ..⟩⟩

end Sys2Proof.Machine

/-! ### Predicate operations (R154) -/
namespace Sys2Proof.Machine
open Sys2Proof.Claims

/-- Where no field that must be zero is set, a register outside its class gives reason 3. -/
theorem fieldReason_operands {vregs accs : Nat} {i : Instr} {o : Opnd} (hz : ∀ x ∈ zeroFields i, x = 0) (ho : o ∈ explicitOps i) (hbad : opndOk vregs accs o = false) :
    fieldReason vregs accs i = some 3 := by
  have hzero : (zeroFields i).any (· != 0) = false := by simpa using hz
  have hop : (explicitOps i).all (opndOk vregs accs) = false := List.all_eq_false.mpr ⟨o, ho, by simp [hbad]⟩
  simp [fieldReason, hzero, hop]

/-- Where the zero fields are zero and the registers in their classes, a value outside its limits gives reason 4. -/
theorem fieldReason_values {vregs accs : Nat} {i : Instr} (hz : ∀ x ∈ zeroFields i, x = 0) (ho : ∀ o ∈ explicitOps i, opndOk vregs accs o = true) (hl : limits i = false) :
    fieldReason vregs accs i = some 4 := by
  have hzero : (zeroFields i).any (· != 0) = false := by simpa using hz
  simp [fieldReason, hzero, List.all_eq_true.mpr ho, hl]

section
variable (n : BitVec 10)

theorem opndOk_pred_source : opndOk 1024 32 (rd .p n) = decide (n.toNat < 16) := by
  show (decide (n.toNat < 16) && !(false && n.toNat == 0 && true)) = _
  rw [Bool.false_and, Bool.false_and, Bool.not_false, Bool.and_true]

theorem opndOk_pred_dest : opndOk 1024 32 (wr .p n) = (decide (n.toNat < 16) && !(n.toNat == 0)) := by
  show (decide (n.toNat < 16) && !(n.toNat == 0 && true)) = _
  rw [Bool.and_true]

theorem opndOk_scalar_field : opndOk 1024 32 (wr .s n) = decide (n.toNat < 64) := by
  show (decide (n.toNat < 64) && !(n.toNat == 0 && false)) = _
  rw [Bool.and_false, Bool.not_false, Bool.and_true]

theorem opndOk_pred_source_bad (h : 16 ≤ n.toNat) : opndOk 1024 32 (rd .p n) = false := by
  rw [opndOk_pred_source, decide_eq_false (Nat.not_lt.mpr h)]

/-- p0 is no destination (R154). -/
theorem opndOk_pred_dest_bad (h : n = 0 ∨ 16 ≤ n.toNat) : opndOk 1024 32 (wr .p n) = false := by
  rw [opndOk_pred_dest]
  rcases h with rfl | h
  · rfl
  · rw [decide_eq_false (Nat.not_lt.mpr h), Bool.false_and]

end

theorem limPred_iff (f : VR) : limPred f.ty f.rm f.sat = true ↔ f.ty = 0 ∧ f.rm = 0 ∧ f.sat = 0 := by
  simp only [limPred, Bool.and_eq_true, beq_iff_eq]
  tauto

theorem toNat_ne_zero {k : Nat} {x : BitVec k} (h : x ≠ 0) : x.toNat ≠ 0 := fun hx => h (BitVec.eq_of_toNat_eq hx)

/-- A row of `tablePred` holds: opcode, value bit by bit, and the reasons of its fields. -/
def meetsPred (row : Nat × (VR → Instr) × (Bool → Bool → Bool)) : Prop :=
  ∀ (f : VR) (s : State), (encodeOpV (row.2.1 f)).map Prod.fst = some row.1 ∧
    ∃ v : Pred, writes (row.2.1 f) s 4 [.p f.vd.toNat (BitVec.allOnes 512) v] ∧
      (∀ b < 512, v.getLsbD b = row.2.2 ((s.me.regs.rp f.va.toNat).getLsbD b) ((s.me.regs.rp f.vb.toNat).getLsbD b)) ∧
      (wf (row.2.1 f) = true → f.ty = 0 ∧ f.rm = 0 ∧ f.sat = 0) ∧ (f.p ≠ 0 ∨ f.vc ≠ 0 ∨ (row.1 = 0x43 ∧ f.vb ≠ 0) → fieldReason 1024 32 (row.2.1 f) = some 2) ∧
      (f.p = 0 → f.vc = 0 → (row.1 = 0x43 → f.vb = 0) → f.vd = 0 ∨ 16 ≤ f.vd.toNat ∨ 16 ≤ f.va.toNat ∨ 16 ≤ f.vb.toNat → fieldReason 1024 32 (row.2.1 f) = some 3)

/-- A row holds when the model's operation is the row's on each bit. `pnot`, 0x43, has a vb that must be zero where the others have a source. -/
theorem meetsPred_of {op : Nat} {i : VR → Instr} {v : Bool → Bool → Bool} {g : Pred → Pred → Pred}
    (hval : ∀ x y : Pred, ∀ b < 512, (g x y).getLsbD b = v (x.getLsbD b) (y.getLsbD b))
    (hop : ∀ f, (encodeOpV (i f)).map Prod.fst = some op := by intros; rfl)
    (hexec : ∀ f s, exec (i f) s = s.predRes f.vd (g (s.me.regs.rp f.va.toNat) (s.me.regs.rp f.vb.toNat)) := by intros; rfl)
    (hzero : ∀ f, zeroFields (i f) = if op = 0x43 then [f.p.toNat, f.vb.toNat, f.vc.toNat] else [f.p.toNat, f.vc.toNat] := by intros; rfl)
    (hops : ∀ f, explicitOps (i f) = wr .p f.vd :: rd .p f.va :: if op = 0x43 then [] else [rd .p f.vb] := by intros; rfl)
    (hlim : ∀ f, limits (i f) = limPred f.ty f.rm f.sat := by intros; rfl) : meetsPred (op, i, v) := by
  refine fun f s => ⟨hop f, _, writes_of_exec (hexec f s), hval _ _, fun h => ?legal, fun h => ?fields, fun hp hc hnot h => ?registers⟩
  case legal =>
    obtain ⟨-, -, hl⟩ := wf_iff.mp h
    exact (limPred_iff f).mp (hlim f ▸ hl)
  case fields =>
    rcases h with hp | hc | ⟨h43, hb⟩
    · exact fieldReason_zeroFields (by rw [hzero]; split <;> simp) (toNat_ne_zero hp)
    · exact fieldReason_zeroFields (by rw [hzero]; split <;> simp) (toNat_ne_zero hc)
    · exact fieldReason_zeroFields (by rw [hzero, if_pos h43]; simp) (toNat_ne_zero hb)
  case registers =>
    have hz : ∀ x ∈ zeroFields (i f), x = 0 := by
      rw [hzero]
      split
      case isTrue h43 => simp [hp, hc, hnot h43]
      case isFalse => simp [hp, hc]
    have hdest (hd : f.vd = 0 ∨ 16 ≤ f.vd.toNat) := fieldReason_operands hz (by rw [hops]; exact List.mem_cons_self) (opndOk_pred_dest_bad f.vd hd)
    rcases h with hd | hd | ha | hb
    · exact hdest (.inl hd)
    · exact hdest (.inr hd)
    · exact fieldReason_operands hz (by rw [hops]; exact List.mem_cons_of_mem _ List.mem_cons_self) (opndOk_pred_source_bad f.va ha)
    · have h43 : op ≠ 0x43 := fun h43 => by rw [hnot h43] at hb; exact absurd hb (by decide)
      exact fieldReason_operands hz (by rw [hops, if_neg h43]; simp) (opndOk_pred_source_bad f.vb hb)

theorem tablePred_meets : ∀ row ∈ tablePred, meetsPred row := by
  simp only [tablePred, List.forall_mem_cons]
  exact ⟨meetsPred_of (g := (· &&& ·)) fun x y b _ => BitVec.getLsbD_and,
    meetsPred_of (g := (· ||| ·)) fun x y b _ => BitVec.getLsbD_or,
    meetsPred_of (g := (· ^^^ ·)) fun x y b _ => BitVec.getLsbD_xor,
    meetsPred_of (g := fun x _ => ~~~x) fun x y b hb => by rw [BitVec.getLsbD_not, decide_eq_true hb, Bool.true_and], by simp⟩

/-- What the fields of `pcnt` must be, and the reason that each gives otherwise. -/
theorem pcnt_fields (f : VR) : (wf (.pcnt f) = true → f.ty = 0 ∧ f.rm = 0 ∧ f.sat = 0) ∧ (f.p ≠ 0 ∨ f.vb ≠ 0 → fieldReason 1024 32 (.pcnt f) = some 2) ∧
    (f.p = 0 → f.vb = 0 → 64 ≤ f.vd.toNat ∨ 16 ≤ f.va.toNat → fieldReason 1024 32 (.pcnt f) = some 3) ∧
    (f.p = 0 → f.vb = 0 → f.vd.toNat < 64 → f.va.toNat < 16 → 4 ≤ f.vc.toNat → fieldReason 1024 32 (.pcnt f) = some 4) := by
  have hz (hp : f.p = 0) (hb : f.vb = 0) : ∀ x ∈ zeroFields (.pcnt f), x = 0 := by simp [zeroFields, hp, hb]
  refine ⟨fun h => ?_, fun h => ?_, fun hp hb h => ?_, fun hp hb hd ha hk => ?_⟩
  · obtain ⟨-, -, hl⟩ := wf_iff.mp h
    exact (limPred_iff f).mp (Bool.and_eq_true_iff.mp hl).1
  · rcases h with hp | hb
    · exact fieldReason_zeroFields (x := f.p.toNat) List.mem_cons_self (toNat_ne_zero hp)
    · exact fieldReason_zeroFields (x := f.vb.toNat) (List.mem_cons_of_mem _ List.mem_cons_self) (toNat_ne_zero hb)
  · rcases h with hd | ha
    · exact fieldReason_operands (hz hp hb) (o := wr .s f.vd) List.mem_cons_self (by rw [opndOk_scalar_field, decide_eq_false (by omega)])
    · exact fieldReason_operands (hz hp hb) (o := rd .p f.va) (List.mem_cons_of_mem _ List.mem_cons_self) (opndOk_pred_source_bad f.va ha)
  · have hops : ∀ o ∈ [wr .s f.vd, rd .p f.va], opndOk 1024 32 o = true := by simp [opndOk_scalar_field, opndOk_pred_source, hd, ha]
    refine fieldReason_values (hz hp hb) hops ?_
    show (limPred f.ty f.rm f.sat && decide (f.vc.toNat ≤ 3)) = false
    rw [decide_eq_false (by omega), Bool.and_false]

theorem predicateOperations : PredicateOperations := by
  refine ⟨tablePred_meets, pcnt_fields, fun f s _ => ?_⟩
  rw [List.countP_eq_length_filter]
  exact writes_of_exec rfl

/-- Settles O27. -/
theorem comparesAndPredicates : Obligations.ComparesAndPredicates := ⟨vectorCompares, predicateOperations⟩

end Sys2Proof.Machine

/-! ### Transcendentals (R152) -/
namespace Sys2Proof.Machine
open Sys2Proof.Claims

/-- A magnitude m × 2^−k that is h halves. -/
theorem halves?_of_eq {m h k : Nat} (hm : 2 * m = h * 2 ^ k) : halves? m (-(k : Int)) = some h := by
  unfold halves?
  match k with
  | 0 => rw [if_pos (by decide)]; exact congrArg some (by simpa [Nat.mul_comm] using hm)
  | 1 => rw [if_pos (by decide)]; exact congrArg some (by simpa using (by omega : m = h))
  | k + 2 =>
    have hexp : (-1 - -((k + 2 : Nat) : Int)).toNat = k + 1 := by omega
    have hmul : m = h * 2 ^ (k + 1) := Nat.eq_of_mul_eq_mul_left Nat.two_pos (hm.trans (by ring))
    rw [if_neg (by omega), hexp, hmul, Nat.mul_mod_left, if_pos rfl, Nat.mul_div_cancel _ (Nat.two_pow_pos _)]

section
variable {a : BitVec 32} {s : Bool} {m h : Nat} {e : Int}

/-- A NaN gives the canonical NaN in every function. -/
theorem eval_nan (o : Trans) (ha : f32 a = .nan) : o.eval a = f32Nan := by
  cases o <;> simp only [Trans.eval, ha]

theorem rsqrt_negative (hm : m ≠ 0) (ha : f32 a = .fin true m e) : Trans.rsqrt.eval a = f32Nan := by
  simp only [Trans.eval, ha, if_neg hm, if_true]

theorem log2_negative (hm : m ≠ 0) (ha : f32 a = .fin true m e) : Trans.log2.eval a = f32Nan := by
  simp only [Trans.eval, ha, if_neg hm, if_true]

/-- sin πa of a whole number h of halves, not zero. -/
theorem sin_halves (hm : m ≠ 0) (ha : f32 a = .fin s m e) (hh : halves? m e = some h) : Trans.sin.eval a = if h % 2 = 0 then 0 else f32One (s != (h % 4 == 3)) := by
  simp only [Trans.eval, ha, if_neg hm, hh]

theorem cos_halves (ha : f32 a = .fin s m e) (hh : halves? m e = some h) : Trans.cos.eval a = if h % 2 = 1 then 0 else f32One (h % 4 == 2) := by
  simp only [Trans.eval, ha, hh]

end

/-- The circular functions of an integer: sin is +0, cos ±1 by its parity. -/
theorem circular_integer {a : BitVec 32} {s : Bool} {m k n : Nat} (ha : f32 a = .fin s m (-(k : Int))) (hn : n ≠ 0) (hm : m = n * 2 ^ k) :
    Trans.sin.eval a = 0 ∧ Trans.cos.eval a = if n % 2 = 0 then 0x3F800000 else 0xBF800000 := by
  have hh : halves? m (-(k : Int)) = some (2 * n) := halves?_of_eq (by rw [hm, Nat.mul_assoc])
  have hne : m ≠ 0 := hm ▸ Nat.mul_ne_zero hn (Nat.two_pow_pos k).ne'
  have heven : 2 * n % 2 = 0 := Nat.mul_mod_right ..
  rw [sin_halves hne ha hh, cos_halves ha hh, if_pos heven, if_neg (by omega)]
  refine ⟨rfl, ?_⟩
  rcases Nat.mod_two_eq_zero_or_one n with h | h
  · rw [if_pos h, show 2 * n % 4 = 0 by omega]; rfl
  · rw [if_neg (by omega), show 2 * n % 4 = 2 by omega]; rfl

/-- The circular functions halfway between integers: cos is +0, sin ±1 by the sign and which half it is. -/
theorem circular_half {a : BitVec 32} {s : Bool} {m k n : Nat} (ha : f32 a = .fin s m (-(k : Int))) (hm : 2 * m = n * 2 ^ k) (hodd : n % 2 = 1) :
    Trans.cos.eval a = 0 ∧ Trans.sin.eval a = if (n % 4 = 1) = (s = false) then 0x3F800000 else 0xBF800000 := by
  have hh : halves? m (-(k : Int)) = some n := halves?_of_eq hm
  have hne : m ≠ 0 := fun h0 => by
    rw [h0] at hm
    exact absurd hm.symm (Nat.mul_ne_zero (by omega) (Nat.two_pow_pos k).ne')
  rw [sin_halves hne ha hh, cos_halves ha hh, if_pos hodd, if_neg (by omega)]
  refine ⟨rfl, ?_⟩
  rcases (by omega : n % 4 = 1 ∨ n % 4 = 3) with h | h <;> cases s <;> simp [h, f32One]

/-- A row of `tableTrans` holds: the instruction has the row's opcode and rounds the f32 result of the row's function into each active lane. -/
def meetsTrans (row : Nat × (VR → Instr) × Trans) : Prop :=
  ∀ (f : VR) (s : State), (encodeOpV (row.2.1 f)).map Prod.fst = some row.1 ∧
    lanesWritten s (row.2.1 f) 8 f.p (tyWidth f.ty.toNat) f.vd fun i =>
      vFlt f.ty.toNat 0 (f32 (row.2.2.eval (roundF32 (vVal f.ty.toNat (vl s (tyWidth f.ty.toNat) f.va i)) 0)))

theorem meetsTrans_of {op : Nat} {i : VR → Instr} {o : Trans} (hop : ∀ f, (encodeOpV (i f)).map Prod.fst = some op := by intros; rfl)
    (hexec : ∀ f s, exec (i f) s = s.transVR f o := by intros; rfl) : meetsTrans (op, i, o) := fun f s =>
  ⟨hop f, lanesWritten_of_exec (hexec f s) fun j _ => by rw [State.vLane_eq_vl]; rfl⟩

theorem tableTrans_meets : ∀ row ∈ tableTrans, meetsTrans row := by
  simp only [tableTrans, List.forall_mem_cons]
  exact ⟨meetsTrans_of, meetsTrans_of, meetsTrans_of, meetsTrans_of, meetsTrans_of, meetsTrans_of, meetsTrans_of, by simp⟩

/-- `vsqrt` rounds the exact root once, by rm. -/
theorem vsqrt_lanes (f : VR) (s : State) : lanesWritten s (.vsqrt f) 8 f.p (tyWidth f.ty.toNat) f.vd fun i =>
    vFlt f.ty.toNat f.rm.toNat (Val.sqrt (vVal f.ty.toNat (vl s (tyWidth f.ty.toNat) f.va i))) :=
  lanesWritten_of_exec rfl fun j _ => by rw [State.vLane_eq_vl]; rfl

/-- Settles O23: the lane results, then the table's special and exact cases, none of which reaches a constant that the implementation gives. -/
theorem vectorTranscendentals : Obligations.VectorTranscendentals := by
  refine ⟨tableTrans_meets, vsqrt_lanes, fun o a => eval_nan o, ?recip, ⟨?zero, ?negativeZero, ?infinity, fun m e hm a ha => ⟨rsqrt_negative hm ha, log2_negative hm ha⟩⟩,
    ?exp2, ?log2, fun a s m k n ha hn => ⟨circular_integer ha hn, circular_half ha⟩, ?signsAndLimits⟩
  all_goals decide +kernel

end Sys2Proof.Machine

/-! ### Conversions (R157) -/
namespace Sys2Proof.Machine
open Sys2Proof.Claims

theorem srcType_eq (f : VR) : srcType f = f.vc.toNat % 16 := toNat_extractLsb'_zero f.vc 4

theorem getLsbD_four (x : BitVec 10) : x.getLsbD 4 = decide (x.toNat / 16 % 2 = 1) := by
  rw [BitVec.getLsbD, Nat.testBit_eq_decide_div_mod_eq]

/-- A converted lane as R157 has it. -/
def convertedLane (src t rm : Nat) (sat : Bool) (x : Nat) : Nat := (encodeVal (vVal src x) (Fmt.ofType t) rm sat none).bits

section
variable (f : VR) (s : State)

theorem vcvt_lanes : lanesWritten s (.vcvt f) 4 f.p (tyWidth f.ty.toNat) f.vd fun i =>
    convertedLane (f.vc.toNat % 16) f.ty.toNat f.rm.toNat (f.sat == 1) (vl s (tyWidth f.ty.toNat) f.va i) :=
  lanesWritten_of_exec rfl fun j _ => by rw [State.vLane_eq_vl, srcType_eq]; rfl

theorem vwiden_lanes : lanesWritten s (.vwiden f) 4 f.p (tyWidth f.ty.toNat) f.vd fun i =>
    convertedLane (f.vc.toNat % 16) f.ty.toNat 0 false
      (vl s (tyWidth (f.vc.toNat % 16)) f.va (i + (if f.vc.toNat / 16 % 2 = 1 then 4096 / tyWidth f.ty.toNat else 0))) :=
  lanesWritten_of_exec rfl fun j _ => by
    simp only [State.vLane_eq_vl, srcType_eq, getLsbD_four, decide_eq_true_eq]
    rfl

theorem vnarrow_lanes : lanesWritten s (.vnarrow f) 4 f.p (tyWidth f.ty.toNat) f.vd fun i =>
    convertedLane (f.vc.toNat % 16) f.ty.toNat f.rm.toNat (f.sat == 1)
      (vl s (tyWidth (f.vc.toNat % 16)) (if i < 4096 / tyWidth f.ty.toNat / 2 then f.va else f.vb) (i % (4096 / tyWidth f.ty.toNat / 2))) :=
  lanesWritten_of_exec rfl fun j _ => by rw [State.vLane_eq_vl, srcType_eq]; rfl

end

end Sys2Proof.Machine

/-! ### Block quantisation (R158) -/
namespace Sys2Proof.Machine
open Sys2Proof.Claims

theorem packLanes_append (w : Nat) (l : List Nat) (x : Nat) : packLanes w (l ++ [x]) = packLanes w l + x % 2 ^ w * 2 ^ (w * l.length) := by
  induction l with
  | nil => simp [packLanes]
  | cons y t ih =>
    rw [List.cons_append, packLanes, packLanes, ih, List.length_cons, Nat.mul_succ, Nat.add_comm (w * t.length), Nat.pow_add]
    ring

/-- The data of a group fill four bits for each element. -/
theorem quantise_data_lt (rm : Nat) (xs : List Val) : (quantise rm xs).1 < 2 ^ (4 * xs.length) := by
  unfold quantise
  split
  case isTrue => exact Nat.two_pow_pos _
  case isFalse =>
    split
    · exact lt_of_lt_of_eq (packLanes_lt 4 _) (by rw [List.length_map])
    · exact Nat.two_pow_pos _

/-- The sum of `k` data fields of `w` bits from bit 0 on and of `k` descriptors of `e` bits from bit `c` on. -/
def blockSum (w c e : Nat) (data desc : Nat → Nat) (k : Nat) : Nat := (List.range k).foldl (fun n g => n + data g * 2 ^ (w * g) + desc g * 2 ^ (c + e * g)) 0

section
variable {w c e : Nat} {data desc : Nat → Nat}

/-- Fields that fit their bits stand side by side, the data below the descriptors. -/
theorem blockSum_eq (hdata : ∀ g, data g < 2 ^ w) (hdesc : ∀ g, desc g < 2 ^ e) (k : Nat) :
    blockSum w c e data desc k = packLanes w ((List.range k).map data) + 2 ^ c * packLanes e ((List.range k).map desc) := by
  induction k with
  | zero => rfl
  | succ k ih =>
    have hstep : blockSum w c e data desc (k + 1) = blockSum w c e data desc k + data k * 2 ^ (w * k) + desc k * 2 ^ (c + e * k) := by
      rw [blockSum, List.range_succ, List.foldl_append]; rfl
    have hdigit (v : Nat) (x : Nat → Nat) (hx : x k < 2 ^ v) : packLanes v ((List.range (k + 1)).map x) = packLanes v ((List.range k).map x) + x k * 2 ^ (v * k) := by
      rw [List.range_succ, List.map_append, List.map_singleton, packLanes_append, Nat.mod_eq_of_lt hx, List.length_map, List.length_range]
    rw [hstep, ih, hdigit w data (hdata k), hdigit e desc (hdesc k), Nat.pow_add]
    ring

/-- Bits below `c` of a number in two parts are those of the lower part. -/
theorem add_shifted_low {n m : Nat} (h : n + m ≤ c) (x y : Nat) : (x + 2 ^ c * y) / 2 ^ n % 2 ^ m = x / 2 ^ n % 2 ^ m := by
  rw [← toNat_ofNat_div_mod h, ← toNat_ofNat_div_mod h x, BitVec.toNat_ofNat, BitVec.toNat_ofNat, Nat.add_mul_mod_self_left]

/-- Bits from `c` on of a number in two parts are those of the upper part. -/
theorem add_shifted_high {x : Nat} (hx : x < 2 ^ c) (y n : Nat) : (x + 2 ^ c * y) / 2 ^ (c + n) = y / 2 ^ n := by
  rw [Nat.pow_add, ← Nat.div_div_eq_div_mul, Nat.add_mul_div_left _ _ (Nat.two_pow_pos c), Nat.div_eq_of_lt hx, Nat.zero_add]

theorem packLanes_map_lt {k n : Nat} (x : Nat → Nat) (h : w * k ≤ n) : packLanes w ((List.range k).map x) < 2 ^ n := by
  refine lt_of_lt_of_le (packLanes_lt ..) (Nat.pow_le_pow_right Nat.two_pos ?_)
  rwa [List.length_map, List.length_range]

theorem packLanes_map_div_mod {k g : Nat} {x : Nat → Nat} (hg : g < k) : packLanes w ((List.range k).map x) / 2 ^ (w * g) % 2 ^ w = x g % 2 ^ w := by
  rw [packLanes_div_mod, getD_map_range x hg]

end

theorem byteOf_eq_zero {x b : Nat} (h : x / 2 ^ (8 * b) % 2 ^ 8 = 0) : byteOf x b = 0 :=
  BitVec.eq_of_toNat_eq ((BitVec.toNat_ofNat ..).trans h)

/-- A register that holds up to four blocks: each group's data and descriptor in its place, and zero everywhere else (R158). -/
theorem blocks_placed {data desc : Nat → Nat} {n : Nat} (hn : n ≤ 4) (hdata : ∀ g, data g < 2 ^ 512) (hdesc : ∀ g, desc g < 2 ^ 32) {v : Vec}
    (hv : v = BitVec.ofNat 4096 (blockSum 512 2048 32 data desc n)) :
    (∀ g < n, v.toNat / 2 ^ (512 * g) % 2 ^ 512 = data g % 2 ^ 512 ∧ v.toNat / 2 ^ (2048 + 32 * g) % 2 ^ 32 = desc g) ∧
    (∀ b, 64 * n ≤ b → b < 256 → byteOf v.toNat b = 0) ∧ ∀ b, 256 + 4 * n ≤ b → b < 512 → byteOf v.toNat b = 0 := by
  have hlow : packLanes 512 ((List.range n).map data) < 2 ^ 2048 := packLanes_map_lt data (by omega)
  rw [hv, blockSum_eq hdata hdesc]
  refine ⟨fun g hg => ⟨?_, ?_⟩, fun b hlo hhi => byteOf_eq_zero ?_, fun b hlo hhi => byteOf_eq_zero ?_⟩
  · rw [toNat_ofNat_div_mod (by omega), add_shifted_low (by omega), packLanes_map_div_mod hg]
  · rw [toNat_ofNat_div_mod (by omega), add_shifted_high hlow, packLanes_map_div_mod hg, Nat.mod_eq_of_lt (hdesc g)]
  · rw [toNat_ofNat_div_mod (by omega), add_shifted_low (by omega), Nat.div_eq_of_lt (packLanes_map_lt data (by omega)), Nat.zero_mod]
  · rw [toNat_ofNat_div_mod (by omega), show 8 * b = 2048 + 8 * (b - 256) by omega, add_shifted_high hlow, Nat.div_eq_of_lt (packLanes_map_lt desc (by omega)), Nat.zero_mod]

/-- The values that group `g` of a quantisation takes, an inactive lane as +0 (R158). -/
def quantiseGroup (f : VR) (s : State) (g : Nat) : List Val :=
  (List.range 128).map fun k => if active s f.p (tyWidth f.ty.toNat) (128 * g + k) then vVal f.ty.toNat (vl s (tyWidth f.ty.toNat) f.va (128 * g + k)) else .zero false

theorem exec_vqblk (f : VR) (s : State) : exec (.vqblk f) s = s.vecAll 8 f.vd (BitVec.ofNat 4096
    (blockSum 512 2048 32 (fun g => (quantise f.rm.toNat (quantiseGroup f s g)).1) (fun g => (quantise f.rm.toNat (quantiseGroup f s g)).2.toNat) (4096 / tyWidth f.ty.toNat / 128))) := by
  have hgroup (g : Nat) : quantiseGroup f s g = (List.range 128).map fun k =>
      if laneOn (s.me.regs.rp f.p.toNat) (tyWidth f.ty.toNat) (128 * g + k) then laneVal f.ty.toNat (s.vLane (tyWidth f.ty.toNat) f.va (128 * g + k)) else .zero false := by
    simp only [State.vLane_eq_vl]; rfl
  simp only [hgroup]
  rfl

theorem vqblk_blocks (f : VR) (s : State) (h : 8 ≤ f.ty.toNat ∧ f.ty.toNat ≤ 10) :
    ∃ v : Vec, writes (.vqblk f) s 8 [.v f.vd.toNat (BitVec.allOnes 4096) v] ∧
      (∀ g < 4096 / tyWidth f.ty.toNat / 128, v.toNat / 2 ^ (512 * g) % 2 ^ 512 = (quantise f.rm.toNat (quantiseGroup f s g)).1 % 2 ^ 512 ∧
        v.toNat / 2 ^ (2048 + 32 * g) % 2 ^ 32 = (quantise f.rm.toNat (quantiseGroup f s g)).2.toNat) ∧
      (∀ b, 64 * (4096 / tyWidth f.ty.toNat / 128) ≤ b → b < 256 → byteOf v.toNat b = 0) ∧
      ∀ b, 256 + 4 * (4096 / tyWidth f.ty.toNat / 128) ≤ b → b < 512 → byteOf v.toNat b = 0 := by
  obtain ⟨hlo, hhi⟩ := h
  have hn : 4096 / tyWidth f.ty.toNat / 128 ≤ 4 := by interval_cases f.ty.toNat <;> decide
  have hlen (g : Nat) : 4 * (quantiseGroup f s g).length = 512 := by rw [quantiseGroup, List.length_map, List.length_range]
  exact ⟨_, writes_of_exec (exec_vqblk f s), blocks_placed hn (fun g => hlen g ▸ quantise_data_lt ..) (fun g => BitVec.isLt _) rfl⟩

/-- Settles O26. -/
theorem vectorConversions : Obligations.VectorConversions := fun f s =>
  ⟨vcvt_lanes f s, vwiden_lanes f s, vnarrow_lanes f s, vqblk_blocks f s⟩

end Sys2Proof.Machine

/-! The memory class at issue (R102, R160 to R181): addresses and checks, the pages that an access leaves in the core's TLB, then the operations. -/
namespace Sys2Proof.Machine
open Sys2Proof.Claims
-- In turn, as the tests are: side by side with the proofs above, these would need more threads than the check's memory holds.
set_option Elab.async false

/-! ### Addresses (R160) -/

theorem eaMA_eq (s : State) (f : MA) : s.me.regs.eaMA f = eaMA s f := (ofInt_toNat_add (ar s f.a) f.off).symm
theorem eaMT_eq (s : State) (f : MT) : s.me.regs.eaMT f = eaMT s f := (ofInt_toNat_add (ar s f.a) f.off).symm

theorem eaMX_eq (s : State) (f : MX) : s.me.regs.eaMX f = eaMX s f := by
  apply BitVec.eq_of_toNat_eq
  rw [Regs.eaMX, eaMX, BitVec.toNat_add, BitVec.toNat_shiftLeft, BitVec.toNat_setWidth, BitVec.toNat_ofNat, Nat.shiftLeft_eq]
  simp only [Nat.add_mod, Nat.mod_mul_mod, Nat.mod_mod]

/-! ### Checks (R161, R162, R171, R172) -/

theorem alignFault_aligned {slot n : Nat} {va : W72} (h : va.toNat % n = 0) : alignFault slot va n = none := if_pos h
theorem alignFault_misaligned {slot n : Nat} {va : W72} (h : va.toNat % n ≠ 0) : alignFault slot va n = some ⟨0x06, slot, 0, 0, va⟩ := if_neg h
theorem beaconFault_inside {slot : Nat} {va : W72} (h : va.toNat % 128 < 64) : beaconFault slot va = none := if_pos h
theorem beaconFault_outside {slot : Nat} {va : W72} (h : 64 ≤ va.toNat % 128) : beaconFault slot va = some ⟨0x06, slot, 0, 0, va⟩ := if_neg (Nat.not_lt.mpr h)

section
variable {s : State} {slot align : Nat} {kind : Acc} {va : W72} {n : Nat}

theorem State.memFault_misaligned (h : va.toNat % align ≠ 0) : s.memFault slot align kind va n = some ⟨0x06, slot, 0, 0, va⟩ := by
  rw [State.memFault, alignFault_misaligned h]

theorem State.memFault_untranslated (h : va.toNat % align = 0) {e : TFault} (he : s.xlate kind va n = .error e) : s.memFault slot align kind va n = some (e.cause slot) := by
  simp only [State.memFault, alignFault_aligned h, he]

theorem State.memFault_none (h : va.toNat % align = 0) {l : List Seg} (hl : s.xlate kind va n = .ok l) : s.memFault slot align kind va n = none := by
  simp only [State.memFault, alignFault_aligned h, hl]

theorem State.segs_of_xlate {l : List Seg} (hl : s.xlate kind va n = .ok l) : s.segs kind va n = l := by
  simp only [State.segs, hl]

end

/-! ### Pages of an access (R322) -/

section
variable {s : State} {kind : Acc} {va : W72} {n : Nat}

theorem State.xlate_eq (s : State) (kind : Acc) (va : W72) (n : Nat) : s.xlate kind va n = s.translate s.me.tlb s.me.ctx kind s.me.sup va n (n / 4096 + 1 + 1) := rfl

/-- The first page of an access, and whether the access ends in it. -/
theorem State.translate_cons {tlb : List TlbEntry} {ctx fuel : Nat} {sup : Bool} {g : Seg} {l : List Seg} (h : s.translate tlb ctx kind sup va n (fuel + 1) = .ok (g :: l)) :
    ∃ e size, s.pageOf tlb ctx va = some (e, size) ∧ leafAllows e kind sup = true ∧ g = ⟨ptePa e + va.toNat % 2 ^ size, min n (2 ^ size - va.toNat % 2 ^ size), pteUntr e⟩ ∧
      (g.n = n ∧ l = [] ∨ g.n ≠ n ∧ s.translate tlb ctx kind sup (va + BitVec.ofNat 72 g.n) (n - g.n) fuel = .ok l) := by
  rw [State.translate] at h
  cases hp : s.pageOf tlb ctx va with
  | none => simp [hp] at h
  | some r =>
    obtain ⟨e, size⟩ := r
    simp only [hp] at h
    cases ha : leafAllows e kind sup with
    | false => simp [ha] at h
    | true =>
      simp only [ha, Bool.not_true, Bool.false_eq_true, if_false] at h
      refine ⟨e, size, rfl, ha, ?_⟩
      split at h
      · next hk => cases h; exact ⟨rfl, .inl ⟨hk, rfl⟩⟩
      · next hk =>
        split at h
        · cases h
        · next t ht => cases h; exact ⟨rfl, .inr ⟨hk, ht⟩⟩

/-- A translation that begins names a page. -/
theorem State.translate_ne_nil {tlb : List TlbEntry} {ctx fuel : Nat} {sup : Bool} : s.translate tlb ctx kind sup va n (fuel + 1) ≠ .ok [] := by
  intro h
  rw [State.translate] at h
  dsimp only at h
  repeat' split at h
  all_goals cases h

/-- An access that one page translates lies in it whole. -/
theorem State.xlate_one {g : Seg} (h : s.xlate kind va n = .ok [g]) : g.n = n := by
  obtain ⟨e, size, -, -, -, ⟨hn, -⟩ | ⟨-, hrest⟩⟩ := State.translate_cons (s.xlate_eq kind va n ▸ h)
  · exact hn
  · exact absurd hrest State.translate_ne_nil

/-- The first byte of an access translates as the access does. -/
theorem State.xlate_first {g : Seg} {l : List Seg} (h : s.xlate kind va n = .ok (g :: l)) : s.xlate kind va 1 = .ok [⟨g.pa, 1, g.untr⟩] := by
  obtain ⟨e, size, hp, ha, rfl, -⟩ := State.translate_cons (s.xlate_eq kind va n ▸ h)
  have hk : min 1 (2 ^ size - va.toNat % 2 ^ size) = 1 := min_eq_left (Nat.sub_pos_of_lt (Nat.mod_lt _ (Nat.two_pow_pos size)))
  rw [State.xlate_eq, State.translate, hp]
  simp only [ha, hk, Bool.not_true, Bool.false_eq_true, if_false, if_true]

end

/-! ### The core's TLB (R324) -/

/-- From `s` to `t` nothing differs but the TLB of core `c`. -/
def State.onlyTlb (s t : State) (c : Nat) : Prop := s.onlyCore t c ∧ t.cur = s.cur ∧ t.core c = { s.core c with tlb := (t.core c).tlb }

theorem State.onlyTlb.refl (s : State) (c : Nat) : s.onlyTlb s c := ⟨⟨rfl, rfl, rfl, rfl, rfl, rfl, fun _ _ => rfl⟩, rfl, rfl⟩
theorem State.onlyTlb.trans {s t u : State} {c : Nat} (h : s.onlyTlb t c) (h' : t.onlyTlb u c) : s.onlyTlb u c :=
  ⟨h.1.trans h'.1, h'.2.1.trans h.2.1, by rw [h'.2.2, h.2.2]⟩

theorem State.onlyTlb_tlbFill (c ctx : Nat) (fuel : Nat) : ∀ (s : State) (va : W72) (n : Nat), s.onlyTlb (s.tlbFill c false ctx va n fuel) c := by
  induction fuel with
  | zero => exact fun s _ _ => .refl s c
  | succ fuel ih =>
    intro s va n
    have hput (e : TlbEntry) : s.onlyTlb (s.modCore c fun k => if (tlbFind k.tlb ctx va).isSome then k else { k with tlb := tlbPut 64 k.tlb e }) c := by
      refine ⟨State.onlyCore_modCore s c _, rfl, ?_⟩
      rw [State.modCore_core_same]
      split <;> rfl
    rw [State.tlbFill]
    dsimp only
    split
    · exact .refl s c
    · simp only [Bool.false_eq_true, if_false]
      split
      · exact hput _
      · exact (hput _).trans (ih _ _ _)

theorem State.onlyTlb_useTlb (s : State) (va : W72) (n : Nat) : s.onlyTlb (s.useTlb va n) s.cur := State.onlyTlb_tlbFill _ _ _ _ _ _

/-- Effects and pending results of an access, beside the pages that it has used. -/
theorem State.withholdsFor_of {s t : State} (vs : List VarWrite) (ht : s.onlyCore t s.cur) (hcur : t.cur = s.cur) (hv : ∀ v ∈ vs, v.id = s.me.iss.nextId ∧ v.region = s.me.iss.region)
    (hme : t.me = { s.me with tlb := t.me.tlb, iss := { s.me.iss with vpend := s.me.iss.vpend ++ vs, nextId := s.me.iss.nextId + vs.length } }) (e : Effect) :
    s.withholdsFor (t.withhold e) [e] vs := by
  have hcore : t.onlyCore (t.withhold e) s.cur := hcur ▸ State.onlyCore_modCore t t.cur _
  exact ⟨ht.trans hcore, hcur, hv, by rw [State.withhold_me, hme]; rfl⟩

theorem State.withholdsFor_withhold (s : State) (va : W72) (n : Nat) (e : Effect) : s.withholdsFor ((s.useTlb va n).withhold e) [e] [] := by
  obtain ⟨hcore, hcur, hme⟩ := s.onlyTlb_useTlb va n
  refine State.withholdsFor_of [] hcore hcur (by simp) ?_ e
  rw [List.append_nil, State.me, hcur, hme]
  rfl

/-! ### Global stores (R170, R172) -/

theorem leList_eq_byteOf (n x : Nat) : leList n x = (List.range n).map (byteOf x) := by
  rw [leList_eq]
  exact List.map_congr_left fun i _ => by rw [byteOf, pow_mul]; rfl

theorem Piece.cells_eq (p : Piece) : p.cells = cellsFrom p.pa p.bytes := range_zip_map p.pa p.bytes

/-- A run of bytes cut at blocks: its cells, and no piece beyond its block (R102). -/
theorem cutBlocks_spec (untr : Bool) : ∀ (fuel pa : Nat) (bs : List Byte), bs.length < fuel →
    (cutBlocks untr fuel pa bs).flatMap Piece.cells = cellsFrom pa bs ∧ ∀ p ∈ cutBlocks untr fuel pa bs, p.pa % 64 + p.bytes.length ≤ 64
  | 0, _, _, h => absurd h (Nat.not_lt_zero _)
  | fuel + 1, pa, bs, h => by
    unfold cutBlocks
    split
    · next he => rw [List.isEmpty_iff.mp he]; exact ⟨rfl, by simp⟩
    · next he =>
      have hne : 0 < bs.length := List.length_pos_iff.mpr fun e => he (by rw [e]; rfl)
      dsimp only
      generalize hn : min bs.length (64 - pa % 64) = n
      have hlen : (bs.take n).length = n := by rw [List.length_take]; omega
      obtain ⟨hcells, hfit⟩ := cutBlocks_spec untr fuel (pa + n) (bs.drop n) (by rw [List.length_drop]; omega)
      refine ⟨?_, ?_⟩
      · rw [List.flatMap_cons, hcells, Piece.cells_eq]
        conv_rhs => rw [← List.take_append_drop n bs, cellsFrom_append, hlen]
      · refine List.forall_mem_cons.mpr ⟨?_, hfit⟩
        show pa % 64 + (bs.take n).length ≤ 64
        omega

/-- The pieces of a store give its bytes to the addresses of its pages, in order. -/
theorem piecesOf_spec : ∀ (segs : List Seg) (bs : List Byte), (piecesOf segs bs).flatMap Piece.cells = (addrsOf segs).zip bs ∧
    ∀ p ∈ piecesOf segs bs, p.pa % 64 + p.bytes.length ≤ 64
  | [], _ => ⟨rfl, by simp [piecesOf]⟩
  | g :: t, bs => by
    obtain ⟨hcells, hfit⟩ := cutBlocks_spec g.untr (g.n + 1) g.pa (bs.take g.n) (by rw [List.length_take]; omega)
    obtain ⟨hcells', hfit'⟩ := piecesOf_spec t (bs.drop g.n)
    refine ⟨?_, fun p hp => (List.mem_append.mp hp).elim (hfit p) (hfit' p)⟩
    have haddrs : addrsOf (g :: t) = (List.range g.n).map (g.pa + ·) ++ addrsOf t := rfl
    rw [piecesOf, List.flatMap_append, hcells, hcells', haddrs, zip_append_left, List.length_map, List.length_range, range_map_zip, List.take_take, min_self]

/-- A store that makes its checks and withholds its bytes is one of R170. -/
theorem stores_of_exec {i : Instr} {s : State} {va : W72} {n ev scope x : Nat}
    (hexec : exec i s = s.checked (s.memFault 5 (alignOf n) .write va n) (s.store va (leList n x) ev scope)) : stores i s va n ev scope x := by
  refine ⟨fun h => ?_, fun h e he => ?_, fun h segs hsegs => ?_⟩
  · rw [hexec, State.checked_some _ _ (State.memFault_misaligned h)]
  · rw [hexec, State.checked_some _ _ (State.memFault_untranslated h he)]
  · obtain ⟨hcells, hfit⟩ := piecesOf_spec segs (leList n x)
    have hstore : s.store va (leList n x) ev scope = (s.useTlb va n).withhold (.store (piecesOf segs (leList n x)) ev scope) := by
      simp only [State.store, length_leList, State.segs_of_xlate hsegs]
    exact ⟨_, _, by rw [hexec, State.checked_none _ _ (State.memFault_none h hsegs), hstore], State.withholdsFor_withhold .., by rw [hcells, leList_eq_byteOf], hfit⟩

/-- A row of `tableSt` holds: the instruction has the row's opcode and stores the row's bytes. -/
def meetsSt (row : Nat × (MA → Instr) × Nat × (State → MA → Nat)) : Prop :=
  ∀ (f : MA) (s : State), (encodeOpW (row.2.1 f)).map Prod.fst = some row.1 ∧ stores (row.2.1 f) s (eaMA s f) row.2.2.1 f.ev.toNat f.scope.toNat (row.2.2.2 s f)

theorem meetsSt_of {op n : Nat} {i : MA → Instr} {v : State → MA → Nat} (hop : ∀ f, (encodeOpW (i f)).map Prod.fst = some op := by intros; rfl)
    (hexec : ∀ f s, exec (i f) s = s.checked (s.memFault 5 (alignOf n) .write (s.me.regs.eaMA f) n) (s.store (s.me.regs.eaMA f) (leList n (v s f)) f.ev.toNat f.scope.toNat) := by intros; rfl) :
    meetsSt (op, i, n, v) := fun f s => ⟨hop f, stores_of_exec (by rw [hexec, eaMA_eq])⟩

/-! ### A store-release (R172) -/

section
variable {s : State} {f : MA} {k : StKind}

theorem exec_stRel (k : StKind) (f : MA) (s : State) : exec (.stRel k f) s =
    s.checked (orCause (alignFault 5 (eaMA s f) (stSize k)) (orCause (beaconFault 5 (eaMA s f)) (s.memFault 5 (stSize k) .write (eaMA s f) (stSize k))))
      (s.storeRel f.scope.toNat (eaMA s f) (stBytes k s.me.regs f.data.toNat) f.ev.toNat) := by
  rw [← eaMA_eq]; rfl

/-- The number whose low bytes a store-release stores. -/
def stValue (k : StKind) (r : Regs) (d : Nat) : Nat := match k with | .a => (r.ra d).toNat | _ => (r.rs d).toNat

theorem stBytes_eq (k : StKind) (r : Regs) (d : Nat) : stBytes k r d = leList (stSize k) (stValue k r d) := by cases k <;> rfl

theorem stSize_pos (k : StKind) : 0 < stSize k := by cases k <;> decide

theorem stRel_misplaced (h : (eaMA s f).toNat % stSize k ≠ 0 ∨ 64 ≤ (eaMA s f).toNat % 128) : exec (.stRel k f) s = .next (s.precise ⟨0x06, 5, 0, 0, eaMA s f⟩) := by
  rw [exec_stRel]
  by_cases ha : (eaMA s f).toNat % stSize k = 0
  · rw [alignFault_aligned ha, beaconFault_outside (h.resolve_left (absurd ha))]; rfl
  · rw [alignFault_misaligned ha]; rfl

theorem stRel_untranslated (ha : (eaMA s f).toNat % stSize k = 0) (hb : (eaMA s f).toNat % 128 < 64) {e : TFault} (he : s.xlate .write (eaMA s f) (stSize k) = .error e) :
    exec (.stRel k f) s = .next (s.precise (e.cause 5)) := by
  rw [exec_stRel, alignFault_aligned ha, beaconFault_inside hb, State.memFault_untranslated ha he]; rfl

/-- A run of bytes within one block is one piece. -/
theorem piecesOf_one {g : Seg} {bs : List Byte} (hne : 0 < bs.length) (hn : g.n = bs.length) (hfit : g.pa % 64 + bs.length ≤ 64) : piecesOf [g] bs = [⟨g.pa, bs, g.untr⟩] := by
  have hcut : cutBlocks g.untr (bs.length + 1) g.pa bs = [⟨g.pa, bs, g.untr⟩] := by
    have hnil (fuel pa : Nat) : cutBlocks g.untr fuel pa [] = [] := by cases fuel <;> rfl
    rw [cutBlocks, if_neg (by simpa using List.length_pos_iff.mp hne)]
    dsimp only
    rw [min_eq_left (by omega), List.take_length, List.drop_length, hnil]
  rw [piecesOf, hn, List.take_length, hcut]
  rfl

theorem stRel_withholds (ha : (eaMA s f).toNat % stSize k = 0) (hb : (eaMA s f).toNat % 128 < 64) {g : Seg} (hg : s.xlate .write (eaMA s f) (stSize k) = .ok [g])
    (hfit : g.pa % 64 + stSize k ≤ 64) : ∃ t, exec (.stRel k f) s = .next t ∧
      s.withholdsFor t [.storeRel f.scope.toNat f.ev.toNat ⟨g.pa, (List.range (stSize k)).map (byteOf (stValue k s.me.regs f.data.toNat)), g.untr⟩] [] := by
  have hlen := length_leList (stSize k) (stValue k s.me.regs f.data.toNat)
  have hpieces := piecesOf_one (g := g) (by rw [hlen]; exact stSize_pos k) (by rw [hlen, State.xlate_one hg]) (by rw [hlen]; exact hfit)
  refine ⟨_, ?_, State.withholdsFor_withhold s (eaMA s f) (stSize k) _⟩
  rw [exec_stRel, alignFault_aligned ha, beaconFault_inside hb, State.memFault_none ha hg, ← leList_eq_byteOf]
  simp only [orCause, State.checked, State.storeRel, stBytes_eq, hlen, State.segs_of_xlate hg, hpieces]

end

/-- A store-release, as R172 has it. -/
theorem stRel_spec (k : StKind) (f : MA) (s : State) :
    ((eaMA s f).toNat % stSize k ≠ 0 ∨ 64 ≤ (eaMA s f).toNat % 128 → exec (.stRel k f) s = .next (s.precise ⟨0x06, 5, 0, 0, eaMA s f⟩)) ∧
    ((eaMA s f).toNat % stSize k = 0 → (eaMA s f).toNat % 128 < 64 →
      (∀ e, s.xlate .write (eaMA s f) (stSize k) = .error e → exec (.stRel k f) s = .next (s.precise (e.cause 5))) ∧
      ∀ g, s.xlate .write (eaMA s f) (stSize k) = .ok [g] → g.pa % 64 + stSize k ≤ 64 → ∃ t, exec (.stRel k f) s = .next t ∧
        s.withholdsFor t [.storeRel f.scope.toNat f.ev.toNat ⟨g.pa, (List.range (stSize k)).map (byteOf (stValue k s.me.regs f.data.toNat)), g.untr⟩] []) :=
  ⟨stRel_misplaced, fun ha hb => ⟨fun _ he => stRel_untranslated ha hb he, fun _ hg hfit => stRel_withholds ha hb hg hfit⟩⟩

theorem tableSt_meets : ∀ row ∈ tableSt, meetsSt row := by
  simp only [tableSt, List.forall_mem_cons]
  exact ⟨meetsSt_of, meetsSt_of, meetsSt_of, meetsSt_of, meetsSt_of, meetsSt_of, by simp⟩

/-- Settles O16: the rows of the table and the indexed vector store, then the store-releases. -/
theorem globalStores : Obligations.GlobalStores :=
  ⟨tableSt_meets, fun f s => stores_of_exec (by rw [← eaMX_eq]; rfl), fun k f s => by
    have hrel := stRel_spec k f s
    cases k <;> exact hrel⟩

/-! ### Atomics (R176) -/

section
variable {s : State} {f : MT} {o : AtomOp}

/-- The target of an atomic lies badly: it is misaligned or, with ordering, not in the beacon bytes of its line. -/
def atomicMisplaced (s : State) (f : MT) (n : Nat) : Prop := (eaMT s f).toNat % n ≠ 0 ∨ (f.ord.toNat ≠ 0 ∧ 64 ≤ (eaMT s f).toNat % 128)

theorem eq_ofNat_iff {w : Nat} (x : BitVec w) {n : Nat} (hn : n < 2 ^ w) : x = BitVec.ofNat w n ↔ x.toNat = n := by
  rw [← BitVec.toNat_inj, BitVec.toNat_ofNat, Nat.mod_eq_of_lt hn]

theorem unordered_iff (f : MT) : f.ord = 0 ↔ f.ord.toNat = 0 := eq_ofNat_iff f.ord (by decide)

/-- The checks of an atomic: its alignment, with ordering its place in the line, then the translation of its target. -/
def State.atomicFault (s : State) (f : MT) (o : AtomOp) : Option Cause :=
  orCause (alignFault 5 (eaMT s f) o.size) (orCause (if f.ord = 0 then none else beaconFault 5 (eaMT s f)) (s.memFault 5 o.size .write (eaMT s f) o.size))

theorem State.atomicFault_misplaced (h : atomicMisplaced s f o.size) : s.atomicFault f o = some ⟨0x06, 5, 0, 0, eaMT s f⟩ := by
  unfold State.atomicFault
  by_cases ha : (eaMT s f).toNat % o.size = 0
  · obtain ⟨hord, hout⟩ := h.resolve_left (absurd ha)
    rw [alignFault_aligned ha, if_neg ((unordered_iff f).not.mpr hord), beaconFault_outside hout]; rfl
  · rw [alignFault_misaligned ha]; rfl

theorem State.atomicFault_placed (h : ¬atomicMisplaced s f o.size) : (eaMT s f).toNat % o.size = 0 ∧ s.atomicFault f o = s.memFault 5 o.size .write (eaMT s f) o.size := by
  obtain ⟨ha, hb⟩ := not_or.mp h
  rw [not_not] at ha
  have hplace : (if f.ord = 0 then none else beaconFault 5 (eaMT s f)) = none := by
    split
    · rfl
    · next hord => exact beaconFault_inside (Nat.not_le.mp fun hout => hb ⟨(unordered_iff f).not.mp hord, hout⟩)
  rw [State.atomicFault, alignFault_aligned ha, hplace]
  exact ⟨ha, rfl⟩

/-- The result that an atomic leaves pending. -/
def State.atomicVar (s : State) (f : MT) : VarWrite :=
  ⟨s.me.iss.nextId, .atomic, s.me.iss.region, [.s f.d.toNat], [], none, f.ord = 1 || f.ord = 3, none⟩
/-- The acting core with that result pending. -/
def State.atomicPending (s : State) (f : MT) : State := s.modMe fun c => (c.addVar .atomic [.s f.d.toNat] [] none (f.ord = 1 || f.ord = 3) none).2
/-- The effect that it withholds. -/
def State.atomicEffect (s : State) (f : MT) (o : AtomOp) (g : Seg) : Effect :=
  .atomic o f.ord.toNat f.scope.toNat f.ev.toNat ⟨g.pa, List.replicate o.size 0, g.untr⟩ (sr s f.x) (sr s f.y) f.d.toNat s.me.iss.nextId

theorem State.atomic_eq {g : Seg} {l : List Seg} (hg : s.xlate .write (eaMT s f) o.size = .ok (g :: l)) :
    s.atomic f o = s.checked (s.atomicFault f o) (((s.atomicPending f).useTlb (eaMT s f) o.size).withhold (s.atomicEffect f o g)) := by
  have hsegs := State.segs_of_xlate (State.xlate_first hg)
  rw [State.atomicEffect, ← show s.paOf .write (eaMT s f) = g.pa by simp only [State.paOf, hsegs], ← show s.untrOf .write (eaMT s f) = g.untr by simp only [State.untrOf, hsegs],
    State.atomicFault, ← eaMT_eq]
  rfl

theorem State.atomic_fault {x : Cause} (h : s.atomicFault f o = some x) : s.atomic f o = .next (s.precise x) := by
  rw [State.atomicFault, ← eaMT_eq] at h
  exact State.checked_some s _ h

theorem State.atomic_withholds (g : Seg) : s.withholdsFor (((s.atomicPending f).useTlb (eaMT s f) o.size).withhold (s.atomicEffect f o g)) [s.atomicEffect f o g] [s.atomicVar f] := by
  obtain ⟨hcore, -, -, -, hme⟩ : s.pends (s.atomicPending f) (s.atomicVar f) := State.addVar_pends ..
  obtain ⟨htcore, htcur, htme⟩ := (s.atomicPending f).onlyTlb_useTlb (eaMT s f) o.size
  refine State.withholdsFor_of [s.atomicVar f] (hcore.trans htcore) htcur (by simp [State.atomicVar]) ?_ _
  rw [State.me, htcur, htme, ← State.me, hme]
  rfl

end

/-- A row of `tableAtm` holds, as `AtomicIssue` has it. -/
def meetsAtm (row : Nat × (MT → Instr) × AtomOp × Nat) : Prop :=
  ∀ (f : MT) (s : State), (encodeOpW (row.2.1 f)).map Prod.fst = some row.1 ∧
    (atomicMisplaced s f row.2.2.2 → exec (row.2.1 f) s = .next (s.precise ⟨0x06, 5, 0, 0, eaMT s f⟩)) ∧
    (¬atomicMisplaced s f row.2.2.2 → (∀ e, s.xlate .write (eaMT s f) row.2.2.2 = .error e → exec (row.2.1 f) s = .next (s.precise (e.cause 5))) ∧
      ∀ g l, s.xlate .write (eaMT s f) row.2.2.2 = .ok (g :: l) → ∃ t v p, exec (row.2.1 f) s = .next t ∧
        s.withholdsFor t [.atomic row.2.2.1 f.ord.toNat f.scope.toNat f.ev.toNat p (sr s f.x) (sr s f.y) f.d.toNat v.id] [v] ∧
        p.pa = g.pa ∧ p.bytes.length = row.2.2.2 ∧ p.untr = g.untr ∧ v.kind = .atomic ∧ v.regs = [.s f.d.toNat] ∧ v.wr = [] ∧ v.ready = none ∧
        (v.hold = true ↔ f.ord.toNat = 1 ∨ f.ord.toNat = 3))

theorem meetsAtm_of {op : Nat} {i : MT → Instr} (o : AtomOp) (hop : ∀ f, (encodeOpW (i f)).map Prod.fst = some op := by intros; rfl)
    (hexec : ∀ f s, exec (i f) s = s.atomic f o := by intros; rfl) : meetsAtm (op, i, o, o.size) := by
  refine fun f s => ⟨hop f, fun h => ?_, fun h => ?_⟩
  · rw [hexec, State.atomic_fault (State.atomicFault_misplaced h)]
  · obtain ⟨ha, hplaced⟩ := State.atomicFault_placed h
    refine ⟨fun e he => ?_, fun g l hg => ?_⟩
    · rw [hexec, State.atomic_fault (hplaced.trans (State.memFault_untranslated ha he))]
    · refine ⟨_, s.atomicVar f, ⟨g.pa, List.replicate o.size 0, g.untr⟩, ?_, State.atomic_withholds g, rfl, List.length_replicate, rfl, rfl, rfl, rfl, rfl, ?_⟩
      · rw [hexec, State.atomic_eq hg, State.checked_none _ _ (hplaced.trans (State.memFault_none ha hg))]
      · rw [State.atomicVar, Bool.or_eq_true, decide_eq_true_eq, decide_eq_true_eq]
        exact or_congr (eq_ofNat_iff f.ord (by decide)) (eq_ofNat_iff f.ord (by decide))

theorem atomicIssue : AtomicIssue := by
  show ∀ row ∈ tableAtm, meetsAtm row
  simp only [tableAtm, List.forall_mem_cons]
  exact ⟨meetsAtm_of .add, meetsAtm_of .and, meetsAtm_of .or, meetsAtm_of .xor, meetsAtm_of .minI, meetsAtm_of .maxI, meetsAtm_of .minN, meetsAtm_of .maxN,
    meetsAtm_of .swp, meetsAtm_of .cas, meetsAtm_of .fadd, by simp⟩

theorem atomicValues : AtomicValues := by
  intro old x y
  refine ⟨?_, rfl, rfl, rfl, ?_, ?_, ?_, ?_, rfl, rfl, fun h => if_pos h, fun h => if_neg h⟩
  · rw [BitVec.ofNat_add, BitVec.ofNat_toNat, BitVec.ofNat_toNat, BitVec.setWidth_eq, BitVec.setWidth_eq]; rfl
  · rw [ofInt_min_toInt]; rfl
  · rw [ofInt_max_toInt]; rfl
  · rw [← BitVec.ofInt_natCast, ofInt_min_toNat]; rfl
  · rw [← BitVec.ofInt_natCast, ofInt_max_toNat]; rfl

/-- Settles O19. -/
theorem atomics : Obligations.Atomics := ⟨atomicIssue, atomicValues⟩

end Sys2Proof.Machine

/-! Plain loads and `pref` where a host holds a stray byte (R170, R175, R331). -/
namespace Sys2Proof.Machine
open Sys2Proof.Claims
-- In turn, as the tests are: side by side with the proofs above, these would need more threads than the check's memory holds.
set_option Elab.async false

/-- Host 0 holds the window sector of bytes 0 to 63 exclusively, and the bytes that it has modified there name byte 128, of another line; core 0 has the page of byte 0 in its TLB. No write of a host leaves a modified byte outside its sector, but the statements speak of every state. -/
def strayHostByte : State :=
  { cores := [(0, { tlb := [⟨0, 0, 12, 0x33⟩] })]
    mem := { fabric := [(0, { holders := [0], excl := true, mods := [(128, 1)] })] } }

/-- The outcome in which the host's stray byte has reached memory while the version of that byte's line stays. -/
def strayMerged (i : Instr) : Prop := ∃ t, exec i strayHostByte = .next t ∧ t.mem.byte 128 = 1 ∧ t.mem.ver.get 0 1 = 0

/-- A load of byte 0 has the host's sector merged; the snoop raises the version of line 0, the sector's line, alone. -/
theorem strayMerged_ldN8 : strayMerged (.ldN8 ⟨0, 0, 0, 0, 0, 0⟩) := ⟨_, rfl, by decide +kernel⟩

theorem strayMerged_pref : strayMerged (.pref ⟨0, 0, 0, 0, 0, 0⟩) := ⟨_, rfl, by decide +kernel⟩

/-- A read has a byte change only with the version of its own line. -/
theorem strayMerged.not_reads {i : Instr} {t : State} (h : strayMerged i) (ht : exec i strayHostByte = .next t) : ¬ strayHostByte.reads t := by
  obtain ⟨u, hu, hbyte, hver⟩ := h
  obtain rfl : u = t := Host.Outcome.next.inj (hu.symm.trans ht)
  intro ⟨_, _, _, _, hmem⟩
  have hchanged : u.mem.byte 128 ≠ strayHostByte.mem.byte 128 := by rw [hbyte]; decide
  obtain ⟨_, hrises⟩ := hmem 128 hchanged
  exact absurd (hver ▸ hrises) (Nat.not_lt_zero _)

/-- Byte 0 is at physical address 0 through the TLB's entry. -/
theorem strayHostByte_xlate : strayHostByte.xlate .read 0 1 = .ok [⟨0, 1, false⟩] := by rfl

/-- Refutes O20: `ld.n8` of byte 0 at `strayHostByte` merges the byte 128 that the host holds as modified in the sector of byte 0. Byte 128 changes, and the version of its own line 1 does not rise, which `State.reads` demands for every state. -/
theorem not_globalReads : ¬ Obligations.GlobalReads := by
  rintro ⟨⟨hloads, _⟩, _⟩
  have hrow : (0x04, Instr.ldN8, 1, (fun f : MA => RegName.s f.data.toNat), fun (f : MA) (x : Nat) => Wr.s f.data.toNat (BitVec.ofNat 64 x)) ∈ tableLd := by
    simp [tableLd]
  obtain ⟨_, _, _, hread⟩ := hloads _ hrow ⟨0, 0, 0, 0, 0, 0⟩ strayHostByte
  obtain ⟨t, _, _, ht, hreads, _⟩ := hread rfl _ strayHostByte_xlate
  exact strayMerged_ldN8.not_reads ht hreads

/-- Refutes O17: `pref` of byte 0 at `strayHostByte` merges the host's byte 128 as a load does, and the version of line 1 does not rise. -/
theorem not_descriptorsAndCacheOperations : ¬ Obligations.DescriptorsAndCacheOperations := by
  intro h
  obtain ⟨_, _, _, _, hread⟩ := h ⟨0, 0, 0, 0, 0, 0⟩ strayHostByte
  obtain ⟨⟨t, ht, hreads⟩, _⟩ := hread _ _ strayHostByte_xlate
  exact strayMerged_pref.not_reads ht hreads

end Sys2Proof.Machine

/-! Scratchpad accesses (R160, R162, R165 to R169): bytes of a register, cells of a store, the shapes of rows and lanes, then the operations. -/
namespace Sys2Proof.Machine
open Sys2Proof.Claims
-- In turn, as the tests are: side by side with the proofs above, these would need more threads than the check's memory holds.
set_option Elab.async false

/-! ### Bytes of a register -/

theorem toNat_byteOf (x j : Nat) : (byteOf x j).toNat = x / 2 ^ (8 * j) % 2 ^ 8 := BitVec.toNat_ofNat ..

theorem byteOf_congr {x y i j : Nat} (h : x / 2 ^ (8 * i) % 2 ^ 8 = y / 2 ^ (8 * j) % 2 ^ 8) : byteOf x i = byteOf y j :=
  BitVec.eq_of_toNat_eq (by rw [toNat_byteOf, toNat_byteOf, h])

/-- Byte `j` of the number that bytes hold (R1). -/
theorem byteOf_leVal (l : List Byte) (j : Nat) : byteOf (leVal l) j = l.getD j 0 := by
  apply BitVec.eq_of_toNat_eq
  rw [toNat_byteOf, ← leVal_div_mod, pow_mul]
  rfl

theorem byteOf_ofNat {w j : Nat} (h : 8 * j + 8 ≤ w) (x : Nat) : byteOf (BitVec.ofNat w x).toNat j = byteOf x j := byteOf_congr (toNat_ofNat_div_mod h x)

/-- A register put together from bytes (R144). -/
theorem byteOf_vecOf {j : Nat} (hj : j < 512) (l : List Byte) : byteOf (vecOf l).toNat j = l.getD j 0 := by
  rw [vecOf, byteOf_ofNat (by omega), byteOf_leVal]

theorem vecBytes_eq (v : Vec) : vecBytes v = (List.range 512).map (byteOf v.toNat) := leList_eq_byteOf 512 v.toNat

theorem getLsbD_byteOf (x j b : Nat) : (byteOf x j).getLsbD b = (decide (b < 8) && x.testBit (8 * j + b)) := by
  rw [byteOf, BitVec.getLsbD_ofNat, Nat.testBit_div_two_pow, Nat.add_comm b]

/-- A byte whose bits are alike. -/
theorem byteOf_eq_of_testBit {x j : Nat} {y : Byte} (h : ∀ b < 8, x.testBit (8 * j + b) = y.getLsbD b) : byteOf x j = y :=
  BitVec.eq_of_getLsbD_eq fun b hb => by rw [getLsbD_byteOf, decide_eq_true hb, Bool.true_and, h b hb]

/-- A byte of a register is a byte of its lane. -/
theorem byteOf_lane {w j : Nat} (hj : j < w) (v : Vec) (i : Nat) : byteOf (laneAt (8 * w) v i) j = byteOf v.toNat (w * i + j) := by
  refine byteOf_eq_of_testBit fun b hb => ?_
  rw [getLsbD_byteOf, testBit_laneAt, BitVec.testBit_toNat, decide_eq_true hb, decide_eq_true (show 8 * j + b < 8 * w by omega), show 8 * w * i + (8 * j + b) = 8 * (w * i + j) + b by ring]

/-! ### Cells of scratchpad stores -/

theorem foldl_lastCell (cs : List (Nat × Byte)) (a : Nat) : ∀ r : Option Byte, cs.foldl (fun r x => if x.1 = a then some x.2 else r) r = (lastCell cs a).or r := by
  unfold lastCell
  induction cs with
  | nil => exact fun _ => rfl
  | cons c t ih =>
    intro r
    rw [List.foldl_cons, List.foldl_cons, ih (if c.1 = a then some c.2 else r), ih (if c.1 = a then some c.2 else none)]
    split <;> cases t.foldl _ none <;> rfl

/-- Of two cells for one offset the later one stands (R169). -/
theorem lastCell_append (cs ds : List (Nat × Byte)) (a : Nat) : lastCell (cs ++ ds) a = (lastCell ds a).or (lastCell cs a) := by
  rw [← foldl_lastCell]
  exact List.foldl_append ..

/-- A run of bytes from one offset on. -/
theorem lastCell_run (c : Nat → Byte) (x a : Nat) : ∀ n : Nat, lastCell ((List.range n).map fun j => (x + j, c j)) a = if x ≤ a ∧ a < x + n then some (c (a - x)) else none := by
  intro n
  induction n with
  | zero => rw [if_neg (by omega)]; rfl
  | succ n ih =>
    rw [List.range_succ, List.map_append, lastCell_append, ih]
    show (if x + n = a then some (c n) else none).or _ = _
    by_cases h : x + n = a
    · subst h
      rw [if_pos rfl, Option.some_or, if_pos (by omega), Nat.add_sub_cancel_left]
    · rw [if_neg h, Option.none_or, if_congr (show x ≤ a ∧ a < x + n ↔ x ≤ a ∧ a < x + (n + 1) by omega) rfl rfl]

/-- Of cells that the members of a rising list give, those of the highest stand. -/
theorem lastCell_flatMap (g : Nat → List (Nat × Byte)) (a : Nat) (b : Byte) (l : List Nat) (hl : l.Pairwise (· < ·)) :
    (lastCell (l.flatMap g) a = none ↔ ∀ k ∈ l, lastCell (g k) a = none) ∧
    (lastCell (l.flatMap g) a = some b ↔ ∃ i ∈ l, lastCell (g i) a = some b ∧ ∀ k ∈ l, i < k → lastCell (g k) a = none) := by
  induction l with
  | nil => exact ⟨by simp [lastCell], by simp [lastCell]⟩
  | cons x t ih =>
    obtain ⟨hx, ht⟩ := List.pairwise_cons.mp hl
    obtain ⟨hnone, hsome⟩ := ih ht
    rw [List.flatMap_cons, lastCell_append, Option.or_eq_none_iff, Option.or_eq_some_iff, hnone, hsome, List.forall_mem_cons, List.exists_mem_cons_iff]
    refine ⟨and_comm, ?_⟩
    rw [or_comm]
    refine or_congr ?_ (exists_congr fun i => and_congr_right fun hi => and_congr_right fun _ => ?_)
    · rw [and_comm]
      exact and_congr_right fun _ => ⟨fun h k hk hlt => (List.mem_cons.mp hk).elim (fun e => absurd hlt (by omega)) (h k), fun h k hk => h k (List.mem_cons_of_mem _ hk) (hx k hk)⟩
    · rw [List.forall_mem_cons]
      exact ⟨fun h => ⟨fun hlt => absurd (hx i hi) (by omega), h⟩, fun h => h.2⟩

/-- The addresses of scratchpad rows, byte by byte. -/
def rowAddrs (rows : List (Nat × Nat)) : List Nat := rows.flatMap fun r => (List.range r.2).map (r.1 + ·)

theorem rowCells_eq : ∀ (rows : List (Nat × Nat)) (bs : List Byte), rowCells rows bs = (rowAddrs rows).zip bs
  | [], _ => rfl
  | (x, n) :: t, bs => by
    have haddrs : rowAddrs ((x, n) :: t) = (List.range n).map (x + ·) ++ rowAddrs t := rfl
    rw [haddrs, zip_append_left, List.length_map, List.length_range, ← rowCells_eq t, List.zip_map_left]
    rfl

theorem rowBytes_read (k : Core) (rows : List (Nat × Nat)) : (rows.flatMap fun (x, n) => k.scrRead x n) = (rowAddrs rows).map k.scrByte := by
  rw [rowAddrs, List.map_flatMap]
  refine congrArg (List.flatMap · rows) (funext fun r => ?_)
  rw [List.map_map]
  rfl

/-! ### Checks of rows (R162) -/

section
variable {slot size align stride x n : Nat} {t : List (Nat × Nat)}

theorem scrFault_misaligned (h : x % align ≠ 0 ∨ stride % align ≠ 0) : scrFault slot size align stride ((x, n) :: t) = some ⟨0x06, slot, 0, 0, BitVec.ofNat 72 x⟩ := by
  have hbad : (x % align != 0 || stride % align != 0) = true := by simpa using h
  simp only [scrFault, hbad, if_true]
  rfl

variable (hx : x % align = 0) (hs : stride % align = 0)
include hx hs

theorem scrFault_aligned : scrFault slot size align stride ((x, n) :: t) =
    match ((x, n) :: t).find? fun (y, n) => size < y + n with
    | some (y, _) => some ⟨0x09, slot, 0, 0, offAddr y⟩
    | none => none := by
  simp only [scrFault, hx, hs]
  rfl

theorem scrFault_none (h : ∀ r ∈ (x, n) :: t, r.1 + r.2 ≤ size) : scrFault slot size align stride ((x, n) :: t) = none := by
  have hfind : ((x, n) :: t).find? (fun (y, n) => size < y + n) = none := List.find?_eq_none.mpr fun r hr => by simpa using h r hr
  rw [scrFault_aligned hx hs, hfind]

theorem scrFault_range (h : ∃ r ∈ (x, n) :: t, size < r.1 + r.2) :
    ∃ r ∈ (x, n) :: t, size < r.1 + r.2 ∧ scrFault slot size align stride ((x, n) :: t) = some ⟨0x09, slot, 0, 0, BitVec.ofNat 72 r.1⟩ := by
  rw [scrFault_aligned hx hs]
  cases hfind : ((x, n) :: t).find? (fun (y, n) => size < y + n) with
  | none =>
    obtain ⟨r, hr, hlt⟩ := h
    exact absurd hlt (by simpa using List.find?_eq_none.mp hfind r hr)
  | some r => exact ⟨r, List.mem_of_find?_eq_some hfind, by simpa using List.find?_some hfind, rfl⟩

end

/-! ### Fields of a load or store shape (R166) -/

theorem fieldOf_eq {eng fld lo w : Nat} (hf : shapeField eng fld = (lo, w)) (h : BitVec 128) : fieldOf eng fld h = h.toNat / 2 ^ lo % 2 ^ w := by
  rw [fieldOf, hf]
  show (h >>> lo).toNat % 2 ^ w = _
  rw [BitVec.toNat_ushiftRight, Nat.shiftRight_eq_div_pow]

theorem rowBytes_eq (h : BitVec 128) : rowBytes h = shapeRow h := by
  unfold rowBytes shapeRow
  rw [fieldOf_eq (lo := 0) (w := 4) rfl h, pow_zero, Nat.div_one]
  rfl
theorem rowStride_eq (h : BitVec 128) : rowStride h = shapeStride h := fieldOf_eq rfl h

theorem shapeRow_mul (h : BitVec 128) : 512 / shapeRow h * shapeRow h = 512 := by
  unfold shapeRow
  split
  · next hl =>
    obtain ⟨hlo, hhi⟩ := hl
    interval_cases h.toNat % 16 <;> rfl
  · rfl

theorem shapeRow_pos (h : BitVec 128) : 0 < shapeRow h := Nat.pos_of_ne_zero fun h0 => by have := shapeRow_mul h; rw [h0] at this; omega

theorem strideUsed_aligned (h : BitVec 128) : strideUsed h % 4 = 0 ↔ shapeRow h = 512 ∨ shapeStride h % 4 = 0 := by
  unfold strideUsed
  rw [rowBytes_eq, rowStride_eq]
  split
  · next h512 => exact iff_of_true rfl (.inl h512)
  · next h512 => exact (or_iff_right h512).symm

/-- The members of a double range are those of one range, row by row. -/
theorem flatMap_range_range {α : Type} (g : Nat → Nat → α) {r : Nat} (hr : 0 < r) : ∀ m : Nat,
    ((List.range m).flatMap fun i => (List.range r).map (g i)) = (List.range (m * r)).map fun j => g (j / r) (j % r)
  | 0 => by rw [Nat.zero_mul]; rfl
  | m + 1 => by
    rw [List.range_succ, List.flatMap_append, flatMap_range_range g hr m, Nat.succ_mul, List.range_add, List.map_append, List.map_map, List.flatMap_singleton]
    congr 1
    refine List.map_congr_left fun j hj => ?_
    have hlt := List.mem_range.mp hj
    rw [Function.comp_apply, Nat.mul_comm, Nat.mul_add_div hr, Nat.div_eq_of_lt hlt, Nat.mul_add_mod, Nat.mod_eq_of_lt hlt, Nat.add_zero]

/-- The addresses of a strided access are those of its bytes (R169). -/
theorem rowAddrs_strided (x : Nat) (h : BitVec 128) : rowAddrs (stridedRows x h) = (List.range 512).map (strided x h) := by
  unfold rowAddrs stridedRows
  rw [rowBytes_eq, rowStride_eq, List.flatMap_map, flatMap_range_range _ (shapeRow_pos h), shapeRow_mul]
  rfl

theorem mem_stridedRows {x : Nat} {h : BitVec 128} {r : Nat × Nat} : r ∈ stridedRows x h ↔ ∃ i < 512 / shapeRow h, (x + i * shapeStride h, shapeRow h) = r := by
  unfold stridedRows
  rw [rowBytes_eq, rowStride_eq, List.mem_map]
  simp only [List.mem_range]

theorem stridedRows_cons (x : Nat) (h : BitVec 128) : ∃ t, stridedRows x h = (x, shapeRow h) :: t := by
  have hn : 512 / shapeRow h ≠ 0 := fun h0 => by have := shapeRow_mul h; rw [h0] at this; omega
  obtain ⟨n, hn⟩ := Nat.exists_eq_succ_of_ne_zero hn
  unfold stridedRows
  dsimp only
  rw [rowBytes_eq, hn, List.range_succ_eq_map, List.map_cons, Nat.zero_mul, Nat.add_zero]
  exact ⟨_, rfl⟩

/-- Rows lie below a size exactly where each of their bytes does. -/
theorem stridedRows_inside {x size : Nat} {h : BitVec 128} (hin : ∀ j < 512, strided x h j < size) : ∀ r ∈ stridedRows x h, r.1 + r.2 ≤ size := by
  intro r hr
  obtain ⟨i, hi, rfl⟩ := mem_stridedRows.mp hr
  have hpos := shapeRow_pos h
  have hlast : i * shapeRow h + (shapeRow h - 1) < 512 := by
    have := Nat.mul_le_mul_right (shapeRow h) (Nat.succ_le_of_lt hi)
    rw [shapeRow_mul, Nat.succ_mul] at this
    omega
  have hb := hin _ hlast
  rw [strided, Nat.mul_comm i, Nat.mul_add_div hpos, Nat.div_eq_of_lt (by omega), Nat.mul_add_mod, Nat.mod_eq_of_lt (by omega), Nat.add_zero] at hb
  dsimp only
  omega

theorem stridedRows_outside {x size : Nat} {h : BitVec 128} (hout : ∃ j < 512, size ≤ strided x h j) : ∃ r ∈ stridedRows x h, size < r.1 + r.2 := by
  obtain ⟨j, hj, hle⟩ := hout
  have hmod := Nat.mod_lt j (shapeRow_pos h)
  have hi : j / shapeRow h < 512 / shapeRow h := by
    rw [Nat.div_lt_iff_lt_mul (shapeRow_pos h), shapeRow_mul]
    exact hj
  refine ⟨_, mem_stridedRows.mpr ⟨j / shapeRow h, hi, rfl⟩, ?_⟩
  unfold strided at hle
  dsimp only
  omega

/-! ### Rows at issue -/

/-- One row is read or written: the alignment check, then the range check, then the access. -/
theorem checked_row {s t : State} {i : Instr} {slot align x n : Nat} {P : Prop} (hexec : exec i s = s.checked (s.rowFault slot align 0 [(x, n)]) t) (hdone : exec i s = .next t → P) :
    (x % align ≠ 0 → exec i s = .next (s.precise ⟨0x06, slot, 0, 0, BitVec.ofNat 72 x⟩)) ∧
    (x % align = 0 ∧ s.me.scratchSize < x + n → exec i s = .next (s.precise ⟨0x09, slot, 0, 0, BitVec.ofNat 72 x⟩)) ∧
    (x % align = 0 ∧ x + n ≤ s.me.scratchSize → P) := by
  refine ⟨fun hmis => ?_, fun ⟨hal, hout⟩ => ?_, fun ⟨hal, hin⟩ => hdone ?_⟩
  · exact hexec.trans (State.checked_some s t (scrFault_misaligned (.inl hmis)))
  · obtain ⟨r, hr, -, hfault⟩ := scrFault_range (slot := slot) hal (Nat.zero_mod align) ⟨_, List.mem_singleton_self (x, n), hout⟩
    rw [List.mem_singleton.mp hr] at hfault
    exact hexec.trans (State.checked_some s t hfault)
  · exact hexec.trans (State.checked_none s t (scrFault_none hal (Nat.zero_mod align) fun r hr => by rw [List.mem_singleton.mp hr]; exact hin))

/-- The rows of a shape are read or written: the alignment of the first row and of the stride, then the range of every row, then the access. -/
theorem checked_stridedRows {s t : State} {i : Instr} {slot x : Nat} {h : BitVec 128} {P : Prop} (hexec : exec i s = s.checked (s.rowFault slot 4 (strideUsed h) (stridedRows x h)) t)
    (hdone : exec i s = .next t → P) :
    (x % 4 = 0 → (shapeRow h = 512 ∨ shapeStride h % 4 = 0) → (∀ j < 512, strided x h j < s.me.scratchSize) → P) ∧
    (x % 4 = 0 → (shapeRow h = 512 ∨ shapeStride h % 4 = 0) → (∃ j < 512, s.me.scratchSize ≤ strided x h j) →
      ∃ k < 512 / shapeRow h, s.me.scratchSize < x + k * shapeStride h + shapeRow h ∧ exec i s = .next (s.precise ⟨0x09, slot, 0, 0, BitVec.ofNat 72 (x + k * shapeStride h)⟩)) ∧
    (x % 4 ≠ 0 ∨ (shapeRow h ≠ 512 ∧ shapeStride h % 4 ≠ 0) → exec i s = .next (s.precise ⟨0x06, slot, 0, 0, BitVec.ofNat 72 x⟩)) := by
  obtain ⟨rest, hrows⟩ := stridedRows_cons x h
  unfold State.rowFault at hexec
  refine ⟨fun hal hstride hin => hdone ?_, fun hal hstride hout => ?_, fun hmis => ?_⟩
  · have hfits := stridedRows_inside hin
    rw [hrows] at hexec hfits
    exact hexec.trans (State.checked_none s t (scrFault_none hal ((strideUsed_aligned h).mpr hstride) hfits))
  · have hover := stridedRows_outside hout
    rw [hrows] at hexec hover
    obtain ⟨r, hr, hlt, hfault⟩ := scrFault_range (slot := slot) hal ((strideUsed_aligned h).mpr hstride) hover
    obtain ⟨k, hk, rfl⟩ := mem_stridedRows.mp (hrows ▸ hr)
    exact ⟨k, hk, hlt, hexec.trans (State.checked_some s t hfault)⟩
  · have hmis' : x % 4 ≠ 0 ∨ strideUsed h % 4 ≠ 0 := hmis.imp_right fun ⟨hrow, hstride⟩ h0 => ((strideUsed_aligned h).mp h0).elim hrow hstride
    rw [hrows] at hexec
    exact hexec.trans (State.checked_some s t (scrFault_misaligned hmis'))

theorem rowAddrs_singleton (x n : Nat) : rowAddrs [(x, n)] = (List.range n).map (x + ·) := List.append_nil _

/-- Rows read into a vector register (R169). -/
theorem writes_rowLoad {s : State} {i : Instr} {d : Nat} {rows : List (Nat × Nat)} {g : Nat → Nat} (hrows : rowAddrs rows = (List.range 512).map g)
    (hexec : exec i s = .next (s.rowLoad d rows)) : ∃ v : Vec, writes i s 6 [.v d (BitVec.allOnes 4096) v] ∧ ∀ j < 512, byteOf v.toNat j = s.me.scrByte (g j) := by
  refine ⟨_, writes_of_exec hexec, fun j hj => ?_⟩
  rw [rowBytes_read, hrows, List.map_map, byteOf_vecOf hj, List.getD_eq_getElem?_getD, List.getElem?_map, List.getElem?_range hj]
  rfl

/-- The bytes of a number withheld for rows, lowest first (R169). -/
theorem withholds_rows {s : State} {i : Instr} {n x : Nat} {rows : List (Nat × Nat)} {g : Nat → Nat} (hrows : rowAddrs rows = (List.range n).map g)
    (hexec : exec i s = .next (s.withhold (.scratch (rowCells rows ((List.range n).map (byteOf x)))))) :
    ∃ t, exec i s = .next t ∧ s.withholds t [.scratch ((List.range n).map fun j => (g j, byteOf x j))] := by
  refine ⟨_, hexec, ?_⟩
  rw [rowCells_eq, hrows, List.zip_map']
  exact State.withhold_withholds s _

/-- Of two bytes for one offset the one of the higher index stands. -/
theorem lastCell_map_range (g : Nat → Nat) (c : Nat → Byte) (n a : Nat) (b : Byte) :
    lastCell ((List.range n).map fun j => (g j, c j)) a = some b ↔ ∃ j < n, g j = a ∧ b = c j ∧ ∀ i, j < i → i < n → g i ≠ a := by
  have hcell (x : Nat) (y : Byte) : lastCell [(x, y)] a = if x = a then some y else none := rfl
  rw [List.map_eq_flatMap, (lastCell_flatMap _ a b _ List.pairwise_lt_range).2]
  simp only [hcell, List.mem_range, Option.ite_none_right_eq_some, Option.some.injEq, ite_eq_right_iff, reduceCtorEq, imp_false]
  refine exists_congr fun j => and_congr_right fun _ => ⟨fun ⟨⟨hg, hc⟩, hlast⟩ => ⟨hg, hc.symm, fun i hji hi => hlast i hi hji⟩, fun ⟨hg, hc, hlast⟩ => ⟨⟨hg, hc.symm⟩, fun i hi hji => hlast i hji hi⟩⟩

/-! ### The lanes of a gather or scatter (R166, R167) -/

theorem filterMap_ite {α β : Type} (p : α → Bool) (g : α → β) (l : List α) : (l.filterMap fun x => if p x = true then some (g x) else none) = (l.filter p).map g := by
  induction l with
  | nil => rfl
  | cons x t ih =>
    rw [List.filterMap_cons, List.filter_cons, ih]
    cases p x <;> rfl

/-- The lanes that the shape's predicate leaves active. -/
def activeIndices (s : State) (f : MG) (h : BitVec 128) : List Nat :=
  (List.range (512 / (lanesOf s f h).w)).filter fun i => (s.me.regs.rp (h.toNat / 2 ^ 28 % 16)).getLsbD ((lanesOf s f h).w * i)

section
variable (s : State) (f : MG) (h : BitVec 128)

theorem mem_activeIndices {i : Nat} : i ∈ activeIndices s f h ↔ (lanesOf s f h).on i := by
  rw [activeIndices, List.mem_filter, List.mem_range]
  rfl

theorem activeIndices_sorted : (activeIndices s f h).Pairwise (· < ·) := List.pairwise_lt_range.filter _

theorem laneBytes_eq : laneBytes h = (lanesOf s f h).w := by
  unfold laneBytes
  rw [fieldOf_eq (lo := 24) (w := 1) rfl h]
  rfl

/-- A lane has 8 or 4 bytes (R166). -/
theorem lanesOf_w : (lanesOf s f h).w = 8 ∨ (lanesOf s f h).w = 4 := ite_eq_or_eq ..

theorem laneAddr_eq (i : Nat) : laneAddr (s.me.regs.scrMG f) h (s.me.vec.get 0 f.vi.toNat) i = (lanesOf s f h).addr i := by
  unfold laneAddr
  rw [fieldOf_eq (lo := 25) (w := 3) rfl h, BitVec.extractLsb'_toNat, Nat.shiftRight_eq_div_pow]
  rfl

theorem lanesMG_eq : s.lanesMG f h = (activeIndices s f h).map fun i => (i, (lanesOf s f h).addr i) := by
  unfold State.lanesMG activeLanes activeIndices
  rw [fieldOf_eq (lo := 28) (w := 4) rfl h, laneBytes_eq s f h]
  simp only [laneAddr_eq]
  exact filterMap_ite ..

theorem laneOut_iff (i : Nat) : laneOut s.me.scratchSize (laneBytes h) ((lanesOf s f h).addr i) = true ↔ (lanesOf s f h).out i := by
  rw [laneOut, laneBytes_eq s f h, Bool.or_eq_true, bne_iff_ne, decide_eq_true_iff]
  rfl

theorem shapeTrap_iff : fieldOf 1 5 h = 1 ↔ (lanesOf s f h).trap = true := by
  rw [fieldOf_eq (lo := 32) (w := 1) rfl h]
  exact (decide_eq_true_iff (p := h.toNat / 2 ^ 32 % 2 = 1)).symm

/-- A lane access is checked: with the shape's trap bit the first active lane out of range traps, else the access takes place (R167). -/
theorem checked_lanes {s t : State} {f : MG} {h : BitVec 128} {i : Instr} {slot : Nat} {P : Prop} (hexec : exec i s = s.checked (laneFault slot s.me.scratchSize h (s.lanesMG f h)) t)
    (hdone : exec i s = .next t → P) :
    ((lanesOf s f h).trap = true → (∃ k, (lanesOf s f h).on k ∧ (lanesOf s f h).out k) →
      ∃ k, (lanesOf s f h).on k ∧ (lanesOf s f h).out k ∧ exec i s = .next (s.precise ⟨0x09, slot, 0, 0, BitVec.ofNat 72 ((lanesOf s f h).addr k)⟩)) ∧
    ((lanesOf s f h).trap = false ∨ (∀ k, (lanesOf s f h).on k → ¬ (lanesOf s f h).out k) → P) := by
  have hmem {r : Nat × Nat} : r ∈ s.lanesMG f h ↔ ∃ k, (lanesOf s f h).on k ∧ (k, (lanesOf s f h).addr k) = r := by
    rw [lanesMG_eq, List.mem_map]
    simp only [mem_activeIndices]
  unfold laneFault at hexec
  cases htrap : (lanesOf s f h).trap with
  | false =>
    rw [if_neg (fun h1 => Bool.false_ne_true (htrap.symm.trans ((shapeTrap_iff s f h).mp h1)))] at hexec
    exact ⟨fun h1 => absurd h1 Bool.false_ne_true, fun _ => hdone hexec⟩
  | true =>
    rw [if_pos ((shapeTrap_iff s f h).mpr htrap)] at hexec
    cases hfind : (s.lanesMG f h).find? fun (_, x) => laneOut s.me.scratchSize (laneBytes h) x with
    | none =>
      rw [hfind] at hexec
      refine ⟨fun _ ⟨k, hon, hout⟩ => ?_, fun _ => hdone hexec⟩
      exact absurd ((laneOut_iff s f h k).mpr hout) (List.find?_eq_none.mp hfind _ (hmem.mpr ⟨k, hon, rfl⟩))
    | some r =>
      obtain ⟨k, hon, rfl⟩ := hmem.mp (List.mem_of_find?_eq_some hfind)
      have hout := (laneOut_iff s f h k).mp (List.find?_some (p := fun r : Nat × Nat => laneOut s.me.scratchSize (laneBytes h) r.2) hfind)
      rw [hfind] at hexec
      exact ⟨fun _ _ => ⟨k, hon, hout, hexec⟩, fun hnone => hnone.elim (fun h1 => absurd h1.symm Bool.false_ne_true) fun h1 => absurd hout (h1 k hon)⟩

/-! ### Lanes out of range (R167) -/

theorem getLsbD_foldl_or_bit (ls : List Nat) {k : Nat} (hk : k < 128) : ∀ m : BitVec 128, (ls.foldl (fun m i => m ||| 1#128 <<< i) m).getLsbD k = true ↔ m.getLsbD k = true ∨ k ∈ ls := by
  induction ls with
  | nil => simp
  | cons i t ih =>
    intro m
    have hbit : (1#128 <<< i).getLsbD k = true ↔ k = i := by
      rw [← BitVec.twoPow_eq, BitVec.getLsbD_twoPow]
      simp only [Bool.and_eq_true, decide_eq_true_eq]
      omega
    rw [List.foldl_cons, ih, BitVec.getLsbD_or, Bool.or_eq_true, hbit, List.mem_cons, or_assoc]

/-- The active lanes that are out of range. -/
def outLanes : List Nat := ((s.lanesMG f h).filter fun (_, x) => laneOut s.me.scratchSize (laneBytes h) x).map (·.1)

theorem mem_outLanes {i : Nat} : i ∈ outLanes s f h ↔ (lanesOf s f h).on i ∧ (lanesOf s f h).out i := by
  rw [outLanes, lanesMG_eq, List.filter_map, List.map_map, List.mem_map]
  simp only [List.mem_filter, mem_activeIndices, Function.comp_apply, laneOut_iff, exists_eq_right]

theorem noteLanes_me (ls : List Nat) : (s.noteLanes ls).me = { s.me with regs := { s.me.regs with vfm := (s.noteLanes ls).me.regs.vfm } } := by
  unfold State.noteLanes
  rw [State.modMe_me]

theorem noteLanes_vfm {i : Nat} (hi : i < 128) : (s.noteLanes (outLanes s f h)).me.regs.vfm.getLsbD i = true ↔ s.me.regs.vfm.getLsbD i = true ∨ (lanesOf s f h).on i ∧ (lanesOf s f h).out i := by
  unfold State.noteLanes
  rw [State.modMe_me, getLsbD_foldl_or_bit _ hi, mem_outLanes]

/-! ### Gathered lanes (R169) -/

end

theorem leVal_lt (l : List Byte) : leVal l < 2 ^ (8 * l.length) := by
  induction l with
  | nil => exact Nat.one_pos
  | cons b t ih =>
    have hb := b.isLt
    rw [List.length_cons, Nat.mul_succ, Nat.pow_add]
    show b.toNat + 256 * leVal t < _
    omega

/-- The lanes that a filter keeps and a test does not exclude, summed at their places, are the register of those lanes with zero elsewhere. -/
theorem foldl_lanes (p q : Nat → Bool) {w : Nat} {e : Nat → Nat} (he : ∀ i, e i < 2 ^ w) (n : Nat) :
    ((List.range n).filter p).foldl (fun m i => if q i = true then m else m + e i * 2 ^ (w * i)) 0 = packLanes w ((List.range n).map fun i => if p i = true ∧ q i = false then e i else 0) := by
  induction n with
  | zero => rfl
  | succ n ih =>
    rw [List.range_succ, List.filter_append, List.foldl_append, ih, List.map_append, List.map_singleton, packLanes_append, List.length_map, List.length_range]
    cases hp : p n <;> cases hq : q n <;> simp [hp, hq, Nat.mod_eq_of_lt (he n)]

theorem getLsbD_laneOnes {w i b : Nat} (hw : 0 < w) (hb : b < 4096) : ((BitVec.ofNat 4096 (2 ^ w - 1)) <<< (w * i)).getLsbD b = decide (b / w = i) := by
  rw [BitVec.getLsbD_shiftLeft, BitVec.getLsbD_ofNat, Nat.testBit_two_pow_sub_one, Bool.eq_iff_iff]
  simp only [Bool.and_eq_true, decide_eq_true_eq, Bool.not_eq_true', decide_eq_false_iff_not, Nat.div_eq_iff hw]
  rw [Nat.mul_comm i w]
  omega

theorem getLsbD_foldl_laneOnes {w b : Nat} (hw : 0 < w) (hb : b < 4096) (ls : List Nat) : ∀ m : Vec,
    (ls.foldl (fun m i => m ||| (BitVec.ofNat 4096 (2 ^ w - 1)) <<< (w * i)) m).getLsbD b = (m.getLsbD b || decide (b / w ∈ ls)) := by
  induction ls with
  | nil => simp
  | cons i t ih =>
    intro m
    rw [List.foldl_cons, ih, BitVec.getLsbD_or, getLsbD_laneOnes hw hb, Bool.or_assoc]
    simp only [List.mem_cons, Bool.decide_or]

/-- A byte of a lane mask is on where its lane is listed (R145). -/
theorem byteOf_lanesMask {w i j : Nat} (hj : j < w) (hi : w * i + w ≤ 512) (ls : List Nat) : byteOf (lanesMask w ls).toNat (w * i + j) = if i ∈ ls then 0xFF else 0 := by
  refine byteOf_eq_of_testBit fun b hb => ?_
  have hlane : (8 * (w * i + j) + b) / (8 * w) = i := by
    rw [Nat.div_eq_iff (by omega), show i * (8 * w) = 8 * (w * i) by ring]
    omega
  rw [BitVec.testBit_toNat, lanesMask, getLsbD_foldl_laneOnes (by omega) (by omega), hlane]
  split
  · next hmem => rw [decide_eq_true hmem, Bool.or_true, show (0xFF : Byte) = BitVec.allOnes 8 from rfl, BitVec.getLsbD_allOnes, decide_eq_true hb]
  · next hmem => rw [decide_eq_false hmem]; exact (Bool.or_false _).trans (BitVec.getLsbD_zero.trans BitVec.getLsbD_zero.symm)

section
variable (s : State) (f : MG) (h : BitVec 128)

theorem lane_inside_lanesOf {i : Nat} (hi : i < 512 / (lanesOf s f h).w) : (lanesOf s f h).w * i + (lanesOf s f h).w ≤ 512 := by
  obtain hw | hw := lanesOf_w s f h <;> rw [hw] at hi ⊢ <;> omega

/-- The mask with which a gather writes its register: the active lanes. -/
def activeMask : Vec := lanesMask (laneBytes h) ((s.lanesMG f h).map (·.1))

theorem byteOf_activeMask {i j : Nat} (hi : i < 512 / (lanesOf s f h).w) (hj : j < (lanesOf s f h).w) :
    (byteOf (activeMask s f h).toNat ((lanesOf s f h).w * i + j) = 0xFF ↔ (lanesOf s f h).on i) ∧ (byteOf (activeMask s f h).toNat ((lanesOf s f h).w * i + j) = 0 ↔ ¬ (lanesOf s f h).on i) := by
  have hlanes : (s.lanesMG f h).map (·.1) = activeIndices s f h := by
    rw [lanesMG_eq, List.map_map]
    exact List.map_id _
  rw [activeMask, hlanes, laneBytes_eq s f h, byteOf_lanesMask hj (lane_inside_lanesOf s f h hi), ← mem_activeIndices]
  split
  · next hon => exact ⟨iff_of_true rfl hon, iff_of_false (by decide) (not_not_intro hon)⟩
  · next hoff => exact ⟨iff_of_false (by decide) hoff, iff_of_true rfl hoff⟩

/-- The number that a gather puts together from its active lanes in range. -/
def gathered : Nat :=
  (s.lanesMG f h).foldl (fun n (i, x) => if laneOut s.me.scratchSize (laneBytes h) x then n else n + leVal (s.me.scrRead x (laneBytes h)) * 2 ^ (8 * laneBytes h * i)) 0

theorem length_scrRead (k : Core) (x n : Nat) : (k.scrRead x n).length = n := by
  rw [Core.scrRead, List.length_map, List.length_range]

theorem gathered_eq : gathered s f h = packLanes (8 * (lanesOf s f h).w) ((List.range (laneCount (8 * (lanesOf s f h).w))).map fun i =>
    if (s.me.regs.rp (h.toNat / 2 ^ 28 % 16)).getLsbD ((lanesOf s f h).w * i) = true ∧ laneOut s.me.scratchSize (laneBytes h) ((lanesOf s f h).addr i) = false
    then leVal (s.me.scrRead ((lanesOf s f h).addr i) (lanesOf s f h).w) else 0) := by
  have hcount : laneCount (8 * (lanesOf s f h).w) = 512 / (lanesOf s f h).w := Nat.mul_div_mul_left 512 _ (show 0 < 8 by decide)
  have hlt (i : Nat) : leVal (s.me.scrRead ((lanesOf s f h).addr i) (lanesOf s f h).w) < 2 ^ (8 * (lanesOf s f h).w) := lt_of_lt_of_eq (leVal_lt _) (by rw [length_scrRead])
  rw [gathered, lanesMG_eq, List.foldl_map, hcount, ← foldl_lanes _ _ hlt]
  simp only [laneBytes_eq s f h]
  rfl

/-- A gathered lane in range has the bytes at its address, an active lane out of range has zero (R167, R169). -/
theorem byteOf_gathered {i j : Nat} (hi : i < 512 / (lanesOf s f h).w) (hj : j < (lanesOf s f h).w) (hon : (lanesOf s f h).on i) :
    (¬ (lanesOf s f h).out i → byteOf (BitVec.ofNat 4096 (gathered s f h)).toNat ((lanesOf s f h).w * i + j) = s.me.scrByte ((lanesOf s f h).addr i + j)) ∧
    ((lanesOf s f h).out i → byteOf (BitVec.ofNat 4096 (gathered s f h)).toNat ((lanesOf s f h).w * i + j) = 0) := by
  have hlane : i < 4096 / (8 * (lanesOf s f h).w) := lt_of_lt_of_eq hi (Nat.mul_div_mul_left 512 _ (show 0 < 8 by decide)).symm
  rw [← byteOf_lane hj, gathered_eq]
  show (_ → byteOf (laneAt _ (vecLanes _ _) i) j = _) ∧ (_ → byteOf (laneAt _ (vecLanes _ _) i) j = _)
  rw [laneAt_vecLanes_map hlane]
  refine ⟨fun hin => ?_, fun hout => ?_⟩
  · have hin' : laneOut s.me.scratchSize (laneBytes h) ((lanesOf s f h).addr i) = false := Bool.eq_false_iff.mpr fun h1 => hin ((laneOut_iff s f h i).mp h1)
    rw [if_pos ⟨hon.2, hin'⟩, Nat.mod_eq_of_lt (lt_of_lt_of_eq (leVal_lt _) (by rw [length_scrRead])), byteOf_leVal, List.getD_eq_getElem?_getD, Core.scrRead, List.getElem?_map,
      List.getElem?_range hj]
    rfl
  · have hout' := (laneOut_iff s f h i).mpr hout
    rw [if_neg fun h1 => Bool.false_ne_true (h1.2.symm.trans hout'), Nat.zero_mod]
    exact byteOf_eq_zero (by simp)

/-! ### Scattered lanes (R169) -/

/-- The cells that a scatter withholds. -/
def scattered (v : Vec) : List (Nat × Byte) :=
  (s.lanesMG f h).flatMap fun (i, x) => if laneOut s.me.scratchSize (laneBytes h) x then [] else rowCells [(x, laneBytes h)] (leList (laneBytes h) (lane (8 * laneBytes h) v i))

/-- The cells of one lane. -/
def laneCells (v : Vec) (i : Nat) : List (Nat × Byte) :=
  if laneOut s.me.scratchSize (laneBytes h) ((lanesOf s f h).addr i) then []
  else (List.range (lanesOf s f h).w).map fun j => ((lanesOf s f h).addr i + j, byteOf v.toNat ((lanesOf s f h).w * i + j))

theorem scattered_eq (v : Vec) : scattered s f h v = (activeIndices s f h).flatMap (laneCells s f h v) := by
  rw [scattered, lanesMG_eq, List.flatMap_map]
  refine List.flatMap_congr fun i _ => ?_
  dsimp only
  rw [laneCells, laneBytes_eq s f h, rowCells_eq, rowAddrs_singleton, leList_eq_byteOf, List.zip_map', lane_eq_laneAt]
  refine if_congr Iff.rfl rfl (List.map_congr_left fun j hj => ?_)
  rw [byteOf_lane (List.mem_range.mp hj)]

theorem lastCell_laneCells (v : Vec) (i a : Nat) (b : Byte) :
    (lastCell (laneCells s f h v i) a = none ↔ (¬ (lanesOf s f h).out i → ¬ ((lanesOf s f h).addr i ≤ a ∧ a < (lanesOf s f h).addr i + (lanesOf s f h).w))) ∧
    (lastCell (laneCells s f h v i) a = some b ↔
      ¬ (lanesOf s f h).out i ∧ ∃ j < (lanesOf s f h).w, (lanesOf s f h).addr i + j = a ∧ b = byteOf v.toNat ((lanesOf s f h).w * i + j)) := by
  rw [← laneOut_iff, laneCells]
  split
  · next hout => exact ⟨iff_of_true rfl fun h1 => absurd hout h1, iff_of_false (by simp [lastCell]) fun h1 => h1.1 hout⟩
  · next hin =>
    rw [lastCell_run fun j => byteOf v.toNat ((lanesOf s f h).w * i + j)]
    refine ⟨by simp [hin], ?_⟩
    rw [Option.ite_none_right_eq_some, Option.some.injEq, and_iff_right hin]
    constructor
    · rintro ⟨⟨hle, hlt⟩, rfl⟩
      exact ⟨a - (lanesOf s f h).addr i, by omega, by omega, rfl⟩
    · rintro ⟨j, hj, rfl, rfl⟩
      exact ⟨⟨by omega, by omega⟩, by rw [Nat.add_sub_cancel_left]⟩

/-- A scatter withholds for an offset the byte of the highest active lane in range that covers it (R167, R169). -/
theorem lastCell_scattered (v : Vec) (a : Nat) (b : Byte) : lastCell (scattered s f h v) a = some b ↔
    ∃ i j, j < (lanesOf s f h).w ∧ (lanesOf s f h).on i ∧ ¬ (lanesOf s f h).out i ∧ (lanesOf s f h).addr i + j = a ∧ b = byteOf v.toNat ((lanesOf s f h).w * i + j) ∧
      ∀ k, i < k → (lanesOf s f h).on k → ¬ (lanesOf s f h).out k → ¬ ((lanesOf s f h).addr k ≤ a ∧ a < (lanesOf s f h).addr k + (lanesOf s f h).w) := by
  rw [scattered_eq, (lastCell_flatMap _ a b _ (activeIndices_sorted s f h)).2]
  simp only [mem_activeIndices, (lastCell_laneCells s f h v _ a b).1, (lastCell_laneCells s f h v _ a b).2]
  constructor
  · rintro ⟨i, hon, ⟨hin, j, hj, ha, hb⟩, hlast⟩
    exact ⟨i, j, hj, hon, hin, ha, hb, fun k hik hk => hlast k hk hik⟩
  · rintro ⟨i, j, hj, hon, hin, ha, hb, hlast⟩
    exact ⟨i, hon, ⟨hin, j, hj, ha, hb⟩, fun k hk hik => hlast k hik hk⟩

end

/-! ### The operations -/

section
variable {s : State} {f : MG} {h : BitVec 128} {i : Instr} {d : Nat}

/-- A gather issues one masked write of latency 6 and notes its lanes out of range (R76, R167, R169). -/
theorem gather_done (hexec : exec i s = .next ((s.noteLanes (outLanes s f h)).emit 6 (.v d (activeMask s f h) (BitVec.ofNat 4096 (gathered s f h))))) :
    let l := lanesOf s f h
    ∃ t m v, exec i s = .next t ∧ s.onlyCore t s.cur ∧
      t.me = { s.me with regs := { s.me.regs with vfm := t.me.regs.vfm }, iss := { s.me.iss with pend := s.me.iss.pend ++ [⟨s.cycle + 5, s.me.iss.region, .v d m v⟩] } } ∧
      (∀ k < 128, t.me.regs.vfm.getLsbD k = true ↔ s.me.regs.vfm.getLsbD k = true ∨ (l.on k ∧ l.out k)) ∧
      ∀ k < 512 / l.w, ∀ j < l.w, (byteOf m.toNat (l.w * k + j) = 0xFF ↔ l.on k) ∧ (byteOf m.toNat (l.w * k + j) = 0 ↔ ¬l.on k) ∧
        (l.on k → ¬l.out k → byteOf v.toNat (l.w * k + j) = s.me.scrByte (l.addr k + j)) ∧ (l.on k → l.out k → byteOf v.toNat (l.w * k + j) = 0) := by
  refine ⟨_, activeMask s f h, BitVec.ofNat 4096 (gathered s f h), hexec, (State.onlyCore_modCore s _ _).trans (State.onlyCore_modCore _ _ _), ?_, fun k hk => ?_, fun k hk j hj => ?_⟩
  · rw [State.emit_me, Core.emit_regs, Core.emit, noteLanes_me]
    rfl
  · rw [State.emit_me, Core.emit_regs]
    exact noteLanes_vfm s f h hk
  · obtain ⟨hon, hoff⟩ := byteOf_activeMask s f h hk hj
    exact ⟨hon, hoff, fun hact => (byteOf_gathered s f h hk hj hact).1, fun hact => (byteOf_gathered s f h hk hj hact).2⟩

/-- A scatter withholds its cells and notes its lanes out of range (R102, R167, R169). -/
theorem scatter_done {v : Vec} (hexec : exec i s = .next ((s.noteLanes (outLanes s f h)).withhold (.scratch (scattered s f h v)))) :
    let l := lanesOf s f h
    ∃ t cs, exec i s = .next t ∧ s.onlyCore t s.cur ∧ t.me = { s.me with regs := { s.me.regs with vfm := t.me.regs.vfm }, wb := s.me.wb ++ [.scratch cs] } ∧
      (∀ k < 128, t.me.regs.vfm.getLsbD k = true ↔ s.me.regs.vfm.getLsbD k = true ∨ (l.on k ∧ l.out k)) ∧
      ∀ a b, lastCell cs a = some b ↔ ∃ n j, j < l.w ∧ l.on n ∧ ¬l.out n ∧ l.addr n + j = a ∧ b = byteOf v.toNat (l.w * n + j) ∧
        ∀ k, n < k → l.on k → ¬l.out k → ¬(l.addr k ≤ a ∧ a < l.addr k + l.w) := by
  refine ⟨_, _, hexec, (State.onlyCore_modCore s _ _).trans (State.onlyCore_modCore _ _ _), ?_, fun k hk => ?_, lastCell_scattered s f h v⟩
  · rw [State.withhold_me, Core.withhold, noteLanes_me]
  · rw [State.withhold_me]
    exact noteLanes_vfm s f h hk

end

theorem scratchpadLoads : ScratchpadLoads := by
  intro s
  refine ⟨fun f => ?_, fun f => ?_, fun f => ?_, fun f => ?_⟩
  · exact checked_row rfl (writes_rowLoad (rowAddrs_singleton ..))
  · exact checked_stridedRows rfl (writes_rowLoad (rowAddrs_strided ..))
  · exact checked_row rfl writes_of_exec
  · exact checked_lanes rfl gather_done

/-- The cells of one row of a number's bytes (R169). -/
theorem withholds_row {s : State} {i : Instr} {n x y : Nat} (hexec : exec i s = .next (s.withhold (.scratch (rowCells [(x, n)] ((List.range n).map (byteOf y)))))) :
    ∃ t cs, exec i s = .next t ∧ s.withholds t [.scratch cs] ∧ ∀ a, lastCell cs a = if x ≤ a ∧ a < x + n then some (byteOf y (a - x)) else none := by
  obtain ⟨t, ht, hw⟩ := withholds_rows (rowAddrs_singleton x n) hexec
  exact ⟨t, _, ht, hw, fun a => lastCell_run (byteOf y) x a n⟩

theorem scratchpadStores : ScratchpadStores := by
  intro s
  refine ⟨fun f => checked_row rfl fun hexec => ?_, fun f => checked_stridedRows rfl fun hexec => ?_, fun f => checked_row rfl fun hexec => ?_, fun f => ?_⟩
  · rw [vecBytes_eq] at hexec
    exact withholds_row hexec
  · rw [vecBytes_eq] at hexec
    obtain ⟨t, ht, hw⟩ := withholds_rows (rowAddrs_strided _ _) hexec
    exact ⟨t, _, ht, hw, fun a b => lastCell_map_range _ _ 512 a b⟩
  · rw [leList_eq_byteOf] at hexec
    exact withholds_row hexec
  · exact checked_lanes rfl scatter_done

/-- Settles O18: the checks go through the rows and the active lanes, the bytes of rows through the list of their addresses, and of two cells for one offset the later in that list is that of the higher byte or lane. -/
theorem scratchpadAccess : Obligations.ScratchpadAccess := ⟨scratchpadLoads, scratchpadStores⟩

end Sys2Proof.Machine

/-! An index load where a host holds a stray byte (R187, R188, R331). -/
namespace Sys2Proof.Machine
open Sys2Proof.Claims
-- In turn, as the tests are: side by side with the proofs above, these would need more threads than the check's memory holds.
set_option Elab.async false

/-- Every shape of `strayHostByte` is zero: an `xld` there reads byte 0 of device memory in list order, and the host's byte 128 is merged with it. -/
theorem strayMerged_xld : strayMerged (.xld ⟨0, 0, 0, 0, 0⟩) := ⟨_, rfl, by decide +kernel⟩

/-- Refutes O28: `xld` of byte 0 at `strayHostByte` merges the byte 128 that the host holds as modified in the sector of byte 0. Byte 128 changes, and the version of its own line 1 does not rise, which `State.reads` demands for every state, as of every plain load. -/
theorem not_indexLoads : ¬ Obligations.IndexLoads := by
  intro h
  obtain ⟨_, _, hdevice, _⟩ := h ⟨0, 0, 0, 0, 0⟩ strayHostByte
  obtain ⟨_, _, hread⟩ := hdevice (by decide) (by decide) rfl
  obtain ⟨t, _, _, ht, hreads, _⟩ := hread rfl _ strayHostByte_xlate
  exact strayMerged_xld.not_reads ht hreads

end Sys2Proof.Machine

/-! Index arithmetic, compares, selects and moves (R184 to R186): the values on words and the reasons of the fields, then the operations. -/
namespace Sys2Proof.Machine
open Sys2Proof.Claims
-- In turn, as the tests are: side by side with the proofs above, these would need more threads than the check's memory holds.
set_option Elab.async false

/-- The set bits of a word below position `n`, counted one by one (R184). -/
theorem popcount_eq (n : Nat) : ∀ x : Nat, popcount n x = (List.range n).countP fun k => x.testBit k := by
  induction n with
  | zero => exact fun _ => rfl
  | succ n ih =>
    intro x
    have hrest : (fun k => x.testBit k) ∘ Nat.succ = fun k => (x / 2).testBit k := funext fun k => Nat.testBit_succ x k
    rw [popcount, ih, List.range_succ_eq_map, List.countP_cons, List.countP_map, hrest, Nat.testBit_zero, Nat.add_comm]
    obtain h | h := Nat.mod_two_eq_zero_or_one x <;> simp [h]

/-- An index register field names a register whatever it holds (R58). -/
theorem opndOk_ix (n : BitVec 4) (dest : Bool) : opndOk 1024 32 ⟨.ix, n.toNat, dest⟩ = true := by
  have hlt := n.isLt
  simp [opndOk, RC.size, hlt]

/-- A vector register field names a register whatever it holds, where all 1024 are declared (R58). -/
theorem opndOk_v (n : BitVec 10) (dest : Bool) : opndOk 1024 32 ⟨.v, n.toNat, dest⟩ = true := by
  have hlt := n.isLt
  simp [opndOk, hlt]

/-- Several writes issued together. -/
theorem writes_of_emits {i : Instr} {s : State} {lat : Nat} {ws : List Wr} (h : exec i s = .next (s.emits lat ws)) : writes i s lat ws :=
  ⟨_, h, State.emits_issues s lat ws⟩

/-! ### Arithmetic (R184) -/

/-- The counts that an operation of R184 admits, by its opcode: 63 for the shifts, 64 for `xpopc`. -/
def countLegal (op n : Nat) : Bool :=
  match op with
  | 4 | 5 => n ≤ 63
  | 6 => n ≤ 64
  | _ => true

/-- A row of `tableXR` holds: opcode, value, and the reasons of its fields. -/
def meetsXR (row : Nat × (XR → Instr) × (W64 → W64 → BitVec 15 → Int)) : Prop :=
  ∀ (f : XR) (s : State),
    (encodeOpX (row.2.1 f)).map Prod.fst = some row.1 ∧ writes (row.2.1 f) s 2 [.ix f.d.toNat (BitVec.ofInt 64 (row.2.2 (xr s f.a) (xr s f.b) f.imm))] ∧
    (f.hs ≠ 0 ∨ (row.1 ≤ 3 ∧ f.imm ≠ 0) ∨ (4 ≤ row.1 ∧ f.b ≠ 0) → fieldReason 1024 32 (row.2.1 f) = some 2) ∧
    (f.hs = 0 → f.b = 0 → (row.1 = 4 ∨ row.1 = 5) ∧ 63 < f.imm.toNat ∨ row.1 = 6 ∧ 64 < f.imm.toNat → fieldReason 1024 32 (row.2.1 f) = some 4)

/-- A row holds when the model's operation on words is the row's on whole numbers. Opcodes up to 3 have two sources, the others one and imm15. -/
theorem meetsXR_of {op : Nat} {i : XR → Instr} {v : W64 → W64 → BitVec 15 → Int} {g : W64 → W64 → BitVec 15 → W64} (hval : ∀ a b n, BitVec.ofInt 64 (v a b n) = g a b n)
    (hop : ∀ f, (encodeOpX (i f)).map Prod.fst = some op := by intros; rfl)
    (hexec : ∀ f s, exec (i f) s = s.ixRes f.d (g (xr s f.a) (xr s f.b) f.imm) := by intros; rfl)
    (hzero : ∀ f, zeroFields (i f) = [f.hs.toNat, if op ≤ 3 then f.imm.toNat else f.b.toNat] := by intros; rfl)
    (hregs : ∀ f, explicitOps (i f) = wr .ix f.d :: rd .ix f.a :: if op ≤ 3 then [rd .ix f.b] else [] := by intros; rfl)
    (hlim : ∀ f, limits (i f) = countLegal op f.imm.toNat := by intros; rfl) : meetsXR (op, i, v) := by
  refine fun f s => ⟨hop f, writes_of_exec (by rw [hexec, ← hval]; rfl), fun h => ?fields, fun hhs hb h => ?count⟩
  case fields =>
    rcases h with hhs | ⟨hlow, himm⟩ | ⟨hhigh, hb⟩
    · exact fieldReason_zeroFields (by rw [hzero]; exact List.mem_cons_self) (toNat_ne_zero hhs)
    · exact fieldReason_zeroFields (by rw [hzero, if_pos hlow]; simp) (toNat_ne_zero himm)
    · exact fieldReason_zeroFields (by rw [hzero, if_neg (Nat.not_le.mpr hhigh)]; simp) (toNat_ne_zero hb)
  case count =>
    change (op = 4 ∨ op = 5) ∧ 63 < f.imm.toNat ∨ op = 6 ∧ 64 < f.imm.toNat at h
    have hhigh : ¬op ≤ 3 := by omega
    refine fieldReason_values (by simp [hzero, hhigh, hhs, hb]) (by simp [hregs, hhigh, wr, rd, opndOk_ix]) ((hlim f).trans ?_)
    rcases h with ⟨rfl | rfl, h63⟩ | ⟨rfl, h64⟩
    · exact decide_eq_false (Nat.not_le.mpr h63)
    · exact decide_eq_false (Nat.not_le.mpr h63)
    · exact decide_eq_false (Nat.not_le.mpr h64)

theorem tableXR_meets : ∀ row ∈ tableXR, meetsXR row := by
  simp only [tableXR, List.forall_mem_cons]
  exact ⟨meetsXR_of (g := fun a b _ => a + b) fun a b _ => by rw [BitVec.ofInt_add, ofInt_toNat, ofInt_toNat],
    meetsXR_of (g := fun a b _ => a - b) fun a b _ => by rw [ofInt_sub, ofInt_toNat, ofInt_toNat],
    meetsXR_of (g := fun a b _ => a &&& b) fun a b _ => ofInt_toNat (a &&& b),
    meetsXR_of (g := fun a _ n => a <<< n.toNat) fun a _ n => ofInt_toNat_mul_two_pow a n.toNat,
    meetsXR_of (g := fun a _ n => a >>> n.toNat) fun a _ n => ofInt_toNat_div_two_pow a n.toNat,
    meetsXR_of (g := fun a _ n => BitVec.ofNat 64 (popcount n.toNat a.toNat)) fun a _ n => by rw [BitVec.ofInt_natCast, popcount_eq]; rfl,
    meetsXR_of (g := fun a _ n => a + imm64 n) fun a _ n => ofInt_toNat_add a n, by simp⟩

/-! ### Compare and select (R185) -/

theorem xcond_eq {cc : Nat} (h : cc ≤ 5) (a b : W64) : xcond cc a b = codeHolds cc a b := by
  interval_cases cc
  · exact (decide_toNat_eq a b).symm
  · exact (decide_toNat_ne a b).symm
  · exact BitVec.ult_eq_decide
  · exact BitVec.ule_eq_decide
  · exact BitVec.slt_eq_decide
  · exact BitVec.sle_eq_decide

theorem xcmp_writes {f : XR} (h : f.imm.toNat ≤ 5) (s : State) :
    writes (.xcmp f) s 2 [.ix f.d.toNat (if codeHolds f.imm.toNat (xr s f.a) (xr s f.b) then BitVec.ofInt 64 (-1) else 0)] := by
  have hcc : (f.imm.extractLsb' 0 3).toNat = f.imm.toNat := by rw [toNat_extractLsb'_zero]; omega
  rw [← xcond_eq h, ← hcc]
  exact writes_of_exec rfl

/-- The codes 6 and 7 name no condition, and imm15 holds nothing but the code. -/
theorem xcmp_reasons (f : XR) : (8 ≤ f.imm.toNat → fieldReason 1024 32 (.xcmp f) = some 2) ∧
    (f.hs = 0 → f.imm.toNat = 6 ∨ f.imm.toNat = 7 → fieldReason 1024 32 (.xcmp f) = some 4) := by
  refine ⟨fun h => fieldReason_zeroFields (x := (f.imm.extractLsb' 3 12).toNat) (by simp [zeroFields]) (toNat_extractLsb'_ne_zero f.imm (by decide) h), fun hhs h => ?_⟩
  have hcc : (f.imm.extractLsb' 0 3).toNat = f.imm.toNat := by rw [toNat_extractLsb'_zero]; omega
  have hhigh : (f.imm.extractLsb' 3 12).toNat = 0 := by rw [BitVec.extractLsb'_toNat, Nat.shiftRight_eq_div_pow]; omega
  have hregs : ∀ o ∈ [wr .ix f.d, rd .ix f.a, rd .ix f.b], opndOk 1024 32 o = true := by simp [wr, rd, opndOk_ix]
  exact fieldReason_values (by simp [zeroFields, hhs, hhigh]) hregs (decide_eq_false (by omega))

/-- A select is a blend under the old destination as the mask. -/
theorem xsel_writes (f : XR) (s : State) :
    ∃ v : W64, writes (.xsel f) s 2 [.ix f.d.toNat v] ∧ ∀ i < 64, v.getLsbD i = if (xr s f.d).getLsbD i then (xr s f.a).getLsbD i else (xr s f.b).getLsbD i := by
  refine ⟨(xr s f.a &&& xr s f.d) ||| (xr s f.b &&& ~~~xr s f.d), writes_of_exec rfl, fun i _ => ?_⟩
  rw [BitVec.or_comm, getLsbD_masked]

/-! ### One lane of a vector register (R186) -/

/-- A lane whose bits are all alike. -/
theorem laneAt_of_bits {w i : Nat} {v : Vec} {on : Prop} [Decidable on] (h : ∀ b < w, v.getLsbD (w * i + b) = decide on) : laneAt w v i = if on then 2 ^ w - 1 else 0 := by
  apply Nat.eq_of_testBit_eq
  intro b
  rw [testBit_laneAt]
  by_cases hb : b < w
  · rw [h b hb]
    split
    · next hon => simp [hon, hb]
    · next hoff => simp [hoff]
  · split <;> simp [hb]

/-- A lane of a register mask is all ones where it is listed, else zero. -/
theorem laneAt_lanesMask {w i : Nat} (hi : i < 4096 / (8 * w)) (ls : List Nat) : laneAt (8 * w) (lanesMask w ls) i = if i ∈ ls then 2 ^ (8 * w) - 1 else 0 := by
  have hin := lane_inside hi
  refine laneAt_of_bits fun b hb => ?_
  have hw : 0 < 8 * w := by omega
  rw [lanesMask, getLsbD_foldl_laneOnes hw (by omega), Nat.mul_add_div hw, Nat.div_eq_of_lt hb, Nat.add_zero]
  exact (congrArg (· || _) BitVec.getLsbD_zero).trans (Bool.false_or _)

/-- Lanes moved up by `k` places. -/
theorem laneAt_shiftLeft {w k i : Nat} (hi : k + i < 4096 / w) (v : Vec) : laneAt w (v <<< (w * k)) (k + i) = laneAt w v i := by
  have hin := lane_inside hi
  apply Nat.eq_of_testBit_eq
  intro b
  rw [Nat.mul_add] at hin
  rw [testBit_laneAt, testBit_laneAt, BitVec.getLsbD_shiftLeft, Nat.mul_add]
  by_cases hb : b < w
  · rw [decide_eq_true (show w * k + w * i + b < 4096 by omega), decide_eq_false (show ¬w * k + w * i + b < w * k by omega), show w * k + w * i + b - w * k = w * i + b by omega]
    rfl
  · rw [decide_eq_false hb]; rfl

theorem xtov_reasons (f : XV) : (f.p ≠ 0 → fieldReason 1024 32 (.xtov f) = some 2) ∧ (f.p = 0 → 64 ≤ f.imm.toNat → fieldReason 1024 32 (.xtov f) = some 4) := by
  refine ⟨fun h => fieldReason_zeroFields (x := f.p.toNat) List.mem_cons_self (toNat_ne_zero h), fun hp h => ?_⟩
  have hregs : ∀ o ∈ [wr .v f.v, rd .ix f.ix], opndOk 1024 32 o = true := by simp [wr, rd, opndOk_ix, opndOk_v]
  exact fieldReason_values (by simp [zeroFields, hp]) hregs (decide_eq_false (by omega))

theorem xtov_writes {f : XV} (h : f.imm.toNat < 64) (s : State) : ∃ m v : Vec, writes (.xtov f) s 2 [.v f.v.toNat m v] ∧
    ∀ i < 64, (i = f.imm.toNat → laneAt 64 m i = 2 ^ 64 - 1 ∧ laneAt 64 v i = (xr s f.ix).toNat) ∧ (i ≠ f.imm.toNat → laneAt 64 m i = 0) := by
  refine ⟨_, _, writes_of_exec rfl, fun i hi => ⟨fun heq => ⟨?_, ?_⟩, fun hne => ?_⟩⟩
  · exact (laneAt_lanesMask (w := 8) hi _).trans (if_pos (List.mem_singleton.mpr heq))
  · rw [heq]
    refine (laneAt_shiftLeft (i := 0) h _).trans ?_
    rw [laneAt, BitVec.toNat_setWidth_of_le (by decide), Nat.mul_zero, Nat.pow_zero, Nat.div_one, Nat.mod_eq_of_lt (xr s f.ix).isLt]
  · exact (laneAt_lanesMask (w := 8) hi _).trans (if_neg fun hmem => hne (List.mem_singleton.mp hmem))

theorem indexArithmetic : IndexArithmetic := by
  refine ⟨tableXR_meets, fun f s => ⟨fun h => xcmp_writes h s, xsel_writes f s, (xcmp_reasons f).1, (xcmp_reasons f).2, fun h => ?_⟩, fun f s => ⟨?_, ?_⟩, fun s => rfl, xtov_reasons,
    fun f s h => xtov_writes h s⟩
  · exact fieldReason_zeroFields (x := f.imm.toNat) (by simp [zeroFields]) (toNat_ne_zero h)
  · rw [ofInt_toNat_add]; exact writes_of_exec rfl
  · rw [ofInt_toNat_add]; exact writes_of_exec rfl

end Sys2Proof.Machine

/-! The merge of two cursors and the expansion of 2:4 groups (R189, R190). -/
namespace Sys2Proof.Machine
open Sys2Proof.Claims
-- In turn, as the tests are: side by side with the proofs above, these would need more threads than the check's memory holds.
set_option Elab.async false

/-! ### Cursors (R189) -/

/-- The key of a cursor. -/
theorem toNat_key (c : W64) : (c.extractLsb' 32 32).toNat = c.toNat / 2 ^ 32 := by
  have hlt := c.isLt
  rw [BitVec.extractLsb'_toNat, Nat.shiftRight_eq_div_pow]
  omega

theorem advance_eq (c : W64) : advance c = nextPos c := by
  rw [advance, append_eq_ofNat, toNat_key, BitVec.toNat_add, toNat_extractLsb'_zero]
  show BitVec.ofNat 64 (_ + (c.toNat % 2 ^ 32 + 1) % 2 ^ 32) = _
  rw [Nat.mod_add_mod, nextPos]

/-- A key is the end of a list exactly when it is 2^32 − 1. -/
theorem key_eq_end_iff (c : W64) : c.extractLsb' 32 32 = 0xFFFFFFFF ↔ c.toNat / 2 ^ 32 = 2 ^ 32 - 1 := by
  rw [← BitVec.toNat_inj, toNat_key]
  rfl

theorem key_ult_iff (a b : W64) : (a.extractLsb' 32 32).ult (b.extractLsb' 32 32) = true ↔ a.toNat / 2 ^ 32 < b.toNat / 2 ^ 32 := by
  rw [BitVec.ult_eq_decide, decide_eq_true_eq, toNat_key, toNat_key]

/-- The writes of one step of the merge, in the terms of R189. -/
def mergeWrites (f : XR) (a b : W64) : List Wr :=
  let ka := a.toNat / 2 ^ 32
  let kb := b.toNat / 2 ^ 32
  let ones : W64 := BitVec.ofInt 64 (-1)
  if ka = 2 ^ 32 - 1 ∧ kb = 2 ^ 32 - 1 then [.ix f.d.toNat ones]
  else if ka < kb then [.ix f.a.toNat (nextPos a), .ix f.d.toNat ones]
  else if kb < ka then [.ix f.b.toNat (nextPos b), .ix f.d.toNat ones]
  else [.ix f.d.toNat (BitVec.ofNat 64 (a.toNat % 2 ^ 32 * 2 ^ 32 + b.toNat % 2 ^ 32)), .ix f.a.toNat (nextPos a), .ix f.b.toNat (nextPos b)]

theorem exec_xadv (f : XR) (s : State) : exec (.xadv f) s = .next (s.emits 2 (mergeWrites f (xr s f.a) (xr s f.b))) := by
  show execXadv f s = _
  simp only [execXadv, key_eq_end_iff, key_ult_iff, advance_eq, extract_append_extract]
  rfl

section
variable {f : XR} {a b : W64}

theorem mergeWrites_ended (ha : a.toNat / 2 ^ 32 = 2 ^ 32 - 1) (hb : b.toNat / 2 ^ 32 = 2 ^ 32 - 1) : mergeWrites f a b = [.ix f.d.toNat (BitVec.ofInt 64 (-1))] :=
  if_pos ⟨ha, hb⟩

theorem mergeWrites_lt (h : a.toNat / 2 ^ 32 < b.toNat / 2 ^ 32) : mergeWrites f a b = [.ix f.a.toNat (nextPos a), .ix f.d.toNat (BitVec.ofInt 64 (-1))] :=
  (if_neg fun hend => by omega).trans (if_pos h)

theorem mergeWrites_gt (h : b.toNat / 2 ^ 32 < a.toNat / 2 ^ 32) : mergeWrites f a b = [.ix f.b.toNat (nextPos b), .ix f.d.toNat (BitVec.ofInt 64 (-1))] :=
  (if_neg fun hend => by omega).trans ((if_neg h.not_gt).trans (if_pos h))

theorem mergeWrites_match (h : a.toNat / 2 ^ 32 = b.toNat / 2 ^ 32) (hend : a.toNat / 2 ^ 32 ≠ 2 ^ 32 - 1) : mergeWrites f a b =
    [.ix f.d.toNat (BitVec.ofNat 64 (a.toNat % 2 ^ 32 * 2 ^ 32 + b.toNat % 2 ^ 32)), .ix f.a.toNat (nextPos a), .ix f.b.toNat (nextPos b)] :=
  (if_neg fun h' => hend h'.1).trans ((if_neg h.not_lt).trans (if_neg h.not_gt))

end

theorem xadv_reasons (f : XR) : (f.imm ≠ 0 ∨ f.hs ≠ 0 → fieldReason 1024 32 (.xadv f) = some 2) ∧
    (f.imm = 0 → f.hs = 0 → f.d = f.a ∨ f.d = f.b ∨ f.a = f.b → fieldReason 1024 32 (.xadv f) = some 4) := by
  refine ⟨fun h => ?_, fun himm hhs h => ?_⟩
  · rcases h with himm | hhs
    · exact fieldReason_zeroFields (x := f.imm.toNat) (by simp [zeroFields]) (toNat_ne_zero himm)
    · exact fieldReason_zeroFields (x := f.hs.toNat) List.mem_cons_self (toNat_ne_zero hhs)
  · have hregs : ∀ o ∈ [wr .ix f.d, wr .ix f.a, wr .ix f.b, rd .ix f.a, rd .ix f.b], opndOk 1024 32 o = true := by simp [wr, rd, opndOk_ix]
    have hlim : (f.d != f.a && f.d != f.b && f.a != f.b) = false := by rcases h with h | h | h <;> simp [h]
    exact fieldReason_values (by simp [zeroFields, himm, hhs]) hregs hlim

/-- `xadv` counts as a writer of all three of its registers (R74). -/
theorem xadv_operands (f : XR) : ∀ n ∈ [f.d, f.a, f.b], (⟨.ix, n.toNat, true⟩ : Opnd) ∈ operands (.xadv f) := by
  have hops : operands (.xadv f) = [wr .ix f.d, wr .ix f.a, wr .ix f.b, rd .ix f.a, rd .ix f.b] := rfl
  simp [hops, wr]

/-! ### Groups (R190) -/

/-- Position `j` of group `g` of the metadata. -/
def groupPos (m : W64) (g j : Nat) : Nat := m.toNat / 2 ^ (4 * g + 2 * j) % 4

/-- Index `j` of group `g` of quarter `q`: its position among the dense columns, or no column where the group is illegal. -/
def groupLane (m : W64) (q g j : Nat) : Nat := if groupPos m g 0 < groupPos m g 1 then 4 * (16 * q + g) + groupPos m g j else 0xFFFFFFFF

/-- The four bits of the predicate over an index of group `g`. -/
def groupBits (m : W64) (g : Nat) : Nat := if groupPos m g 0 < groupPos m g 1 then 15 else 0

theorem groupOf_eq (m : W64) (g : Nat) : groupOf m g = if groupPos m g 0 < groupPos m g 1 then some (groupPos m g 0, groupPos m g 1) else none := rfl

/-- The lanes of `xexp`, two for each group in turn. -/
theorem groupLanes_eq (m : W64) (q : Nat) : groupLanes m q = (List.range 32).map fun x => groupLane m q (x / 2) (x % 2) := by
  rw [← flatMap_range_range (groupLane m q) Nat.two_pos 16]
  refine congrArg (List.flatMap · (List.range 16)) (funext fun g => ?_)
  show _ = [groupLane m q g 0, groupLane m q g 1]
  rw [groupOf_eq, groupLane, groupLane]
  by_cases h : groupPos m g 0 < groupPos m g 1
  · rw [if_pos h, if_pos h, if_pos h]
  · rw [if_neg h, if_neg h, if_neg h]

theorem groupOn_eq (m : W64) : groupOn m = (List.range 32).map fun x => groupBits m (x / 2) := by
  rw [← flatMap_range_range (fun g _ => groupBits m g) Nat.two_pos 16]
  refine congrArg (List.flatMap · (List.range 16)) (funext fun g => ?_)
  show _ = [groupBits m g, groupBits m g]
  rw [groupOf_eq, groupBits]
  by_cases h : groupPos m g 0 < groupPos m g 1
  · rw [if_pos h, if_pos h]; rfl
  · rw [if_neg h, if_neg h]; rfl

/-- The bits of one field of `w` ones among fields of that width. -/
theorem getLsbD_fieldOnes {n w i b : Nat} (hw : 0 < w) (hb : b < n) : ((BitVec.ofNat n (2 ^ w - 1)) <<< (w * i)).getLsbD b = decide (b / w = i) := by
  rw [BitVec.getLsbD_shiftLeft, BitVec.getLsbD_ofNat, Nat.testBit_two_pow_sub_one, Bool.eq_iff_iff]
  simp only [Bool.and_eq_true, decide_eq_true_eq, Bool.not_eq_true', decide_eq_false_iff_not, Nat.div_eq_iff hw]
  rw [Nat.mul_comm i w]
  omega

/-- The vector bits that quarter `q` writes are those of its 32 lanes. -/
theorem laneAt_quarterMask {q i : Nat} (hi : i < 128) : laneAt 32 (BitVec.ofNat 4096 (2 ^ 1024 - 1) <<< (1024 * q)) i = if i / 32 = q then 2 ^ 32 - 1 else 0 := by
  refine laneAt_of_bits fun b hb => ?_
  rw [getLsbD_fieldOnes (by decide) (by omega), show (32 * i + b) / 1024 = i / 32 by omega]

section
variable {m : W64} {q g j k : Nat} (hq : q < 4) (hg : g < 16) (hj : j < 2)
include hq hg hj

/-- The lane that index `j` of group `g` takes in the register. -/
theorem laneAt_groupLanes : laneAt 32 (BitVec.ofNat 4096 (packLanes 32 (groupLanes m q)) <<< (1024 * q)) (32 * q + 2 * g + j) = groupLane m q g j := by
  have hpos : groupPos m g j < 4 := Nat.mod_lt _ (by decide)
  have hlt : groupLane m q g j < 2 ^ 32 := by unfold groupLane; split <;> omega
  rw [show 1024 * q = 32 * (32 * q) by omega, Nat.add_assoc, laneAt_shiftLeft (by omega)]
  show laneAt 32 (vecLanes 32 _) _ = _
  rw [laneAt_vecLanes (by omega), groupLanes_eq, getD_map_range _ (by omega), show (2 * g + j) / 2 = g by omega, show (2 * g + j) % 2 = j by omega, Nat.mod_eq_of_lt hlt]

/-- The predicate bits over that lane. -/
theorem getLsbD_groupOn (hk : k < 4) :
    (BitVec.ofNat 512 (packLanes 4 (groupOn m)) <<< (128 * q)).getLsbD (4 * (32 * q + 2 * g + j) + k) = decide (groupPos m g 0 < groupPos m g 1) := by
  have hbits : (groupBits m g).testBit k = decide (groupPos m g 0 < groupPos m g 1) := by
    unfold groupBits
    split
    case isTrue h => rw [decide_eq_true h]; exact (Nat.testBit_two_pow_sub_one 4 k).trans (decide_eq_true hk)
    case isFalse h => rw [decide_eq_false h]; exact Nat.zero_testBit k
  rw [BitVec.getLsbD_shiftLeft, decide_eq_true (by omega), decide_eq_false (by omega), BitVec.getLsbD_ofNat, decide_eq_true (by omega), testBit_packLanes (by decide), groupOn_eq,
    show 4 * (32 * q + 2 * g + j) + k - 128 * q = 4 * (2 * g + j) + k by omega, show (4 * (2 * g + j) + k) / 4 = 2 * g + j by omega, show (4 * (2 * g + j) + k) % 4 = k by omega,
    getD_map_range _ (by omega), show (2 * g + j) / 2 = g by omega, hbits]
  rfl

end

theorem exec_xexp {f : XV} (hq : f.imm.toNat < 4) (s : State) : exec (.xexp f) s = .next (s.emits 2
    [.v f.v.toNat (BitVec.ofNat 4096 (2 ^ 1024 - 1) <<< (1024 * f.imm.toNat)) (BitVec.ofNat 4096 (packLanes 32 (groupLanes (xr s f.ix) f.imm.toNat)) <<< (1024 * f.imm.toNat)),
     .p f.p.toNat (BitVec.ofNat 512 (2 ^ 128 - 1) <<< (128 * f.imm.toNat)) (BitVec.ofNat 512 (packLanes 4 (groupOn (xr s f.ix))) <<< (128 * f.imm.toNat))]) := by
  have himm : (f.imm.extractLsb' 0 2).toNat = f.imm.toNat := by rw [toNat_extractLsb'_zero]; omega
  show execXexp f s = _
  simp only [execXexp, himm]

theorem xexp_reasons (f : XV) : (4 ≤ f.imm.toNat → fieldReason 1024 32 (.xexp f) = some 2) ∧ (f.imm.toNat < 4 → f.p = 0 → fieldReason 1024 32 (.xexp f) = some 3) := by
  refine ⟨fun h => fieldReason_zeroFields (x := (f.imm.extractLsb' 2 9).toNat) List.mem_cons_self (toNat_extractLsb'_ne_zero f.imm (by decide) h), fun h hp => ?_⟩
  have hhigh : (f.imm.extractLsb' 2 9).toNat = 0 := by rw [BitVec.extractLsb'_toNat, Nat.shiftRight_eq_div_pow]; omega
  exact fieldReason_operands (o := wr .p f.p) (by simp [zeroFields, hhigh]) (List.mem_cons_of_mem _ List.mem_cons_self) (by rw [hp]; rfl)

theorem cursorsAndGroups : CursorsAndGroups := by
  refine ⟨fun f => ⟨(xadv_reasons f).1, (xadv_reasons f).2, xadv_operands f⟩, xexp_reasons, fun f s _ _ _ => ?merge, fun f s hq => ?expand⟩
  case merge =>
    have hwrites := writes_of_emits (exec_xadv f s)
    exact ⟨fun ha hb => mergeWrites_ended ha hb ▸ hwrites, fun h => mergeWrites_lt h ▸ hwrites, fun h => mergeWrites_gt h ▸ hwrites, fun h hend => mergeWrites_match h hend ▸ hwrites⟩
  case expand =>
    refine ⟨_, _, _, _, writes_of_emits (exec_xexp hq s), fun i hi => ⟨fun hother => ?_, fun hown => ?_⟩, fun b hb => getLsbD_fieldOnes (by decide) hb,
      fun g hg j hj k hk => ⟨fun hlegal => ⟨?_, ?_⟩, fun hillegal => ⟨?_, ?_⟩⟩⟩
    · exact (laneAt_quarterMask hi).trans (if_neg hother)
    · exact (laneAt_quarterMask hi).trans (if_pos hown)
    · exact (laneAt_groupLanes hq hg hj).trans (if_pos hlegal)
    · exact (getLsbD_groupOn hq hg hj hk).trans (decide_eq_true hlegal)
    · exact (laneAt_groupLanes hq hg hj).trans (if_neg hillegal)
    · exact (getLsbD_groupOn hq hg hj hk).trans (decide_eq_false hillegal)

/-- Settles O29. -/
theorem indexOperations : Obligations.IndexOperations := ⟨indexArithmetic, cursorsAndGroups⟩

end Sys2Proof.Machine

/-! An activation prefetch where a host holds a stray byte (R240, R331). -/
namespace Sys2Proof.Machine
open Sys2Proof.Claims
-- In turn, as the tests are: side by side with the proofs above, these would need more threads than the check's memory holds.
set_option Elab.async false

/-- A stitch at its first word, with eight-bit activations in device memory as its shape 0 and nothing in its step queue. -/
def strayStitch : Seq := { entry := 0, bank0 := false, upc := 0, depth := 9 }
/-- The entry of that stitch at the front of the matrix queue. -/
def strayStitchEntry : MEntry := ⟨0, .stitch false 0 9 0 [] [BitVec.ofNat 128 (4 * 2 ^ 52 + 4 * 2 ^ 56)], false, .running, 0, 0, 0, 0, 0⟩
/-- The memory of `strayHostByte`, whose host holds byte 128 as modified in the sector of byte 0; core 0 runs the stitch and has the page of byte 0 in its pipe TLB. -/
def strayHostPrefetch : State :=
  { strayHostByte with cores := [(0, { ptlb := [⟨0, 0, 12, 0x33⟩], eng := { q := [strayStitchEntry], seq := some strayStitch } })] }

/-- A read changes no byte while the version of its line stays (R108). -/
theorem State.reads.byte_eq {s t : State} (h : s.reads t) {a : Nat} (hver : t.mem.ver.get 0 (a / 128) = s.mem.ver.get 0 (a / 128)) : t.mem.byte a = s.mem.byte a := by
  obtain ⟨_, _, _, _, hmem⟩ := h
  by_contra hchanged
  obtain ⟨_, hrises⟩ := hmem a hchanged
  exact absurd hrises (by rw [hver]; exact lt_irrefl _)

/-- `upref` of the rows at byte 0 has the host's sector merged, its stray byte with it; the version of that byte's own line 1 stays. -/
theorem upref_merges_stray_byte : ∃ t, exec (.upref ⟨0, 0, 0⟩) strayHostPrefetch = .next t ∧ t.mem.byte 128 = 1 ∧ t.mem.ver.get 0 1 = 0 :=
  ⟨_, rfl, by decide +kernel⟩

/-- Refutes O34: at `strayHostPrefetch`, where the load pipes have their translation, `upref` merges the byte 128 that the host holds as modified in the sector of byte 0. Byte 128 changes, and the version of its own line 1 does not rise, which `State.reads` demands for every state. -/
theorem not_microWords : ¬ Obligations.MicroWords := by
  rintro ⟨-, hcommands⟩
  obtain ⟨-, -, -, -, hissue⟩ := hcommands strayHostPrefetch strayStitch strayStitchEntry 0 [] _ false 0 9 ⟨rfl, rfl, rfl⟩ rfl rfl
  obtain ⟨-, -, -, hfits⟩ := hissue ⟨0, 0, 0⟩
  obtain ⟨-, -, -, -, hprefetch⟩ := hfits (by unfold fits; decide)
  obtain ⟨t, -, ht, hreads, -⟩ := hprefetch (by decide +kernel)
  obtain ⟨u, hu, hbyte, hver⟩ := upref_merges_stray_byte
  obtain rfl : u = t := Host.Outcome.next.inj (hu.symm.trans ht)
  have hkept : u.mem.byte 128 = strayHostPrefetch.mem.byte 128 := hreads.byte_eq hver
  exact absurd (hbyte.symm.trans hkept) (by decide)

end Sys2Proof.Machine

/-! Stitches start, resume, reload their bank and fail (R224, R227, R244, R246, R247, R250). -/
namespace Sys2Proof.Machine
open Sys2Proof.Claims
-- In turn, as the tests are: side by side with the proofs above, these would need more threads than the check's memory holds.
set_option Elab.async false

/-! ### The bank of a context (R222, R224) -/

section
variable {e : MEng} {ctx : Nat}

theorem MEng.bankOf_eq_none : e.bankOf ctx = none ↔ ∀ b ∈ [1, 2, 3], (e.banks.get {} b).tag ≠ some ctx := by
  simp [MEng.bankOf, List.find?_eq_none]

theorem MEng.bankOf_isSome : (e.bankOf ctx).isSome = true ↔ ∃ b ∈ [1, 2, 3], (e.banks.get {} b).tag = some ctx := by
  simp [MEng.bankOf, List.find?_isSome]

theorem MEng.bankOf_eq_some {b : Nat} (h : e.bankOf ctx = some b) : b ∈ [1, 2, 3] ∧ (e.banks.get {} b).tag = some ctx :=
  ⟨List.mem_of_find?_eq_some h, by simpa using List.find?_some h⟩

/-- How late a bank is taken: an invalid one first, then by its last use. -/
def StitchBank.takenAt (b : StitchBank) : Nat := if b.tag.isNone then 0 else b.used + 1

theorem StitchBank.takenAt_le {a b : StitchBank} (h : a.takenAt ≤ b.takenAt) : a.tag = none ∨ (b.tag ≠ none ∧ a.used ≤ b.used) := by
  unfold StitchBank.takenAt at h
  cases ha : a.tag with
  | none => exact .inl rfl
  | some x =>
    cases hb : b.tag with
    | none => simp [ha, hb] at h
    | some y => exact .inr ⟨by simp, by simpa [ha, hb] using h⟩

/-- The fold keeps the first of the elements whose key is least. -/
theorem foldl_least (key : Nat → Nat) (l : List Nat) : ∀ b : Nat,
    let r := l.foldl (fun r b => if key b < key r then b else r) b
    r ∈ b :: l ∧ ∀ d ∈ b :: l, key r ≤ key d := by
  induction l with
  | nil => simp
  | cons x l ih =>
    intro b
    rw [List.foldl_cons]
    by_cases hx : key x < key b
    · rw [if_pos hx]
      obtain ⟨hmem, hleast⟩ := ih x
      exact ⟨List.mem_cons_of_mem b hmem, List.forall_mem_cons.mpr ⟨(hleast x List.mem_cons_self).trans hx.le, hleast⟩⟩
    · rw [if_neg hx]
      obtain ⟨hmem, hleast⟩ := ih b
      obtain ⟨hb, hl⟩ := List.forall_mem_cons.mp hleast
      exact ⟨List.mem_cons.mpr ((List.mem_cons.mp hmem).imp_right (List.mem_cons_of_mem x)), List.forall_mem_cons.mpr ⟨hb, List.forall_mem_cons.mpr ⟨hb.trans (not_lt.mp hx), hl⟩⟩⟩

/-- With no reload under way, a bank is taken before which none is to be taken. -/
theorem MEng.reloadBank_of_idle (h : e.reload = []) :
    ∃ b ∈ [1, 2, 3], e.reloadBank = some b ∧ ∀ d ∈ [1, 2, 3], (e.banks.get {} b).takenAt ≤ (e.banks.get {} d).takenAt := by
  have htaken : e.reloadBank = some ([2, 3].foldl (fun r b => if (e.banks.get {} b).takenAt < (e.banks.get {} r).takenAt then b else r) 1) := by
    simp [MEng.reloadBank, h, StitchBank.takenAt]
  obtain ⟨hmem, hleast⟩ := foldl_least (fun b => (e.banks.get {} b).takenAt) [2, 3] 1
  exact ⟨_, hmem, htaken, hleast⟩

/-- A reload that starts with no other under way. -/
theorem MEng.startReload_of_idle (hbank : e.bankOf ctx = none) (h : e.reload = []) (cycle : Nat) : ∃ b ∈ [1, 2, 3],
    e.startReload ctx cycle = { e with banks := e.banks.put {} b { e.banks.get {} b with tag := none }, reload := [(b, ctx, cycle + 4000)] } ∧
    ∀ d ∈ [1, 2, 3], (e.banks.get {} b).tag = none ∨ ((e.banks.get {} d).tag ≠ none ∧ (e.banks.get {} b).used ≤ (e.banks.get {} d).used) := by
  obtain ⟨b, hb, htaken, hleast⟩ := MEng.reloadBank_of_idle h
  refine ⟨b, hb, ?_, fun d hd => StitchBank.takenAt_le (hleast d hd)⟩
  simp [MEng.startReload, hbank, htaken, MEng.reloading, h]

end

/-! ### The entry at the front (R227, R244) -/

section
variable {e : MEng} {m : MEntry} {l : List MEntry} {q : Seq}

/-- A stitch that waits at the front of a queue that nothing stops may start. -/
theorem MEng.stitchFront_waiting (hq : e.q = m :: l) (hop : m.op.isStitch = true) (hf : e.frozen = none) (hy : e.yieldReq = false) (hm : m.st = .waiting) :
    e.stitchFront = some m := by
  simp [MEng.stitchFront, hq, hop, hf, hy, hm]

/-- So may one that has been saved. -/
theorem MEng.stitchFront_yielding (hq : e.q = m :: l) (hop : m.op.isStitch = true) (hf : e.frozen = none) (hy : e.yieldReq = false) (hs : e.seq = some q) (hst : q.st = .yielding) :
    e.stitchFront = some m := by
  simp [MEng.stitchFront, hq, hop, hf, hy, hs, hst]

/-- No other entry than the front one may. -/
theorem MEng.stitchFront_eq_or (hq : e.q = m :: l) : e.stitchFront = some m ∨ e.stitchFront = none := by
  simp only [MEng.stitchFront, hq]
  split_ifs <;> simp

/-- A change of an entry that no other shares its number with, while no stitch runs. -/
theorem MEng.modEntry_front (hq : e.q = m :: l) (hid : ∀ x ∈ l, x.id ≠ m.id) (hs : e.seq = none) (f : MEntry → MEntry) :
    e.modEntry m.id f = { e with q := f m :: l } := by
  have hl : modIn m.id f l = l := (List.map_congr_left fun x hx => if_neg (by simpa using hid x hx)).trans (List.map_id' l)
  have hfront : modIn m.id f (m :: l) = f m :: l := by rw [modIn, List.map_cons, if_pos (beq_self_eq_true m.id)]; exact congrArg _ hl
  simp only [MEng.modEntry, hq, hs, hfront, Option.map_none]

/-- The bank of a stitch entry is there (R222, R224). -/
theorem MEng.bankReady_stitch (e : MEng) (ctx : Nat) {b0 : Bool} {en de : Nat} {opw : BitVec 43} {mp : List W72} {mh : List (BitVec 128)} (hop : m.op = .stitch b0 en de opw mp mh) :
    e.bankReady ctx m.op = true ↔ b0 = true ∧ e.bank0 = true ∨ b0 = false ∧ ∃ b ∈ [1, 2, 3], (e.banks.get {} b).tag = some ctx := by
  rw [← MEng.bankOf_isSome, hop]
  cases b0 <;> simp [MEng.bankReady, MOp.inBank0]

end

/-! ### STITCH_START, STITCH_BANK_RELOAD and its end -/

/-- The micro-state with which a stitch starts (R227, R229): bank 0's words are those that its entry and its operands give. -/
def Seq.starting (id : Nat) (b0 : Bool) (en de : Nat) (opw : BitVec 43) (mh : List (BitVec 128)) (cycle : Nat) : Seq :=
  { entry := id, bank0 := b0, upc := en, depth := de, elig := cycle + 1, prog := if b0 then builtinWords en opw mh else [] }

section
variable {s : State} {c : Nat} {m : MEntry} {l : List MEntry} {b0 : Bool} {en de : Nat} {opw : BitVec 43} {mp : List W72} {mh : List (BitVec 128)}

/-- What a change of core `c`'s engine leads to. -/
theorem engTo_modEng {i : Instr} {f : MEng → MEng} {e : MEng} (h : exec i s = .next (s.modEng c f)) (he : f (s.core c).eng = e) : engTo i s c e :=
  ⟨_, h, State.onlyCore_modCore s c _, by rw [State.modEng, State.modCore_core_same, he]⟩

theorem exec_stitchStart (c : Nat) (s : State) : exec (.stitchStart c) s = execStitchStart c s := rfl
theorem exec_stitchBankReload (c : Nat) (s : State) : exec (.stitchBankReload c) s = execStitchBankReload c s := rfl

/-- Without the bank of the front entry no stitch starts. -/
theorem stitchStart_of_not_ready (hq : (s.core c).eng.q = m :: l) (hbank : (s.core c).eng.bankReady (s.core c).ctx m.op = false) : exec (.stitchStart c) s = .next s := by
  rw [exec_stitchStart, execStitchStart]
  rcases MEng.stitchFront_eq_or hq with hfront | hfront <;> simp [hfront, hbank]

/-- An entry of bank 0 starts no reload. -/
theorem stitchBankReload_of_bank0 (hq : (s.core c).eng.q = m :: l) (hbank : m.op.inBank0 = true) : exec (.stitchBankReload c) s = .next s := by
  have hbare : (s.core c).eng.runsBare (s.core c).ctx = false := by
    unfold MEng.runsBare
    rw [hq]
    cases (s.core c).eng.seq <;> simp [hbank]
  rw [exec_stitchBankReload, execStitchBankReload]
  rcases MEng.stitchFront_eq_or hq with hfront | hfront <;> simp [hfront, hbank, hbare]

/-- A stitch entry whose bank is not there, with no reload under way, starts one. -/
theorem stitchBankReload_starts (hfront : (s.core c).eng.stitchFront = some m) (hop : m.op.inBank0 = false) (hbank : (s.core c).eng.bankOf (s.core c).ctx = none) :
    exec (.stitchBankReload c) s = .next (s.modEng c fun e => e.startReload (s.core c).ctx s.cycle) := by
  simp [exec_stitchBankReload, execStitchBankReload, hfront, MEng.bankReady, hop, hbank]

/-- A waiting stitch whose bank is there starts. -/
theorem stitchStart_starts (hfront : (s.core c).eng.stitchFront = some m)
    (hop : m.op = .stitch b0 en de opw mp mh) (hbank : (s.core c).eng.bankReady (s.core c).ctx m.op = true) (hs : (s.core c).eng.seq = none) :
    exec (.stitchStart c) s = .next (s.modEng c fun e => { e.modEntry m.id fun x => { x with st := .running } with
      seq := some (Seq.starting m.id b0 en de opw mh s.cycle) }) := by
  rw [hop] at hbank
  simp [exec_stitchStart, execStitchStart, hfront, hbank, hs, hop, Seq.starting]

/-- A saved stitch whose bank is there goes on, with its counts at zero. -/
theorem stitchStart_resumes {q : Seq} (hfront : (s.core c).eng.stitchFront = some m)
    (hop : m.op = .stitch b0 en de opw mp mh) (hbank : (s.core c).eng.bankReady (s.core c).ctx m.op = true) (hs : (s.core c).eng.seq = some q) :
    exec (.stitchStart c) s = .next (s.modEng c fun e => { e with seq := some { q with st := .running, steps := 0, words := 0, elig := s.cycle + 1 } }) := by
  rw [hop] at hbank
  simp [exec_stitchStart, execStitchStart, hfront, hbank, hs, hop]

end

section
variable {s : State} {c b ctx due : Nat} {l : List (Nat × Nat × Nat)}

/-- Before its time a reload does not end. -/
theorem stitchBankReloadEnd_early (hr : (s.core c).eng.reload = (b, ctx, due) :: l) (hdue : s.cycle < due) : exec (.stitchBankReloadEnd c) s = .next s := by
  show execStitchBankReloadEnd c s = _
  simp [execStitchBankReloadEnd, hr, hdue]

/-- The oldest reload leaves the context's image, and the last use of its bank. -/
theorem stitchBankReloadEnd_due {x : Ctx} (hr : (s.core c).eng.reload = (b, ctx, due) :: l) (hx : s.hub.ctxs.get none ctx = some x) (hdue : due ≤ s.cycle) :
    exec (.stitchBankReloadEnd c) s = .next (s.modEng c fun e => { e with banks := e.banks.put {} b { e.banks.get {} b with tag := some ctx, words := x.image }, reload := l }) := by
  show execStitchBankReloadEnd c s = _
  simp [execStitchBankReloadEnd, hr, Nat.not_lt.mpr hdue, Hub.ctx?, hx]

end

/-! ### STITCH_STORE_ERROR (R247) -/

/-- The engine after an error in the bank that the running stitch uses: the bank loses its valid bit. -/
def MEng.loseBank (e : MEng) (ctx : Nat) (bank0 : Bool) : MEng :=
  match if bank0 then none else e.bankOf ctx with
  | some b => { e with banks := e.banks.put {} b { e.banks.get {} b with tag := none } }
  | none => e

section
variable {e : MEng} {ctx : Nat}

theorem MEng.loseBank_frozen (bank0 : Bool) : (e.loseBank ctx bank0).frozen = e.frozen := by
  unfold MEng.loseBank
  split <;> rfl

/-- The one bank that may hold a context's image does not hold it afterwards. -/
theorem MEng.loseBank_tag {b : Nat} (hb : b ∈ [1, 2, 3]) (honly : ∀ d ∈ [1, 2, 3], (e.banks.get {} d).tag = some ctx → d = b) :
    ((e.loseBank ctx false).banks.get {} b).tag ≠ some ctx := by
  unfold MEng.loseBank
  rw [if_neg Bool.false_ne_true]
  cases hbank : e.bankOf ctx with
  | none => exact MEng.bankOf_eq_none.mp hbank b hb
  | some d =>
    obtain ⟨hd, htag⟩ := MEng.bankOf_eq_some hbank
    obtain rfl := honly d hd htag
    simp

end

section
variable {e : MEng} (region : Nat) (x : Cause) (id rows : Nat) (fatal : Bool)

/-- What an engine that freezes records of the fault, and what it leaves of its stitch banks (R203). -/
theorem MEng.freeze_records (h : e.frozen = none) : let e' := e.freeze region x id rows fatal
    (∃ pos top, e'.frozen = some ⟨{ x with loc := pos }, top, region, false, fatal, none⟩) ∧ e'.mrp.getLsbD 15 = true ∧ e'.banks = e.banks := by
  have hvalid (pos : Nat) : (BitVec.ofNat 16 (0x8000 + pos % 32 * 256 + rows % 32)).getLsbD 15 = true := by
    rw [BitVec.getLsbD_ofNat, Nat.add_assoc, show 0x8000 = 2 ^ 15 from rfl, Nat.testBit_two_pow_add_eq, Nat.testBit_lt_two_pow (by omega)]
    rfl
  simp only [MEng.freeze, MEng.modEntry, h]
  exact ⟨⟨_, _, rfl⟩, hvalid _, rfl⟩

theorem core_modEng_freezeMatrix (s : State) (c : Nat) (g : MEng → MEng) : ((s.modEng c g).freezeMatrix c x id rows fatal).core c =
    { (s.core c).walksSpent .pipe with eng := (g (s.core c).eng).freeze (s.core c).iss.region x id rows fatal } := by
  rw [State.freezeMatrix, State.modCore_core_same, State.modEng, State.modCore_core_same]
  rfl

/-- A core whose engine changes and then freezes on a fault that is its first. -/
theorem froze_freezeMatrix (s : State) (c : Nat) {g : MEng → MEng} (h : (g (s.core c).eng).frozen = none) :
    froze s ((s.modEng c g).freezeMatrix c x id rows fatal) c x := by
  obtain ⟨⟨pos, top, hfrozen⟩, hmrp, -⟩ := MEng.freeze_records (s.core c).iss.region x id rows fatal h
  unfold froze
  rw [core_modEng_freezeMatrix]
  exact ⟨_, hfrozen, rfl, rfl, rfl, rfl, rfl, rfl, hmrp, rfl, (State.onlyCore_modCore s c _).trans (State.onlyCore_modCore _ c _)⟩

end

section
variable {s : State} {c : Nat} {q : Seq}

theorem exec_stitchStoreError (hs : (s.core c).eng.seq = some q) (hst : q.st = .running) (hf : (s.core c).eng.frozen = none) :
    exec (.stitchStoreError c) s = .next ((s.modEng c fun e => e.loseBank (s.core c).ctx q.bank0).freezeMatrix c ⟨0x13, 6, q.upc, 0, 0⟩ q.entry 0 true) := by
  have hruns : (q.st == .running && (s.core c).eng.frozen.isNone) = true := by simp [hst, hf]
  show execStitchStoreError c s = _
  simp only [execStitchStoreError, hs]
  exact if_pos hruns

end

/-- Settles O44: the entry at the front by the bank that it needs, then the end of a reload, then the error. -/
theorem stitchTransitions : Obligations.StitchTransitions := by
  intro s c
  refine ⟨fun m l b0 en de opw mp mh hq hid hop hf hy => ?front, fun b ctx due l x hr hx => ?reloadEnd, fun q hs hst hf => ?storeError⟩
  case front =>
    have hstitch : m.op.isStitch = true := by rw [hop]; rfl
    refine ⟨fun hbank => ?ready, fun hb0 hbank => ?bank0, fun hb0 hbank hm => ?reload⟩
    case ready =>
      have hready := (MEng.bankReady_stitch _ _ hop).mpr hbank
      refine ⟨fun hm hs => ⟨Seq.starting m.id b0 en de opw mh s.cycle, engTo_modEng (stitchStart_starts (MEng.stitchFront_waiting hq hstitch hf hy hm) hop hready hs) ?_, rfl, rfl, rfl, rfl, rfl, rfl, rfl, rfl, rfl, rfl, rfl, rfl, rfl, rfl, rfl⟩,
        fun q hs hst => engTo_modEng (stitchStart_resumes (MEng.stitchFront_yielding hq hstitch hf hy hs hst) hop hready hs) rfl⟩
      rw [MEng.modEntry_front hq hid hs]
    case bank0 =>
      have hin : m.op.inBank0 = true := by rw [hop]; exact hb0
      exact ⟨stitchStart_of_not_ready hq (by simp [MEng.bankReady, hin, hbank]), stitchBankReload_of_bank0 hq hin⟩
    case reload =>
      have hin : m.op.inBank0 = false := by rw [hop]; exact hb0
      have hnone := MEng.bankOf_eq_none.mpr hbank
      refine ⟨stitchStart_of_not_ready hq (by simp [MEng.bankReady, hin, hnone]), fun hidle => ?_⟩
      obtain ⟨b, hb, hstart, hleast⟩ := MEng.startReload_of_idle hnone hidle s.cycle
      exact ⟨b, hb, engTo_modEng (stitchBankReload_starts (MEng.stitchFront_waiting hq hstitch hf hy hm) hin hnone) hstart, hleast⟩
  case reloadEnd => exact ⟨stitchBankReloadEnd_early hr, fun hdue => engTo_modEng (stitchBankReloadEnd_due hr hx hdue) rfl⟩
  case storeError =>
    have hfirst : ((s.core c).eng.loseBank (s.core c).ctx q.bank0).frozen = none := (MEng.loseBank_frozen _).trans hf
    obtain ⟨⟨pos, top, hfrozen⟩, -, hbanks⟩ := MEng.freeze_records (s.core c).iss.region ⟨0x13, 6, q.upc, 0, 0⟩ q.entry 0 true hfirst
    have heng := congrArg Core.eng (core_modEng_freezeMatrix ⟨0x13, 6, q.upc, 0, 0⟩ q.entry 0 true s c fun e => e.loseBank (s.core c).ctx q.bank0)
    refine ⟨_, _, exec_stitchStoreError hs hst hf, froze_freezeMatrix _ _ _ _ s c hfirst, (congrArg MEng.frozen heng).trans hfrozen, rfl, fun hb0 b hb honly => ?_⟩
    rw [heng, hbanks, hb0]
    exact MEng.loseBank_tag hb honly

end Sys2Proof.Machine
